-- ==== Sys2Proof/Word.lean ====
section
/-!
DEFINITION. The words of the ONK-5120: bytes, registers, semaphores, and the plainest arithmetic on them.
Data is little-endian and addresses are byte addresses (spec/00_scope.md, Notation).
-/
namespace Sys2Proof

/-- A byte of any memory. -/
abbrev Byte := BitVec 8

/-- A 32-bit register of BAR 0 (spec/16_register_pages.md R627). -/
abbrev Word := BitVec 32

/-- A 64-bit value: a semaphore, a time, a device or host address (R450, R503). -/
abbrev DWord := BitVec 64

/-- The low `w` bits of `n`. -/
def low (w n : Nat) : Nat := n % 2 ^ w

/-- Bits `[lo + w - 1 : lo]` of `n`. -/
def field (n lo w : Nat) : Nat := (n / 2 ^ lo) % 2 ^ w

/-- Bit `i` of `n`. -/
def bit (n i : Nat) : Bool := n.testBit i

/-- A bit as a number. -/
def b2n (b : Bool) : Nat := if b then 1 else 0

/-- `n` read as a `w`-bit two's-complement integer. -/
def signed (w n : Nat) : Int :=
  let m := n % 2 ^ w
  if m < 2 ^ (w - 1) then (m : Int) else (m : Int) - 2 ^ w

/-- `v` as a `w`-bit two's-complement code. -/
def unsigned (w : Nat) (v : Int) : Nat := (v % (2 ^ w : Int)).toNat

/-- The ceiling of `a / b`. -/
def ceilDiv (a b : Nat) : Nat := (a + b - 1) / b

/-- `v` held between `lo` and `hi`. -/
def clampI (v lo hi : Int) : Int := if v < lo then lo else if v > hi then hi else v

/-- `v` held between `lo` and `hi`. -/
def clampN (v lo hi : Nat) : Nat := if v < lo then lo else if v > hi then hi else v

end Sys2Proof
end

