-- ==== Sys2Proof/Config.lean ====
section
/-!
DEFINITION. What a part or its board fixes, and the free values: constants with no body, so that nothing can be proved
about which value they have (log entries 5, 6, 8, 11).
-/
namespace Sys2Proof

/-- The free values: the value the model takes at draw `n` where the spec states none (log entry 8). -/
opaque Config.freeNat : Nat → Nat

/-- The device serial number (R651). -/
opaque Config.serial : BitVec 64

/-- The 256-bit device secret DS in fuses (R567). -/
opaque Config.deviceSecret : List (BitVec 8)

/-- The fused key digests KD[0..3] (R561). -/
opaque Config.fusedDigest : Nat → List (BitVec 8)

/-- The firmware in slot A of the boot flash of the reset state: its body, its public key, its signature (R560, log entry 6). -/
opaque Config.firmware : Nat → List (BitVec 8)

/-- The rate of a tile over the last 1 ms before a time, in 10⁶ handshake steps per second (R595, log entry 16). -/
opaque Config.tileRate : Nat → Nat → Nat

/-- Whether `VTOPK` orders the values of its records as INT32 or as FP32: the instruction does not say (R297, log entry 29). -/
opaque Config.vtopkInt : Bool

/-- The spare of the block of a device, as the system's builder has assigned it (R341, R367; the map names only the own
block's, log entry 26). -/
opaque Config.spareOf : Nat → Nat

/-- The integer that a code of a fused operand of an INT32 slot stands for where OFMT is no integer format (R253, log entry 25). -/
opaque Config.fuseInt : Nat → Nat → Int

/-- What a reduction whose participants name different operands leaves at a participant: from the participants' operands and
data, and the participant's place (R303, log entry 68). -/
opaque Config.redMixed : List (List (BitVec 8)) → Nat → Nat

end Sys2Proof
end

