-- ==== Sys2Proof/Machine/Sparse.lean ====
section
/-!
DEFINITION. Sparse storage in one canonical form: addresses strictly rising, and no entry equal to what an unlisted
address reads as. Device memory, the register file, semaphores and every other large store use it.
-/
namespace Sys2Proof.Machine

/-- A sparse store: `(key, value)` pairs. -/
abbrev Sparse (α : Type) := List (Nat × α)

/-- What key `k` holds, `d k` being what an unlisted key reads as. -/
def spGet {α : Type} (d : Nat → α) (k : Nat) : Sparse α → α
  | [] => d k
  | (k', v) :: m => if k' = k then v else spGet d k m

/-- Puts the pair `(k, v)` where it belongs, in place of what stood at `k`. -/
def spPut {α : Type} (k : Nat) (v : α) : Sparse α → Sparse α
  | [] => [(k, v)]
  | (k', v') :: m =>
    if k < k' then (k, v) :: (k', v') :: m
    else if k = k' then (k, v) :: m
    else (k', v') :: spPut k v m

/-- Removes the entry at `k`. -/
def spDel {α : Type} (k : Nat) (m : Sparse α) : Sparse α := m.filter fun e => decide (e.1 ≠ k)

/-- Stores `v` at `k`, keeping the canonical form: a value an unlisted key reads as leaves no entry. -/
def spSet {α : Type} [DecidableEq α] (d : Nat → α) (k : Nat) (v : α) (m : Sparse α) : Sparse α :=
  if v = d k then spDel k m else spPut k v m

/-- Every listed key lies above `lo`, the keys rise strictly, and no entry equals its default. -/
def spWfFrom {α : Type} [DecidableEq α] (d : Nat → α) : Option Nat → Sparse α → Bool
  | _, [] => true
  | lo, (k, v) :: m =>
    (match lo with | none => true | some b => decide (b < k)) && decide (v ≠ d k) && spWfFrom d (some k) m

/-- The canonical form. -/
def spWf {α : Type} [DecidableEq α] (d : Nat → α) (m : Sparse α) : Bool := spWfFrom d none m

/-- The entries with `lo ≤ key < lo + n`. -/
def spRange {α : Type} (lo n : Nat) (m : Sparse α) : Sparse α :=
  m.filter fun e => decide (lo ≤ e.1) && decide (e.1 < lo + n)

/-- Drops the entries with `lo ≤ key < lo + n`: the range then reads as never written. -/
def spClear {α : Type} (lo n : Nat) (m : Sparse α) : Sparse α :=
  m.filter fun e => !(decide (lo ≤ e.1) && decide (e.1 < lo + n))

/-- What an unlisted byte reads as (DESIGN CHOICE, log entry 3). -/
def zeroByte (_ : Nat) : Byte := 0

/-- What an unlisted 64-bit cell reads as: zero (R424 for semaphores). -/
def zeroDWord (_ : Nat) : DWord := 0

/-- What an unlisted 32-bit cell reads as: zero. -/
def zeroWord (_ : Nat) : Word := 0

/-- The values of `n` keys from `a` on, in a store whose first entry at or above `a` comes first. -/
def spWalk : Nat → Nat → Sparse Byte → List Byte
  | 0, _, _ => []
  | n + 1, a, [] => zeroByte a :: spWalk n (a + 1) []
  | n + 1, a, (k, v) :: m => if k = a then v :: spWalk n (a + 1) m else zeroByte a :: spWalk n (a + 1) ((k, v) :: m)

/-- `n` bytes from address `a`, in address order, of a store in canonical form. -/
def spBytes (m : Sparse Byte) (a n : Nat) : List Byte := spWalk n a (m.dropWhile fun e => decide (e.1 < a))

/-- The entries that bytes from address `a` on make: one for each byte that is not what an unlisted address reads as. -/
def spCells : List Byte → Nat → Sparse Byte
  | [], _ => []
  | b :: l, a => if b = zeroByte a then spCells l (a + 1) else (a, b) :: spCells l (a + 1)

/-- Writes the bytes of `l` from address `a` on: what stood below and above stays. -/
def spWrite (l : List Byte) (a : Nat) (m : Sparse Byte) : Sparse Byte :=
  (m.filter fun e => decide (e.1 < a)) ++ spCells l a ++ (m.filter fun e => decide (a + l.length ≤ e.1))

/-- The little-endian value of a byte string. -/
def leNat : List Byte → Nat
  | [] => 0
  | b :: l => b.toNat + 256 * leNat l

/-- `n` little-endian bytes of `v`. -/
def leBytes : Nat → Nat → List Byte
  | 0, _ => []
  | n + 1, v => BitVec.ofNat 8 v :: leBytes n (v / 256)

/-- The little-endian value of `n` bytes at offset `o` of a byte string. -/
def leAt (l : List Byte) (o n : Nat) : Nat := leNat ((l.drop o).take n)

/-- The bytes at offset `o`, length `n`, of a byte string. -/
def slice (l : List Byte) (o n : Nat) : List Byte := (l.drop o).take n

/-- `n` zero bytes. -/
def zeros (n : Nat) : List Byte := List.replicate n 0

/-- Pads a byte string with zeros to a multiple of `n`. -/
def padTo (n : Nat) (l : List Byte) : List Byte := l ++ zeros (ceilDiv l.length n * n - l.length)

/-- Every byte is zero. -/
def allZero (l : List Byte) : Bool := l.all fun b => decide (b = 0)

/-- The ASCII bytes of a string. -/
def ascii (s : String) : List Byte := s.toList.map fun c => BitVec.ofNat 8 c.toNat

/-- The element at index `i`, or `d` beyond the end. -/
def nth {α : Type} (l : List α) (i : Nat) (d : α) : α := (l[i]?).getD d

/-- Replaces the element at index `i` by `f` of it. -/
def updAt {α : Type} : List α → Nat → (α → α) → List α
  | [], _, _ => []
  | x :: l, 0, f => f x :: l
  | x :: l, i + 1, f => x :: updAt l i f

/-- The sum of a list of integers. -/
def sumI (l : List Int) : Int := l.foldl (fun a b => a + b) 0

/-- The sum of a list of naturals. -/
def sumN (l : List Nat) : Nat := l.foldl (fun a b => a + b) 0

/-- Inserts `x` before the first element that `lt x` holds for: a stable insertion sort's step. -/
def insertBy {α : Type} (lt : α → α → Bool) (x : α) : List α → List α
  | [] => [x]
  | y :: l => if lt x y then x :: y :: l else y :: insertBy lt x l

/-- A stable sort. -/
def sortBy {α : Type} (lt : α → α → Bool) (l : List α) : List α :=
  l.foldl (fun acc x => insertBy lt x acc) []

/-- The first `(index, element)` that `p` holds for. -/
def findIdx {α : Type} (p : α → Bool) : List α → Nat → Option Nat
  | [], _ => none
  | x :: l, i => if p x then some i else findIdx p l (i + 1)

/-- `f` applied `n` times. -/
def iter {α : Type} (f : Nat → α → α) : Nat → α → α
  | 0, a => a
  | n + 1, a => f n (iter f n a)

/-- Folds `f` over `0 … n − 1` in ascending order. -/
def forN {α : Type} (n : Nat) (a : α) (f : α → Nat → α) : α := (List.range n).foldl f a

/-- Rounds to nearest with ties to even (R95). -/
def rshiftRne (v : Int) (n : Nat) : Int :=
  if n = 0 then v
  else
    let q := v / (2 ^ n : Int)
    let rem := v - q * 2 ^ n
    let half : Int := 2 ^ (n - 1)
    if rem > half ∨ (rem = half ∧ q % 2 = 1) then q + 1 else q

/-- The index of the highest set bit plus one; 0 for 0 (R199). -/
def bitLength (n : Nat) : Nat := if n = 0 then 0 else Nat.log2 n + 1

/-- The population count of the low `w` bits. -/
def popcount (w n : Nat) : Nat := ((List.range w).filter fun i => n.testBit i).length

end Sys2Proof.Machine
end

