-- ==== Sys2Proof/Machine/Float.lean ====
section
/-!
DEFINITION. The number formats of R226 to R231, exact dyadic values, rounding, and the FP32 primitives of R268.
-/
namespace Sys2Proof.Machine

/-- The number formats, by the codes of R288. -/
inductive Fmt where
  | s1 | b1 | int4 | int8 | int16 | int32 | fp4 | fp6e2m3 | fp6e3m2 | fp8e4m3 | fp8e5m2 | fp16 | bf16 | fp32 | e8m0
  | mxfp4 | mxfp6e2m3 | mxfp6e3m2 | mxfp8e4m3 | mxfp8e5m2 | mxint8
  deriving DecidableEq, Repr

/-- The format a code names (R288); the other codes are reserved. -/
def fmtOfCode (c : Nat) : Option Fmt :=
  match c with
  | 0x00 => some .s1 | 0x01 => some .b1 | 0x02 => some .int4 | 0x03 => some .int8 | 0x04 => some .int16
  | 0x05 => some .int32 | 0x06 => some .fp4 | 0x07 => some .fp6e2m3 | 0x08 => some .fp6e3m2 | 0x09 => some .fp8e4m3
  | 0x0A => some .fp8e5m2 | 0x0B => some .fp16 | 0x0C => some .bf16 | 0x0D => some .fp32 | 0x0E => some .e8m0
  | 0x10 => some .mxfp4 | 0x11 => some .mxfp6e2m3 | 0x12 => some .mxfp6e3m2 | 0x13 => some .mxfp8e4m3
  | 0x14 => some .mxfp8e5m2 | 0x15 => some .mxint8 | _ => none

/-- The code of a format (R288). -/
def fmtCode : Fmt → Nat
  | .s1 => 0x00 | .b1 => 0x01 | .int4 => 0x02 | .int8 => 0x03 | .int16 => 0x04 | .int32 => 0x05 | .fp4 => 0x06
  | .fp6e2m3 => 0x07 | .fp6e3m2 => 0x08 | .fp8e4m3 => 0x09 | .fp8e5m2 => 0x0A | .fp16 => 0x0B | .bf16 => 0x0C
  | .fp32 => 0x0D | .e8m0 => 0x0E | .mxfp4 => 0x10 | .mxfp6e2m3 => 0x11 | .mxfp6e3m2 => 0x12 | .mxfp8e4m3 => 0x13
  | .mxfp8e5m2 => 0x14 | .mxint8 => 0x15

/-- The element format of an MX format (R230). -/
def elemFmt : Fmt → Fmt
  | .mxfp4 => .fp4 | .mxfp6e2m3 => .fp6e2m3 | .mxfp6e3m2 => .fp6e3m2 | .mxfp8e4m3 => .fp8e4m3
  | .mxfp8e5m2 => .fp8e5m2 | .mxint8 => .int8 | f => f

/-- The MX formats. -/
def isMx : Fmt → Bool
  | .mxfp4 | .mxfp6e2m3 | .mxfp6e3m2 | .mxfp8e4m3 | .mxfp8e5m2 | .mxint8 => true
  | _ => false

/-- The integer formats (R226). -/
def isIntFmt : Fmt → Bool
  | .s1 | .b1 | .int4 | .int8 | .int16 | .int32 => true
  | _ => false

/-- Bits of one element (R226, R227). -/
def fmtBits (f : Fmt) : Nat :=
  match elemFmt f with
  | .s1 | .b1 => 1 | .int4 | .fp4 => 4 | .fp6e2m3 | .fp6e3m2 => 6 | .int8 | .fp8e4m3 | .fp8e5m2 | .e8m0 => 8
  | .int16 | .fp16 | .bf16 => 16 | _ => 32

/-- Exponent bits, mantissa bits and bias of a float format (R227). -/
def fmtEMB (f : Fmt) : Nat × Nat × Nat :=
  match elemFmt f with
  | .fp4 => (2, 1, 1) | .fp6e2m3 => (2, 3, 1) | .fp6e3m2 => (3, 2, 3) | .fp8e4m3 => (4, 3, 7) | .fp8e5m2 => (5, 2, 15)
  | .fp16 => (5, 10, 15) | .bf16 => (8, 7, 127) | _ => (8, 23, 127)

/-- The formats with infinities (R227). -/
def hasInf (f : Fmt) : Bool :=
  match elemFmt f with | .fp8e5m2 | .fp16 | .bf16 | .fp32 => true | _ => false

/-- An exact value: NaN, an infinity, or `(−1)^neg × m × 2^e`. -/
inductive FVal where
  | nan
  | inf (neg : Bool)
  | fin (neg : Bool) (m : Nat) (e : Int)
  deriving DecidableEq, Repr

/-- The value of an integer. -/
def fvalOfInt (v : Int) : FVal := .fin (decide (v < 0)) v.natAbs 0

/-- The value of a float code of a format (R227). -/
def decodeFloat (f : Fmt) (c : Nat) : FVal :=
  let (eb, mb, bias) := fmtEMB f
  let m := c % 2 ^ mb
  let e := (c / 2 ^ mb) % 2 ^ eb
  let neg := (c / 2 ^ (mb + eb)) % 2 = 1
  if hasInf f && decide (e = 2 ^ eb - 1) then (if m = 0 then .inf neg else .nan)
  else if elemFmt f = .fp8e4m3 ∧ e = 15 ∧ m = 7 then .nan
  else if e = 0 then .fin neg m (1 - (bias : Int) - mb)
  else .fin neg (2 ^ mb + m) ((e : Int) - bias - mb)

/-- The value of an element code (R226, R227, R230; the block scale of an MX element stands apart). -/
def decodeElem (f : Fmt) (c : Nat) : FVal :=
  match f with
  | .s1 => if c % 2 = 1 then .fin false 1 0 else .fin true 1 0
  | .b1 => .fin false (c % 2) 0
  | .int4 => fvalOfInt (signed 4 c)
  | .int8 => fvalOfInt (signed 8 c)
  | .int16 => fvalOfInt (signed 16 c)
  | .int32 => fvalOfInt (signed 32 c)
  | .mxint8 => match fvalOfInt (signed 8 c) with | .fin s m _ => .fin s m (-6) | v => v
  | .e8m0 => if c % 256 = 255 then .nan else .fin false 1 (((c % 256 : Nat) : Int) - 127)
  | f => decodeFloat f c

/-- The integer an integer-format code stands for. -/
def decodeInt (f : Fmt) (c : Nat) : Int :=
  match decodeElem f c with
  | .fin s m _ => if s then -(m : Int) else m
  | _ => 0

/-- Element `n` of a packed byte string (R228). -/
def unpackElem (bits : Nat) (l : List Byte) (n : Nat) : Nat :=
  if bits < 8 ∧ bits ≠ 6 then field (nth l (n * bits / 8) 0).toNat (n * bits % 8) bits
  else if bits = 6 then field (leAt l (3 * (n / 4)) 3) (6 * (n % 4)) 6
  else leAt l (n * bits / 8) (bits / 8)

/-- Packs codes of `bits` bits from bit 0 upward, in whole bytes (R228). -/
def packElems (bits : Nat) (cs : List Nat) : List Byte :=
  leBytes (ceilDiv (cs.length * bits) 8) (cs.foldr (fun c acc => c % 2 ^ bits + 2 ^ bits * acc) 0)

/-! ## Rounding -/

/-- The rounding modes of R255, by the code of RND (R287). -/
inductive Rnd where
  | rne | rtz | sr
  deriving DecidableEq, Repr

/-- The flags of a slot, a stage and a conversion (R244). -/
structure Flags where
  sat : Bool := false
  nan : Bool := false
  inf : Bool := false
  convSat : Bool := false
  convNan : Bool := false
  deriving DecidableEq, Repr

/-- The union of two flag sets. -/
def orFlags (a b : Flags) : Flags :=
  ⟨a.sat || b.sat, a.nan || b.nan, a.inf || b.inf, a.convSat || b.convSat, a.convNan || b.convNan⟩

/-- The flag record as bits [4:0], in the order of R244. -/
def flagBits (f : Flags) : Nat := b2n f.sat + 2 * b2n f.nan + 4 * b2n f.inf + 8 * b2n f.convSat + 16 * b2n f.convNan

/-- The flags of bits [4:0] (R250). -/
def flagsOfBits (n : Nat) : Flags := ⟨bit n 0, bit n 1, bit n 2, bit n 3, bit n 4⟩

/-- `m × 2^e` in units of `2^q`, rounded; `w` is the 32-bit draw of SR (R255, R256). -/
def roundMag (rnd : Rnd) (w m : Nat) (e q : Int) : Nat :=
  if q ≤ e then m * 2 ^ (e - q).toNat
  else
    let d := (q - e).toNat
    let n := m / 2 ^ d
    let rem := m % 2 ^ d
    match rnd with
    | .rtz => n
    | .rne => if 2 * rem > 2 ^ d ∨ (2 * rem = 2 ^ d ∧ n % 2 = 1) then n + 1 else n
    | .sr => if w < 2 ^ 32 * rem / 2 ^ d then n + 1 else n

/-- The lowest bit's exponent of a value of `bl` significant bits scaled by `2^e`, in a format of `mb` mantissa bits
whose subnormals end at `2^qmin`. -/
def lsbExp (mb : Nat) (qmin : Int) (bl : Nat) (e : Int) : Int :=
  let q := (bl : Int) + e - 1 - mb
  if q < qmin then qmin else q

/-- Whether `n × 2^q` lies above `x × 2^y`. -/
def dyadGt (n : Nat) (q : Int) (x : Nat) (y : Int) : Bool :=
  if q ≤ y then decide (n > x * 2 ^ (y - q).toNat) else decide (n * 2 ^ (q - y).toNat > x)

/-- The code of the finite value `n × 2^q`, which the format represents exactly. -/
def encodeMag (mb bias : Nat) (n : Nat) (q : Int) : Nat :=
  if n = 0 then 0
  else
    let qmin : Int := 1 - (bias : Int) - mb
    -- normalise to mb + 1 bits, or to qmin
    let bl := bitLength n
    let k := lsbExp mb qmin bl q
    let n' := if k ≤ q then n * 2 ^ (q - k).toNat else n / 2 ^ (k - q).toNat
    if n' < 2 ^ mb then n' else ((k + bias + mb).toNat) * 2 ^ mb + (n' - 2 ^ mb)

/-- The largest finite value of a float format: mantissa and exponent (R227). -/
def fmtMax (f : Fmt) : Nat × Int :=
  match elemFmt f with
  | .fp4 => (3, 1) | .fp6e2m3 => (15, -1) | .fp6e3m2 => (7, 2) | .fp8e4m3 => (14, 5) | .fp8e5m2 => (7, 13)
  | .fp16 => (2047, 5) | .bf16 => (255, 120) | _ => (2 ^ 24 - 1, 104)

/-- The canonical quiet NaN (R229); a format without NaN takes +0 (R255). -/
def canonNaN (f : Fmt) : Nat :=
  match elemFmt f with
  | .fp32 => 0x7FC00000 | .bf16 => 0x7FC0 | .fp16 => 0x7E00 | .fp8e5m2 => 0x7E | .fp8e4m3 => 0x7F | _ => 0

/-- The code of infinity in a format that has it. -/
def infCode (f : Fmt) (neg : Bool) : Nat :=
  let (eb, mb, _) := fmtEMB f
  (2 ^ eb - 1) * 2 ^ mb + b2n neg * 2 ^ (eb + mb)

/-- Converts an exact value to a float format; a finite result beyond the range is clamped with CONV_SAT (R255). -/
def convFloat (f : Fmt) (rnd : Rnd) (w : Nat) (v : FVal) : Nat × Flags :=
  let (eb, mb, bias) := fmtEMB f
  let (xm, xe) := fmtMax f
  let sgn (neg : Bool) := b2n neg * 2 ^ (eb + mb)
  let top (neg : Bool) := encodeMag mb bias xm xe + sgn neg
  match v with
  | .nan => (canonNaN f, if hasInf f || decide (elemFmt f = .fp8e4m3) then {} else { convNan := true })
  | .inf neg => if hasInf f then (infCode f neg, {}) else (top neg, { convSat := true })
  | .fin neg m e =>
    let q := lsbExp mb (1 - (bias : Int) - mb) (bitLength m) e
    let n := roundMag rnd w m e q
    if dyadGt n q xm xe then (top neg, { convSat := true }) else (encodeMag mb bias n q + sgn neg, {})

/-- Rounds an exact value to an integer; SR draws towards or away from zero (R256). -/
def roundInt (rnd : Rnd) (w : Nat) (neg : Bool) (m : Nat) (e : Int) : Int :=
  let n := roundMag rnd w m e 0
  if neg then -(n : Int) else n

/-- Converts to an integer range, with the flags of R255. -/
def convInt (lo hi : Int) (rnd : Rnd) (w : Nat) (v : FVal) : Int × Flags :=
  match v with
  | .nan => (0, { convNan := true })
  | .inf neg => (if neg then lo else hi, { convSat := true })
  | .fin neg m e =>
    let i := roundInt rnd w neg m e
    (clampI i lo hi, { convSat := decide (i < lo) || decide (i > hi) })

/-- Converts an exact value to an element code of any non-MX format (R255). DESIGN CHOICE (log 94): E8M0, which R255's table does
    not list, gives the low byte of the FP32 code. -/
def convElem (f : Fmt) (rnd : Rnd) (w : Nat) (v : FVal) : Nat × Flags :=
  let int (b : Nat) := let r := convInt (-(2 ^ (b - 1) : Int)) (2 ^ (b - 1) - 1) rnd w v; (unsigned b r.1, r.2)
  match f with
  | .int4 => int 4
  | .int8 => int 8
  | .int16 => int 16
  | .int32 => int 32
  | .b1 => let r := convInt 0 1 rnd w v; (r.1.toNat, r.2)
  | .s1 =>
    match v with
    | .nan => (1, { convNan := true })
    | .inf neg => (b2n (!neg), {})
    | .fin neg m _ => (b2n (!neg || decide (m = 0)), {})
  | f => convFloat f rnd w v

/-! ## FP32 -/

/-- The value of an FP32 code. -/
def f32 (c : Nat) : FVal := decodeFloat .fp32 c

/-- The canonical quiet NaN of FP32 (R229). -/
def f32NaN : Nat := 0x7FC00000

/-- Rounds `(−1)^neg × m × 2^e` once to FP32 with RNE; beyond the range it gives infinity (R267). -/
def f32Round (neg : Bool) (m : Nat) (e : Int) : Nat :=
  let q := lsbExp 23 (-149) (bitLength m) e
  let n := roundMag .rne 0 m e q
  if dyadGt n q (2 ^ 24 - 1) 104 then infCode .fp32 neg else encodeMag 23 127 n q + b2n neg * 2 ^ 31

/-- The same with the array's clamp at the largest finite value; true when it clamped (R241). -/
def f32RoundClamp (neg : Bool) (m : Nat) (e : Int) : Nat × Bool :=
  let q := lsbExp 23 (-149) (bitLength m) e
  let n := roundMag .rne 0 m e q
  if dyadGt n q (2 ^ 24 - 1) 104 then (0x7F7FFFFF + b2n neg * 2 ^ 31, true)
  else (encodeMag 23 127 n q + b2n neg * 2 ^ 31, false)

/-- The exact sum of two finite values as an integer times `2^e`, with the sign of an exact zero under RNE. -/
def dyadAdd (na : Bool) (ma : Nat) (ea : Int) (nb : Bool) (mb : Nat) (eb : Int) : Bool × Nat × Int :=
  let e := if ea ≤ eb then ea else eb
  let a : Int := (ma * 2 ^ (ea - e).toNat : Nat)
  let b : Int := (mb * 2 ^ (eb - e).toNat : Nat)
  let s := (if na then -a else a) + (if nb then -b else b)
  if s = 0 then (na && nb && decide (ma = 0) && decide (mb = 0), 0, e) else (decide (s < 0), s.natAbs, e)

/-- The sum of two values before rounding: NaN, infinity or an exact finite value. -/
def fvAdd (a b : FVal) : FVal :=
  match a, b with
  | .nan, _ => .nan
  | _, .nan => .nan
  | .inf x, .inf y => if x = y then .inf x else .nan
  | .inf x, _ => .inf x
  | _, .inf y => .inf y
  | .fin na ma ea, .fin nb mb eb => let r := dyadAdd na ma ea nb mb eb; .fin r.1 r.2.1 r.2.2

/-- The exact product of two values (R239, R240). -/
def fvMul (a b : FVal) : FVal :=
  match a, b with
  | .nan, _ => .nan
  | _, .nan => .nan
  | .inf x, .inf y => .inf (x != y)
  | .inf x, .fin nb mb _ => if mb = 0 then .nan else .inf (x != nb)
  | .fin na ma _, .inf y => if ma = 0 then .nan else .inf (na != y)
  | .fin na ma ea, .fin nb mb eb => .fin (na != nb) (ma * mb) (ea + eb)

/-- The negation of a value. -/
def fvNeg : FVal → FVal
  | .nan => .nan
  | .inf n => .inf (!n)
  | .fin n m e => .fin (!n) m e

/-- Rounds a value to an FP32 code. -/
def f32Of : FVal → Nat
  | .nan => f32NaN
  | .inf n => infCode .fp32 n
  | .fin n m e => f32Round n m e

/-- Rounds a value to an FP32 code with the array's clamp; true when it clamped. -/
def f32OfClamp : FVal → Nat × Bool
  | .nan => (f32NaN, false)
  | .inf n => (infCode .fp32 n, false)
  | .fin n m e => f32RoundClamp n m e

/-- FP32 addition (R268). -/
def f32Add (a b : Nat) : Nat := f32Of (fvAdd (f32 a) (f32 b))

/-- FP32 subtraction (R268). -/
def f32Sub (a b : Nat) : Nat := f32Of (fvAdd (f32 a) (fvNeg (f32 b)))

/-- FP32 multiplication (R268). -/
def f32Mul (a b : Nat) : Nat := f32Of (fvMul (f32 a) (f32 b))

/-- FP32 fused multiply-add (R268). -/
def f32Fma (a b c : Nat) : Nat := f32Of (fvAdd (fvMul (f32 a) (f32 b)) (f32 c))

/-- The order of two values, −0 below +0; a NaN is in no order. -/
def fvLt (a b : FVal) : Bool :=
  match a, b with
  | .nan, _ => false
  | _, .nan => false
  | .inf x, .inf y => x && !y
  | .inf x, _ => x
  | _, .inf y => !y
  | .fin na ma ea, .fin nb mb eb =>
    if ma = 0 ∧ mb = 0 then na && !nb
    else
      let r := dyadAdd na ma ea (!nb) mb eb
      r.1 && decide (r.2.1 ≠ 0)

/-- The comparison of two numbers that takes −0 and +0 as equal. -/
def fvLtNum (a b : FVal) : Bool :=
  match a, b with
  | .fin _ 0 _, .fin _ 0 _ => false
  | _, _ => fvLt a b

/-- IEEE 754-2019 minimum: NaN propagates, −0 below +0 (R268). -/
def f32Min (a b : Nat) : Nat :=
  if f32 a = .nan ∨ f32 b = .nan then f32NaN else if fvLt (f32 b) (f32 a) then b else a

/-- IEEE 754-2019 maximum (R268). -/
def f32Max (a b : Nat) : Nat :=
  if f32 a = .nan ∨ f32 b = .nan then f32NaN else if fvLt (f32 a) (f32 b) then b else a

/-- The integer square root of `n < 4^k`. -/
def isqrtBits : Nat → Nat → Nat → Nat
  | 0, _, r => r
  | k + 1, n, r =>
    let t := r + 2 ^ k
    isqrtBits k n (if t * t ≤ n then t else r)

/-- The integer square root. -/
def isqrt (n : Nat) : Nat := isqrtBits (bitLength n / 2 + 1) n 0

/-- FP32 reciprocal (R268). -/
def f32Rcp (a : Nat) : Nat :=
  match f32 a with
  | .nan => f32NaN
  | .inf n => b2n n * 2 ^ 31
  | .fin n m e =>
    if m = 0 then infCode .fp32 n
    else
      let k := bitLength m + 60
      let q := 2 ^ k / m
      f32Round n (2 * q + b2n (decide (2 ^ k % m ≠ 0))) (-e - k - 1)

/-- FP32 square root (R268). -/
def f32Sqrt (a : Nat) : Nat :=
  match f32 a with
  | .nan => f32NaN
  | .inf n => if n then f32NaN else infCode .fp32 false
  | .fin n m e =>
    if m = 0 then b2n n * 2 ^ 31
    else if n then f32NaN
    else
      let odd := (e % 2).toNat
      let x := m * 2 ^ (odd + 80)
      let s := isqrt x
      f32Round false (2 * s + b2n (decide (s * s ≠ x))) ((e - odd - 80) / 2 - 1)

/-- FP32 reciprocal square root (R268); of ±0 it is ±∞, as 1/√x is under IEEE 754-2019. -/
def f32Rsqrt (a : Nat) : Nat :=
  match f32 a with
  | .nan => f32NaN
  | .inf n => if n then f32NaN else 0
  | .fin n m e =>
    if m = 0 then infCode .fp32 n
    else if n then f32NaN
    else
      let odd := (e % 2).toNat
      let x := m * 2 ^ odd
      -- 1/√(x 2^(e−odd)) = √(4^k / x) × 2^(−k − (e−odd)/2)
      let k := bitLength x + 60
      let s := isqrt (2 ^ (2 * k) / x)
      f32Round false (2 * s + b2n (decide (s * s * x ≠ 2 ^ (2 * k)))) (-(k : Int) - (e - odd) / 2 - 1)

/-! ## exp2 and log2

Both are computed to about 300 fractional bits and then rounded once. An argument whose result is not exact is
irrational there, so the rounding is the correct one unless a result lies within 2⁻²⁸⁰ of a midpoint (log entry 12). -/

/-- The fractional bits of the fixed-point work. -/
def fixP : Nat := 320

/-- `2^fixP × artanh(n/d)` by its series, `k` terms. -/
def atanhFix (n d k : Nat) : Nat :=
  ((List.range k).foldl (fun (st : Nat × Nat) i => (st.1 + st.2 / (2 * i + 1), st.2 * n * n / (d * d))) (0, 2 ^ fixP * n / d)).1

/-- `2^fixP × ln 2`. -/
def ln2Fix : Nat := 2 * atanhFix 1 3 110

/-- `2^fixP × e^(y / 2^fixP)` by its series, for `0 ≤ y < 2^fixP`. -/
def expFix (y : Nat) : Nat :=
  ((List.range 90).foldl (fun (st : Nat × Nat) i => (st.1 + st.2, st.2 * y / 2 ^ fixP / (i + 1))) (0, 2 ^ fixP)).1

/-- FP32 2ˣ (R268). -/
def f32Exp2 (a : Nat) : Nat :=
  match f32 a with
  | .nan => f32NaN
  | .inf n => if n then 0 else infCode .fp32 false
  | .fin neg m e =>
    -- the argument in units of 2^−fixP, exact because FP32 ends at 2^−149
    let v : Int := (if neg then -1 else 1) * (if 0 ≤ e + fixP then (m * 2 ^ (e + fixP).toNat : Nat) else 0)
    let n := v / (2 ^ fixP : Int)
    let f := (v % (2 ^ fixP : Int)).toNat
    if n ≥ 128 then infCode .fp32 false
    else if n < -160 then 0
    else if f = 0 then f32Round false 1 n
    else f32Round false (2 * expFix (f * ln2Fix / 2 ^ fixP) + 1) (n - fixP - 1)

/-- FP32 log₂ x (R268). -/
def f32Log2 (a : Nat) : Nat :=
  match f32 a with
  | .nan => f32NaN
  | .inf n => if n then f32NaN else infCode .fp32 false
  | .fin neg m e =>
    if m = 0 then infCode .fp32 true
    else if neg then f32NaN
    else
      let b := bitLength m - 1
      let ex : Int := e + b
      if m = 2 ^ b then f32Round (decide (ex < 0)) ex.natAbs 0
      else
        -- z = m / 2^b in (1, 2); log2 z = 2 artanh((z − 1)/(z + 1)) / ln 2
        let lg := 2 * atanhFix (m - 2 ^ b) (m + 2 ^ b) 120 * 2 ^ fixP / ln2Fix
        let v : Int := ex * 2 ^ fixP + lg
        f32Round (decide (v < 0)) (2 * v.natAbs + 1) (-(fixP : Int) - 1)

/-! ## The composite functions of R269 -/

/-- FP32 code of 1. -/
def f32One : Nat := 0x3F800000

/-- FP32 code with the sign inverted. -/
def f32Neg (a : Nat) : Nat := if f32 a = .nan then f32NaN else a ^^^ 0x80000000

/-- exp(x) (R269). -/
def f32Exp (x : Nat) : Nat := f32Exp2 (f32Mul x 0x3FB8AA3B)

/-- sigmoid(x) (R269). -/
def f32Sigmoid (x : Nat) : Nat := f32Rcp (f32Add f32One (f32Exp (f32Neg x)))

/-- tanh(x) (R269). -/
def f32Tanh (x : Nat) : Nat :=
  f32Sub f32One (f32Mul 0x40000000 (f32Rcp (f32Add (f32Exp (f32Mul 0x40000000 x)) f32One)))

/-- SiLU(x) (R269). -/
def f32Silu (x : Nat) : Nat := f32Mul x (f32Sigmoid x)

/-- GELU(x), tanh form (R269). -/
def f32Gelu (x : Nat) : Nat :=
  let u := f32Mul 0x3F4C422A (f32Fma (f32Mul 0x3D372713 x) (f32Mul x x) x)
  f32Mul (f32Mul 0x3F000000 x) (f32Add f32One (f32Tanh u))

/-- Reduces a list by adjacent pairs, level by level; `n` bounds the levels (R238, R241, R270). -/
def treeReduce {α : Type} (op : α → α → α) (d : α) : Nat → List α → α
  | 0, l => l.headD d
  | n + 1, l => match l with
    | [] => d
    | [x] => x
    | l => treeReduce op d n (pairUp op l)
where
  pairUp (op : α → α → α) : List α → List α
    | x :: y :: l => op x y :: pairUp op l
    | l => l

/-- A reduction over `n` elements held as vectors of 512: the vectors element by element in ascending order, then the
512 lanes in the balanced tree; `pad` fills the padding lanes (R270). -/
def reduce512 {α : Type} (op : α → α → α) (pad : α) (xs : List α) : α :=
  let vs := chunk (ceilDiv xs.length 512) xs
  match vs with
  | [] => pad
  | v :: rest => treeReduce op pad 10 (rest.foldl (fun a b => (a.zip b).map fun p => op p.1 p.2) v)
where
  chunk : Nat → List α → List (List α)
    | 0, _ => []
    | n + 1, l => (l.take 512 ++ List.replicate (512 - (l.take 512).length) pad) :: chunk n (l.drop 512)

/-- Softmax (R269). -/
def f32Softmax (xs : List Nat) : List Nat :=
  let m := reduce512 f32Max (infCode .fp32 true) xs
  let es := xs.map fun x => f32Exp (f32Sub x m)
  let r := f32Rcp (reduce512 f32Add 0 es)
  es.map fun e => f32Mul e r

/-- Normalisation with ε (R269). -/
def f32Normalise (xs : List Nat) (eps : Nat) : List Nat :=
  let rn := f32Rcp (f32Round false xs.length 0)
  let mu := f32Mul (reduce512 f32Add 0 xs) rn
  let ds := xs.map fun x => f32Sub x mu
  let v := f32Mul (reduce512 f32Add 0 (ds.map fun d => f32Mul d d)) rn
  let k := f32Rsqrt (f32Add v eps)
  ds.map fun d => f32Mul d k

end Sys2Proof.Machine
end

