-- ==== Sys2Proof/Machine/Shake.lean ====
section
/-!
DEFINITION. SHAKE256 (FIPS 202, which the spec names and does not reproduce: PRESUMED, log entry 11), the tree digest of
R393, and the Lane generator of R386 to R391.
-/
namespace Sys2Proof.Machine

/-- `v` rotated left by `n` in `w` bits. -/
def rotlN (w v n : Nat) : Nat := ((v <<< (n % w)) ||| (v >>> (w - n % w))) % 2 ^ w

/-- The round constants of Keccak-f[1600]. -/
def keccakRC : List Nat :=
  [0x0000000000000001, 0x0000000000008082, 0x800000000000808A, 0x8000000080008000, 0x000000000000808B, 0x0000000080000001,
   0x8000000080008081, 0x8000000000008009, 0x000000000000008A, 0x0000000000000088, 0x0000000080008009, 0x000000008000000A] ++
  [0x000000008000808B, 0x800000000000008B, 0x8000000000008089, 0x8000000000008003, 0x8000000000008002, 0x8000000000000080,
   0x000000000000800A, 0x800000008000000A, 0x8000000080008081, 0x8000000000008080, 0x0000000080000001, 0x8000000080008008]

/-- The rotation of lane `x + 5y`. -/
def keccakRot : List Nat :=
  [0, 1, 62, 28, 27, 36, 44, 6, 55, 20, 3, 10, 43, 25, 39, 41, 45, 15, 21, 8, 18, 2, 61, 56, 14]

/-- One round of Keccak-f[1600] on the 25 lanes `x + 5y`. -/
def keccakRound (a : List Nat) (rc : Nat) : List Nat :=
  let c := (List.range 5).map fun x => nth a x 0 ^^^ nth a (x + 5) 0 ^^^ nth a (x + 10) 0 ^^^ nth a (x + 15) 0 ^^^ nth a (x + 20) 0
  let d := (List.range 5).map fun x => nth c ((x + 4) % 5) 0 ^^^ rotlN 64 (nth c ((x + 1) % 5) 0) 1
  let t := (List.range 25).map fun i => rotlN 64 (nth a i 0 ^^^ nth d (i % 5) 0) (nth keccakRot i 0)
  -- the lane (x, y) moves to (y, 2x + 3y): lane (X, Y) comes from x = X + 3Y, y = X (modulo 5)
  let b := (List.range 25).map fun i =>
    let x := i % 5
    let y := i / 5
    nth t ((x + 3 * y) % 5 + 5 * x) 0
  let e := (List.range 25).map fun i =>
    let x := i % 5
    let y := i / 5
    nth b i 0 ^^^ ((2 ^ 64 - 1 - nth b ((x + 1) % 5 + 5 * y) 0) &&& nth b ((x + 2) % 5 + 5 * y) 0)
  match e with
  | [] => []
  | l :: r => (l ^^^ rc) :: r

/-- Keccak-f[1600]. -/
def keccakF (a : List Nat) : List Nat := keccakRC.foldl keccakRound a

/-- The 8-byte lanes of a byte string, little-endian. -/
def lanesOf : Nat → List Byte → List Nat
  | 0, _ => []
  | n + 1, l => leNat (l.take 8) :: lanesOf n (l.drop 8)

/-- Absorbs `n` blocks of the 136-byte rate. -/
def shakeAbsorb : Nat → List Byte → List Nat → List Nat
  | 0, _, st => st
  | n + 1, l, st =>
    let blk := lanesOf 17 (l.take 136) ++ List.replicate 8 0
    shakeAbsorb n (l.drop 136) (keccakF ((st.zip blk).map fun p => p.1 ^^^ p.2))

/-- The padding of SHAKE256 for a message of `n` bytes. -/
def shakePad (n : Nat) : List Byte :=
  let k := 136 - n % 136
  if k = 1 then [0x9F] else 0x1F :: (zeros (k - 2) ++ [0x80])

/-- Squeezes `n` blocks of the rate. -/
def shakeSqueeze : Nat → List Nat → List Byte
  | 0, _ => []
  | n + 1, st => ((st.take 17).map (leBytes 8)).flatten ++ shakeSqueeze n (keccakF st)

/-- The first `n` bytes of the SHAKE256 output for message `m` (R386). -/
def shake256 (m : List Byte) (n : Nat) : List Byte :=
  let p := m ++ shakePad m.length
  let st := shakeAbsorb (p.length / 136) p (List.replicate 25 0)
  (shakeSqueeze (ceilDiv n 136) st).take n

/-- The length of a leaf of the tree digest (R393). -/
def leafLen : Nat := 1048576

/-- The digests of the leaves of a byte string, from leaf `i` on; `n` bounds their number. -/
def leafDigests : Nat → Nat → List Byte → List Byte
  | 0, _, _ => []
  | n + 1, i, l =>
    if l.isEmpty then []
    else shake256 ((0x00 : Byte) :: (leBytes 8 i ++ l.take leafLen)) 32 ++ leafDigests n (i + 1) (l.drop leafLen)

/-- The tree digest of a byte string (R393). -/
def treeDigest (l : List Byte) : List Byte :=
  shake256 ((0x01 : Byte) :: (leBytes 8 l.length ++ leafDigests (ceilDiv l.length leafLen) 0 l)) 32

/-! ## The Lane generator -/

/-- The 128-bit key of a seed, as four u32 words (R386). -/
def laneKey (seed : Nat) : List Nat :=
  let d := shake256 (ascii "ONK-LANE" ++ leBytes 8 seed) 16
  [leAt d 0 4, leAt d 4 4, leAt d 8 4, leAt d 12 4]

/-- A sum modulo 2³². -/
def add32 (a b : Nat) : Nat := (a + b) % 2 ^ 32

/-- One of the twelve rounds of R388 on `(x0, x1, x2, x3)`. -/
def laneRound (key : List Nat) (x : Nat × Nat × Nat × Nat) (i : Nat) : Nat × Nat × Nat × Nat :=
  let x0 := add32 (add32 x.1 (nth key (i % 4) 0)) (i * 0x9E3779B9 % 2 ^ 32)
  let x1 := x.2.1 ^^^ add32 (nth key ((i + 2) % 4) 0) (i * 0x7F4A7C15 % 2 ^ 32)
  let x0 := add32 x0 x1
  let x3 := rotlN 32 (x.2.2.2 ^^^ x0) 16
  let x2 := add32 x.2.2.1 x3
  let x1 := rotlN 32 (x1 ^^^ x2) 11
  let x0 := add32 x0 x1
  let x3 := rotlN 32 (x3 ^^^ x0) 9
  let x2 := add32 x2 x3
  let x1 := rotlN 32 (x1 ^^^ x2) 5
  (x1, x2, x3, x0)

/-- The draw of a key and a counter (R388). -/
def laneDrawRaw (key : List Nat) (x0 x1 x2 x3 : Nat) : Nat :=
  let r := (List.range 12).foldl (laneRound key) (x0, x1, x2, x3)
  r.1 ^^^ r.2.1 ^^^ r.2.2.1 ^^^ r.2.2.2

/-- The key and the position that a run gives every draw (R386, R390). -/
structure LaneKey where
  key : List Nat
  pos : Nat
  deriving DecidableEq, Repr

/-- `lane_draw(r, seg, n, step, lane)` with the counter of R387. -/
def laneDraw (k : LaneKey) (r seg n step lane : Nat) : Nat :=
  laneDrawRaw k.key (lane % 512 + 512 * (step % 16384)) (r % 512 + 512 * (seg % 4096) + 2 ^ 21 * (k.pos % 512))
    (n % 2 ^ 32) (n / 2 ^ 32 % 2 ^ 32)

end Sys2Proof.Machine
end

