-- ==== Sys2Proof/Machine/Problem.lean ====
section
/-!
DEFINITION. The problem form: the canonical image (R72, R73), the load-time checks (R69 to R75), homes of segments
(R60 to R65), fields, energies and bounds (R41 to R52, R174).
-/
namespace Sys2Proof.Machine

/-- A constraint row: target, penalty weight as loaded, and the device's own entries (global variable, weight). -/
structure Row where
  t : Int
  lam : Nat
  entries : List (Nat × Int)
  deriving DecidableEq, Repr

/-- A one-hot group: its segment counted from the device's first, and its lanes in ascending order. -/
structure Group where
  seg : Nat
  lanes : List Nat
  deriving DecidableEq, Repr

/-- A loaded problem. `coup` holds one sparse row of J per owned variable: (global column, value), ascending. -/
structure Prob where
  width : Nat
  n : Nat
  segFirst : Nat
  segCount : Nat
  devCount : Nat
  engReq : Nat
  replicas : Nat
  c0 : Int
  coup : List (List (Nat × Int))
  bias : List Int
  held : List Nat
  groups : List Group
  rows : List Row
  initial : List (List Nat)
  satPossible : Bool
  spilled : Bool
  imageAddr : Nat
  imageLen : Nat
  digest : List Byte
  deriving DecidableEq, Repr

/-! ## The header -/

/-- Field offsets of the header (R72). -/
def hdrFields : List (Nat × Nat) :=
  [(0x000, 4), (0x004, 2), (0x006, 1), (0x007, 1), (0x008, 4), (0x00C, 4), (0x010, 4), (0x014, 2), (0x016, 2), (0x018, 4),
   (0x01C, 4), (0x020, 8), (0x028, 4), (0x02C, 2), (0x02E, 2)]

/-- The eight section offsets of the header. -/
def hdrOffsets : List Nat := [0x030, 0x038, 0x040, 0x048, 0x050, 0x058, 0x060, 0x068]

/-- Bytes of one coupling tile of a width (R73). -/
def tileBytes (width : Nat) : Nat := 131072 * 2 ^ width

/-- The numbers of a header. -/
structure ProbHdr where
  magic : Nat
  layout : Nat
  width : Nat
  n : Nat
  segFirst : Nat
  segCount : Nat
  devCount : Nat
  engReq : Nat
  rowCount : Nat
  groupCount : Nat
  c0 : Int
  entryCount : Nat
  replicas : Nat
  offs : List Nat
  deriving DecidableEq, Repr

/-- The header at address `a`. -/
def readHdr (m : Sparse Byte) (a : Nat) : ProbHdr :=
  let b := spBytes m a 128
  { magic := leAt b 0 4, layout := leAt b 4 2, width := leAt b 6 1, n := leAt b 8 4, segFirst := leAt b 0xC 4,
    segCount := leAt b 0x10 4, devCount := leAt b 0x14 2, engReq := leAt b 0x16 2, rowCount := leAt b 0x18 4,
    groupCount := leAt b 0x1C 4, c0 := signed 64 (leAt b 0x20 8), entryCount := leAt b 0x28 4, replicas := leAt b 0x2C 2,
    offs := hdrOffsets.map fun o => leAt b o 8 }

/-- Segments of the whole problem (R60). -/
def ProbHdr.segs (h : ProbHdr) : Nat := h.n / 512

/-- The sections of an image: offset and length, in header order (R73). -/
def hdrSections (h : ProbHdr) : List (Nat × Nat) :=
  let tiles := h.segCount * (h.n / 512)
  let lens := [tiles * tileBytes h.width, tiles * 2048, 2048 * h.segCount, 64 * h.segCount, 72 * h.groupCount,
    16 * h.rowCount, 4 * h.entryCount, if nth h.offs 7 0 = 0 then 0 else 64 * h.segCount * h.replicas]
  h.offs.zip lens

/-- The length of the image that COEFF_DIGEST covers: from byte 0 to the end of the section that ends last (R394). -/
def imageLen (h : ProbHdr) : Nat :=
  (hdrSections h).foldl (fun acc s => if s.2 = 0 then acc else max acc (s.1 + s.2)) 128

/-! ## Homes -/

/-- The largest power of two `m ≤ 8` with `sdev × m ≤ ereq` (R63). -/
def homeM (sdev ereq : Nat) : Nat :=
  if sdev * 8 ≤ ereq then 8 else if sdev * 4 ≤ ereq then 4 else if sdev * 2 ≤ ereq then 2 else 1

/-- Whether whole segments are homed on single engines (R62). -/
def wholeHomed (sdev ereq : Nat) : Bool := decide (ereq ≤ sdev)

/-- The number of engines that take home rows (R62, R63). -/
def eUse (sdev ereq : Nat) : Nat := if wholeHomed sdev ereq then ereq else sdev * homeM sdev ereq

/-- The home group size; 1 under R62. -/
def groupM (sdev ereq : Nat) : Nat := if wholeHomed sdev ereq then 1 else homeM sdev ereq

/-- Home rows per engine. -/
def homeRows (sdev ereq : Nat) : Nat :=
  if wholeHomed sdev ereq then 512 * ceilDiv sdev (eUse sdev ereq) else 512 / homeM sdev ereq

/-- The home engine of lane `lane` of owned segment `g` (R62, R63). -/
def homeEngine (sdev ereq g lane : Nat) : Nat :=
  if wholeHomed sdev ereq then g % ereq
  else let m := homeM sdev ereq; g * m + lane / (512 / m)

/-- The visiting engine of owned segment `g`. -/
def visitEngine (sdev ereq g : Nat) : Nat := homeEngine sdev ereq g 0

/-- Phases per sweep (R149, R150). -/
def phasesPerSweep (sdev ereq : Nat) : Nat :=
  if wholeHomed sdev ereq then ceilDiv sdev (eUse sdev ereq) else 1

/-- The owned segments visited in phase `p` of a sweep, by ascending visiting engine (R149, R150, R152). -/
def phaseSegs (sdev ereq p : Nat) : List Nat :=
  if wholeHomed sdev ereq then
    (List.range (eUse sdev ereq)).filterMap fun e => let g := p * eUse sdev ereq + e; if g < sdev then some g else none
  else List.range sdev

/-- Coupling bytes of an engine (R65); INT4 packs two columns per byte. -/
def couplingBytes (h : ProbHdr) : Nat := homeRows h.segCount h.engReq * h.n * 2 ^ h.width / 2

/-- Whether the problem spills (R65). -/
def spills (h : ProbHdr) : Bool := decide (h.width = 2) || decide (couplingBytes h > 768 * 1048576)

/-- The field-store cap on replicas (R70). -/
def replicaCap (h : ProbHdr) : Nat := min 512 (1048576 / homeRows h.segCount h.engReq / 8 * 8)

/-! ## Sections -/

/-- The nonzero couplings of a coupling section as (owned row, global column, value, byte offset in the image), in image
order (R73). -/
def coupTriples (m : Sparse Byte) (a : Nat) (h : ProbHdr) : List (Nat × Nat × Int × Nat) :=
  let base := a + nth h.offs 0 0
  let tb := tileBytes h.width
  let len := h.segCount * h.segs * tb
  let ents := spRange base len m
  let mk (o col : Nat) (v : Int) : Nat × Nat × Int × Nat :=
    let t := o / tb
    (512 * (t / h.segs) + o % tb / (tb / 512), 512 * (t % h.segs) + col, v, nth h.offs 0 0 + o)
  let rb := tb / 512
  (ents.map fun e =>
    let o := e.1 - base
    let c := o % rb
    match h.width with
    | 0 => [mk o (2 * c) (signed 4 e.2.toNat), mk o (2 * c + 1) (signed 4 (e.2.toNat / 16))].filter fun t => t.2.2.1 ≠ 0
    | 1 => [mk o c (signed 8 e.2.toNat)]
    | _ =>
      let even := e.1 - c % 2
      let v := signed 16 ((spGet zeroByte even m).toNat + 256 * (spGet zeroByte (even + 1) m).toNat)
      -- the high byte alone names the element only when the low byte is zero
      if c % 2 = 1 ∧ spGet zeroByte even m ≠ 0 then [] else [mk (o - c % 2) (c / 2) v]).flatten

/-- The rows of J from the triples. -/
def coupRows (h : ProbHdr) (ts : List (Nat × Nat × Int × Nat)) : List (List (Nat × Int)) :=
  (List.range (512 * h.segCount)).map fun i => (ts.filter fun t => t.1 = i).map fun t => (t.2.1, t.2.2.1)

/-- The value a sparse row holds at a column. -/
def rowAt (r : List (Nat × Int)) (j : Nat) : Int :=
  match r with
  | [] => 0
  | (k, v) :: l => if k = j then v else rowAt l j

/-- The lanes of a 512-bit mask, ascending. -/
def maskLanes (m : Nat) : List Nat := (List.range 512).filter fun j => m.testBit j

/-- The group table as (owned segment index as an integer, member count, mask, offset in the image) (R73). -/
def readGroups (m : Sparse Byte) (a : Nat) (h : ProbHdr) : List (Nat × Nat × Nat × Nat) :=
  (List.range h.groupCount).map fun g =>
    let o := nth h.offs 4 0 + 72 * g
    let b := spBytes m (a + o) 72
    (leAt b 0 4, leAt b 4 2, leAt b 8 64, o)

/-- The row headers as (t, λ, first entry, count, offset). -/
def readRows (m : Sparse Byte) (a : Nat) (h : ProbHdr) : List (Int × Nat × Nat × Nat × Nat) :=
  (List.range h.rowCount).map fun k =>
    let o := nth h.offs 5 0 + 16 * k
    let b := spBytes m (a + o) 16
    (signed 32 (leAt b 0 4), leAt b 4 2, leAt b 8 4, leAt b 12 4, o)

/-- The entries of a row as (variable, weight, offset). -/
def readEntries (m : Sparse Byte) (a : Nat) (h : ProbHdr) (first count : Nat) : List (Nat × Int × Nat) :=
  (List.range count).map fun e =>
    let o := nth h.offs 6 0 + 4 * (first + e)
    let w := leNat (spBytes m (a + o) 4)
    (w % 2 ^ 24, signed 8 (w / 2 ^ 24), o)

/-- The held masks of the owned segments. -/
def readHeld (m : Sparse Byte) (a : Nat) (h : ProbHdr) : List Nat :=
  (List.range h.segCount).map fun g => leNat (spBytes m (a + nth h.offs 3 0 + 64 * g) 64)

/-- The biases of the owned variables. -/
def readBias (m : Sparse Byte) (a : Nat) (h : ProbHdr) : List Int :=
  (List.range (512 * h.segCount)).map fun i => signed 32 (leNat (spBytes m (a + nth h.offs 2 0 + 4 * i) 4))

/-- The supplied initial states: per replica, per owned segment. -/
def readInitial (m : Sparse Byte) (a : Nat) (h : ProbHdr) : List (List Nat) :=
  (List.range h.replicas).map fun r => (List.range h.segCount).map fun g =>
    leNat (spBytes m (a + nth h.offs 7 0 + 64 * (r * h.segCount + g)) 64)

/-! ## Load-time checks (R75), each answering the source and the location of R693 of its first failure -/

/-- The first `some` of a list. -/
def firstSome {α : Type} : List (Option α) → Option α
  | [] => none
  | some x :: _ => some x
  | none :: l => firstSome l

/-- `loc` when the condition fails the check. -/
def failIf (c : Bool) (loc : Nat) : Option Nat := if c then some loc else none

/-- The Header check. -/
def chkHeader (m : Sparse Byte) (a : Nat) (h : ProbHdr) : Option Nat :=
  let b := spBytes m a 128
  firstSome ([failIf (decide (h.magic ≠ 0x50524F42)) 0, failIf (decide (h.layout ≠ 1)) 4, failIf (decide (h.width > 2)) 6,
      failIf (decide (leAt b 7 1 ≠ 0)) 7, failIf (decide (leAt b 0x2E 2 ≠ 0)) 0x2E] ++
    (hdrOffsets.map fun o => failIf (decide (leAt b o 8 % 4096 ≠ 0)) o) ++ [failIf (!allZero (slice b 0x70 16)) 0x70])

/-- The Shape check; `eimg` is E_img, `d` the position, `dev` the devices of a spanned run (R69, R70, R75). -/
def chkShape (h : ProbHdr) (eimg d dev : Nat) : Option Nat :=
  let s := h.n / 512
  firstSome
    [failIf (decide (h.n < 512) || decide (h.n % 512 ≠ 0) || decide (h.n > if dev = 1 then 131072 else 2097152)) 0x008,
     failIf (decide (h.devCount ≠ dev) || decide (s % dev ≠ 0)) 0x014,
     failIf (decide (h.segFirst ≠ d * (s / dev))) 0x00C,
     failIf (decide (h.segCount ≠ s / dev) || decide (h.segCount > 256) || decide (h.segCount = 0)) 0x010,
     failIf (decide (h.engReq = 0) || decide (h.engReq > 32) || decide (h.engReq ≠ eimg)) 0x016,
     failIf (decide (h.rowCount > 65536)) 0x018,
     failIf (decide (h.entryCount > 67108864)) 0x028,
     failIf (decide (h.replicas < 8) || decide (h.replicas > 512) || decide (h.replicas % 8 ≠ 0)
       || decide (h.replicas > replicaCap h)) 0x02C]

/-- The Diagonal check. -/
def chkDiagonal (h : ProbHdr) (ts : List (Nat × Nat × Int × Nat)) : Option Nat :=
  (ts.find? fun t => t.2.1 = 512 * h.segFirst + t.1).map fun t => t.2.2.2

/-- The Symmetry check over the pairs of owned segments (R76 gives the others); it names two elements, hence offset 0 (R693). -/
def chkSymmetry (h : ProbHdr) (rows : List (List (Nat × Int))) (ts : List (Nat × Nat × Int × Nat)) : Option Nat :=
  let lo := 512 * h.segFirst
  let n := 512 * h.segCount
  failIf (ts.any fun t =>
    decide (lo ≤ t.2.1) && decide (t.2.1 < lo + n) && decide (rowAt (nth rows (t.2.1 - lo) []) (lo + t.1) ≠ t.2.2.1)) 0

/-- The Checksums check: entry `r` of tile `(a, b)` is the sum of row `r` of the tile (R73); it involves many fields, so the location is
offset 0 (R693). -/
def chkSums (m : Sparse Byte) (a : Nat) (h : ProbHdr) (rows : List (List (Nat × Int))) : Option Nat :=
  let tile (ab : Nat) : Option Nat :=
    let ra := ab / h.segs
    let cb := ab % h.segs
    firstSome ((List.range 512).map fun r =>
      let o := nth h.offs 1 0 + 2048 * ab + 4 * r
      let sum := sumI (((nth rows (512 * ra + r) []).filter fun e => e.1 / 512 = cb).map fun e => e.2)
      failIf (decide (signed 32 (leNat (spBytes m (a + o) 4)) ≠ sum)) 0)
  firstSome ((List.range (h.segCount * h.segs)).map tile)

/-- The Targets check. -/
def chkTargets (rs : List (Int × Nat × Nat × Nat × Nat)) : Option Nat :=
  (rs.find? fun r => decide (r.1 > 2 ^ 24) || decide (r.1 < -(2 ^ 24))).map fun r => r.2.2.2.2

/-- The indices of a row ascend strictly. -/
def ascends : List Nat → Bool
  | x :: y :: l => decide (x < y) && ascends (y :: l)
  | _ => true

/-- The Entries check; indices that do not ascend are a matter of two entries, which locates offset 0 (R693). -/
def chkEntries (m : Sparse Byte) (a : Nat) (h : ProbHdr) (rs : List (Int × Nat × Nat × Nat × Nat)) : Option Nat :=
  let lo := 512 * h.segFirst
  let hi := lo + 512 * h.segCount
  firstSome (rs.map fun r =>
    if r.2.2.1 + r.2.2.2.1 > h.entryCount then some (r.2.2.2.2 + 8)
    else
      let es := readEntries m a h r.2.2.1 r.2.2.2.1
      firstSome ((List.range es.length).map fun i =>
        let e := nth es i (0, 0, 0)
        let bad := decide (e.1 ≥ h.n) || decide (e.1 < lo) || decide (e.1 ≥ hi) || decide (e.2.1 = 0)
        firstSome [failIf bad e.2.2, failIf (decide (i > 0) && decide ((nth es (i - 1) (0, 0, 0)).1 ≥ e.1)) 0]))

/-- The Groups check; a failure that lies between two fields, or in a count of R69 that no header field gives, has offset 0 (R693). -/
def chkGroups (h : ProbHdr) (held : List Nat) (gs : List (Nat × Nat × Nat × Nat)) : Option Nat :=
  firstSome ((List.range gs.length).map fun i =>
    let g := nth gs i (0, 0, 0, 0)
    let before := gs.take i
    let seg := g.1
    firstSome
      [failIf (decide (seg < h.segFirst) || decide (seg ≥ h.segFirst + h.segCount)) g.2.2.2,
       failIf (decide (g.2.1 < 2) || decide (g.2.1 > 512)) (g.2.2.2 + 4),
       failIf (decide (popcount 512 g.2.2.1 ≠ g.2.1)) 0,
       failIf (before.any fun b => decide (b.1 = seg) && decide (b.2.2.1 &&& g.2.2.1 ≠ 0)) 0,
       failIf (decide (nth held (seg - h.segFirst) 0 &&& g.2.2.1 ≠ 0)) 0,
       failIf (decide ((before.filter fun b => b.1 = seg).length ≥ 256)) 0])

/-- Row entries of each engine's home variables exceed R68: rows may share ranges of the entry section, so the rows' own counts
decide. -/
def chkPlacement (m : Sparse Byte) (a : Nat) (h : ProbHdr) (rs : List (Int × Nat × Nat × Nat × Nat)) : Option Nat :=
  if sumN (rs.map fun r => r.2.2.2.1) ≤ 2097152 then none
  else
    let engs := (rs.map fun r => (readEntries m a h r.2.2.1 r.2.2.2.1).map fun e =>
      let i := e.1 - 512 * h.segFirst
      homeEngine h.segCount h.engReq (i / 512) (i % 512)).flatten
    failIf ((List.range 32).any fun e => decide ((engs.filter fun x => x = e).length > 2097152)) 0x028

/-- Every check of R75 but the cross-device ones and the place of a spilled image, in table order; the location of the
first that fails, in the canonical image. -/
def loadCheck (m : Sparse Byte) (a eimg d dev : Nat) : Option Nat :=
  let h := readHdr m a
  match chkHeader m a h with
  | some l => some l
  | none =>
    match chkShape h eimg d dev with
    | some l => some l
    | none =>
      let ts := coupTriples m a h
      let rows := coupRows h ts
      let rs := readRows m a h
      firstSome [chkDiagonal h ts, chkSymmetry h rows ts, chkSums m a h rows, chkTargets rs, chkEntries m a h rs,
        chkGroups h (readHeld m a h) (readGroups m a h), chkPlacement m a h rs]

/-! ## Fields, energies and bounds -/

/-- The spin of a lane of a mask. -/
def spinOf (mask lane : Nat) : Int := if mask.testBit lane then 1 else -1

/-- The spin of global variable `j` in a state given as one mask per global segment. -/
def spinAt (st : List Nat) (j : Nat) : Int := spinOf (nth st (j / 512) 0) (j % 512)

/-- `Σ_j row_j s_j` over a sparse row. -/
def rowDot (row : List (Nat × Int)) (s : Nat → Int) : Int := sumI (row.map fun e => e.2 * s e.1)

/-- The residual of a row from its entries on this device: `w·s − t` (R41). -/
def residualOf (r : Row) (st : List Nat) : Int := rowDot r.entries (spinAt st) - r.t

/-- The entries of a variable: (row index, weight). -/
def varEntries (rows : List Row) (i : Nat) : List (Nat × Int) :=
  (List.range rows.length).filterMap fun k =>
    let w := rowAt ((rows[k]?).map (·.entries) |>.getD []) i
    if w = 0 then none else some (k, w)

/-- The penalty weight of a row as an integer. -/
def lamAt (lam : List Nat) (k : Nat) : Int := ((nth lam k 0 : Nat) : Int)

/-- The exact local field of owned variable `i` (R44), `lam` being the penalty weights and `res` the residuals. -/
def fieldOf (p : Prob) (lam : List Nat) (st : List Nat) (res : List Int) (i : Nat) : Int :=
  let gi := 512 * p.segFirst + i
  rowDot (nth p.coup i []) (spinAt st) + nth p.bias i 0
    - 2 * sumI ((varEntries p.rows gi).map fun e => lamAt lam e.1 * e.2 * (nth res e.1 0 - e.2 * spinAt st gi))

/-- The limits of a field word (R46). -/
def fieldMin : Int := -(2 ^ 63)

/-- The upper limit of a field word. -/
def fieldMax : Int := 2 ^ 63 - 1

/-- Whether a field value fits its word. -/
def fieldFits (v : Int) : Bool := decide (fieldMin ≤ v) && decide (v ≤ fieldMax)

/-- A field value held in its word (R52). -/
def fieldClamp (v : Int) : Int := clampI v fieldMin fieldMax

/-- The effective bias `b′` of owned variable `i` (R174). -/
def effBias (p : Prob) (lam : List Nat) (i : Nat) : Int :=
  nth p.bias i 0 + 2 * sumI ((varEntries p.rows (512 * p.segFirst + i)).map fun e =>
    lamAt lam e.1 * ((p.rows[e.1]?).map (·.t) |>.getD 0) * e.2)

/-- The device's part of K (R174): c₀ and Σ λ t² at position 0 only, Σ λ w² over its own variables. -/
def kPart (p : Prob) (lam : List Nat) : Int :=
  let own := sumI ((List.range p.rows.length).map fun k =>
    lamAt lam k * sumI (((p.rows[k]?).map (·.entries) |>.getD []).map fun e => e.2 * e.2))
  let zero := sumI ((List.range p.rows.length).map fun k =>
    lamAt lam k * let t := (p.rows[k]?).map (·.t) |>.getD 0; t * t)
  if p.segFirst = 0 then own + zero + p.c0 else own

/-- `Σ_i s_i (h_i + b′_i)` over the device's own variables (R174); `f` is the replica's fields per owned segment. -/
def fieldSum (p : Prob) (lam : List Nat) (st : List Nat) (f : List (List Int)) : Int :=
  sumI ((List.range (512 * p.segCount)).map fun i =>
    spinAt st (512 * p.segFirst + i) * (nth (nth f (i / 512) []) (i % 512) 0 + effBias p lam i))

/-- The energy of a state from R41 alone, over the rows and couplings of one device. -/
def energyOf (p : Prob) (lam : List Nat) (st : List Nat) : Int :=
  let lo := 512 * p.segFirst
  let pairs := sumI ((List.range (512 * p.segCount)).map fun i =>
    spinAt st (lo + i) * rowDot (nth p.coup i []) (spinAt st))
  let bias := sumI ((List.range (512 * p.segCount)).map fun i => nth p.bias i 0 * spinAt st (lo + i))
  let pen := sumI ((List.range p.rows.length).map fun k =>
    match p.rows[k]? with
    | some r => lamAt lam k * residualOf r st * residualOf r st
    | none => 0)
  p.c0 - pairs / 2 - bias + pen

/-- The bound B_i of R51, with `lmax` the largest weight each row can take. -/
def boundOf (p : Prob) (lmax : List Nat) (i : Nat) : Int :=
  let gi := 512 * p.segFirst + i
  sumI ((nth p.coup i []).map fun e => (e.2.natAbs : Int)) + (nth p.bias i 0).natAbs +
  sumI ((varEntries p.rows gi).map fun e =>
    match p.rows[e.1]? with
    | some r =>
      2 * lamAt lmax e.1 * (e.2.natAbs : Int) *
        (sumI ((r.entries.filter fun x => x.1 ≠ gi).map fun x => (x.2.natAbs : Int)) + (r.t.natAbs : Int))
    | none => 0)

/-- Whether some field can saturate (R51). -/
def saturationPossible (p : Prob) (lmax : List Nat) : Bool :=
  (List.range (512 * p.segCount)).any fun i => decide (boundOf p lmax i > fieldMax)

/-! ## Initial states -/

/-- The initial state drawn by the Lane generator for an owned segment (R74, R391). -/
def drawnState (k : LaneKey) (r seg : Nat) : Nat :=
  (List.range 16).foldl (fun acc l => acc + laneDraw k r seg 0 8448 l * 2 ^ (32 * l)) 0

/-- The bits of a mask set to a list of lanes. -/
def lanesMask (l : List Nat) : Nat := l.foldl (fun acc j => acc ||| 2 ^ j) 0

/-- A mask with the lanes of `l` cleared. -/
def clearLanes (m : Nat) (l : List Nat) : Nat := l.foldl (fun acc j => if acc.testBit j then acc - 2 ^ j else acc) m

/-- Normalises one group of a segment's mask, and whether it changed (R57). -/
def normGroup (m : Nat) (lanes : List Nat) : Nat × Bool :=
  let on := lanes.filter fun j => m.testBit j
  if on.length = 1 then (m, false)
  else
    let win := match on with
      | j :: _ => j
      | [] => lanes.headD 0
    (clearLanes m lanes ||| 2 ^ win, true)

/-- Holds the held lanes at +1 and normalises the groups of one owned segment (R57, R58); the count of groups changed. -/
def normSegment (p : Prob) (g m : Nat) : Nat × Nat :=
  (p.groups.filter fun x => x.seg = g).foldl (fun acc x => let r := normGroup acc.1 x.lanes; (r.1, acc.2 + b2n r.2))
    (m ||| nth p.held g 0, 0)

/-- The problem of a checked image; its bounds take the rows' own weights, or `ceil` when weights adapt (R51). -/
def readProb (m : Sparse Byte) (a : Nat) (ceil : Option Nat) : Prob :=
  let h := readHdr m a
  let rs := readRows m a h
  let rows := rs.map fun r => Row.mk r.1 r.2.1 ((readEntries m a h r.2.2.1 r.2.2.2.1).map fun e => (e.1, e.2.1))
  let len := imageLen h
  let p : Prob :=
    { width := h.width, n := h.n, segFirst := h.segFirst, segCount := h.segCount, devCount := h.devCount,
      engReq := h.engReq, replicas := h.replicas, c0 := h.c0, coup := coupRows h (coupTriples m a h),
      bias := readBias m a h, held := readHeld m a h,
      groups := (readGroups m a h).map fun g => Group.mk (g.1 - h.segFirst) (maskLanes g.2.2.1),
      rows := rows, initial := if nth h.offs 7 0 = 0 then [] else readInitial m a h, satPossible := false,
      spilled := spills h, imageAddr := a, imageLen := len, digest := treeDigest (spBytes m a len) }
  let lmax := rows.map fun r => match ceil with | some c => c | none => r.lam
  { p with satPossible := saturationPossible p lmax }

end Sys2Proof.Machine
end

