-- ==== Sys2Proof/Machine/Params.lean ====
section
/-!
DEFINITION. The anneal parameter set (R84, R123, R155, R194, R319), its range checks, the weight table (R129, R130) and
the inverse-temperature words (R126, R198, R199).
-/
namespace Sys2Proof.Machine

/-- The relaxation parameter block (R84). -/
structure RelaxP where
  t : Nat
  gate : Nat
  tileWidth : Nat
  shift : Nat
  dt : Nat
  p0 : Nat
  kappa : Nat
  kshift : Nat
  x0amp : Nat
  sigma : Nat
  pump : List Nat
  deriving DecidableEq, Repr

/-- The chooser parameter block (R123). -/
structure ChooseP where
  t : Nat
  draw : Nat
  swaps : Nat
  deriving DecidableEq, Repr

/-- The rotation parameter block (R155). -/
structure RotP where
  test : Nat
  veto : Nat
  pwEnable : Nat
  pwPeriod : Nat
  pwQuorum : Nat
  pwCeil : Nat
  vetoThresh : Int
  deriving DecidableEq, Repr

/-- The Ratline parameter block (R194). -/
structure RatP where
  ladderMode : Nat
  quench : Nat
  spaceEnable : Nat
  smooth : Nat
  epoch : Nat
  target : Nat
  eta : Nat
  stepMax : Nat
  spaceStart : Nat
  rx : Nat
  rbLo : Nat
  rbHi : Nat
  stopFlags : Nat
  stallSweeps : Nat
  eTarget : Int
  curve : List Nat
  deriving DecidableEq, Repr

/-- An anneal parameter set (R319). -/
structure Params where
  relax : RelaxP
  choose : ChooseP
  rot : RotP
  rat : RatP
  ladder : List Nat
  deriving DecidableEq, Repr

/-- The u16 values at `o`. -/
def u16s (b : List Byte) (o n : Nat) : List Nat := (List.range n).map fun i => leAt b (o + 2 * i) 2

/-- The parameter set in a byte string; its length gives the ladder table's. -/
def readParams (b : List Byte) : Params :=
  { relax :=
      { t := leAt b 0 1, gate := leAt b 1 1, tileWidth := leAt b 2 1, shift := leAt b 3 1, dt := leAt b 4 2,
        p0 := leAt b 6 2, kappa := leAt b 8 2, kshift := leAt b 0xA 1, x0amp := leAt b 0xB 1, sigma := leAt b 0xC 2,
        pump := u16s b 0x10 16 },
    choose := { t := leAt b 0x40 2, draw := leAt b 0x42 1, swaps := leAt b 0x43 1 },
    rot :=
      { test := leAt b 0x50 1, veto := leAt b 0x51 1, pwEnable := leAt b 0x52 1, pwPeriod := leAt b 0x54 2,
        pwQuorum := leAt b 0x56 2, pwCeil := leAt b 0x58 2, vetoThresh := signed 64 (leAt b 0x60 8) },
    rat :=
      { ladderMode := leAt b 0x70 1, quench := leAt b 0x71 1, spaceEnable := leAt b 0x72 1, smooth := leAt b 0x73 1,
        epoch := leAt b 0x74 2, target := leAt b 0x76 2, eta := leAt b 0x78 2, stepMax := leAt b 0x7A 2,
        spaceStart := leAt b 0x7C 2, rx := leAt b 0x7E 1, rbLo := leAt b 0x80 4, rbHi := leAt b 0x84 4,
        stopFlags := leAt b 0x88 1, stallSweeps := leAt b 0x8C 4, eTarget := signed 128 (leAt b 0x90 16),
        curve := u16s b 0xB0 64 },
    ladder := (List.range ((b.length - 0x130) / 4)).map fun i => leAt b (0x130 + 4 * i) 4 }

/-- `loc` when `v` lies outside `lo … hi`. -/
def rangeChk (v lo hi loc : Nat) : Option Nat := failIf (decide (v < lo) || decide (v > hi)) loc

/-- `loc + i` for the first nonzero byte of the reserved bytes at `loc`. -/
def reservedChk (b : List Byte) (loc n : Nat) : Option Nat :=
  firstSome ((List.range n).map fun i => failIf (decide (leAt b (loc + i) 1 ≠ 0)) (loc + i))

/-- The field checks of R85, R124, R156 and R196 that depend on the set alone: the offset in the set of the first that
fails. -/
def paramCheck (b : List Byte) : Option Nat :=
  let p := readParams b
  firstSome
    [rangeChk p.relax.gate 0 1 1, rangeChk p.relax.tileWidth 0 1 2,
     failIf (decide (p.relax.shift > 48) && decide (p.relax.shift ≠ 0xFF)) 3,
     rangeChk p.relax.dt 1 65535 4, rangeChk p.relax.p0 1 65535 6, rangeChk p.relax.kshift 8 47 0xA,
     rangeChk p.relax.x0amp 0 127 0xB, reservedChk b 0xE 2, reservedChk b 0x30 16,
     rangeChk p.choose.t 0 4096 0x40, failIf (decide (p.choose.t = 0) && decide (p.relax.t = 0)) 0x40,
     rangeChk p.choose.draw 0 1 0x42, rangeChk p.choose.swaps 0 1 0x43, reservedChk b 0x44 12,
     rangeChk p.rot.test 0 1 0x50, rangeChk p.rot.veto 0 1 0x51, rangeChk p.rot.pwEnable 0 1 0x52, reservedChk b 0x53 1,
     rangeChk p.rot.pwPeriod 1 65535 0x54, rangeChk p.rot.pwQuorum 1 512 0x56, rangeChk p.rot.pwCeil 1 65535 0x58,
     reservedChk b 0x5A 6, failIf (decide (p.rot.vetoThresh < 0)) 0x60, reservedChk b 0x68 8,
     rangeChk p.rat.ladderMode 0 1 0x70, rangeChk p.rat.quench 0 1 0x71, rangeChk p.rat.spaceEnable 0 1 0x72,
     rangeChk p.rat.smooth 0 8 0x73, rangeChk p.rat.epoch 1 65535 0x74, rangeChk p.rat.target 1 65535 0x76,
     rangeChk p.rat.stepMax 0 16384 0x7A, rangeChk p.rat.rx 21 115 0x7E, reservedChk b 0x7F 1,
     rangeChk p.rat.stopFlags 0 3 0x88, reservedChk b 0x89 3, rangeChk p.rat.stallSweeps 1 (2 ^ 32 - 1) 0x8C,
     reservedChk b 0xA0 16]

/-- The base codes of a run of `k` rungs (R195). -/
def baseCodes (p : Params) (k : Nat) : List Nat :=
  if p.rat.ladderMode = 1 then
    (List.range k).map fun i => p.rat.rbLo + ((p.rat.rbHi - p.rat.rbLo) * i + (k - 1) / 2) / (k - 1)
  else p.ladder.take k

/-- The first rung whose code is not above its predecessor's. -/
def notAscending : List Nat → Nat → Option Nat
  | x :: y :: l, i => if x < y then notAscending (y :: l) (i + 1) else some (i + 1)
  | _, _ => none

/-- The checks of R156 and R196 that the image decides: VETO where every run of it is on a single device or in Free mode, and a
given ladder that does not ascend. -/
def paramImageCheck (b : List Byte) (noVeto : Bool) : Option Nat :=
  let p := readParams b
  firstSome
    [failIf (decide (p.rot.veto = 1) && noVeto) 0x51,
     if p.rat.ladderMode = 0 then (notAscending p.ladder 0).map fun i => 0x130 + 4 * i else none]

/-- The checks of a set that need the loaded problem: R156, R196 and the length of R319. `len` is the set's length, `k`
the rungs, `r` the replicas, `free` Free mode; the offset in the set of the first that fails. -/
def paramLoadCheck (p : Params) (len k r : Nat) (single free : Bool) (lam : List Nat) : Option Nat :=
  firstSome
    [failIf (decide (p.rat.ladderMode = 0) && decide (len ≠ 0x130 + 4 * k)) 0,
     failIf (decide (p.rot.veto = 1) && (single || free)) 0x51,
     failIf (decide (p.rot.pwQuorum > r)) 0x56,
     failIf (decide (p.rot.pwEnable = 1) && lam.any fun l => decide (l > p.rot.pwCeil)) 0x58,
     failIf (decide (p.rat.ladderMode = 1) && decide (p.rat.rbHi < p.rat.rbLo + k - 1)) 0x84,
     (if p.rat.ladderMode = 0 then (notAscending (p.ladder.take k) 0).map fun i => 0x130 + 4 * i
      else if p.rat.rbHi < p.rat.rbLo + k - 1 then none else (notAscending (baseCodes p k) 0).map fun _ => 0x84),
     failIf (decide (p.rat.quench = 1) && decide (k < 3)) 0x71]

/-! ## Weights and inverse temperatures -/

/-- The fractional bits of the exponential of R130. -/
def wP : Nat := 160

/-- `2^wP × e^(T/4096)` by its series. -/
def expSmall (T : Nat) : Nat :=
  ((List.range 45).foldl (fun (st : Nat × Nat) i => (st.1 + st.2, st.2 * T / (4096 * (i + 1)))) (0, 2 ^ wP)).1

/-- The square of a fixed-point number. -/
def sqFix (v : Nat) : Nat := v * v / 2 ^ wP

/-- WTABLE: 65,536 × e^(−T/256) rounded to the nearest integer (R130). -/
def wtable (T : Nat) : Nat :=
  let e := sqFix (sqFix (sqFix (sqFix (expSmall T))))
  (2 * 65536 * 2 ^ wP + e) / (2 * e)

/-- The weight of a candidate with cost `de` under word `beta`, INF clear (R129). -/
def weight (de : Int) (beta : Nat) : Nat :=
  if de ≤ 0 then 65536
  else
    let z := ((beta % 65536 : Nat) : Int) * de
    let be := beta / 65536 % 128
    let t := if be ≥ 8 then rshiftRne z (be - 8) else z * 2 ^ (8 - be)
    if t > 3016 then 0 else wtable t.toNat

/-- Whether a word has INF set (R126). -/
def betaInf (beta : Nat) : Bool := beta.testBit 31

/-- The falling curve at sweep `s` under budget `b` (R198). -/
def curveAt (c : List Nat) (b s : Nat) : Nat :=
  if b = 1 then nth c 0 0
  else
    let q := s * 16128 / (b - 1)
    let k := q / 256
    let f := q % 256
    if k ≥ 63 then nth c 63 0
    else
      let lo : Int := ((nth c k 0 : Nat) : Int)
      let hi : Int := ((nth c (k + 1) 0 : Nat) : Int)
      (lo + (hi - lo) * f / 256).toNat

/-- `to_word` of R199. -/
def toWord (p e : Nat) : Nat :=
  if p = 0 then 0
  else
    let sh := bitLength p - 16
    let m := (rshiftRne p sh).toNat
    if m = 65536 then (e - (sh + 1)) * 65536 + 32768 else (e - sh) * 65536 + m

/-- The inverse-temperature word of rung `k` in sweep `s` (R199). -/
def betaWord (rp : RatP) (rb : List Nat) (b k s : Nat) : Nat :=
  if rp.quench = 1 ∧ k + 1 = rb.length then 0x80000000
  else toWord (nth rb k 0 * curveAt rp.curve b s) (rp.rx + 12)

/-- The pump value at step `t` (R98). -/
def pumpAt (p : RelaxP) (t : Nat) : Nat :=
  if p.t = 1 then nth p.pump 0 0
  else
    let q := t * 3840 / (p.t - 1)
    let k := q / 256
    let f := q % 256
    if k ≥ 15 then nth p.pump 15 0
    else
      let lo : Int := ((nth p.pump k 0 : Nat) : Int)
      let hi : Int := ((nth p.pump (k + 1) 0 : Nat) : Int)
      (lo + (hi - lo) * f / 256).toNat

end Sys2Proof.Machine
end

