-- ==== Sys2Proof/Machine/Anneal.lean ====
section
/-!
DEFINITION. The run state of an anneal, and its pure arithmetic: the effective block (R87), relaxation (R80 to R106), the
flip chooser (R115 to R144), Roll Call (R159 to R169), propagation (R170), penalty weights (R180, R181), and the Ratline
(R191 to R214).
-/
namespace Sys2Proof.Machine

/-- One replica's part of a visit: the working state, the working fields of the 512 lanes, the visit energy change. -/
structure VRep where
  mask : Nat
  h : List Int
  de : Int
  localMin : Bool
  deriving DecidableEq, Repr

/-- A visit: the owned segment and its replicas, in replica order. -/
structure Visit where
  seg : Nat
  reps : List VRep
  deriving DecidableEq, Repr

/-- The deltas of one proposal (R159, R160): the global segment; per replica the lanes that became +1 and −1; the rows with
entries in the segment and per replica their Δr; and the visit energy changes. -/
structure Delta where
  seg : Nat
  lanes : List (Nat × Nat)
  rows : List (Nat × List Int)
  de : List Int
  deriving DecidableEq, Repr

/-- An accepted set (R175): the sender's position, its phase, its accepted deltas (a replica that rejected a proposal has
empty lanes and zero rows), per replica ΔL, and whether the phase was marked under R52. -/
structure AccSet where
  pos : Nat
  phase : Nat
  deltas : List Delta
  dl : List Int
  sat : Bool
  deriving DecidableEq, Repr

/-- A best-state record (R209): energy, state of the owned segments, completed sweeps. -/
structure BestRec where
  energy : Int
  state : List Nat
  sweeps : Nat
  deriving DecidableEq, Repr

/-- A top-eight entry (R211). -/
structure TopEntry where
  energy : Int
  gri : Nat
  sweeps : Nat
  state : List Nat
  deriving DecidableEq, Repr

/-- A checkpoint (R360, R223): also the offers that wait for an epoch's end (R220) and the tiles whose formation has counted
(R114). -/
structure Ckpt where
  num : Nat
  n : Nat
  sweep : Nat
  spins : List (List Nat)
  resid : List (List Int)
  energy : List Int
  lam : List Nat
  rungs : List Nat
  codes : List Nat
  est : List Int
  rounds : Nat
  best : List BestRec
  top : List TopEntry
  stall : Nat
  trips : List Nat
  stats : List Nat
  exs : List Int
  offers : List TopEntry
  formed : List Nat
  deriving DecidableEq, Repr

/-- A run as a phase found it: what a discarded phase returns to (R52, R181), and what a redone phase counts from (R110, R537). -/
structure RunPoint where
  fields : List (List (List Int))
  spins : List (List Nat)
  resid : List (List Int)
  energy : List Int
  stats : List Nat
  formed : List Nat
  deriving DecidableEq, Repr

/-- A tile kept in a Slate (R91): its key (2g relaxation, 2g + 1 chooser, of owned segment g), the physical tile that formed it,
its place in the upper half and its bytes. -/
structure Kept where
  key : Nat
  tile : Nat
  off : Nat
  len : Nat
  deriving DecidableEq, Repr

/-- Where a run stands inside a phase: the next anneal instruction of the body. -/
inductive PhaseAt where
  | gather | relax | choose | rollcall | fieldup | sweepend | over
  deriving DecidableEq, Repr

/-- The stop reasons of R397. -/
inductive Stop where
  | budget | target | stall | saturated | deadline
  deriving DecidableEq, Repr

/-- The code of a stop reason (R397). -/
def stopCode : Stop → Nat
  | .budget => 1 | .target => 2 | .stall => 3 | .saturated => 4 | .deadline => 5

/-- The run state of an anneal. `spins` holds, per replica, one mask per global segment; `fields` one list of 512 field
words per owned segment; `resid` one residual per row; `rungs` the global replica index on each rung. `marked` is the mark
of R52; `start` the run as the phase found it; `formed` the tiles whose formation has counted, `kept` those that stand in a Slate
(R91); `staged` the tiles of a spilled problem in the order of their staging in the phase (R154); `redo` the engines whose visits are
redone after a substitution (R185); `applied` the remote sets of Free mode that the epoch has applied (R178); `topKeys` the top-eight list of the last sweep end
(R214); `ckptIdx` the last checkpoint point taken; `gathered` what a farmed barrier has gathered while its stop tests are still
being reduced (R220). -/
structure Anneal where
  apb : Nat
  ps : Params
  prob : Prob
  key : LaneKey
  budget : Nat
  limit : Nat
  kRungs : Nat
  gBase : Nat
  spins : List (List Nat)
  fields : List (List (List Int))
  resid : List (List Int)
  energy : List Int
  lam : List Nat
  n : Nat
  sweep : Nat
  hIdx : Nat
  pos : PhaseAt
  visits : List Visit
  deltas : List Delta
  accepted : List (List Bool)
  dl : List Int
  marked : Bool
  rungs : List Nat
  codes : List Nat
  est : List Int
  rounds : Nat
  best : List BestRec
  top : List TopEntry
  stall : Nat
  trips : List Nat
  stats : List Nat
  snap : List Nat
  exSum : List Int
  exMax : List Int
  snapSum : List Int
  snapMax : List Int
  stop : Option Stop
  satPhase : Nat
  start : RunPoint
  formed : List Nat
  kept : List Kept
  staged : List (Nat × Nat)
  redo : List Nat
  topKeys : List (Nat × Nat)
  gathered : List Int
  ckptIdx : Nat
  ckptEvery : Nat
  ckpts : List Ckpt
  offers : List TopEntry
  loading : Bool
  part : Nat
  pwDue : Bool
  applied : List AccSet
  resultDone : Bool
  resultAddr : Nat
  deriving DecidableEq, Repr

/-! ## The statistics, by the places of R398 -/

def stRelaxSteps : Nat := 0
def stRelaxWall : Nat := 1
def stRelaxY : Nat := 2
def stRelaxA : Nat := 3
def stRelaxH : Nat := 4
def stRelaxM : Nat := 5
def stRelaxKept : Nat := 6
def stRelaxReverted : Nat := 7
def stRelaxFlips : Nat := 8
def stRelaxTies : Nat := 9
def stRelaxShiftMax : Nat := 10
def stChooseSteps : Nat := 11
def stChooseFlips : Nat := 12
def stChooseSwaps : Nat := 13
def stChooseNull : Nat := 14
def stChooseUphill : Nat := 15
def stChooseZeroSpan : Nat := 16
def stChooseLocalMin : Nat := 17
def stChooseLimbsMax : Nat := 18
def stProposals : Nat := 19
def stAccepted : Nat := 20
def stRejected : Nat := 21
def stEmpty : Nat := 22
def stDraws : Nat := 23
def stPairRecomputes : Nat := 24
def stXdevPositive : Nat := 25
def stXdevVetoes : Nat := 26
def stFreeCorrections : Nat := 27
def stPwDoublings : Nat := 28
def stPwAtCeil : Nat := 29
def stRounds : Nat := 30
def stOffers : Nat := 31
def stSwaps : Nat := 32
def stRatDraws : Nat := 33
def stRespacings : Nat := 34
def stStepClamps : Nat := 35
def stRoundTrips : Nat := 36
def stBest : Nat := 37
def stTop8 : Nat := 38
def stNormalised : Nat := 39
def stSatPossible : Nat := 40
def stXdevLate : Nat := 41

/-- The number of u64 counters of the statistics section. -/
def stCount : Nat := 42

/-- A 64-bit saturating count (R648). -/
def satAdd64 (a n : Nat) : Nat := if a + n > 2 ^ 64 - 1 then 2 ^ 64 - 1 else a + n

/-- Counts `n` events of counter `i`. -/
def statAdd (st : List Nat) (i n : Nat) : List Nat := updAt st i fun v => satAdd64 v n

/-- Holds the largest value of counter `i`. -/
def statMax (st : List Nat) (i n : Nat) : List Nat := updAt st i fun v => max v n

/-- Adds a list of (counter, events). -/
def statAdds (st : List Nat) (l : List (Nat × Nat)) : List Nat := l.foldl (fun s e => statAdd s e.1 e.2) st

/-! ## The effective block -/

/-- A 512 × 512 sparse matrix of a segment: one row of (lane, value) per lane. -/
abbrev Mat := List (List (Nat × Int))

/-- The value an unlisted matrix entry reads as. -/
def zeroInt (_ : Nat) : Int := 0

/-- `v` added at column `j` of a sparse row. -/
def rowAdd (r : List (Nat × Int)) (j : Nat) (v : Int) : List (Nat × Int) := spSet zeroInt j (spGet zeroInt j r + v) r

/-- The weights of a row inside an owned segment, by lane. -/
def segWeights (p : Prob) (g : Nat) (r : Row) : List (Nat × Int) :=
  let lo := 512 * (p.segFirst + g)
  (r.entries.filter fun e => decide (lo ≤ e.1) && decide (e.1 < lo + 512)).map fun e => (e.1 - lo, e.2)

/-- The exact effective block M of owned segment `g` (R87). -/
def effBlock (p : Prob) (lam : List Nat) (g : Nat) : Mat :=
  let held := nth p.held g 0
  let lo := 512 * (p.segFirst + g)
  let base : Mat := (List.range 512).map fun i =>
    if held.testBit i then []
    else ((nth p.coup (512 * g + i) []).filter fun e =>
      decide (lo ≤ e.1) && decide (e.1 < lo + 512) && decide (e.1 ≠ lo + i) && !held.testBit (e.1 - lo)).map fun e =>
        (e.1 - lo, e.2)
  let free (ws : List (Nat × Int)) := ws.filter fun e => !held.testBit e.1
  (List.range p.rows.length).foldl (fun (m : Mat) k =>
    let l := lamAt lam k
    match p.rows[k]? with
    | none => m
    | some r =>
      if l = 0 then m
      else
        let ws := free (segWeights p g r)
        ws.foldl (fun m wi => updAt m wi.1 fun row =>
          ws.foldl (fun row wj => if wi.1 = wj.1 then row else rowAdd row wj.1 (-2 * l * wi.2 * wj.2)) row) m) base

/-- `(M v)_i` for a vector given by lane. -/
def matVec (m : Mat) (v : Nat → Int) (i : Nat) : Int := rowDot (nth m i []) v

/-- Every entry satisfies `f`. -/
def matAll (m : Mat) (f : Int → Bool) : Bool := m.all fun r => r.all fun e => f e.2

/-- The relaxation shift of R88: the smallest `e ≤ 48` that fits every entry; `k` counts down from 48. -/
def autoShift (m : Mat) (lim : Int) : Nat → Nat → Nat
  | 0, e => e
  | k + 1, e =>
    if matAll m fun v => decide (-lim ≤ rshiftRne v e) && decide (rshiftRne v e ≤ lim) then e
    else autoShift m lim k (e + 1)

/-- The shift, the relaxation tile and its clamped entries (R88, R89). -/
def relaxTile (p : RelaxP) (m : Mat) : Nat × Mat × Nat :=
  let lim : Int := if p.tileWidth = 0 then 127 else 32767
  if p.shift = 0xFF then
    let e := autoShift m lim 48 0
    (e, m.map fun r => r.map fun x => (x.1, rshiftRne x.2 e), 0)
  else
    let e := p.shift
    (e, m.map fun r => r.map fun x => (x.1, clampI (rshiftRne x.2 e) (-lim) lim),
      sumN (m.map fun r => (r.filter fun x => decide (rshiftRne x.2 e > lim) || decide (rshiftRne x.2 e < -lim)).length))

/-! ## Relaxation -/

/-- The noise of lane `j` at step `t` (R99). -/
def noiseXi (k : LaneKey) (r seg n t j : Nat) : Int :=
  let w := laneDraw k r seg n t j
  ((w % 256 + w / 256 % 256 + w / 65536 % 256 + w / 16777216 % 256 : Nat) : Int) - 510

/-- The counts of one relaxation: walls, Y clamps, A clamps, passes whose check failed. -/
abbrev RelaxCnt := Nat × Nat × Nat × Nat

/-- A stationary tile of a visit with its checksum column, the sum of each of its rows (R90, R140, R234). -/
structure VTile where
  rows : Mat
  chk : List Int
  deriving DecidableEq, Repr

/-- Forms a tile with its checksum column. -/
def formTile (m : Mat) : VTile := ⟨m, m.map fun r => sumI (r.map (·.2))⟩

/-- The check of an integer pass (R261): the sum of the products equals the checksum column's output. -/
def passOk (t : VTile) (xs : List (Nat × Int)) (ps : List Int) : Bool :=
  decide (sumI ps = sumI (xs.map fun e => nth t.chk e.1 0 * e.2))

/-- Phase 2 of a step for one lane: the new Y, and its clamps (R96, R97). -/
def relaxY (p : RelaxP) (pt : Nat) (pi hi x y xi : Int) : Int × Nat × Nat :=
  let d : Int := (p.p0 : Int) - pt
  let f := pi + hi * 128
  let a1 := -(d * x) * 32
  let kf := (p.kappa : Int) * f
  let a2 := if p.kshift ≤ 17 then kf * 2 ^ (17 - p.kshift) else rshiftRne kf (p.kshift - 17)
  let a3 := (p.sigma : Int) * xi * 32
  let a0 := a1 + a2 + a3
  let a := clampI a0 (-(2 ^ 47 - 1)) (2 ^ 47 - 1)
  let y0 := y + rshiftRne ((p.dt : Int) * a) 28
  (clampI y0 (-32767) 32767, b2n (decide (y0 > 32767) || decide (y0 < -32767)), b2n (decide (a ≠ a0)))

/-- Phase 3 of a step for one lane: the new X and Y, and a wall event (R96). -/
def relaxX (p : RelaxP) (x y : Int) : Int × Int × Nat :=
  let v := x + rshiftRne ((p.dt : Int) * p.p0 * y) 33
  if v > 127 then (127, 0, 1) else if v < -127 then (-127, 0, 1) else (v, y, 0)

/-- The X of a lane; 0 for a lane that is not free. -/
def xLookup (l : List (Nat × Int × Int)) (j : Nat) : Int :=
  match l with
  | [] => 0
  | (i, x, _) :: l => if i = j then x else xLookup l j

/-- One step for every free lane of a replica: `st` holds (lane, X, Y) (R81, R96). -/
def relaxStep (p : RelaxP) (mt : VTile) (hv : Nat → Int) (k : LaneKey) (r seg n t : Nat)
    (st : List (Nat × Int × Int) × RelaxCnt) : List (Nat × Int × Int) × RelaxCnt :=
  let pt := pumpAt p t
  let ps := (List.range 512).map (matVec mt.rows (xLookup st.1))
  let ok := passOk mt (st.1.map fun e => (e.1, e.2.1)) ps
  let ys := st.1.map fun e =>
    let xi := if p.sigma = 0 then 0 else noiseXi k r seg n t e.1
    (e.1, e.2.1, relaxY p pt (nth ps e.1 0) (hv e.1) e.2.1 e.2.2 xi)
  let xs := ys.map fun e => (e.1, relaxX p e.2.1 e.2.2.1)
  (xs.map fun e => (e.1, e.2.1, e.2.2.1),
    (st.2.1 + sumN (xs.map fun e => e.2.2.2), st.2.2.1 + sumN (ys.map fun e => e.2.2.2.1),
     st.2.2.2.1 + sumN (ys.map fun e => e.2.2.2.2), st.2.2.2.2 + b2n (!ok)))

/-- The winner of a group under R102 from X by lane, and whether it was a tie. -/
def groupWinner (x : Nat → Int) (lanes : List Nat) : Nat × Bool :=
  let best := lanes.foldl (fun b j => if x j > x b then j else b) (lanes.headD 0)
  (best, decide ((lanes.filter fun j => x j = x best).length > 1))

/-- The groups of an owned segment. -/
def segGroups (p : Prob) (g : Nat) : List (List Nat) := (p.groups.filter fun x => x.seg = g).map (·.lanes)

/-- `E_a(u)` of R104 over the free lanes. -/
def visitEnergy (m : Mat) (hext : Nat → Int) (free : List Nat) (mask : Nat) : Int :=
  let u := spinOf mask
  0 - sumI (free.map fun i => u i * matVec m u i) / 2 - sumI (free.map fun i => u i * hext i)

/-- The result of relaxing one replica: its part of the visit, the counter events, a saturated working field, and the passes whose
check failed. -/
structure RelaxOut where
  rep : VRep
  events : List (Nat × Nat)
  sat : Bool
  fails : Nat
  deriving DecidableEq, Repr

/-- Relaxation of one replica of owned segment `g` (R92 to R106). -/
def relaxRep (p : Prob) (rp : RelaxP) (m : Mat) (mt : VTile) (e : Nat) (k : LaneKey) (g n r mask : Nat) (h : List Int) : RelaxOut :=
  let held := nth p.held g 0
  let free := (List.range 512).filter fun i => !held.testBit i
  if free.isEmpty then ⟨⟨mask, h, 0, false⟩, [], false, 0⟩
  else
    let hextL := (List.range 512).map fun i => if held.testBit i then 0 else nth h i 0 - matVec m (spinOf mask) i
    let hext (i : Nat) := nth hextL i 0
    let lim : Int := 2 ^ 23 - 1
    let hl := (List.range 512).map fun i => clampI (rshiftRne (hext i) e) (-lim) lim
    let hclamps := (free.filter fun i => decide (rshiftRne (hext i) e > lim) || decide (rshiftRne (hext i) e < -lim)).length
    let start : List (Nat × Int × Int) := free.map fun i => (i, (rp.x0amp : Int) * spinOf mask i, 0)
    let fin : List (Nat × Int × Int) × RelaxCnt := (List.range rp.t).foldl
      (fun st t => relaxStep rp mt (fun i => nth hl i 0) k r (p.segFirst + g) n t st) (start, (0, 0, 0, 0))
    let xOf := xLookup fin.1
    let gs := segGroups p g
    let inGroup (i : Nat) : Bool := gs.any fun l => l.elem i
    let signs := free.filter fun i => !inGroup i && decide ((0 : Int) ≤ xOf i)
    let wins := gs.map (groupWinner xOf)
    let mask' := lanesMask (signs ++ wins.map (·.1)) ||| held
    let ties := (wins.filter fun w => w.2).length
    let de := visitEnergy m hext free mask' - visitEnergy m hext free mask
    let keep := decide (rp.gate = 0) || decide (de ≤ 0)
    let ev := [(stRelaxSteps, rp.t), (stRelaxWall, fin.2.1), (stRelaxY, fin.2.2.1), (stRelaxA, fin.2.2.2.1),
      (stRelaxH, hclamps), (stRelaxTies, ties)]
    if keep then
      let h' := (List.range 512).map fun i => if held.testBit i then nth h i 0 else hext i + matVec m (spinOf mask') i
      ⟨⟨mask', h'.map fieldClamp, de, false⟩, ev ++ [(stRelaxKept, 1), (stRelaxFlips, popcount 512 (mask ^^^ mask'))],
        h'.any fun v => !fieldFits v, fin.2.2.2.2⟩
    else ⟨⟨mask, h, 0, false⟩, ev ++ [(stRelaxReverted, 1)], false, fin.2.2.2.2⟩

/-! ## The flip chooser -/

/-- A move: the lanes it changes, first a group's winner for a swap, and its exact cost (R120, R121). -/
structure Cand where
  swap : Bool
  u : Nat
  v : Nat
  cost : Int
  deriving DecidableEq, Repr

/-- The candidates of a replica in canonical order (R115 to R117). -/
def candidates (p : Prob) (swaps : Nat) (m : Mat) (g : Nat) (v : VRep) : List Cand :=
  let held := nth p.held g 0
  let gs := segGroups p g
  let flips := (List.range 512).filterMap fun i =>
    if held.testBit i || gs.any (fun l => l.elem i) then none
    else some (Cand.mk false i i (2 * spinOf v.mask i * nth v.h i 0))
  let sw := if swaps = 0 then [] else
    (gs.map fun l =>
      match l.find? fun j => v.mask.testBit j with
      | none => []
      | some u => (l.filter fun j => j ≠ u).map fun w =>
          Cand.mk true u w (2 * nth v.h u 0 - 2 * nth v.h w 0 + 4 * spGet zeroInt w (nth m u []))).flatten
  flips ++ sw

/-- The lowest candidate whose inclusive prefix sum lies above `u` (R134). -/
def pickPrefix (u : Nat) : Nat → List (Nat × Cand) → Option Cand
  | _, [] => none
  | acc, (w, c) :: l => if acc + w > u then some c else pickPrefix u (acc + w) l

/-- The most negative cost, the lowest position among equals; none when no cost is negative (R136). -/
def pickBest (cs : List Cand) : Option Cand :=
  match cs with
  | [] => none
  | c :: l =>
    let b := l.foldl (fun b x => if x.cost < b.cost then x else b) c
    if b.cost < 0 then some b else none

/-- The smallest `ℓ` in 1 to 4 whose limbs hold every entry; 0 where the INT8 tile holds them (R138). -/
def limbCount (m : Mat) : Nat :=
  let fits (l : Nat) := matAll m fun v => decide (-(2 ^ (15 * l) : Int) ≤ v) && decide (v ≤ (2 ^ (15 * l) : Int) - 1)
  if matAll m fun v => decide (-128 ≤ v) && decide (v ≤ 127) then 0
  else if fits 1 then 1 else if fits 2 then 2 else if fits 3 then 3 else 4

/-- The limbs of an entry, low ones first: `k` of 15 bits and the rest (R139). -/
def limbs : Nat → Int → List Int
  | 0, rem => [rem]
  | k + 1, rem => rem % 32768 :: limbs k (rem / 32768)

/-- The value that limbs stand for: `Σ_l L[l] << 15l`. -/
def limbValue : List Int → Int
  | [] => 0
  | x :: l => x + 32768 * limbValue l

/-- The chooser tile: M itself as INT8, or its limb tiles, each with its checksum column (R138 to R140). -/
def chooserTiles (m : Mat) : List VTile :=
  let l := limbCount m
  if l = 0 then [formTile m]
  else (List.range l).map fun i => formTile (m.map fun r => r.map fun e => (e.1, nth (limbs (l - 1) e.2) i 0))

/-- A sparse row, its columns rising, as the 512 entries it stands for. -/
def denseRow : Nat → Nat → List (Nat × Int) → List Int
  | 0, _, _ => []
  | n + 1, i, [] => 0 :: denseRow n (i + 1) []
  | n + 1, i, (k, v) :: r => if k = i then v :: denseRow n (i + 1) r else 0 :: denseRow n (i + 1) ((k, v) :: r)

/-- One pass of a symmetric tile over a move vector: the 512 products. -/
def passOf (t : VTile) (mv : List (Nat × Int)) : List Int :=
  mv.foldl (fun acc e => List.zipWith (fun a b => a + b * e.2) acc (denseRow 512 0 (nth t.rows e.1 []))) (List.replicate 512 0)

/-- The passes of a step over every tile, recombined by the vector unit (R141); and the passes whose check failed. -/
def recombine (ts : List VTile) (mv : List (Nat × Int)) : List Int × Nat :=
  ts.zipIdx.foldl (fun acc t =>
    let ps := passOf t.1 mv
    (List.zipWith (fun a b => a + b * 2 ^ (15 * t.2)) acc.1 ps, acc.2 + b2n (!passOk t.1 mv ps))) (List.replicate 512 0, 0)

/-- The move vector of a move: `−s` at each lane that it changes (R141, R142). -/
def moveVec (v : VRep) (c : Cand) : List (Nat × Int) :=
  if c.swap then [(c.u, -1), (c.v, 1)] else [(c.u, -spinOf v.mask c.u)]

/-- Applies a move to a replica (R141, R142, R143): the replica, a saturated field, and the passes whose check failed. -/
def applyMove (ts : List VTile) (v : VRep) (c : Cand) : VRep × Bool × Nat :=
  let q := recombine ts (moveVec v c)
  let h := List.zipWith (fun a b => a + 2 * b) v.h q.1
  let mask := if c.swap then v.mask ^^^ (2 ^ c.u + 2 ^ c.v) else v.mask ^^^ 2 ^ c.u
  ({ v with mask := mask, h := h.map fieldClamp, de := v.de + c.cost }, h.any fun x => !fieldFits x, q.2)

/-- What a chooser step or a whole chooser gives for a replica: its part of the visit, the counter events, a saturated field, and the
passes whose check failed. -/
abbrev ChooseOut := VRep × List (Nat × Nat) × Bool × Nat

/-- One chooser step of one replica (R119, R132 to R137). -/
def chooseStep (p : Prob) (cp : ChooseP) (m : Mat) (ts : List VTile) (k : LaneKey) (g n r t beta : Nat) (v : VRep) : ChooseOut :=
  if v.localMin then (v, [(stChooseSteps, 1), (stChooseNull, 1)], false, 0)
  else
    let cs := candidates p cp.swaps m g v
    if betaInf beta then
      match pickBest cs with
      | none => ({ v with localMin := true }, [(stChooseSteps, 1), (stChooseNull, 1), (stChooseLocalMin, 1)], false, 0)
      | some c =>
        let r := applyMove ts v c
        (r.1, [(stChooseSteps, 1), (if c.swap then stChooseSwaps else stChooseFlips, 1)], r.2)
    else
      let ws := cs.map fun c => (weight c.cost beta, c)
      let total := sumN (ws.map (·.1))
      let span := if cp.draw = 0 then cs.length * 65536 else total
      if span = 0 then
        (v, [(stChooseSteps, 1), (stChooseNull, 1)] ++ (if cs.isEmpty then [] else [(stChooseZeroSpan, 1)]), false, 0)
      else
        let w := laneDraw k r (p.segFirst + g) n (256 + t) 0
        match pickPrefix (w * span / 2 ^ 32) 0 ws with
        | none => (v, [(stChooseSteps, 1), (stChooseNull, 1)], false, 0)
        | some c =>
          let r := applyMove ts v c
          (r.1, [(stChooseSteps, 1), (if c.swap then stChooseSwaps else stChooseFlips, 1)] ++
            (if c.cost > 0 then [(stChooseUphill, 1)] else []), r.2)

/-- The whole chooser of one replica (R144). -/
def chooseRep (p : Prob) (cp : ChooseP) (m : Mat) (ts : List VTile) (k : LaneKey) (g n r beta : Nat) (v : VRep) : ChooseOut :=
  (List.range cp.t).foldl (fun st t =>
    let o := chooseStep p cp m ts k g n r t beta st.1
    (o.1, st.2.1 ++ o.2.1, st.2.2.1 || o.2.2.1, st.2.2.2 + o.2.2.2)) (v, [], false, 0)

/-! ## Proposals and Roll Call -/

/-- The Δs of a lane from the masks of lanes that became +1 and −1 (R159). -/
def deltaSpin (d : Nat × Nat) (j : Nat) : Int := if d.1.testBit j then 2 else if d.2.testBit j then -2 else 0

/-- The rows with entries in an owned segment (R160). -/
def segRows (p : Prob) (g : Nat) : List Nat :=
  (List.range p.rows.length).filter fun k => match p.rows[k]? with
    | some r => !(segWeights p g r).isEmpty
    | none => false

/-- The proposal of a visit as deltas from the phase-start spins (R159, R160). -/
def proposalOf (p : Prob) (spins : List (List Nat)) (v : Visit) : Delta :=
  let gs := p.segFirst + v.seg
  let lanes := (List.range v.reps.length).map fun r =>
    let old := nth (nth spins r []) gs 0
    let new := match v.reps[r]? with | some x => x.mask | none => old
    (new - (new &&& old), old - (new &&& old))
  { seg := gs, lanes := lanes,
    rows := (segRows p v.seg).map fun k => (k, lanes.map fun d => match p.rows[k]? with
      | some row => rowDot (segWeights p v.seg row) (deltaSpin d)
      | none => 0),
    de := v.reps.map (·.de) }

/-- The Δr of row `k` for replica `r` in a delta. -/
def deltaRow (d : Delta) (k r : Nat) : Int :=
  match d.rows.find? fun e => e.1 = k with | some e => nth e.2 r 0 | none => 0

/-- The cross term of proposals `a`, `b` for replica `r`, `a` owned by this device (R162). -/
def crossTerm (p : Prob) (lam : List Nat) (a b : Delta) (r : Nat) : Int :=
  let da := nth a.lanes r (0, 0)
  let db := nth b.lanes r (0, 0)
  let lo := 512 * b.seg
  let rowsA := (maskLanes (da.1 ||| da.2))
  let coup := sumI (rowsA.map fun i =>
    deltaSpin da i * rowDot ((nth p.coup (512 * (a.seg - p.segFirst) + i) []).filter fun e =>
      decide (lo ≤ e.1) && decide (e.1 < lo + 512)) (fun j => deltaSpin db (j - lo)))
  let rows := sumI (a.rows.map fun e => 2 * lamAt lam e.1 * nth e.2 r 0 * deltaRow b e.1 r)
  rows - coup

/-- The walk of one replica (R166): the mask of accepted proposals, ΔL, and the draws made. -/
def walkRep (p : Prob) (lam : List Nat) (test : Nat) (k : LaneKey) (n r beta : Nat) (ds : List Delta) :
    List Bool × Int × Nat :=
  let out := ds.foldl (fun (st : List Delta × List Bool × Int × Nat) a =>
    let x := sumI (st.1.map fun b => crossTerm p lam a b r)
    let draw := decide (test = 0) && decide (x > 0) && !betaInf beta
    let ok := if test = 1 ∨ x ≤ 0 then true
      else if betaInf beta then false
      else decide (laneDraw k r a.seg n 4352 0 * 65536 / 2 ^ 32 < weight x beta)
    (if ok then st.1 ++ [a] else st.1, st.2.1 ++ [ok], if ok then st.2.2.1 + nth a.de r 0 + x else st.2.2.1,
      st.2.2.2 + b2n draw)) ([], [], 0, 0)
  (out.2.1, out.2.2.1, out.2.2.2)

/-- A proposal's deltas with the replicas that rejected it emptied: `acc` holds, per replica, the masks of the walk. -/
def keepAccepted (acc : List (List Bool)) (i : Nat) (d : Delta) : Delta :=
  let ok (r : Nat) := nth (nth acc r []) i false
  { d with lanes := (List.range d.lanes.length).map fun r => if ok r then nth d.lanes r (0, 0) else (0, 0),
           rows := d.rows.map fun e => (e.1, (List.range e.2.length).map fun r => if ok r then nth e.2 r 0 else 0),
           de := (List.range d.de.length).map fun r => if ok r then nth d.de r 0 else 0 }

/-! ## Propagation and commit -/

/-- The increment of owned variable `i` for replica `r` from accepted deltas (R170). -/
def fieldIncr (p : Prob) (lam : List Nat) (ds : List Delta) (r i : Nat) : Int :=
  let gi := 512 * p.segFirst + i
  let coup := sumI (ds.map fun d =>
    let dl := nth d.lanes r (0, 0)
    if dl = (0, 0) then 0
    else rowDot ((nth p.coup i []).filter fun e => decide (512 * d.seg ≤ e.1) && decide (e.1 < 512 * d.seg + 512))
      (fun j => deltaSpin dl (j - 512 * d.seg)))
  let own := match ds.find? fun d => d.seg = gi / 512 with
    | some d => deltaSpin (nth d.lanes r (0, 0)) (gi % 512)
    | none => 0
  coup - 2 * sumI ((varEntries p.rows gi).map fun e =>
    lamAt lam e.1 * e.2 * (sumI (ds.map fun d => deltaRow d e.1 r) - e.2 * own))

/-- Every lane and residual of a delta taken back. -/
def undoDelta (d : Delta) : Delta :=
  { d with lanes := d.lanes.map fun l => (l.2, l.1), rows := d.rows.map fun e => (e.1, e.2.map fun v => -v) }

/-- The proposals of a phase that some replica accepted: those that are propagated and sent (R170, R175). -/
def acceptedOf (acc : List (List Bool)) (ds : List Delta) : List Delta :=
  (ds.zipIdx.filter fun d => acc.any fun l => nth l d.2 false).map (·.1)

/-- The deltas applied to a replica's spins (R172). -/
def applySpins (st : List Nat) (ds : List Delta) (r : Nat) : List Nat :=
  ds.foldl (fun st d => updAt st d.seg fun m =>
    let l := nth d.lanes r (0, 0)
    (m ||| l.1) - ((m ||| l.1) &&& l.2)) st

/-- The deltas applied to a replica's residuals. -/
def applyResid (res : List Int) (ds : List Delta) (r : Nat) : List Int :=
  (List.range res.length).map fun k => nth res k 0 + sumI (ds.map fun d => deltaRow d k r)

/-- The fields of a replica after the increments of accepted deltas, unclamped. -/
def addIncr (p : Prob) (lam : List Nat) (ds : List Delta) (r : Nat) (f : List (List Int)) : List (List Int) :=
  (List.range f.length).map fun g => (List.range 512).map fun j =>
    nth (nth f g []) j 0 + fieldIncr p lam ds r (512 * g + j)

/-- Every field word of a replica's fields fits. -/
def repFits (f : List (List Int)) : Bool := f.all fun b => b.all fieldFits

/-- Every field word of a run's fields fits. -/
def allFit (f : List (List (List Int))) : Bool := f.all repFits

/-! ## Penalty weights -/

/-- The new weights of R180 and the number of doublings. -/
def pwNew (rp : RotP) (lam : List Nat) (resid : List (List Int)) : List Nat × Nat :=
  let viol (k : Nat) := decide ((resid.filter fun r => decide (nth r k 0 ≠ 0)).length ≥ rp.pwQuorum)
  let l := (List.range lam.length).map fun k =>
    let v := nth lam k 0
    if viol k && decide (0 < v) && decide (v < rp.pwCeil) then min (2 * v) rp.pwCeil else v
  (l, ((List.range lam.length).filter fun k => decide (nth l k 0 ≠ nth lam k 0)).length)

/-- The energy a weight change adds for given residuals (R181). -/
def pwEnergy (lam lam' : List Nat) (res : List Int) : Int :=
  sumI ((List.range lam.length).map fun k => (lamAt lam' k - lamAt lam k) * nth res k 0 * nth res k 0)

/-- The field a weight change adds to owned variable `i` (R181). -/
def pwField (p : Prob) (lam lam' : List Nat) (st : List Nat) (res : List Int) (i : Nat) : Int :=
  let gi := 512 * p.segFirst + i
  (-2) * sumI ((varEntries p.rows gi).map fun e =>
    (lamAt lam' e.1 - lamAt lam e.1) * e.2 * (nth res e.1 0 - e.2 * spinAt st gi))

/-- A state of the owned segments as a state of every segment; lanes of other devices read −1 and carry no entries here. -/
def widen (p : Prob) (st : List Nat) : List Nat :=
  List.replicate p.segFirst 0 ++ st ++ List.replicate (p.n / 512 - p.segFirst - p.segCount) 0

/-- The partial `w·s` of every row from this device's entries. -/
def rowSums (p : Prob) (st : List Nat) : List Int := p.rows.map fun r => rowDot r.entries (spinAt st)

/-! ## The Ratline -/

/-- The order of the top-eight list (R211). -/
def topLt (a b : TopEntry) : Bool :=
  decide (a.energy < b.energy) ||
  (decide (a.energy = b.energy) && (decide (a.sweeps < b.sweeps) || (decide (a.sweeps = b.sweeps) && decide (a.gri < b.gri))))

/-- Offers a record to the list; true when it enters (R211). -/
def topOffer (l : List TopEntry) (e : TopEntry) : List TopEntry × Bool :=
  let l' := (insertBy topLt e l).take 8
  (l', l'.any fun x => decide (x.gri = e.gri) && decide (x.sweeps = e.sweeps) && decide (x.energy = e.energy))

/-- Offers several records in order; the count that entered. -/
def topOffers (l : List TopEntry) (es : List TopEntry) : List TopEntry × Nat :=
  es.foldl (fun st e => let r := topOffer st.1 e; (r.1, st.2 + b2n r.2)) (l, 0)

/-- What tells the entries of the list apart (R214). -/
def topKeysOf (l : List TopEntry) : List (Nat × Nat) := l.map fun e => (e.gri, e.sweeps)

/-- The decision of a pair (R202): accepted, its weight, and whether a draw was made. -/
def decidePair (rp : RatP) (codes : List Nat) (b s n k : Nat) (key : LaneKey) (de : Int) : Bool × Nat × Bool :=
  if rp.quench = 1 ∧ k + 2 = codes.length then (if de ≤ 0 then (true, 65536, false) else (false, 0, false))
  else
    let dw := toWord ((nth codes (k + 1) 0 - nth codes k 0) * curveAt rp.curve b s) (rp.rx + 12)
    let w := weight de dw
    if de ≤ 0 then (true, w, false)
    else
      let x := laneDraw { key with pos := 0 } (k % 512) (k / 512) n 4353 0
      (decide (x * 65536 / 2 ^ 32 < w), w, true)

/-- The pairs that round `q` offers (R201). -/
def roundPairs (q k : Nat) : List Nat := (List.range (k - 1)).filter fun i => i % 2 = q % 2

/-- Swaps the elements `k` and `k + 1`. -/
def swapAt (l : List Nat) (k : Nat) : List Nat :=
  let a := nth l k 0
  let b := nth l (k + 1) 0
  updAt (updAt l k fun _ => b) (k + 1) fun _ => a

/-- The outcome of an exchange round: the assignment, the estimates, pairs accepted, draws. -/
structure RoundOut where
  rungs : List Nat
  est : List Int
  swaps : Nat
  draws : Nat
  deriving DecidableEq, Repr

/-- An exchange round (R201 to R206); `energy` gives the energy of a global replica. -/
def exchangeRound (rp : RatP) (codes : List Nat) (b s n q : Nat) (key : LaneKey) (energy : Nat → Int)
    (rungs : List Nat) (est : List Int) : RoundOut :=
  (roundPairs q rungs.length).foldl (fun st k =>
    let de := energy (nth rungs k 0) - energy (nth rungs (k + 1) 0)
    let d := decidePair rp codes b s n k key de
    { rungs := if d.1 then swapAt st.rungs k else st.rungs,
      est := updAt st.est k fun a => a + rshiftRne ((d.2.1 : Int) - a) rp.smooth,
      swaps := st.swaps + b2n d.1, draws := st.draws + b2n d.2.2 }) ⟨rungs, est, 0, 0⟩

/-- Respacing (R207): the new codes and the clamped changes (R208). -/
def respace (rp : RatP) (codes : List Nat) (est : List Int) : List Nat × Nat :=
  let top := if rp.quench = 0 then codes.length - 1 else codes.length - 2
  let g0 := nth codes 0 0
  let span := nth codes top 0 - g0
  let raw (k : Nat) : Int := rshiftRne ((rp.eta : Int) * (nth est k 0 - rp.target)) 16
  let sm : Int := rp.stepMax
  let gaps := (List.range top).map fun k =>
    let g : Int := ((nth codes (k + 1) 0 - nth codes k 0 : Nat) : Int)
    let d := clampI (raw k) (-sm) sm
    let v := g + rshiftRne (g * d) 16
    (if v < 1 then 1 else v).toNat
  let total := sumN gaps
  let out := (List.range (top - 1)).foldl (fun (st : List Nat × Nat) i =>
    let j := i + 1
    let s := st.2 + nth gaps i 0
    let c := g0 + (span * s + total / 2) / total
    let c := min c (nth codes top 0 - (top - j))
    let c := max c (nth st.1 (j - 1) 0 + 1)
    (updAt st.1 j fun _ => c, s)) (codes, 0)
  (out.1, ((List.range top).filter fun k => decide (raw k > sm) || decide (raw k < -sm)).length)

/-- The round-trip state of a replica: 0 nothing yet, 1 has stood on rung 0, 2 has since stood on the top rung; and the
round trips completed (R225). -/
def tripStep (rungs : List Nat) (trips : List Nat) : List Nat × Nat :=
  let bottom := nth rungs 0 0
  let top := nth rungs (rungs.length - 1) 0
  let done := b2n (decide (nth trips bottom 0 = 2))
  (updAt (updAt trips bottom fun _ => 1) top fun v => if v = 1 then 2 else v, done)

end Sys2Proof.Machine
end

