-- ==== Sys2Proof/Machine/Slh.lean ====
section
/-!
DEFINITION. SLH-DSA with SHAKE256 in the parameter sets 256f and 256s: key generation, the deterministic signature and its
verification, which R412, R561, R567, R568 and R588 name and do not reproduce (PRESUMED from FIPS 205, log entry 11).
-/
namespace Sys2Proof.Machine

/-- A parameter set: tree layers, the height of a layer's tree, and the height and number of the few-time trees. -/
structure SlhP where
  d : Nat
  hp : Nat
  a : Nat
  k : Nat
  deriving DecidableEq, Repr

/-- SLH-DSA-SHAKE-256f and SLH-DSA-SHAKE-256s. -/
def slh256f : SlhP := ⟨17, 4, 9, 35⟩
def slh256s : SlhP := ⟨8, 8, 14, 22⟩

/-- `n` as `w` bytes, the most significant first. -/
def bigBytes (w n : Nat) : List Byte := (leBytes w n).reverse

/-- Bytes as a number, the most significant first. -/
def bigNat (b : List Byte) : Nat := leNat b.reverse

/-- A hash address: layer, tree, type, and its last three words. -/
structure SlhAdrs where
  layer : Nat
  tree : Nat
  typ : Nat
  x : Nat
  y : Nat
  z : Nat
  deriving DecidableEq, Repr

/-- The 32 bytes of a hash address. -/
def adrsBytes (a : SlhAdrs) : List Byte :=
  bigBytes 4 a.layer ++ bigBytes 12 a.tree ++ bigBytes 4 a.typ ++ bigBytes 4 a.x ++ bigBytes 4 a.y ++ bigBytes 4 a.z

/-- F, H and T over a public seed, an address and a message. -/
def slhT (pk : List Byte) (a : SlhAdrs) (m : List Byte) : List Byte := shake256 (pk ++ adrsBytes a ++ m) 32

/-- `n` digits of `b` bits of a byte string, the most significant first. -/
def digits (b n : Nat) (m : List Byte) : List Nat :=
  let v := bigNat m
  let bits := 8 * m.length
  (List.range n).map fun i => v / 2 ^ (bits - b * (i + 1)) % 2 ^ b

/-! ## One-time signatures -/

/-- `s` steps of a chain from step `i`. -/
def slhChain (pk : List Byte) (a : SlhAdrs) (i s : Nat) (v : List Byte) : List Byte :=
  (List.range s).foldl (fun v j => slhT pk { a with z := i + j } v) v

/-- The 67 digits that a one-time signature signs: those of the message and of their checksum. -/
def wotsDigits (m : List Byte) : List Nat :=
  let ms := digits 4 64 m
  let sum := (ms.map fun v => 15 - v).sum
  ms ++ digits 4 3 (bigBytes 2 (sum * 16))

/-- A secret chain start of a one-time key pair. -/
def wotsSecret (sk pk : List Byte) (a : SlhAdrs) (i : Nat) : List Byte := slhT pk { a with typ := 5, y := i, z := 0 } sk

/-- A one-time public key from its 67 chain ends. -/
def wotsClose (pk : List Byte) (a : SlhAdrs) (ends : List (List Byte)) : List Byte :=
  slhT pk { a with typ := 1, y := 0, z := 0 } ends.flatten

/-- The one-time public key of a key pair. -/
def wotsPublic (sk pk : List Byte) (a : SlhAdrs) : List Byte :=
  wotsClose pk a ((List.range 67).map fun i => slhChain pk { a with y := i } 0 15 (wotsSecret sk pk a i))

/-- A one-time signature. -/
def wotsSign (sk pk : List Byte) (a : SlhAdrs) (m : List Byte) : List (List Byte) :=
  (wotsDigits m).zipIdx.map fun d => slhChain pk { a with y := d.2 } 0 d.1 (wotsSecret sk pk a d.2)

/-- The one-time public key that a signature gives. -/
def wotsFrom (pk : List Byte) (a : SlhAdrs) (sig : List (List Byte)) (m : List Byte) : List Byte :=
  wotsClose pk a ((wotsDigits m).zipIdx.map fun d => slhChain pk { a with y := d.2 } d.1 (15 - d.1) (nth sig d.2 []))

/-! ## Trees -/

/-- The level above a level of a tree: `h` its height, `i` the index of its first node, under an address. -/
def treeUp (pk : List Byte) (a : SlhAdrs) (h : Nat) : Nat → List (List Byte) → List (List Byte)
  | i, l :: r :: t => slhT pk { a with y := h, z := i } (l ++ r) :: treeUp pk a h (i + 1) t
  | _, _ => []

/-- The path of leaf `n` through `k` levels, and the root; `o` is the index of the level's first node, `h` its height. -/
def treePath (pk : List Byte) (a : SlhAdrs) : Nat → Nat → Nat → Nat → List (List Byte) → List (List Byte) × List Byte
  | 0, _, _, _, l => ([], l.headD [])
  | k + 1, h, o, n, l =>
    let r := treePath pk a k (h + 1) (o / 2) (n / 2) (treeUp pk a (h + 1) (o / 2) l)
    (nth l (n ^^^ 1) [] :: r.1, r.2)

/-- The root that a leaf and its path give; `n` is the node's index in its whole level. -/
def treeRoot (pk : List Byte) (a : SlhAdrs) : Nat → Nat → List Byte → List (List Byte) → List Byte
  | _, _, v, [] => v
  | h, n, v, p :: ps =>
    treeRoot pk a (h + 1) (n / 2) (slhT pk { a with y := h + 1, z := n / 2 } (if n % 2 = 0 then v ++ p else p ++ v)) ps

/-- The one-time keys of a layer's tree. -/
def xmssLeaves (p : SlhP) (sk pk : List Byte) (layer tree : Nat) : List (List Byte) :=
  (List.range (2 ^ p.hp)).map fun i => wotsPublic sk pk ⟨layer, tree, 0, i, 0, 0⟩

/-- The address of the nodes of a layer's tree. -/
def xmssAdrs (layer tree : Nat) : SlhAdrs := ⟨layer, tree, 2, 0, 0, 0⟩

/-- A layer's signature of a value by leaf `i`, and the layer's root. -/
def xmssSign (p : SlhP) (sk pk : List Byte) (layer tree i : Nat) (m : List Byte) : List (List Byte) × List Byte :=
  let r := treePath pk (xmssAdrs layer tree) p.hp 0 0 i (xmssLeaves p sk pk layer tree)
  (wotsSign sk pk ⟨layer, tree, 0, i, 0, 0⟩ m ++ r.1, r.2)

/-- The signature through every layer from `layer` on. -/
def hyperSign (p : SlhP) (sk pk : List Byte) : Nat → Nat → Nat → Nat → List Byte → List (List Byte)
  | 0, _, _, _, _ => []
  | n + 1, layer, tree, leaf, m =>
    let r := xmssSign p sk pk layer tree leaf m
    r.1 ++ hyperSign p sk pk n (layer + 1) (tree / 2 ^ p.hp) (tree % 2 ^ p.hp) r.2

/-- The root that a signature through every layer gives. -/
def hyperFrom (p : SlhP) (pk : List Byte) : Nat → Nat → Nat → Nat → List (List Byte) → List Byte → List Byte
  | 0, _, _, _, _, m => m
  | n + 1, layer, tree, leaf, sig, m =>
    let one := wotsFrom pk ⟨layer, tree, 0, leaf, 0, 0⟩ (sig.take 67) m
    let root := treeRoot pk (xmssAdrs layer tree) 0 leaf one ((sig.drop 67).take p.hp)
    hyperFrom p pk n (layer + 1) (tree / 2 ^ p.hp) (tree % 2 ^ p.hp) (sig.drop (67 + p.hp)) root

/-! ## Few-time signatures -/

/-- A secret leaf of the few-time trees. -/
def forsSecret (sk pk : List Byte) (a : SlhAdrs) (i : Nat) : List Byte := slhT pk { a with typ := 6, y := 0, z := i } sk

/-- The few-time signature of a digest: per tree its secret leaf and its path; and the few-time public key. -/
def forsSign (p : SlhP) (sk pk : List Byte) (a : SlhAdrs) (md : List Byte) : List (List Byte) × List Byte :=
  let trees := (digits p.a p.k md).zipIdx.map fun d =>
    let base := d.2 * 2 ^ p.a
    let leaves := (List.range (2 ^ p.a)).map fun i => slhT pk { a with y := 0, z := base + i } (forsSecret sk pk a (base + i))
    let r := treePath pk a p.a 0 base d.1 leaves
    (forsSecret sk pk a (base + d.1) :: r.1, r.2)
  ((trees.map (·.1)).flatten, slhT pk { a with typ := 4, y := 0, z := 0 } (trees.map (·.2)).flatten)

/-- The few-time public key that a signature gives. -/
def forsFrom (p : SlhP) (pk : List Byte) (a : SlhAdrs) (sig : List (List Byte)) (md : List Byte) : List Byte :=
  let roots := (digits p.a p.k md).zipIdx.map fun d =>
    let n := d.2 * 2 ^ p.a + d.1
    let part := (sig.drop ((p.a + 1) * d.2)).take (p.a + 1)
    treeRoot pk a 0 n (slhT pk { a with y := 0, z := n } (part.headD [])) part.tail
  slhT pk { a with typ := 4, y := 0, z := 0 } roots.flatten

/-! ## Keys, signatures, verification -/

/-- The public key of the three seeds SK.seed, SK.prf and PK.seed: PK.seed and the root of the top layer. -/
def slhPublic (seeds : List Byte) : List Byte :=
  let pk := slice seeds 64 32
  pk ++ (treePath pk (xmssAdrs 16 0) 4 0 0 0 (xmssLeaves slh256f (seeds.take 32) pk 16 0)).2

/-- What a message's digest names: the few-time digest, the tree and the leaf. -/
def slhPlace (p : SlhP) (r pk m : List Byte) : List Byte × Nat × Nat :=
  let n1 := ceilDiv (p.k * p.a) 8
  let tb := p.hp * p.d - p.hp
  let n2 := ceilDiv tb 8
  let n3 := ceilDiv p.hp 8
  let g := shake256 (r ++ pk ++ m) (n1 + n2 + n3)
  (g.take n1, bigNat (slice g n1 n2) % 2 ^ tb, bigNat (slice g (n1 + n2) n3) % 2 ^ p.hp)

/-- The message that the pure form with an empty context string signs. -/
def slhPure (m : List Byte) : List Byte := [0, 0] ++ m

/-- The deterministic SLH-DSA-SHAKE-256f signature of a message, opt_rand being PK.seed (R568): 49,856 bytes. -/
def slhSign (seeds m : List Byte) : List Byte :=
  let sk := seeds.take 32
  let pk := slice seeds 64 32
  let m' := slhPure m
  let r := shake256 (slice seeds 32 32 ++ pk ++ m') 32
  let g := slhPlace slh256f r (slhPublic seeds) m'
  let f := forsSign slh256f sk pk ⟨0, g.2.1, 3, g.2.2, 0, 0⟩ g.1
  r ++ f.1.flatten ++ (hyperSign slh256f sk pk 17 0 g.2.1 g.2.2 f.2).flatten

/-- A signature of a parameter set verifies under a 64-byte public key. -/
def slhVerify (p : SlhP) (pub m sig : List Byte) : Bool :=
  let pk := pub.take 32
  let n := p.k * (p.a + 1)
  let parts := (List.range (n + p.hp * p.d + 67 * p.d)).map fun i => slice sig (32 + 32 * i) 32
  let g := slhPlace p (sig.take 32) pub (slhPure m)
  let f := forsFrom p pk ⟨0, g.2.1, 3, g.2.2, 0, 0⟩ (parts.take n) g.1
  decide (sig.length = 32 * (1 + n + p.hp * p.d + 67 * p.d)) &&
    decide (hyperFrom p pk p.d 0 g.2.1 g.2.2 (parts.drop n) f = pub.drop 32)

end Sys2Proof.Machine
end

