-- ==== Sys2Proof/Machine/Calib.lean ====
section
/-!
DEFINITION. The calibration record (R621 to R623), the cutoffs of the entropy tests that it gives (R578), and the seeds of the
device's keys (R567).
-/
namespace Sys2Proof.Machine

/-! ## The record (R621) -/

/-- The values of a record from MARGIN to the end of P_OTHER's block: bytes 0x0020 to 0x03FF. -/
def calVals (margin : List Nat) (trims : List Byte) (h : List Nat) (rll other : Nat) : List Byte :=
  (margin.map (leBytes 1)).flatten ++ zeros 188 ++ trims ++ zeros 174 ++ (h.map (leBytes 2)).flatten ++ leBytes 2 rll ++
    leBytes 2 other ++ zeros 502

/-- A record: origin, generation, values, training blocks of the LPDDR6 channels and of the links, digest. -/
def calMake (origin gen : Nat) (vals lm links : List Byte) : List Byte :=
  let b := leBytes 4 0x43414C31 ++ leBytes 2 1 ++ leBytes 1 origin ++ zeros 1 ++ leBytes 8 Config.serial.toNat ++ leBytes 4 gen ++
    zeros 12 ++ vals ++ (lm ++ zeros 8192).take 8192 ++ (links ++ zeros 16384).take 16384 ++ zeros (0xFFE0 - 0x6400)
  b ++ shake256 b 32

/-- The values of R623: the defaults of a device whose record is invalid. -/
def calDefaults : List Byte := calVals (List.replicate 36 15) (zeros 82) [8192, 8192, 8192] 100 150

/-- The record of the reset state (DESIGN CHOICE, log entry 7): the default entropies of R576, all else zero. -/
def calFactory : List Byte := calMake 0 0 (calVals (List.replicate 36 0) (zeros 82) [32768, 16384, 49152] 0 0) [] []

/-- The 64 KiB of the partition; erased flash reads ones. -/
def calFlash (b : List Byte) : List Byte := (b ++ List.replicate 65536 0xFF).take 65536

/-- The reserved bytes of a record: offset and length. -/
def calReserved : List (Nat × Nat) := [(0x07, 1), (0x14, 12), (0x44, 188), (0x152, 174), (0x20A, 502), (0x6400, 0x9BE0)]

/-- A field outside its range, or a reserved byte that is not zero. -/
def calRangeBad (b : List Byte) : Bool :=
  decide (1 < leAt b 6 1) || (List.range 36).any (fun i => decide (15 < leAt b (0x20 + i) 1)) ||
  (List.range 3).any (fun i => decide (leAt b (0x200 + 2 * i) 2 < 4096)) || decide (500 < leAt b 0x206 2) ||
  decide (150 < leAt b 0x208 2) || calReserved.any fun r => !allZero (slice b r.1 r.2)

/-- The CAUSE of R625: 0 where a record is valid (R622), else its first failing check. -/
def calCause (b : List Byte) : Nat :=
  if leAt b 0 4 ≠ 0x43414C31 ∨ leAt b 4 2 ≠ 1 then 2
  else if leAt b 8 8 ≠ Config.serial.toNat then 3
  else if calRangeBad b then 4
  else if shake256 (b.take 0xFFE0) 32 ≠ slice b 0xFFE0 32 then 5
  else 0

/-! The values in force: a record, or the defaults where there is none (R623). -/

def calMargin (c : List Byte) (p : Nat) : Nat := if c.isEmpty then 15 else leAt c (0x20 + p) 1
def calTrim (c : List Byte) (k : Nat) : Int := if c.isEmpty then 0 else signed 16 (leAt c (0x100 + 2 * k) 2)
def calEntH (c : List Byte) (i : Nat) : Nat := if c.isEmpty then 8192 else leAt c (0x200 + 2 * i) 2
def calRll (c : List Byte) : Nat := if c.isEmpty then 100 else leAt c 0x206 2
def calOther (c : List Byte) : Nat := if c.isEmpty then 150 else leAt c 0x208 2

/-! ## The cutoffs of R578 -/

/-- The RCT cutoff at a min-entropy in units of 2⁻¹⁶. -/
def rctCutoff (h : Nat) : Nat := 1 + ceilDiv (20 * 65536) (max 1 h)

/-- The integer square root of a number below 2¹³⁰. -/
def iSqrt (n : Nat) : Nat := (List.range 65).foldl (fun r i => if (r + 2 ^ (64 - i)) * (r + 2 ^ (64 - i)) ≤ n then r + 2 ^ (64 - i) else r) 0

/-- 2^(−h/65536) in units of 2⁻⁶⁴: square roots of one half for the bits of `h`. -/
def exp2Neg (h : Nat) : Nat :=
  ((List.range 16).foldl (fun (st : Nat × Nat) i =>
    let r := iSqrt (st.1 * 2 ^ 64)
    (r, if h.testBit (15 - i) then st.2 * r / 2 ^ 64 else st.2)) (2 ^ 63, 2 ^ 64)).2

/-- From the top value down: the smallest value whose upper tail is at most 2⁻²⁰; `t` is the probability of value `i`, `sum` that
of the values above it, in units of 2⁻¹⁴⁰⁰. -/
def aptGo (p : Nat) : Nat → Nat → Nat → Nat
  | 0, _, _ => 0
  | i + 1, t, sum => if sum + t > 2 ^ 1380 then i + 2 else aptGo p i (t * (i + 1) * (2 ^ 64 - p) / ((1024 - i) * p)) (sum + t)

/-- The APT cutoff at a min-entropy in units of 2⁻¹⁶. -/
def aptCutoff (h : Nat) : Nat := let p := exp2Neg h; aptGo p 1024 (p ^ 1024 * 2 ^ 1400 / 2 ^ 65536) 0

/-! ## Keys (R567) -/

/-- The three seeds of a key pair. -/
def keySeeds (label : List Byte) : List Byte := shake256 (Config.deviceSecret ++ label) 96

/-- The identity key's seeds: none in BLANK and SCRAPPED (R549). -/
def identityKey (life : Nat) : Option (List Byte) := if 1 ≤ life ∧ life ≤ 3 then some (keySeeds (ascii "ONK-IDENTITY")) else none

/-- The result key's seeds: class 1 in RMA, class 0 before it. -/
def resultKey (life : Nat) : Option (List Byte) :=
  if 1 ≤ life ∧ life ≤ 3 then some (keySeeds (ascii "ONK-RESULT" ++ leBytes 1 (if life = 3 then 1 else 0))) else none

/-- The key-encryption key: PROVISIONED and DEPLOYED only. -/
def kekOf (life : Nat) : Option (List Byte) :=
  if life = 1 ∨ life = 2 then some (shake256 (Config.deviceSecret ++ ascii "ONK-KEK") 32) else none

end Sys2Proof.Machine
end

