-- ==== Sys2Proof/Syntax.lean ====
section
/-!
DEFINITION. The commands of the ONK-5120: one constructor of `Instr` per row of spec/opcode_table.json, with the operands
the row's rules give it; and the engine instructions of spec/08_engine_programs.md R286 to R310.
-/
namespace Sys2Proof

/-! ## Engine instructions: the operand fields of R289, as encoded (a field named in R287 as "minus 1" holds LEN−1, V−1, …) -/

/-- The operand fields of `LOOP` (R289). -/
structure LoopOp where
  count : Nat
  stride : Nat
  body : Nat
  mode : Nat
  deriving DecidableEq, Repr

/-- The operand fields of `STAGE` (R289). -/
structure StageOp where
  stageId : Nat
  kind : Nat
  apb : Nat
  deriving DecidableEq, Repr

/-- The operand fields of `TSTAMP` (R289). -/
structure TstampOp where
  sa : Nat
  deriving DecidableEq, Repr

/-- The operand fields of `MOVE` (R289). -/
structure MoveOp where
  sa : Nat
  len : Nat
  dir : Nat
  hreg : Nat
  ctx : Nat
  addr : Nat
  deriving DecidableEq, Repr

/-- The operand fields of `FILL` (R289). -/
structure FillOp where
  sa : Nat
  len : Nat
  pattern : Nat
  deriving DecidableEq, Repr

/-- The operand fields of `SLD` (R289). -/
structure SldOp where
  addr : Nat
  space : Nat
  hreg : Nat
  fmt : Nat
  trans : Nat
  chk : Nat
  caddr : Nat
  scale : Nat
  deriving DecidableEq, Repr

/-- The operand fields of `STREAM` (R289). -/
structure StreamOp where
  sa : Nat
  v : Nat
  fmt : Nat
  slot : Nat
  mode : Nat
  scale : Nat
  deriving DecidableEq, Repr

/-- The operand fields of `DRAIN` (R289). -/
structure DrainOp where
  sa : Nat
  slot : Nat
  v : Nat
  ofmt : Nat
  rnd : Nat
  fuse : Nat
  fuseSa : Nat
  shift : Nat
  topk : Nat
  k : Nat
  srTile : Nat
  srStream : Nat
  mxdim : Nat
  deriving DecidableEq, Repr

/-- The operand fields of `PDRAIN` (R289). -/
structure PdrainOp where
  sa : Nat
  slot : Nat
  v : Nat
  deriving DecidableEq, Repr

/-- The operand fields of `PRELOAD` (R289). -/
structure PreloadOp where
  sa : Nat
  slot : Nat
  v : Nat
  deriving DecidableEq, Repr

/-- The operand fields of `VOP` (R289). -/
structure VopOp where
  saD : Nat
  saA : Nat
  saB : Nat
  nv : Nat
  func : Nat
  ty : Nat
  imm : Nat
  deriving DecidableEq, Repr

/-- The operand fields of `VRED` (R289). -/
structure VredOp where
  saD : Nat
  saA : Nat
  nv : Nat
  op : Nat
  ty : Nat
  deriving DecidableEq, Repr

/-- The operand fields of `VNORM` (R289). -/
structure VnormOp where
  saD : Nat
  saA : Nat
  n : Nat
  kind : Nat
  eps : Nat
  deriving DecidableEq, Repr

/-- The operand fields of `VCVT` (R289). -/
structure VcvtOp where
  saD : Nat
  saA : Nat
  nv : Nat
  ifmt : Nat
  ofmt : Nat
  rnd : Nat
  srTile : Nat
  srStream : Nat
  deriving DecidableEq, Repr

/-- The operand fields of `VTOPK` (R289). -/
structure VtopkOp where
  saD : Nat
  saA : Nat
  nr : Nat
  mode : Nat
  k : Nat
  deriving DecidableEq, Repr

/-- The operand fields of `PBUILD` (R289). -/
structure PbuildOp where
  saA : Nat
  saD : Nat
  count : Nat
  kind : Nat
  stype : Nat
  scaleE : Nat
  rnd : Nat
  srTile : Nat
  srStream : Nat
  deriving DecidableEq, Repr

/-- The operand fields of `PLOAD` (R289). -/
structure PloadOp where
  apb : Nat
  da : Nat
  deriving DecidableEq, Repr

/-- The operand fields of `GATHER` (R289). -/
structure GatherOp where
  apb : Nat
  deriving DecidableEq, Repr

/-- The operand fields of `RELAX` (R289). -/
structure RelaxOp where
  apb : Nat
  deriving DecidableEq, Repr

/-- The operand fields of `CHOOSE` (R289). -/
structure ChooseOp where
  apb : Nat
  deriving DecidableEq, Repr

/-- The operand fields of `ROLLCALL` (R289). -/
structure RollcallOp where
  apb : Nat
  deriving DecidableEq, Repr

/-- The operand fields of `FIELDUP` (R289). -/
structure FieldupOp where
  apb : Nat
  deriving DecidableEq, Repr

/-- The operand fields of `SWEEPEND` (R289). -/
structure SweependOp where
  apb : Nat
  deriving DecidableEq, Repr

/-- The operand fields of `RESULT` (R289). -/
structure ResultOp where
  apb : Nat
  da : Nat
  deriving DecidableEq, Repr

/-- The operand fields of `RED` (R289). -/
structure RedOp where
  saA : Nat
  saD : Nat
  nv : Nat
  op : Nat
  ty : Nat
  scope : Nat
  tag : Nat
  deriving DecidableEq, Repr

/-- The operand fields of `BCAST` (R289). -/
structure BcastOp where
  sa : Nat
  len : Nat
  root : Nat
  rdev : Nat
  scope : Nat
  tag : Nat
  deriving DecidableEq, Repr

/-- The operand fields of `LSEND` (R289). -/
structure LsendOp where
  sa : Nat
  len : Nat
  peer : Nat
  chan : Nat
  deriving DecidableEq, Repr

/-- The operand fields of `LRECV` (R289). -/
structure LrecvOp where
  sa : Nat
  len : Nat
  peer : Nat
  chan : Nat
  deriving DecidableEq, Repr

/-- The operand fields of `SWAIT` (R289). -/
structure SwaitOp where
  sem : Nat
  thresh : Nat
  tmo : Nat
  deriving DecidableEq, Repr

/-- The operand fields of `SSIGNAL` (R289). -/
structure SsignalOp where
  sem : Nat
  value : Nat
  op : Nat
  deriving DecidableEq, Repr

/-- The operand fields of `AUDIT` (R289). -/
structure AuditOp where
  apb : Nat
  da : Nat
  deriving DecidableEq, Repr

/-- The operand fields of `DIGEST` (R289). -/
structure DigestOp where
  sa : Nat
  len : Nat
  ctx : Nat
  op : Nat
  deriving DecidableEq, Repr

/-- The operand fields of `CERT` (R289). -/
structure CertOp where
  apb : Nat
  da : Nat
  deriving DecidableEq, Repr

/-- An engine instruction (R289). -/
inductive EngOp where
  | nop
  | halt
  | loop (o : LoopOp)
  | stage (o : StageOp)
  | tstamp (o : TstampOp)
  | move (o : MoveOp)
  | fill (o : FillOp)
  | sld (o : SldOp)
  | stream (o : StreamOp)
  | drain (o : DrainOp)
  | pdrain (o : PdrainOp)
  | preload (o : PreloadOp)
  | vop (o : VopOp)
  | vred (o : VredOp)
  | vnorm (o : VnormOp)
  | vcvt (o : VcvtOp)
  | vtopk (o : VtopkOp)
  | pbuild (o : PbuildOp)
  | pload (o : PloadOp)
  | gather (o : GatherOp)
  | relax (o : RelaxOp)
  | choose (o : ChooseOp)
  | rollcall (o : RollcallOp)
  | fieldup (o : FieldupOp)
  | sweepend (o : SweependOp)
  | result (o : ResultOp)
  | red (o : RedOp)
  | bcast (o : BcastOp)
  | lsend (o : LsendOp)
  | lrecv (o : LrecvOp)
  | swait (o : SwaitOp)
  | ssignal (o : SsignalOp)
  | audit (o : AuditOp)
  | digest (o : DigestOp)
  | cert (o : CertOp)
  deriving DecidableEq, Repr

/-- An engine instruction with its IDX field (R277, R286). -/
structure EngInstr where
  op : EngOp
  idx : Nat
  deriving DecidableEq, Repr

/-! ## Operands of the other commands -/

/-- The two agents that reach the register pages (R635). -/
inductive Agent where
  | pcie | i3c
  deriving DecidableEq, Repr

/-- The engine of an invocation that executes an instruction: a context and a logical engine. -/
structure EngRef where
  ctx : Nat
  eng : Nat
  deriving DecidableEq, Repr

/-- One completion of a request to host memory (R672). -/
inductive Cpl where
  | data (bytes : List Byte)
  | ok
  | ur
  | ca
  | poisoned
  | timeout
  deriving DecidableEq, Repr

/-- What physics did to the checked work of a step (R264, R265): nothing, an upset the recomputation clears, or a
fault it does not clear, at a streamed vector of a logical engine's pass. -/
inductive Upset where
  | none
  | transient (eng vec : Nat)
  | permanent (eng vec : Nat)
  deriving DecidableEq, Repr

/-- What physics did to the pair check of a phase (R165): nothing, a mismatch of proposals `a` < `b` that the recomputation clears, or
one where the audit evaluator finds an engine wrong: bit 0 of `wrong` for that of `a`, bit 1 for that of `b`. -/
inductive PairUpset where
  | none
  | transient (a b replica : Nat)
  | permanent (a b replica wrong : Nat)
  deriving DecidableEq, Repr

/-- What a rail monitor measures: the rail in the order of R589, and its voltage in mV (R591). -/
structure RailMeas where
  rail : Nat
  mv : Nat
  deriving DecidableEq, Repr

/-- What physics did to the checks of a `ROLLCALL`: those of its passes (R163, R264) and those of its pairs (R165). -/
structure WalkUpset where
  passes : List Upset
  pairs : List PairUpset
  deriving DecidableEq, Repr

/-- A `FIELDUP` and what physics did to the checks of its passes (R170, R264). -/
structure FieldupRun where
  op : FieldupOp
  passes : List Upset
  deriving DecidableEq, Repr

/-- The epoch barrier of an invocation, and what physics did to the checks of its passes (R179, R264). -/
structure BarrierRun where
  ctx : Nat
  passes : List Upset
  deriving DecidableEq, Repr

/-- A DISCOVER control flit (R338, R343). -/
structure DiscoverBody where
  id : Nat
  serial : Nat
  link : Nat
  role : Nat
  dims : List Nat
  cipher : Bool
  sysFlags : Nat
  deriving DecidableEq, Repr

/-- A START control message (R351). -/
structure StartBody where
  runId : Nat
  position : Nat
  program : List Byte
  devlist : List Byte
  budget : Nat
  deriving DecidableEq, Repr

/-- What boot found in the board and the part (R516, R541, R579, R617, R622). -/
structure BootFacts where
  channelsTrained : List Bool
  density : Nat
  sparesUsed : List Nat
  tilesBad : List Nat
  calReadError : Bool
  deriving DecidableEq, Repr

/-- The measurements of one reef evaluation (R598, R601): the averages of VCORE × I over 100 µs and 1 ms in W, VCORE and its current
from telemetry, whether ALERT_N is low. -/
structure ReefMeas where
  core100us : Nat
  core1ms : Nat
  vcoreMv : Nat
  icoreA : Nat
  alertLow : Bool
  deriving DecidableEq, Repr

/-- A command: one constructor per row of spec/opcode_table.json. The docstring of each meaning cites its rules. -/
inductive Instr where
  | nop (x : EngRef)
  | halt (x : EngRef)
  | loop (x : EngRef) (o : LoopOp)
  | stage (x : EngRef) (o : StageOp)
  | tstamp (x : EngRef) (o : TstampOp)
  | move (x : EngRef) (o : MoveOp)
  | fill (x : EngRef) (o : FillOp)
  | sld (x : EngRef) (o : SldOp)
  | stream (x : EngRef) (o : StreamOp) (u : Upset)
  | drain (x : EngRef) (o : DrainOp)
  | pdrain (x : EngRef) (o : PdrainOp)
  | preload (x : EngRef) (o : PreloadOp)
  | vop (x : EngRef) (o : VopOp)
  | vred (x : EngRef) (o : VredOp)
  | vnorm (x : EngRef) (o : VnormOp)
  | vcvt (x : EngRef) (o : VcvtOp)
  | vtopk (x : EngRef) (o : VtopkOp)
  | pbuild (x : EngRef) (o : PbuildOp)
  | pload (c : Nat) (o : PloadOp)
  | gather (c : Nat) (o : GatherOp)
  | relax (c : Nat) (o : RelaxOp) (us : List Upset)
  | choose (c : Nat) (o : ChooseOp) (us : List Upset)
  | rollcall (c : Nat) (o : RollcallOp) (w : WalkUpset)
  | fieldup (c : Nat) (r : FieldupRun)
  | sweepend (c : Nat) (o : SweependOp)
  | result (c : Nat) (o : ResultOp)
  | red (c : Nat) (o : RedOp)
  | bcast (c : Nat) (o : BcastOp)
  | lsend (x : EngRef) (o : LsendOp)
  | lrecv (x : EngRef) (o : LrecvOp)
  | swait (x : EngRef) (o : SwaitOp)
  | swaitTimeout (x : EngRef)
  | ssignal (x : EngRef) (o : SsignalOp)
  | audit (c : Nat) (o : AuditOp)
  | digestStart (x : EngRef) (o : DigestOp)
  | digestAbsorb (x : EngRef) (o : DigestOp)
  | digestFinal (x : EngRef) (o : DigestOp)
  | digestCompare (x : EngRef) (o : DigestOp)
  | cert (c : Nat) (o : CertOp)
  | tileSubstitutionDone (eng : Nat)
  | repairLogWrite
  | tileSelftest (tile faulty : Nat)
  | descriptorFetch (rs : List Cpl)
  | invoke (c : Nat)
  | install (c : Nat) (rs : List Cpl)
  | remove (c : Nat)
  | removeComplete (c : Nat)
  | cmdbuf (c : Nat) (rs : List Cpl)
  | cmdbufEntryStart (c : Nat) (i : Nat)
  | selftest (c : Nat) (faulty : Nat)
  | join (c : Nat)
  | enterWaiting (c : Nat)
  | argumentBlockRead (c : Nat) (rs : List Cpl)
  | waitTimeout (c : Nat)
  | hostWaitPoll (c : Nat) (w : Nat) (rs : List Cpl)
  | engineGrant (c : Nat)
  | inputsMoved (c : Nat) (data digests : List (List Cpl))
  | switchOut (c : Nat)
  | switchIn (c : Nat)
  | invocationAbortStop (c : Nat)
  | hostSignalFlushDone (c : Nat) (k : Nat) (rs : List Cpl)
  | recordFlushDone (q : Nat) (rs : List Cpl)
  | msixCoalesceTimeout (q : Nat)
  | stallDetectorFire
  | queTailWrite (a : Agent) (q value : Nat)
  | cqHeadWrite (a : Agent) (q value : Nat)
  | queEnable (a : Agent) (q : Nat)
  | queDisable (a : Agent) (q : Nat)
  | queRearm (a : Agent) (q : Nat)
  | stateReqMaintFinish (a : Agent)
  | stateReqMaintAbort (a : Agent)
  | stateReqService (a : Agent)
  | enterMaintenance
  | enterService
  | abortTag (a : Agent) (q : Nat)
  | abortAll (a : Agent) (q : Nat)
  | semOpAdd (a : Agent) (sem : Nat)
  | semOpSet (a : Agent) (sem : Nat)
  | register (c : Nat) (rs : List Cpl)
  | deregister (c : Nat)
  | bellRelease (ring prog : Nat)
  | releaseStart (ring : Nat)
  | cutPoint (c : Nat)
  | lendBlockExpiry (ring c : Nat)
  | auditStart
  | auditFinish (d1 d2 : Int)
  | windowTimeout
  | windowSigned
  | certRingRdWrite (a : Agent) (value : Nat)
  | flitSend (link : Nat)
  | flitReceive (link : Nat) (came : Bool) (lanes : List (List Nat))
  | replayTimeout (link : Nat)
  | laneLockLoss (link : Nat)
  | linkTrainStart (link : Nat)
  | linkTrainLock (link : Nat)
  | linkTrainFail (link : Nat)
  | msgAckTimeout (dst cls msg : Nat)
  | discover (link : Nat) (b : DiscoverBody)
  | msgAck (src cls msg : Nat)
  | start (src : Nat) (b : StartBody)
  | progress (runId pos phase : Nat)
  | progressSend (c : Nat)
  | lost (runId src lostPos phase : Nat)
  | lostCollectEnd (c : Nat)
  | claim (src dev runId lostPos queue : Nat)
  | probe (link runId : Nat)
  | probeReply (runId : Nat) (inRun : Bool)
  | probeTimeout (runId : Nat)
  | failover (src runId lostPos spare ckpt : Nat)
  | failoverCopyDone (c : Nat)
  | epoch (runId pos phase : Nat)
  | epochBarrierDone (r : BarrierRun)
  | rekey (link epoch : Nat)
  | peerTimerExpire (c : Nat) (pos : Nat)
  | mirrorRebuildDone (dev : Nat)
  | scrubRead (k : Nat)
  | logClear (a : Agent) (page : Nat)
  | injArm (a : Agent) (page value : Nat)
  | lcReqDeployed (a : Agent)
  | lcReqRma (a : Agent)
  | lcReqScrapped (a : Agent)
  | lcProvision
  | tamperDetect (src : Nat)
  | revoke (a : Agent) (key : Nat)
  | svnCommit (a : Agent)
  | keyProvision (a : Agent) (slot : Nat)
  | attestation (a : Agent) (reply : Cpl)
  | hReq (a : Agent)
  | hDataLastRead (a : Agent)
  | entropyTestTrip (src : Nat)
  | sourceRetest (src : Nat) (pass : Bool)
  | conditionedBlock (block : List Byte)
  | drbgReseedDue (inst : Nat)
  | entropyRequestTimeout (k : Nat)
  | bootIdDraw
  | reefEvaluation (m : ReefMeas)
  | alertNFall
  | vspdEvaluation (rateMin : Nat)
  | avsAck
  | avsRetry (ok : Bool)
  | canaryFire (tile : Nat)
  | marginDecay (tile : Nat)
  | sensorSample (temps : List Int)
  | thermtrip (sensor : Nat)
  | railFault (r : RailMeas)
  | pwrgdLow
  | porstNAssert
  | porstNRise (bootMode kat : Nat)
  | bootComplete (f : BootFacts)
  | perstNAssert
  | perstNRise
  | pcieHotReset
  | flr
  | d3hotEntry
  | recoveryCmd (a : Agent)
  | calWrite (a : Agent)
  | calRead (a : Agent)
  | calCapture (a : Agent) (lm links : List Byte)
  | ppsInEdge
  | ppsLoss
  | ptmExchange (hostTime : Nat)
  | timeclkLoss
  | timeclkRelock
  | cplTimeout
  | bar2Read (offset len : Nat)
  | bar2Write (offset : Nat) (data : List (Option Byte))
  | i3cEntdaa (addr : Nat)
  | i3cWriteRequest (offset value : Nat)
  | i3cReadRequest (offset : Nat)
  | i3cPrivateRead
  | txnBegin (a : Agent) (page : Nat)
  | txnCommit (a : Agent) (page : Nat)
  | txnAbort (a : Agent) (page : Nat)
  | rwtWrite (a : Agent) (offset value : Nat)
  | txnApply (page : Nat)
  | txnExpire (page : Nat)
  | grpBegin (a : Agent)
  | grpCommit (a : Agent)
  | grpAbort (a : Agent)
  | grpApply
  | grpSafeTimeout
  | ownerLock (a : Agent) (page id : Nat)
  | ownerRelease (a : Agent) (page id : Nat)
  | evtClear (a : Agent) (page mask recur : Nat)
  | evtForce (a : Agent) (page mask : Nat)
  | cntClear (a : Agent) (page : Nat)
  | softRst (a : Agent) (page : Nat)
  | softResetApply (page : Nat)
  | readLoLatch (a : Agent) (offset : Nat)
  | registerWrite (a : Agent) (offset value : Nat)
  | internalResetRelease (kat : Nat)
  | returnToD0
  | warmResetComplete
  | pcieLinkTrained (speed width : Nat) (flit : Bool)
  | powerSurge
  | startUpTestsEnd (ring arbiter thermal : Bool)
  | pcieFlitReplay
  | malformedTlp
  | badAccess (read : Bool)
  deriving DecidableEq, Repr

end Sys2Proof
end

