-- ==== Sys2Proof/Decode.lean ====
section
/-!
DEFINITION. The encoding of engine instructions (spec/08_engine_programs.md R286 to R289), and `decodeTableWord`.
The opcode table gives its rows no bits, so no word spells a command.
-/
namespace Sys2Proof

/-- Values laid end to end from bit 0: each pair is a value and its width in bits. -/
def packF : List (Nat × Nat) → Nat
  | [] => 0
  | (v, w) :: l => v % 2 ^ w + 2 ^ w * packF l

/-- The values of consecutive fields of the given widths. -/
def unpackF : List Nat → Nat → List Nat
  | [], _ => []
  | w :: l, n => n % 2 ^ w :: unpackF l (n / 2 ^ w)

/-- The 128-bit word of an engine instruction: OP in [7:0], IDX in [9:8], the operands of R289,
    every other bit zero. -/
def encodeEng (i : EngInstr) : Nat :=
  match i.op with
  | .nop => packF [(0x00, 8), (i.idx, 2), (0, 118)]
  | .halt => packF [(0x01, 8), (i.idx, 2), (0, 118)]
  | .loop o =>
    packF [(0x02, 8), (i.idx, 2), (0, 6), (o.count, 24), (o.stride, 20), (o.body, 16), (o.mode, 2), (0, 50)]
  | .stage o =>
    packF [(0x03, 8), (i.idx, 2), (0, 6), (o.stageId, 16), (o.kind, 3), (o.apb, 4), (0, 89)]
  | .tstamp o =>
    packF [(0x04, 8), (i.idx, 2), (0, 6), (o.sa, 20), (0, 92)]
  | .move o =>
    packF [(0x10, 8), (i.idx, 2), (0, 6), (o.sa, 20), (o.len, 19), (o.dir, 3), (o.hreg, 4), (o.ctx, 4), (o.addr,
        42), (0, 20)]
  | .fill o =>
    packF [(0x11, 8), (i.idx, 2), (0, 6), (o.sa, 20), (o.len, 19), (o.pattern, 32), (0, 41)]
  | .sld o =>
    packF [(0x20, 8), (i.idx, 2), (0, 6), (o.addr, 24), (o.space, 1), (o.hreg, 4), (o.fmt, 5), (o.trans, 1),
        (o.chk, 1), (o.caddr, 24), (o.scale, 20), (0, 32)]
  | .stream o =>
    packF [(0x21, 8), (i.idx, 2), (0, 6), (o.sa, 20), (o.v, 9), (o.fmt, 5), (o.slot, 7), (o.mode, 1), (o.scale,
        20), (0, 50)]
  | .drain o =>
    packF [(0x22, 8), (i.idx, 2), (0, 6), (o.sa, 20), (o.slot, 7), (o.v, 9), (o.ofmt, 5), (o.rnd, 2), (o.fuse, 2),
        (o.fuseSa, 20), (o.shift, 5), (o.topk, 2), (o.k, 4), (o.srTile, 12), (o.srStream, 8), (o.mxdim, 1), (0, 15)]
  | .pdrain o =>
    packF [(0x23, 8), (i.idx, 2), (0, 6), (o.sa, 20), (o.slot, 7), (o.v, 9), (0, 76)]
  | .preload o =>
    packF [(0x24, 8), (i.idx, 2), (0, 6), (o.sa, 20), (o.slot, 7), (o.v, 9), (0, 76)]
  | .vop o =>
    packF [(0x30, 8), (i.idx, 2), (0, 6), (o.saD, 20), (o.saA, 20), (o.saB, 20), (o.nv, 11), (o.func, 6), (o.ty,
        3), (o.imm, 32)]
  | .vred o =>
    packF [(0x31, 8), (i.idx, 2), (0, 6), (o.saD, 20), (o.saA, 20), (o.nv, 11), (o.op, 2), (o.ty, 3), (0, 56)]
  | .vnorm o =>
    packF [(0x32, 8), (i.idx, 2), (0, 6), (o.saD, 20), (o.saA, 20), (o.n, 20), (o.kind, 1), (o.eps, 32), (0, 19)]
  | .vcvt o =>
    packF [(0x33, 8), (i.idx, 2), (0, 6), (o.saD, 20), (o.saA, 20), (o.nv, 11), (o.ifmt, 5), (o.ofmt, 5), (o.rnd,
        2), (o.srTile, 12), (o.srStream, 8), (0, 29)]
  | .vtopk o =>
    packF [(0x34, 8), (i.idx, 2), (0, 6), (o.saD, 20), (o.saA, 20), (o.nr, 11), (o.mode, 1), (o.k, 4), (0, 56)]
  | .pbuild o =>
    packF [(0x35, 8), (i.idx, 2), (0, 6), (o.saA, 20), (o.saD, 20), (o.count, 18), (o.kind, 3), (o.stype, 1),
        (o.scaleE, 8), (o.rnd, 2), (o.srTile, 12), (o.srStream, 8), (0, 20)]
  | .pload o =>
    packF [(0x40, 8), (i.idx, 2), (0, 6), (o.apb, 4), (o.da, 42), (0, 66)]
  | .gather o =>
    packF [(0x41, 8), (i.idx, 2), (0, 6), (o.apb, 4), (0, 108)]
  | .relax o =>
    packF [(0x42, 8), (i.idx, 2), (0, 6), (o.apb, 4), (0, 108)]
  | .choose o =>
    packF [(0x43, 8), (i.idx, 2), (0, 6), (o.apb, 4), (0, 108)]
  | .rollcall o =>
    packF [(0x44, 8), (i.idx, 2), (0, 6), (o.apb, 4), (0, 108)]
  | .fieldup o =>
    packF [(0x45, 8), (i.idx, 2), (0, 6), (o.apb, 4), (0, 108)]
  | .sweepend o =>
    packF [(0x46, 8), (i.idx, 2), (0, 6), (o.apb, 4), (0, 108)]
  | .result o =>
    packF [(0x47, 8), (i.idx, 2), (0, 6), (o.apb, 4), (o.da, 42), (0, 66)]
  | .red o =>
    packF [(0x50, 8), (i.idx, 2), (0, 6), (o.saA, 20), (o.saD, 20), (o.nv, 11), (o.op, 2), (o.ty, 3), (o.scope, 2),
        (o.tag, 8), (0, 46)]
  | .bcast o =>
    packF [(0x51, 8), (i.idx, 2), (0, 6), (o.sa, 20), (o.len, 19), (o.root, 5), (o.rdev, 9), (o.scope, 2), (o.tag,
        8), (0, 49)]
  | .lsend o =>
    packF [(0x58, 8), (i.idx, 2), (0, 6), (o.sa, 20), (o.len, 19), (o.peer, 9), (o.chan, 4), (0, 60)]
  | .lrecv o =>
    packF [(0x59, 8), (i.idx, 2), (0, 6), (o.sa, 20), (o.len, 19), (o.peer, 9), (o.chan, 4), (0, 60)]
  | .swait o =>
    packF [(0x60, 8), (i.idx, 2), (0, 6), (o.sem, 14), (o.thresh, 64), (o.tmo, 5), (0, 29)]
  | .ssignal o =>
    packF [(0x61, 8), (i.idx, 2), (0, 6), (o.sem, 14), (o.value, 64), (o.op, 1), (0, 33)]
  | .audit o =>
    packF [(0x68, 8), (i.idx, 2), (0, 6), (o.apb, 4), (o.da, 42), (0, 66)]
  | .digest o =>
    packF [(0x69, 8), (i.idx, 2), (0, 6), (o.sa, 20), (o.len, 19), (o.ctx, 4), (o.op, 2), (0, 67)]
  | .cert o =>
    packF [(0x6A, 8), (i.idx, 2), (0, 6), (o.apb, 4), (o.da, 42), (0, 66)]

/-- The instruction a 128-bit word encodes; none where the opcode is not listed or a reserved bit is set (R286,
    R289). -/
def decodeEng (w : Nat) : Option EngInstr :=
  if w / 2 ^ 128 ≠ 0 then none
  else
    match w % 256 with
    | 0x00 => match unpackF [8, 2, 118] w with
      | [_, idx, r0] => if r0 = 0 then some ⟨.nop, idx⟩ else none
      | _ => none
    | 0x01 => match unpackF [8, 2, 118] w with
      | [_, idx, r0] => if r0 = 0 then some ⟨.halt, idx⟩ else none
      | _ => none
    | 0x02 => match unpackF [8, 2, 6, 24, 20, 16, 2, 50] w with
      | [_, idx, r0, count, stride, body, mode, r1] =>
        if r0 = 0 ∧ r1 = 0 then some ⟨.loop ⟨count, stride, body, mode⟩, idx⟩ else none
      | _ => none
    | 0x03 => match unpackF [8, 2, 6, 16, 3, 4, 89] w with
      | [_, idx, r0, stageId, kind, apb, r1] =>
        if r0 = 0 ∧ r1 = 0 then some ⟨.stage ⟨stageId, kind, apb⟩, idx⟩ else none
      | _ => none
    | 0x04 => match unpackF [8, 2, 6, 20, 92] w with
      | [_, idx, r0, sa, r1] =>
        if r0 = 0 ∧ r1 = 0 then some ⟨.tstamp ⟨sa⟩, idx⟩ else none
      | _ => none
    | 0x10 => match unpackF [8, 2, 6, 20, 19, 3, 4, 4, 42, 20] w with
      | [_, idx, r0, sa, len, dir, hreg, ctx, addr, r1] =>
        if r0 = 0 ∧ r1 = 0 then some ⟨.move ⟨sa, len, dir, hreg, ctx, addr⟩, idx⟩ else none
      | _ => none
    | 0x11 => match unpackF [8, 2, 6, 20, 19, 32, 41] w with
      | [_, idx, r0, sa, len, pattern, r1] =>
        if r0 = 0 ∧ r1 = 0 then some ⟨.fill ⟨sa, len, pattern⟩, idx⟩ else none
      | _ => none
    | 0x20 => match unpackF [8, 2, 6, 24, 1, 4, 5, 1, 1, 24, 20, 32] w with
      | [_, idx, r0, addr, space, hreg, fmt, tr, chk, caddr, scale, r1] =>
        if r0 = 0 ∧ r1 = 0 then some ⟨.sld ⟨addr, space, hreg, fmt, tr, chk, caddr, scale⟩, idx⟩ else none
      | _ => none
    | 0x21 => match unpackF [8, 2, 6, 20, 9, 5, 7, 1, 20, 50] w with
      | [_, idx, r0, sa, v, fmt, slot, mode, scale, r1] =>
        if r0 = 0 ∧ r1 = 0 then some ⟨.stream ⟨sa, v, fmt, slot, mode, scale⟩, idx⟩ else none
      | _ => none
    | 0x22 => match unpackF [8, 2, 6, 20, 7, 9, 5, 2, 2, 20, 5, 2, 4, 12, 8, 1, 15] w with
      | [_, idx, r0, sa, slot, v, ofmt, rnd, fuse, fuseSa, shift, topk, k, srTile, srStream, mxdim, r1] =>
        if r0 = 0 ∧ r1 = 0 then some ⟨.drain ⟨sa, slot, v, ofmt, rnd, fuse, fuseSa, shift, topk, k, srTile,
            srStream, mxdim⟩, idx⟩ else none
      | _ => none
    | 0x23 => match unpackF [8, 2, 6, 20, 7, 9, 76] w with
      | [_, idx, r0, sa, slot, v, r1] =>
        if r0 = 0 ∧ r1 = 0 then some ⟨.pdrain ⟨sa, slot, v⟩, idx⟩ else none
      | _ => none
    | 0x24 => match unpackF [8, 2, 6, 20, 7, 9, 76] w with
      | [_, idx, r0, sa, slot, v, r1] =>
        if r0 = 0 ∧ r1 = 0 then some ⟨.preload ⟨sa, slot, v⟩, idx⟩ else none
      | _ => none
    | 0x30 => match unpackF [8, 2, 6, 20, 20, 20, 11, 6, 3, 32] w with
      | [_, idx, r0, saD, saA, saB, nv, func, ty, imm] =>
        if r0 = 0 then some ⟨.vop ⟨saD, saA, saB, nv, func, ty, imm⟩, idx⟩ else none
      | _ => none
    | 0x31 => match unpackF [8, 2, 6, 20, 20, 11, 2, 3, 56] w with
      | [_, idx, r0, saD, saA, nv, op, ty, r1] =>
        if r0 = 0 ∧ r1 = 0 then some ⟨.vred ⟨saD, saA, nv, op, ty⟩, idx⟩ else none
      | _ => none
    | 0x32 => match unpackF [8, 2, 6, 20, 20, 20, 1, 32, 19] w with
      | [_, idx, r0, saD, saA, n, kind, eps, r1] =>
        if r0 = 0 ∧ r1 = 0 then some ⟨.vnorm ⟨saD, saA, n, kind, eps⟩, idx⟩ else none
      | _ => none
    | 0x33 => match unpackF [8, 2, 6, 20, 20, 11, 5, 5, 2, 12, 8, 29] w with
      | [_, idx, r0, saD, saA, nv, ifmt, ofmt, rnd, srTile, srStream, r1] =>
        if r0 = 0 ∧ r1 = 0 then some ⟨.vcvt ⟨saD, saA, nv, ifmt, ofmt, rnd, srTile, srStream⟩, idx⟩ else none
      | _ => none
    | 0x34 => match unpackF [8, 2, 6, 20, 20, 11, 1, 4, 56] w with
      | [_, idx, r0, saD, saA, nr, mode, k, r1] =>
        if r0 = 0 ∧ r1 = 0 then some ⟨.vtopk ⟨saD, saA, nr, mode, k⟩, idx⟩ else none
      | _ => none
    | 0x35 => match unpackF [8, 2, 6, 20, 20, 18, 3, 1, 8, 2, 12, 8, 20] w with
      | [_, idx, r0, saA, saD, count, kind, stype, scaleE, rnd, srTile, srStream, r1] =>
        if r0 = 0 ∧ r1 = 0 then some ⟨.pbuild ⟨saA, saD, count, kind, stype, scaleE, rnd, srTile, srStream⟩,
            idx⟩ else none
      | _ => none
    | 0x40 => match unpackF [8, 2, 6, 4, 42, 66] w with
      | [_, idx, r0, apb, da, r1] =>
        if r0 = 0 ∧ r1 = 0 then some ⟨.pload ⟨apb, da⟩, idx⟩ else none
      | _ => none
    | 0x41 => match unpackF [8, 2, 6, 4, 108] w with
      | [_, idx, r0, apb, r1] =>
        if r0 = 0 ∧ r1 = 0 then some ⟨.gather ⟨apb⟩, idx⟩ else none
      | _ => none
    | 0x42 => match unpackF [8, 2, 6, 4, 108] w with
      | [_, idx, r0, apb, r1] =>
        if r0 = 0 ∧ r1 = 0 then some ⟨.relax ⟨apb⟩, idx⟩ else none
      | _ => none
    | 0x43 => match unpackF [8, 2, 6, 4, 108] w with
      | [_, idx, r0, apb, r1] =>
        if r0 = 0 ∧ r1 = 0 then some ⟨.choose ⟨apb⟩, idx⟩ else none
      | _ => none
    | 0x44 => match unpackF [8, 2, 6, 4, 108] w with
      | [_, idx, r0, apb, r1] =>
        if r0 = 0 ∧ r1 = 0 then some ⟨.rollcall ⟨apb⟩, idx⟩ else none
      | _ => none
    | 0x45 => match unpackF [8, 2, 6, 4, 108] w with
      | [_, idx, r0, apb, r1] =>
        if r0 = 0 ∧ r1 = 0 then some ⟨.fieldup ⟨apb⟩, idx⟩ else none
      | _ => none
    | 0x46 => match unpackF [8, 2, 6, 4, 108] w with
      | [_, idx, r0, apb, r1] =>
        if r0 = 0 ∧ r1 = 0 then some ⟨.sweepend ⟨apb⟩, idx⟩ else none
      | _ => none
    | 0x47 => match unpackF [8, 2, 6, 4, 42, 66] w with
      | [_, idx, r0, apb, da, r1] =>
        if r0 = 0 ∧ r1 = 0 then some ⟨.result ⟨apb, da⟩, idx⟩ else none
      | _ => none
    | 0x50 => match unpackF [8, 2, 6, 20, 20, 11, 2, 3, 2, 8, 46] w with
      | [_, idx, r0, saA, saD, nv, op, ty, scope, tag, r1] =>
        if r0 = 0 ∧ r1 = 0 then some ⟨.red ⟨saA, saD, nv, op, ty, scope, tag⟩, idx⟩ else none
      | _ => none
    | 0x51 => match unpackF [8, 2, 6, 20, 19, 5, 9, 2, 8, 49] w with
      | [_, idx, r0, sa, len, root, rdev, scope, tag, r1] =>
        if r0 = 0 ∧ r1 = 0 then some ⟨.bcast ⟨sa, len, root, rdev, scope, tag⟩, idx⟩ else none
      | _ => none
    | 0x58 => match unpackF [8, 2, 6, 20, 19, 9, 4, 60] w with
      | [_, idx, r0, sa, len, peer, chan, r1] =>
        if r0 = 0 ∧ r1 = 0 then some ⟨.lsend ⟨sa, len, peer, chan⟩, idx⟩ else none
      | _ => none
    | 0x59 => match unpackF [8, 2, 6, 20, 19, 9, 4, 60] w with
      | [_, idx, r0, sa, len, peer, chan, r1] =>
        if r0 = 0 ∧ r1 = 0 then some ⟨.lrecv ⟨sa, len, peer, chan⟩, idx⟩ else none
      | _ => none
    | 0x60 => match unpackF [8, 2, 6, 14, 64, 5, 29] w with
      | [_, idx, r0, sem, thresh, tmo, r1] =>
        if r0 = 0 ∧ r1 = 0 then some ⟨.swait ⟨sem, thresh, tmo⟩, idx⟩ else none
      | _ => none
    | 0x61 => match unpackF [8, 2, 6, 14, 64, 1, 33] w with
      | [_, idx, r0, sem, value, op, r1] =>
        if r0 = 0 ∧ r1 = 0 then some ⟨.ssignal ⟨sem, value, op⟩, idx⟩ else none
      | _ => none
    | 0x68 => match unpackF [8, 2, 6, 4, 42, 66] w with
      | [_, idx, r0, apb, da, r1] =>
        if r0 = 0 ∧ r1 = 0 then some ⟨.audit ⟨apb, da⟩, idx⟩ else none
      | _ => none
    | 0x69 => match unpackF [8, 2, 6, 20, 19, 4, 2, 67] w with
      | [_, idx, r0, sa, len, ctx, op, r1] =>
        if r0 = 0 ∧ r1 = 0 then some ⟨.digest ⟨sa, len, ctx, op⟩, idx⟩ else none
      | _ => none
    | 0x6A => match unpackF [8, 2, 6, 4, 42, 66] w with
      | [_, idx, r0, apb, da, r1] =>
        if r0 = 0 ∧ r1 = 0 then some ⟨.cert ⟨apb, da⟩, idx⟩ else none
      | _ => none
    | _ => none

/-- The command that a word of the opcode table spells: the table gives no row any bits, so none. -/
def decodeTableWord (_nbits _w : Nat) : Option Instr := none

end Sys2Proof
end

