-- ==== Sys2Proof/Machine/Aes.lean ====
section
/-!
DEFINITION. AES-256, AES-256-GCM and the CTR_DRBG of NIST SP 800-90A with the derivation function, which R321, R375,
R571 and R582 name and do not reproduce (PRESUMED from FIPS 197, SP 800-38D and SP 800-90A, log entry 11).
-/
namespace Sys2Proof.Machine

/-- The S-box. -/
def aesSbox : List Nat :=
  [0x63, 0x7C, 0x77, 0x7B, 0xF2, 0x6B, 0x6F, 0xC5, 0x30, 0x01, 0x67, 0x2B, 0xFE, 0xD7, 0xAB, 0x76, 0xCA, 0x82, 0xC9, 0x7D, 0xFA, 0x59, 0x47, 0xF0, 0xAD, 0xD4, 0xA2, 0xAF, 0x9C, 0xA4, 0x72, 0xC0] ++
  [0xB7, 0xFD, 0x93, 0x26, 0x36, 0x3F, 0xF7, 0xCC, 0x34, 0xA5, 0xE5, 0xF1, 0x71, 0xD8, 0x31, 0x15, 0x04, 0xC7, 0x23, 0xC3, 0x18, 0x96, 0x05, 0x9A, 0x07, 0x12, 0x80, 0xE2, 0xEB, 0x27, 0xB2, 0x75] ++
  [0x09, 0x83, 0x2C, 0x1A, 0x1B, 0x6E, 0x5A, 0xA0, 0x52, 0x3B, 0xD6, 0xB3, 0x29, 0xE3, 0x2F, 0x84, 0x53, 0xD1, 0x00, 0xED, 0x20, 0xFC, 0xB1, 0x5B, 0x6A, 0xCB, 0xBE, 0x39, 0x4A, 0x4C, 0x58, 0xCF] ++
  [0xD0, 0xEF, 0xAA, 0xFB, 0x43, 0x4D, 0x33, 0x85, 0x45, 0xF9, 0x02, 0x7F, 0x50, 0x3C, 0x9F, 0xA8, 0x51, 0xA3, 0x40, 0x8F, 0x92, 0x9D, 0x38, 0xF5, 0xBC, 0xB6, 0xDA, 0x21, 0x10, 0xFF, 0xF3, 0xD2] ++
  [0xCD, 0x0C, 0x13, 0xEC, 0x5F, 0x97, 0x44, 0x17, 0xC4, 0xA7, 0x7E, 0x3D, 0x64, 0x5D, 0x19, 0x73, 0x60, 0x81, 0x4F, 0xDC, 0x22, 0x2A, 0x90, 0x88, 0x46, 0xEE, 0xB8, 0x14, 0xDE, 0x5E, 0x0B, 0xDB] ++
  [0xE0, 0x32, 0x3A, 0x0A, 0x49, 0x06, 0x24, 0x5C, 0xC2, 0xD3, 0xAC, 0x62, 0x91, 0x95, 0xE4, 0x79, 0xE7, 0xC8, 0x37, 0x6D, 0x8D, 0xD5, 0x4E, 0xA9, 0x6C, 0x56, 0xF4, 0xEA, 0x65, 0x7A, 0xAE, 0x08] ++
  [0xBA, 0x78, 0x25, 0x2E, 0x1C, 0xA6, 0xB4, 0xC6, 0xE8, 0xDD, 0x74, 0x1F, 0x4B, 0xBD, 0x8B, 0x8A, 0x70, 0x3E, 0xB5, 0x66, 0x48, 0x03, 0xF6, 0x0E, 0x61, 0x35, 0x57, 0xB9, 0x86, 0xC1, 0x1D, 0x9E] ++
  [0xE1, 0xF8, 0x98, 0x11, 0x69, 0xD9, 0x8E, 0x94, 0x9B, 0x1E, 0x87, 0xE9, 0xCE, 0x55, 0x28, 0xDF, 0x8C, 0xA1, 0x89, 0x0D, 0xBF, 0xE6, 0x42, 0x68, 0x41, 0x99, 0x2D, 0x0F, 0xB0, 0x54, 0xBB, 0x16]

/-- Multiplication by x in GF(2⁸). -/
def xtime (a : Nat) : Nat := if a < 128 then 2 * a else (2 * a) % 256 ^^^ 0x1B

/-- The next word of the AES-256 key schedule, word `i`, from the words so far, newest first. -/
def aesNextWord (ws : List (List Nat)) (i rcon : Nat) : List Nat :=
  let prev := nth ws 0 []
  let t :=
    if i % 8 = 0 then
      match prev with
      | [a, b, c, d] => [nth aesSbox b 0 ^^^ rcon, nth aesSbox c 0, nth aesSbox d 0, nth aesSbox a 0]
      | _ => []
    else if i % 8 = 4 then prev.map fun x => nth aesSbox x 0
    else prev
  ((nth ws 7 []).zip t).map fun p => p.1 ^^^ p.2

/-- Extends the schedule by `n` words from word `i` on. -/
def aesExpand : Nat → Nat → Nat → List (List Nat) → List (List Nat)
  | 0, _, _, ws => ws
  | n + 1, i, rcon, ws =>
    aesExpand n (i + 1) (if i % 8 = 0 then xtime rcon else rcon) (aesNextWord ws i rcon :: ws)

/-- The 15 round keys of 16 bytes each of a 32-byte key. -/
def aesKeys (key : List Byte) : List (List Nat) :=
  let ws := ((List.range 8).map fun i => (slice key (4 * i) 4).map (·.toNat)).reverse
  let all := (aesExpand 52 8 1 ws).reverse
  (List.range 15).map fun r => (slice4 all (4 * r)).flatten
where
  slice4 (l : List (List Nat)) (o : Nat) : List (List Nat) := (l.drop o).take 4

/-- SubBytes and ShiftRows: byte `4c + r` comes from column `c + r`. -/
def aesSubShift (s : List Nat) : List Nat :=
  (List.range 16).map fun i => nth aesSbox (nth s ((i + 4 * (i % 4)) % 16) 0) 0

/-- MixColumns. -/
def aesMix (s : List Nat) : List Nat :=
  (List.range 16).map fun i =>
    let c := i / 4 * 4
    let r := i % 4
    let a := nth s (c + r) 0
    let b := nth s (c + (r + 1) % 4) 0
    xtime a ^^^ (xtime b ^^^ b) ^^^ nth s (c + (r + 2) % 4) 0 ^^^ nth s (c + (r + 3) % 4) 0

/-- The bytewise exclusive or of two blocks. -/
def xorL (a b : List Nat) : List Nat := (a.zip b).map fun p => p.1 ^^^ p.2

/-- AES-256 of one block under expanded keys. -/
def aesBlockK (ks : List (List Nat)) (blk : List Nat) : List Nat :=
  let s := xorL blk (nth ks 0 [])
  let s := (List.range 13).foldl (fun s r => xorL (aesMix (aesSubShift s)) (nth ks (r + 1) [])) s
  xorL (aesSubShift s) (nth ks 14 [])

/-- The big-endian value of a block. -/
def beNat (l : List Nat) : Nat := l.foldl (fun a b => 256 * a + b) 0

/-- `n` big-endian bytes of `v`. -/
def beBytes (n v : Nat) : List Nat := ((leBytes n v).map (·.toNat)).reverse

/-- Bytes as numbers. -/
def toNats (l : List Byte) : List Nat := l.map (·.toNat)

/-- Numbers as bytes. -/
def ofNats (l : List Nat) : List Byte := l.map (BitVec.ofNat 8)

/-- The product of two field elements of GCM. -/
def gcmMul (x y : Nat) : Nat :=
  ((List.range 128).foldl (fun (zv : Nat × Nat) i =>
    let z := if x.testBit (127 - i) then zv.1 ^^^ zv.2 else zv.1
    let v := if zv.2 % 2 = 1 then (zv.2 / 2) ^^^ (0xE1 * 2 ^ 120) else zv.2 / 2
    (z, v)) (0, y)).1

/-- GHASH over whole 16-byte blocks; `n` bounds their number. -/
def ghash (h : Nat) : Nat → List Nat → Nat → Nat
  | 0, _, y => y
  | n + 1, l, y => if l.isEmpty then y else ghash h n (l.drop 16) (gcmMul (y ^^^ beNat (l.take 16)) h)

/-- Zero padding to 16 bytes. -/
def pad16 (l : List Nat) : List Nat := l ++ List.replicate ((16 - l.length % 16) % 16) 0

/-- The counter-mode stream over `n` blocks from the counter block `iv ‖ c`. -/
def gcmCtr (ks : List (List Nat)) (iv : List Nat) : Nat → Nat → List Nat
  | 0, _ => []
  | n + 1, c => aesBlockK ks (iv ++ beBytes 4 c) ++ gcmCtr ks iv n (c + 1)

/-- AES-256-GCM: the other text (cipher or plain) of `txt`, and the tag over the ciphertext `ct` it has. -/
def gcmTag (ks : List (List Nat)) (iv aad ct : List Nat) : List Nat :=
  let h := beNat (aesBlockK ks (List.replicate 16 0))
  let msg := pad16 aad ++ pad16 ct ++ beBytes 8 (8 * aad.length) ++ beBytes 8 (8 * ct.length)
  xorL (beBytes 16 (ghash h (msg.length / 16) msg 0)) (aesBlockK ks (iv ++ beBytes 4 1))

/-- Encryption: ciphertext and 16-byte tag. -/
def gcmEncrypt (key iv aad pt : List Byte) : List Byte × List Byte :=
  let ks := aesKeys key
  let ct := xorL (toNats pt) (gcmCtr ks (toNats iv) (ceilDiv pt.length 16) 2)
  (ofNats ct, ofNats (gcmTag ks (toNats iv) (toNats aad) ct))

/-- Decryption: the plaintext, or none when the first `tag.length` bytes of the tag do not match. -/
def gcmDecrypt (key iv aad ct tag : List Byte) : Option (List Byte) :=
  let ks := aesKeys key
  if ofNats ((gcmTag ks (toNats iv) (toNats aad) (toNats ct)).take tag.length) = tag then
    some (ofNats (xorL (toNats ct) (gcmCtr ks (toNats iv) (ceilDiv ct.length 16) 2)))
  else none

/-! ## CTR_DRBG -/

/-- `n` blocks of AES(key, V + 1), AES(key, V + 2), … -/
def drbgBlocks (ks : List (List Nat)) : Nat → Nat → List Nat
  | 0, _ => []
  | n + 1, v => aesBlockK ks (beBytes 16 ((v + 1) % 2 ^ 128)) ++ drbgBlocks ks n ((v + 1) % 2 ^ 128)

/-- CTR_DRBG_Update of `(Key, V)` with 48 bytes of data. -/
def drbgUpdate (key v data : List Byte) : List Byte × List Byte :=
  let t := ofNats (xorL (drbgBlocks (aesKeys key) 3 (beNat (toNats v))) (toNats data))
  (t.take 32, t.drop 32)

/-- BCC: the CBC-MAC chain over whole blocks. -/
def drbgBcc (ks : List (List Nat)) : Nat → List Nat → List Nat → List Nat
  | 0, _, c => c
  | n + 1, l, c => if l.isEmpty then c else drbgBcc ks n (l.drop 16) (aesBlockK ks (xorL c (l.take 16)))

/-- The derivation function, 48 bytes out. -/
def drbgDf (inp : List Byte) : List Byte :=
  let s := pad16 (beBytes 4 inp.length ++ beBytes 4 48 ++ toNats inp ++ [0x80])
  let ks := aesKeys (ofNats (List.range 32))
  let t := (List.range 3).flatMap fun i =>
    let m := beBytes 4 i ++ List.replicate 12 0 ++ s
    drbgBcc ks (m.length / 16) m (List.replicate 16 0)
  let k2 := aesKeys (ofNats (t.take 32))
  let x1 := aesBlockK k2 ((t.drop 32).take 16)
  let x2 := aesBlockK k2 x1
  let x3 := aesBlockK k2 x2
  ofNats (x1 ++ x2 ++ x3)

/-- `(Key, V)` of a fresh instance from entropy with nonce, and a personalisation string. -/
def drbgInstantiate (entropy pers : List Byte) : List Byte × List Byte :=
  drbgUpdate (zeros 32) (zeros 16) (drbgDf (entropy ++ pers))

/-- `(Key, V)` after a reseed. -/
def drbgReseed (key v entropy : List Byte) : List Byte × List Byte := drbgUpdate key v (drbgDf entropy)

/-- `n` output bytes, and `(Key, V)` after the request. -/
def drbgGenerate (key v : List Byte) (n : Nat) : List Byte × List Byte × List Byte :=
  let k := ceilDiv n 16
  let o := (ofNats (drbgBlocks (aesKeys key) k (beNat (toNats v)))).take n
  let v' := ofNats (beBytes 16 ((beNat (toNats v) + k) % 2 ^ 128))
  (o, drbgUpdate key v' (zeros 48))

end Sys2Proof.Machine
end

