-- ==== Sys2Proof/Machine/Tensor.lean ====
section
/-!
DEFINITION. The array, its accumulator words and checks (R230 to R244, R261 to R263), the output path (R252 to R260), and
the vector unit (R267 to R270, R295 to R299): pure functions on tiles, words and byte strings.
-/
namespace Sys2Proof.Machine

/-- A stationary tile as loaded: format, transposition, its bytes and MX scales by offset, and its checksum column of 512
codes, i32 or FP32 (R233, R292, R293). -/
structure Tile where
  fmt : Fmt
  trans : Bool
  data : Sparse Byte
  scale : Sparse Byte
  chk : List Nat
  deriving DecidableEq, Repr

/-- The bytes of a 512 × 512 tile. -/
def tileLen (f : Fmt) : Nat := 32768 * fmtBits f

/-- The entries of a region as a store of its own, from offset 0. -/
def spCut (m : Sparse Byte) (a n : Nat) : Sparse Byte := (spRange a n m).map fun e => (e.1 - a, e.2)

/-- The code of element `n` of packed elements held sparsely (R228). -/
def spElem (bits : Nat) (m : Sparse Byte) (n : Nat) : Nat :=
  if bits = 6 then field (leNat (spBytes m (3 * (n / 4)) 3)) (6 * (n % 4)) 6
  else if bits < 8 then field (spGet zeroByte (n * bits / 8) m).toNat (n * bits % 8) bits
  else leNat (spBytes m (n * bits / 8) (bits / 8))

/-- The code of T[k][c] (R232, R235). -/
def tileCode (t : Tile) (k c : Nat) : Nat :=
  spElem (fmtBits t.fmt) t.data (if t.trans then 512 * c + k else 512 * k + c)

/-- The E8M0 code of the block of cell `k` in column `c` (R293); 127 for a format without scales. -/
def tileScale (t : Tile) (k c : Nat) : Nat :=
  if isMx t.fmt then (spGet zeroByte (16 * c + k / 32) t.scale).toNat else 127

/-- The element offsets with a stored byte, each once: the elements that may differ from code 0. -/
def storedElems (bits : Nat) (m : Sparse Byte) : List Nat :=
  let all := (m.map fun e =>
    if bits = 6 then (List.range 4).map fun i => e.1 / 3 * 4 + i
    else if bits < 8 then (List.range (8 / bits)).map fun i => e.1 * (8 / bits) + i
    else [e.1 / (bits / 8)]).flatten
  dedup all
where
  dedup : List Nat → List Nat
    | x :: y :: l => if x = y then dedup (y :: l) else x :: dedup (y :: l)
    | l => l

/-- The nonzero integer entries of an integer tile as (k, c, value). -/
def tileInts (t : Tile) : List (Nat × Nat × Int) :=
  let bits := fmtBits t.fmt
  ((dedupN (storedElems bits t.data)).map fun n =>
    let v := decodeInt t.fmt (spElem bits t.data n)
    (if t.trans then n % 512 else n / 512, if t.trans then n / 512 else n % 512, v)).filter fun e => e.2.2 ≠ 0
where
  dedupN (l : List Nat) : List Nat := l.foldl (fun acc x => if acc.headD (x + 1) = x then acc else x :: acc) [] |>.reverse

/-- The exact column sums of an integer pass (R238). -/
def intColumns (ts : List (Nat × Nat × Int)) (x : List Int) : List Int :=
  ts.foldl (fun y e => updAt y e.2.1 fun v => v + e.2.2 * nth x e.1 0) (List.replicate 512 0)

/-- An exact value times a power of two. -/
def fvScale (v : FVal) (e : Int) : FVal :=
  match v with
  | .fin n m q => .fin n m (q + e)
  | v => v

/-- The exponent of the leading bit of a nonzero finite value. -/
def leadExp (m : Nat) (e : Int) : Int := (bitLength m : Int) - 1 + e

/-- The sum of a chunk of exact products (R239, R240): the FP32 code, whether it clamped, and E where a product is nonzero.
`sh` is mx_shift. -/
def chunkSum (ps : List FVal) (sh : Int) : Nat × Bool × Option Int :=
  let pos := ps.any fun p => decide (p = .inf false)
  let neg := ps.any fun p => decide (p = .inf true)
  if (ps.any fun p => decide (p = .nan)) || (pos && neg) then (f32NaN, false, none)
  else if pos then (infCode .fp32 false, false, none)
  else if neg then (infCode .fp32 true, false, none)
  else
    let lead := ps.filterMap fun p => match p with
      | .fin _ m e => if m = 0 then none else some (leadExp m e)
      | _ => none
    match lead with
    | [] =>
      let allNeg := ps.all fun p => match p with | .fin n _ _ => n | _ => false
      (if allNeg then 0x80000000 else 0, false, none)
    | l0 :: ls =>
      let E := ls.foldl (fun a b => if b > a then b else a) l0
      let acc := ps.foldl (fun (st : Int × Bool) p => match p with
        | .fin n m e =>
          -- |p| × 2^(47 − E)
          let q := e + 47 - E
          let A : Nat := if 0 ≤ q then m * 2 ^ q.toNat else m / 2 ^ (-q).toNat
          let exact := if 0 ≤ q then true else decide (m % 2 ^ (-q).toNat = 0)
          (if n then st.1 - (A : Int) else st.1 + (A : Int), st.2 || !exact)
        | _ => st) ((0 : Int), false)
      if acc.1 = 0 then (0, false, some E)
      else
        let r := f32RoundClamp (decide (acc.1 < 0)) (2 * acc.1.natAbs + b2n acc.2) (E - 48 + sh)
        (r.1, r.2, some E)

/-- The FP32 addition of R241, with the clamp. -/
def f32AddClamp (a b : Nat) : Nat × Bool := f32OfClamp (fvAdd (f32 a) (f32 b))

/-- One level of the FP32 tree over (code, clamped) pairs. -/
def addPairs : List (Nat × Bool) → List (Nat × Bool)
  | a :: b :: l => (let r := f32AddClamp a.1 b.1; (r.1, r.2 || a.2 || b.2)) :: addPairs l
  | l => l

/-- The result of a float column: its code, whether anything clamped, and the exponents E_j + 6 + mx_shift_j of its
envelope (R239, R241, R262). `ps` are the 512 exact products, `sh` the shift of each chunk, `none` where a scale is NaN. -/
def floatColumn (ps : List FVal) (sh : List (Option Int)) : Nat × Bool × List Int :=
  let chunks := (List.range 16).map fun j =>
    match nth sh j (some 0) with
    | none => (f32NaN, false, none)
    | some s => chunkSum ((ps.drop (32 * j)).take 32) s
  let sums := chunks.map fun c => (c.1, c.2.1)
  let r := (addPairs (addPairs (addPairs (addPairs sums)))).headD (0, false)
  (r.1, r.2, (List.range 16).filterMap fun j =>
    match (nth chunks j (0, false, none)).2.2, nth sh j (some 0) with
    | some E, some s => some (E + 6 + s)
    | _, _ => none)

/-- A streamed vector: its element values and the E8M0 codes of its 16 blocks. -/
structure SVec where
  xs : List FVal
  sc : List Nat
  deriving DecidableEq, Repr

/-- mx_shift of chunk `j`, `none` where either scale is 0xFF (R231, R239). -/
def chunkShift (mx : Bool) (xa xb : Nat) : Option Int :=
  if !mx then some 0 else if xa = 255 ∨ xb = 255 then none else some ((xa : Int) + xb - 254)

/-- The 512 results of a float pass for one streamed vector, each with its clamp and envelope. -/
def floatPass (t : Tile) (x : SVec) : List (Nat × Bool × List Int) :=
  (List.range 512).map fun c =>
    floatColumn ((List.range 512).map fun k => fvMul (decodeElem t.fmt (tileCode t k c)) (nth x.xs k (.fin false 0 0)))
      ((List.range 16).map fun j => chunkShift (isMx t.fmt) (tileScale t (32 * j) c) (nth x.sc j 127))

/-- The output of the checksum column of a float pass; the stored FP32 sums carry no scale, the streamed blocks do. -/
def floatChk (t : Tile) (x : SVec) : Nat × Bool × List Int :=
  floatColumn ((List.range 512).map fun k => fvMul (f32 (nth t.chk k 0)) (nth x.xs k (.fin false 0 0)))
    ((List.range 16).map fun j => if isMx t.fmt then (let b := nth x.sc j 127; if b = 255 then none else some ((b : Int) - 127))
      else some 0)

/-- The exact value of an FP32 code as a dyadic, 0 for a special. -/
def f32Dyad (c : Nat) : Int × Int :=
  match f32 c with
  | .fin n m e => (if n then -(m : Int) else (m : Int), e)
  | _ => (0, 0)

/-- An exact dyadic sum in units of `2^(-400)`; every FP32 value and every envelope term is a multiple. -/
def dyadSum (l : List (Int × Int)) : Int := sumI (l.map fun d => d.1 * 2 ^ (d.2 + 400).toNat)

/-- Whether the check of a float pass passes (R262, R263): a special or clamped output is recomputed and compares equal. -/
def floatCheck (ys : List (Nat × Bool × List Int)) (z : Nat × Bool × List Int) : Bool :=
  let special (y : Nat × Bool × List Int) := y.2.1 || (match f32 y.1 with | .fin _ _ _ => false | _ => true)
  if special z || ys.any special then true
  else
    let d : Int := dyadSum (ys.map fun y => f32Dyad y.1) - dyadSum [f32Dyad z.1]
    let u : Int := dyadSum (((z :: ys).map fun y => y.2.2.map fun e => ((1 : Int), e)).flatten)
    decide (((d.natAbs * 1048576 : Nat) : Int) ≤ u + ((2 ^ 294 : Nat) : Int))

/-- The checksum column formed from a tile (R233, R235). -/
def formChk (t : Tile) : List Nat :=
  if isIntFmt t.fmt then
    let ts := tileInts t
    (ts.foldl (fun (z : List Int) e => updAt z e.1 fun v => v + e.2.2) (List.replicate 512 0)).map (unsigned 32)
  else (List.range 512).map fun k =>
    f32Of ((List.range 512).foldl (fun acc c =>
      let s := tileScale t k c
      let v := decodeElem t.fmt (tileCode t k c)
      fvAdd acc (if isMx t.fmt ∧ s = 255 then .nan else fvScale v ((s : Int) - 127))) (.fin false 0 0))

/-- The pairings of R236. -/
def pairOk (st sv : Fmt) : Bool :=
  let small (f : Fmt) := decide (f = .fp4) || decide (f = .fp6e2m3) || decide (f = .fp6e3m2)
  let mxCost (f : Fmt) : Nat := match f with
    | .mxfp4 | .mxfp6e2m3 | .mxfp6e3m2 => 1
    | _ => 2
  match st with
  | .int4 => decide (sv = .int4) || decide (sv = .s1) || decide (sv = .b1)
  | .int8 => decide (sv = .int8) || decide (sv = .int4) || decide (sv = .s1) || decide (sv = .b1)
  | .int16 => decide (sv = .int16) || decide (sv = .int8) || decide (sv = .s1) || decide (sv = .b1)
  | .fp4 | .fp6e2m3 | .fp6e3m2 => small sv
  | .fp8e4m3 | .fp8e5m2 => decide (sv = .fp8e4m3) || decide (sv = .fp8e5m2) || small sv
  | .fp16 => decide (sv = .fp16)
  | .bf16 => decide (sv = .bf16)
  | .fp32 => decide (sv = .fp32)
  | .s1 | .b1 | .int32 | .e8m0 => false
  | f => isMx sv && decide (mxCost sv ≤ mxCost f)

/-- The cost of a pass in halves of a handshake step per vector (R236). -/
def passCost2 (f : Fmt) : Nat :=
  match elemFmt f with
  | .int4 | .fp4 | .fp6e2m3 | .fp6e3m2 => 1
  | .int16 | .fp16 | .bf16 => 8
  | .fp32 => 32
  | _ => 2

/-! ## Accumulator words (R242 to R244) -/

/-- The limits of an INT32 slot. -/
def i32Min : Int := -(2 ^ 31)
def i32Max : Int := 2 ^ 31 - 1

/-- One INT32 slot word: the column sum written or added, clamped once (R243). -/
def accInt (acc : Bool) (old : Nat) (y : Int) : Nat × Flags :=
  let v := if acc then signed 32 old + y else y
  (unsigned 32 (clampI v i32Min i32Max), { sat := decide (v < i32Min) || decide (v > i32Max) })

/-- The NAN and INF flags of an FP32 code. -/
def specialFlags (c : Nat) : Flags :=
  match f32 c with
  | .nan => { nan := true }
  | .inf _ => { inf := true }
  | _ => {}

/-- One FP32 slot word (R242). -/
def accFloat (acc : Bool) (old y : Nat) : Nat × Flags :=
  if acc then
    let r := f32AddClamp old y
    (r.1, orFlags { sat := r.2 } (orFlags (specialFlags r.1) (specialFlags y)))
  else (y, specialFlags y)

/-! ## The output path -/

/-- The optional output shift of an INT32 value with a rounding mode (R254, R256). -/
def outShift (rnd : Rnd) (w sh : Nat) (v : Int) : Int :=
  if sh = 0 then v
  else match rnd with
    | .rne => rshiftRne v sh
    | .rtz => if v < 0 then -((-v) / 2 ^ sh) else v / 2 ^ sh
    | .sr =>
      let f := v / (2 ^ sh : Int)
      let rem := (v - f * 2 ^ sh).toNat
      if w < rem * 2 ^ (32 - sh) then f + 1 else f

/-- The fused operation on a slot word (R253); `t` is the exact value of the other operand. Where FP32 does not hold an INT32
element exactly, it is rounded with RNE, and a NaN or infinity that arises in the operation raises its flag in the slot's
record, and an MX element beyond the range of FP32 is the largest finite FP32 of its sign (DESIGN CHOICE, log entry 94). -/
def fuseWord (isInt : Bool) (op : Nat) (a : Nat) (t : FVal) : Nat × Flags :=
  if isInt then
    let ti : Int := match t with | .fin n m e => if n then -((m * 2 ^ e.toNat : Nat) : Int) else ((m * 2 ^ e.toNat : Nat) : Int) | _ => 0
    let v := if op = 1 then signed 32 a + ti else signed 32 a * ti
    (unsigned 32 (clampI v i32Min i32Max), { sat := decide (v < i32Min) || decide (v > i32Max) })
  else
    let tv := f32 (convElem .fp32 .rne 0 t).1
    let r := f32OfClamp (if op = 1 then fvAdd (f32 a) tv else fvMul (f32 a) tv)
    (r.1, orFlags { sat := r.2 } (specialFlags r.1))

/-- The value of a slot word. -/
def wordVal (isInt : Bool) (c : Nat) : FVal := if isInt then fvalOfInt (signed 32 c) else f32 c

/-- e_max of R258. -/
def mxEmax (f : Fmt) : Int :=
  match f with
  | .mxfp8e4m3 => 8 | .mxfp8e5m2 => 15 | .mxfp6e2m3 => 2 | .mxfp6e3m2 => 4 | .mxfp4 => 2 | _ => 0

/-- The scale of a block of values (R258). -/
def mxScale (f : Fmt) (vs : List FVal) : Nat :=
  if vs.any fun v => decide (v = .nan) then 255
  else
    let leads := vs.filterMap fun v => match v with
      | .fin _ m e => if m = 0 then none else some (leadExp m e)
      | .inf _ => some 1000
      | .nan => none
    match leads with
    | [] => 127
    | l0 :: ls =>
      let E := ls.foldl (fun a b => if b > a then b else a) l0
      (clampI (E - mxEmax f + 127) 0 254).toNat

/-- An element of an MX block under its scale (R258). -/
def mxElem (f : Fmt) (rnd : Rnd) (w x : Nat) (v : FVal) : Nat × Flags :=
  let u := fvScale v (127 - (x : Int))
  if f = .mxint8 then convElem .int8 rnd w (fvScale u 6) else convElem (elemFmt f) rnd w u

/-- The union of the flags of a list of conversions. -/
def flagsAll (l : List (Nat × Flags)) : Flags := l.foldl (fun a e => orFlags a e.2) {}

/-- `(value, position)` entries of a top-k in rank order (R259, R260). -/
def topRank (isInt maxMode : Bool) (es : List (Nat × Nat)) : List (Nat × Nat) :=
  let num (c : Nat) := wordVal isInt c
  let lt (a b : Nat × Nat) : Bool :=
    match num a.1, num b.1 with
    | .nan, .nan => decide (a.2 < b.2)
    | .nan, _ => false
    | _, .nan => true
    | x, y =>
      if maxMode then (fvLtNum y x || (!fvLtNum x y && decide (a.2 < b.2)))
      else (fvLtNum x y || (!fvLtNum y x && decide (a.2 < b.2)))
  sortBy lt es

/-- A 128-byte top-k record of R259: 16 values, 16 u16 positions, zeros. -/
def topRecord (k : Nat) (es : List (Nat × Nat)) : List Byte :=
  let t := es.take k
  let pad := 16 - t.length
  (t.map fun e => leBytes 4 e.1).flatten ++ zeros (4 * pad) ++ (t.map fun e => leBytes 2 e.2).flatten
    ++ (List.replicate pad (leBytes 2 0xFFFF)).flatten ++ zeros 32

/-- A merged record of R297: 16 values, 16 u32 positions. -/
def topMerged (k : Nat) (es : List (Nat × Nat)) : List Byte :=
  let t := es.take k
  let pad := 16 - t.length
  (t.map fun e => leBytes 4 e.1).flatten ++ zeros (4 * pad) ++ (t.map fun e => leBytes 4 e.2).flatten
    ++ (List.replicate pad (leBytes 4 0xFFFFFFFF)).flatten

/-- The entries of a record of R259, its positions taken from `base` on; an entry beyond k has position 0xFFFF. -/
def recordEntries (b : List Byte) (base : Nat) : List (Nat × Nat) :=
  (List.range 16).filterMap fun i =>
    let p := leAt b (64 + 2 * i) 2
    if p = 0xFFFF then none else some (leAt b (4 * i) 4, base + p)

/-! ## The vector unit -/

/-- The types of R287. -/
inductive VTy where
  | f32 | i8 | i16 | i32 | i64 | i128
  deriving DecidableEq, Repr

/-- The type a code names. -/
def vtyOf (c : Nat) : Option VTy :=
  match c with
  | 0 => some .f32 | 1 => some .i8 | 2 => some .i16 | 3 => some .i32 | 4 => some .i64 | 5 => some .i128 | _ => none

/-- Bytes of an element of a type. -/
def vtyBytes : VTy → Nat
  | .f32 => 4 | .i8 => 1 | .i16 => 2 | .i32 => 4 | .i64 => 8 | .i128 => 16

/-- An integer result held in its type, with SAT when it clamped (R296). -/
def intSat (ty : VTy) (v : Int) : Nat × Bool :=
  let w := 8 * vtyBytes ty
  let lo : Int := -(2 ^ (w - 1))
  let hi : Int := 2 ^ (w - 1) - 1
  (unsigned w (clampI v lo hi), decide (v < lo) || decide (v > hi))

/-- IMM as a value of an integer type (R295). -/
def immInt (ty : VTy) (imm : Nat) : Int := signed (min 32 (8 * vtyBytes ty)) imm

/-- An integer `VOP` function (R295); SAT as in R296. -/
def vopInt (ty : VTy) (f : Nat) (imm : Nat) (a b d : Int) : Nat × Bool :=
  let k := immInt ty imm
  match f with
  | 0x00 => intSat ty a
  | 0x01 => intSat ty (a + b)
  | 0x02 => intSat ty (a - b)
  | 0x03 => intSat ty (a * b)
  | 0x04 => intSat ty (a * b + d)
  | 0x05 => intSat ty (if b < a then b else a)
  | 0x06 => intSat ty (if a < b then b else a)
  | 0x07 => intSat ty (a + k)
  | 0x08 => intSat ty (a * k)
  | 0x09 => (unsigned (8 * vtyBytes ty) (clampI a (-k) k), false)
  | 0x0A => intSat ty (rshiftRne a (imm % 128))
  | 0x0B => intSat ty (a * 2 ^ (imm % 128))
  | 0x0C => intSat ty (if a ≥ b then 1 else 0)
  | _ => intSat ty (if a < 0 then 0 else a)

/-- An FP32 `VOP` function (R295). -/
def vopF32 (f imm a b d : Nat) : Nat :=
  match f with
  | 0x00 => if f32 a = .nan then canonNaN .fp32 else a
  | 0x01 => f32Add a b
  | 0x02 => f32Sub a b
  | 0x03 => f32Mul a b
  | 0x04 => f32Fma a b d
  | 0x05 => f32Min a b
  | 0x06 => f32Max a b
  | 0x07 => f32Add a imm
  | 0x08 => f32Mul a imm
  | 0x09 => f32Min (f32Max a (f32Neg imm)) imm
  | 0x0C =>
    if f32 a = .nan ∨ f32 b = .nan then 0 else if fvLtNum (f32 a) (f32 b) then 0 else f32One
  | 0x0D => f32Max a 0
  | 0x10 => f32Rcp a
  | 0x11 => f32Sqrt a
  | 0x12 => f32Rsqrt a
  | 0x13 => f32Exp2 a
  | 0x14 => f32Log2 a
  | 0x18 => f32Exp a
  | 0x19 => f32Sigmoid a
  | 0x1A => f32Tanh a
  | 0x1B => f32Silu a
  | 0x1C => f32Gelu a
  | _ => a

/-- The functions of R295 that a type has. -/
def vopOk (f : Nat) (ty : VTy) : Bool :=
  if f ≤ 0x09 ∨ f = 0x0C ∨ f = 0x0D then true
  else if f = 0x0A ∨ f = 0x0B then decide (ty ≠ .f32)
  else (decide (0x10 ≤ f ∧ f ≤ 0x14) || decide (0x18 ≤ f ∧ f ≤ 0x1C)) && decide (ty = .f32)

/-- `VOP` over byte strings of `n` elements: the result, and SAT. -/
def vopBytes (ty : VTy) (f imm n : Nat) (a b d : List Byte) : List Byte × Bool :=
  let w := vtyBytes ty
  let el (l : List Byte) (i : Nat) := leAt l (w * i) w
  if ty = .f32 then
    (((List.range n).map fun i => leBytes 4 (vopF32 f imm (el a i) (el b i) (el d i))).flatten, false)
  else
    let sg (l : List Byte) (i : Nat) := signed (8 * w) (el l i)
    let rs := (List.range n).map fun i => vopInt ty f imm (sg a i) (sg b i) (sg d i)
    ((rs.map fun r => leBytes w r.1).flatten, rs.any fun r => r.2)

/-- `VRED` over a byte string of `n` elements (R270, R296): an integer SUM is i128, other results one value of the type. A sum
beyond i128 keeps its low 128 bits (DESIGN CHOICE, log entry 94). -/
def vredBytes (ty : VTy) (op n : Nat) (a : List Byte) : List Byte :=
  let w := vtyBytes ty
  let el (i : Nat) := leAt a (w * i) w
  if ty = .f32 then
    let xs := (List.range n).map el
    leBytes 4 (match op with
      | 0 => reduce512 f32Add 0 xs
      | 1 => reduce512 f32Max (infCode .fp32 true) xs
      | _ => reduce512 f32Min (infCode .fp32 false) xs)
  else
    let xs := (List.range n).map fun i => signed (8 * w) (el i)
    match op with
    | 0 => leBytes 16 (unsigned 128 (sumI xs))
    | 1 => leBytes w (unsigned (8 * w) (xs.foldl (fun m x => if m < x then x else m) (xs.headD 0)))
    | _ => leBytes w (unsigned (8 * w) (xs.foldl (fun m x => if x < m then x else m) (xs.headD 0)))

/-- One `PBUILD` element (R299, R300): the value (an integer, or the S1 bit), a clamp, a NaN. -/
def pbuildElem (kind : Nat) (rnd : Rnd) (w : Nat) (v : FVal) (scaleE : Int) : Int × Bool × Bool :=
  let p := fvScale v scaleE
  let rng : Int × Int := match kind with
    | 0 => (i32Min, i32Max)
    | 1 => (-(2 ^ 24), 2 ^ 24)
    | _ => (0, 65535)
  if kind = 3 then
    match p with
    | .nan => (1, false, true)
    | .inf n => (if n then 0 else 1, true, false)
    | .fin n m _ => (if n && decide (m ≠ 0) then 0 else 1, false, false)
  else match p with
    | .nan => (0, false, true)
    | .inf n => (if n then rng.1 else rng.2, true, false)
    | .fin n m e =>
      let i := roundInt rnd w n m e
      (clampI i rng.1 rng.2, decide (i < rng.1) || decide (i > rng.2), false)

end Sys2Proof.Machine
end

