-- ==== Sys2Proof/Machine/Porant.lean ====
section
/-!
DEFINITION. Porant images: the header and tables (R318 to R320), and the checks of an install (R272 to R301, R313, R314,
R318 to R322, R699), as pure functions on the image's bytes.
-/
namespace Sys2Proof.Machine

/-- Where a `PROGRAM_INVALID` arose (R472, R693): the source, the location, and the engine of an instruction index. -/
structure Loc where
  src : Nat
  at_ : Nat
  eng : Option Nat := none
  deriving DecidableEq, Repr

/-- DETAIL of a location (R693). -/
def locDetail (l : Loc) : Nat := l.src * 2 ^ 24 + l.at_ % 2 ^ 24

/-- DETAIL_OFFSET of a location (R693). -/
def locOffset (l : Loc) : Nat :=
  match l.eng with
  | none => l.at_ % 2 ^ 48
  | some e => l.at_ % 2 ^ 48 + e * 2 ^ 48 + 2 ^ 63

/-! ## The header and the tables -/

def imgFlags (b : List Byte) : Nat := leAt b 0x006 2
def imgLen (b : List Byte) : Nat := leAt b 0x008 8
def imgMask (b : List Byte) : Nat := leAt b 0x010 4
def imgDevCount (b : List Byte) : Nat := leAt b 0x014 2
def imgMode (b : List Byte) : Nat := leAt b 0x016 1
def imgStages (b : List Byte) : Nat := leAt b 0x018 2
def imgPsets (b : List Byte) : Nat := leAt b 0x01A 1
def imgConsts (b : List Byte) : Nat := leAt b 0x01C 4
def offEngine (b : List Byte) : Nat := leAt b 0x020 8
def offPset (b : List Byte) : Nat := leAt b 0x028 8
def offStage (b : List Byte) : Nat := leAt b 0x030 8
def offDevlist (b : List Byte) : Nat := leAt b 0x038 8
def offConst (b : List Byte) : Nat := leAt b 0x040 8

/-- The device identifiers of the image in position order (R318). -/
def imgDevlist (b : List Byte) : List Nat := (List.range (imgDevCount b)).map fun i => leAt b (offDevlist b + 2 * i) 2

/-- Offset and count of an engine's program (R318). -/
def engEntry (b : List Byte) (e : Nat) : Nat × Nat := (leAt b (offEngine b + 16 * e) 8, leAt b (offEngine b + 16 * e + 8) 4)

/-- Offset and length of a parameter set (R318). -/
def psetEntry (b : List Byte) (i : Nat) : Nat × Nat := (leAt b (offPset b + 16 * i) 8, leAt b (offPset b + 16 * i + 8) 4)

/-- The bytes of a parameter set. -/
def psetBytes (b : List Byte) (i : Nat) : List Byte := let e := psetEntry b i; slice b e.1 e.2

/-- STAGE_ID, KIND and APB of a stage-table entry (R318). -/
def stageEntry (b : List Byte) (i : Nat) : Nat × Nat × Nat :=
  (leAt b (offStage b + 8 * i) 2, leAt b (offStage b + 8 * i + 2) 1, leAt b (offStage b + 8 * i + 3) 1)

/-- A constant entry (R320). -/
structure ConstEnt where
  src : Nat
  len : Nat
  place : Nat
  eng : Nat
  dest : Nat
  deriving DecidableEq, Repr

/-- The constant entries of an image. -/
def constEnts (b : List Byte) : List ConstEnt :=
  (List.range (imgConsts b)).map fun i =>
    let o := offConst b + 32 * i
    { src := leAt b o 8, len := leAt b (o + 8) 8, place := leAt b (o + 0x10) 1, eng := leAt b (o + 0x11) 1,
      dest := leAt b (o + 0x18) 8 }

/-- A constant whose place lies in a home region: it has a master in the device reserve (R519). -/
def inHome (c : ConstEnt) : Bool := decide (c.place = 0) || (decide (0x010000000000 ≤ c.dest) && decide (c.dest < 0x018900000000))

/-- Bytes of a constant's master: whole words of LPDDR6 (R523; DESIGN CHOICE, log entry 103). -/
def masterLen (c : ConstEnt) : Nat := if inHome c then ceilDiv c.len 32 * 32 else 0

/-- The device address a constant goes to (R320, R517). -/
def constAddr (c : ConstEnt) : Nat := if c.place = 0 then 0x010000000000 + c.eng * 0x40000000 + c.dest else c.dest

/-- Whether logical engine `e` has a program. -/
def hasProg (b : List Byte) (e : Nat) : Bool := bit (imgMask b) e

/-- The engines that have programs. -/
def progEngines (b : List Byte) : List Nat := (List.range 32).filter (hasProg b)

/-- Instruction `i` of engine `e` as stored. -/
def engWord (b : List Byte) (e i : Nat) : Nat := leAt b ((engEntry b e).1 + 16 * i) 16

/-- Instruction `i` of engine `e`; `none` beyond the end or where it does not decode. -/
def engInstr (b : List Byte) (e i : Nat) : Option EngInstr :=
  if i < (engEntry b e).2 then decodeEng (engWord b e i) else none

/-- The program of an engine; a word that does not decode appears as `NOP` (an install refuses it). -/
def engProg (b : List Byte) (e : Nat) : List EngInstr :=
  (List.range (engEntry b e).2).map fun i => (decodeEng (engWord b e i)).getD ⟨.nop, 0⟩

/-! ## Loops (R275 to R277) -/

/-- An enclosing loop: the index of the `LOOP`, the index after its body, COUNT, STRIDE and MODE. -/
structure LoopAt where
  start : Nat
  stop : Nat
  count : Nat
  stride : Int
  mode : Nat
  deriving DecidableEq, Repr

/-- The loop that a `LOOP` at index `i` opens. -/
def loopAt (i : Nat) (o : LoopOp) : LoopAt := ⟨i, i + 1 + o.body, o.count, signed 20 o.stride, o.mode⟩

/-- The loops left of a stack at index `i`: those whose body has not ended. -/
def openLoops (i : Nat) (ls : List LoopAt) : List LoopAt := ls.filter fun l => decide (i < l.stop)

/-- Each instruction with its index and its enclosing loops, innermost first. -/
def scanLoops : List EngInstr → Nat → List LoopAt → List (Nat × EngInstr × List LoopAt)
  | [], _, _ => []
  | x :: p, i, ls =>
    let ls := openLoops i ls
    (i, x, ls) :: scanLoops p (i + 1) (match x.op with | .loop o => loopAt i o :: ls | _ => ls)

/-- The executed order of a program with every COUNTED loop of more than one repetition run twice: enough to see what
each instruction finds written before it, since a body writes the same slots and tiles at every repetition. -/
def flowIdx (p : List EngInstr) : Nat → Nat → Nat → List Nat
  | 0, _, _ => []
  | f + 1, i, stop =>
    if i ≥ stop then []
    else match p[i]?.map EngInstr.op with
      | none => []
      | some (.loop o) =>
        let body := flowIdx p f (i + 1) (i + 1 + o.body)
        (if o.mode = 0 ∧ o.count ≤ 1 then body else body ++ body) ++ flowIdx p f (i + 1 + o.body) stop
      | some _ => i :: flowIdx p f (i + 1) stop

/-! ## Classes of instructions -/

/-- Anneal-class instructions (R282, R301): APB. -/
def annealApb : EngOp → Option Nat
  | .pload o => some o.apb
  | .gather o => some o.apb
  | .relax o => some o.apb
  | .choose o => some o.apb
  | .rollcall o => some o.apb
  | .fieldup o => some o.apb
  | .sweepend o => some o.apb
  | .result o => some o.apb
  | _ => none

/-- What R282 compares of a collective: opcode, APB, DA, TAG, SCOPE. -/
structure CollKey where
  op : Nat
  apb : Nat
  da : Nat
  tag : Nat
  scope : Nat
  deriving DecidableEq, Repr

/-- The key of a collective instruction. -/
def collKey : EngOp → Option CollKey
  | .pload o => some ⟨0x40, o.apb, o.da, 0, 0⟩
  | .gather o => some ⟨0x41, o.apb, 0, 0, 0⟩
  | .relax o => some ⟨0x42, o.apb, 0, 0, 0⟩
  | .choose o => some ⟨0x43, o.apb, 0, 0, 0⟩
  | .rollcall o => some ⟨0x44, o.apb, 0, 0, 0⟩
  | .fieldup o => some ⟨0x45, o.apb, 0, 0, 0⟩
  | .sweepend o => some ⟨0x46, o.apb, 0, 0, 0⟩
  | .result o => some ⟨0x47, o.apb, o.da, 0, 0⟩
  | .red o => some ⟨0x50, 0, 0, o.tag, o.scope⟩
  | .bcast o => some ⟨0x51, 0, 0, o.tag, o.scope⟩
  | .audit o => some ⟨0x68, o.apb, o.da, 0, 0⟩
  | .cert o => some ⟨0x6A, o.apb, o.da, 0, 0⟩
  | _ => none

/-- Whether a collective is `RED` or `BCAST`. -/
def isTagged (k : CollKey) : Bool := decide (k.op = 0x50) || decide (k.op = 0x51)

/-- The items of a collective sequence: a collective, the bounds of a loop whose repetitions are not fixed, or the end of the program. -/
inductive CollItem where
  | coll (k : CollKey)
  | enter (mode : Nat)
  | leave
  | halt
  deriving DecidableEq, Repr

/-- The collectives of a program in executed order, COUNTED loops written out (R282). -/
def collFlow (p : List EngInstr) : Nat → Nat → Nat → List CollItem
  | 0, _, _ => []
  | f + 1, i, stop =>
    if i ≥ stop then []
    else match p[i]?.map EngInstr.op with
      | none => []
      | some (.loop o) =>
        let body := collFlow p f (i + 1) (i + 1 + o.body)
        (if body.isEmpty then []
         else if o.mode = 0 then (List.replicate o.count body).flatten
         else CollItem.enter o.mode :: body ++ [CollItem.leave]) ++ collFlow p f (i + 1 + o.body) stop
      | some op =>
        (match op, collKey op with | .halt, _ => [CollItem.halt] | _, some k => [CollItem.coll k] | _, none => []) ++
          collFlow p f (i + 1) stop

/-- The collective sequence that an engine issues: up to the `HALT` that ends its program (R282, R284). -/
def collSeq (b : List Byte) (e : Nat) : List CollItem :=
  let p := engProg b e
  (collFlow p (p.length + 1) 0 p.length).takeWhile fun it => decide (it ≠ .halt)

/-- The engines that hold the anneal-class instructions, `AUDIT` and `CERT` (R282). -/
def mainEngines (b : List Byte) : List Nat :=
  (progEngines b).filter fun e =>
    (engProg b e).any fun x => match collKey x.op with | some k => !isTagged k | none => false

/-- E_img (R282). -/
def eImg (b : List Byte) : Nat := (mainEngines b).length

/-- Whether two engines stand in one scope (R287, R303). -/
def sameScope (scope e f : Nat) : Bool := decide (scope ≠ 0) || decide (e / 8 = f / 8)

/-- The engines of the scope of engine `e` whose programs name a tag, in a `RED` or a `BCAST` of whatever scope (R282): where
their opcodes or scopes differ, their sequences differ, and the program set is rejected. -/
def tagEngines (b : List Byte) (tag scope e : Nat) : List Nat :=
  (progEngines b).filter fun f => sameScope scope e f &&
    (engProg b f).any fun x => match collKey x.op with
      | some k => isTagged k && decide (k.tag = tag)
      | none => false

/-- The participants of a collective that engine `e` holds. -/
def participants (b : List Byte) (k : CollKey) (e : Nat) : List Nat :=
  if isTagged k then tagEngines b k.tag k.scope e else mainEngines b

/-! ## Ranges (R277, R287, R314) -/

/-- The byte `a`, length `n`, lies wholly in the Slate or wholly in the exchange window (R287). -/
def slateOk (a : Int) (n : Nat) : Bool :=
  decide (0 ≤ a) && (decide (a + n ≤ 0x2000000) || (decide (0x2000000 ≤ a) && decide (a + n ≤ 0x2100000)))

/-- The same for every iteration `i < count` of address `a + i × step`: the end points, and the last start below the
boundary of the two areas. -/
def slateRangeOk (a : Nat) (step : Int) (count n : Nat) : Bool :=
  let last : Int := (a : Int) + ((count : Int) - 1) * step
  slateOk a n && slateOk last n &&
    (if step = 0 then true
     else
       let lo : Int := if step > 0 then a else last
       let hi : Int := if step > 0 then last else a
       let sp : Int := if step > 0 then step else -step
       let x : Int := lo + ((0x1FFFFFF - lo) / sp) * sp
       decide (x > hi) || decide (x < lo) || slateOk x n)

/-- The same for the home region (R287): 1 GiB. -/
def homeRangeOk (a : Nat) (step : Int) (count n : Nat) : Bool :=
  let last : Int := (a : Int) + ((count : Int) - 1) * step
  let ok (x : Int) : Bool := decide (0 ≤ x) && decide (x + n ≤ 0x40000000)
  ok a && ok last

/-- The upper half of the Slate or the exchange window, which an anneal owns (R281). -/
def annealOwned (a : Int) (n : Nat) : Bool := decide (a + n > 0x1000000)

/-- Bytes of a vector of 512 elements in a format, rounded up to 64 (R294). -/
def vecStride (f : Fmt) : Nat := ceilDiv (64 * fmtBits f) 64 * 64

/-- Bytes of MX scales that follow the elements of `v` vectors (R293). -/
def mxTail (f : Fmt) (v mxdim : Nat) : Nat := if isMx f then (if mxdim = 0 then 16 * v else 512 * (v / 32)) else 0

/-- Bytes of a drain's destination (R293, R294). -/
def drainLen (o : DrainOp) : Nat :=
  let v := o.v + 1
  if o.topk ≠ 0 then 128 * v
  else match fmtOfCode o.ofmt with
    | none => 0
    | some f => v * vecStride f + mxTail f v o.mxdim

/-- Bytes of a fused operand: the shape of the drained tile in OFMT (DESIGN CHOICE, log entry 25). -/
def fuseLen (o : DrainOp) : Nat :=
  let v := o.v + 1
  if o.topk ≠ 0 then 2048 * v
  else match fmtOfCode o.ofmt with
    | none => 0
    | some f => v * vecStride f + (if isMx f then 16 * v else 0)

/-- Bytes of a type's vector operand. -/
def vecLen (ty nv : Nat) : Nat := match vtyOf ty with | some t => (nv + 1) * 512 * vtyBytes t | none => 0

/-- An operand range of an instruction: whether it is the indexed field, its byte address, its length. -/
structure OpRange where
  indexed : Bool
  addr : Nat
  len : Nat
  deriving DecidableEq, Repr

/-- Bytes of the layout at SA_D of a `PBUILD` (R299). -/
def pbuildLen (kind n : Nat) : Nat :=
  match kind with
  | 0 => 4 * n
  | 1 => 16 * n - 12
  | 2 => 16 * n - 10
  | _ => ceilDiv n 8

/-- The Slate and exchange-window ranges that an instruction names. DESIGN CHOICE (log 95): an SA in a field that the instruction does
    not use is not checked. -/
def slateRanges : EngOp → List OpRange
  | .tstamp o => [⟨true, 64 * o.sa, 8⟩]
  | .move o =>
    ⟨true, 64 * o.sa, 64 * (o.len + 1)⟩ :: (if o.dir = 4 then [⟨false, 64 * o.addr, 64 * (o.len + 1)⟩] else [])
  | .fill o => [⟨true, 64 * o.sa, 64 * (o.len + 1)⟩]
  | .sld o =>
    match fmtOfCode o.fmt with
    | none => []
    | some f =>
      (if o.space = 0 then ⟨true, 64 * o.addr, tileLen (elemFmt f)⟩ ::
        (if o.chk = 0 then [⟨false, 64 * o.caddr, 2048⟩] else []) else [])
      ++ (if isMx f then [⟨false, 64 * o.scale, 8192⟩] else [])
  | .stream o =>
    match fmtOfCode o.fmt with
    | none => []
    | some f => ⟨true, 64 * o.sa, (o.v + 1) * vecStride (elemFmt f)⟩ ::
        (if isMx f then [⟨false, 64 * o.scale, 16 * (o.v + 1)⟩] else [])
  | .drain o => ⟨true, 64 * o.sa, drainLen o⟩ :: (if o.fuse = 0 then [] else [⟨false, 64 * o.fuseSa, fuseLen o⟩])
  | .pdrain o => [⟨true, 64 * o.sa, 2048 * (o.v + 1) + 64⟩]
  | .preload o => [⟨true, 64 * o.sa, 2048 * (o.v + 1) + 64⟩]
  | .vop o =>
    let n := vecLen o.ty o.nv
    [⟨true, 64 * o.saD, n⟩, ⟨false, 64 * o.saA, n⟩] ++
      (if (0x01 ≤ o.func ∧ o.func ≤ 0x06) ∨ o.func = 0x0C then [⟨false, 64 * o.saB, n⟩] else [])
  | .vred o => [⟨true, 64 * o.saD, if o.op = 0 ∧ o.ty ≠ 0 then 16 else (match vtyOf o.ty with | some t => vtyBytes t | none => 0)⟩,
      ⟨false, 64 * o.saA, vecLen o.ty o.nv⟩]
  | .vnorm o => [⟨true, 64 * o.saD, 4 * (o.n + 1)⟩, ⟨false, 64 * o.saA, 4 * (o.n + 1)⟩]
  | .vcvt o =>
    let n (c : Nat) : Nat := match fmtOfCode c with | some f => (o.nv + 1) * vecStride (elemFmt f) + mxTail f (o.nv + 1) 0 | none => 0
    [⟨true, 64 * o.saD, n o.ofmt⟩, ⟨false, 64 * o.saA, n o.ifmt⟩]
  | .vtopk o => [⟨true, 64 * o.saD, 128⟩, ⟨false, 64 * o.saA, 128 * (o.nr + 1)⟩]
  | .pbuild o => [⟨true, 64 * o.saA, 4 * (o.count + 1)⟩, ⟨false, 64 * o.saD, pbuildLen o.kind (o.count + 1)⟩]
  | .red o => [⟨true, 64 * o.saA, vecLen o.ty o.nv⟩, ⟨false, 64 * o.saD, vecLen o.ty o.nv⟩]
  | .bcast o => [⟨true, 64 * o.sa, 64 * (o.len + 1)⟩]
  | .lsend o => [⟨true, 64 * o.sa, 64 * (o.len + 1)⟩]
  | .lrecv o => [⟨true, 64 * o.sa, 64 * (o.len + 1)⟩]
  | .digest o => if o.op = 0 then [] else [⟨true, 64 * o.sa, if o.op = 1 then 64 * (o.len + 1) else 32⟩]
  | _ => []

/-- The home-region ranges that an instruction names. -/
def homeRanges : EngOp → List OpRange
  | .move o => if o.dir = 2 ∨ o.dir = 3 then [⟨false, 64 * o.addr, 64 * (o.len + 1)⟩] else []
  | .sld o =>
    match fmtOfCode o.fmt with
    | none => []
    | some f => if o.space = 1 then ⟨true, 64 * o.addr, tileLen (elemFmt f)⟩ ::
        (if o.chk = 0 then [⟨false, 64 * o.caddr, 2048⟩] else []) else []
  | _ => []

/-- The device-address range that an instruction fixes, for the map check of R313: a `MOVE` whole, the certificate that a `CERT`
of an image without an ANNEAL stage writes at its DA (R310), and of the others their first byte, since the rest depends on
the loaded problem. -/
def daRange (anneal : Bool) : EngOp → Option (Nat × Nat)
  | .move o => if o.dir = 0 ∨ o.dir = 1 then some (64 * o.addr, 64 * (o.len + 1)) else none
  | .pload o => some (64 * o.da, 1)
  | .result o => some (64 * o.da, 1)
  | .audit o => some (64 * o.da, 1)
  | .cert o => some (64 * o.da, if anneal then 1 else 512)
  | _ => none

/-- Whether an instruction has an indexed field (R286, R289). -/
def hasIndexed (op : EngOp) : Bool :=
  (slateRanges op ++ homeRanges op).any (·.indexed) || (match op with | .digest _ => true | _ => false)

/-- The count and the byte step that IDX applies to an indexed field: a PHASES loop runs `h` times, a SWEEPS loop at most `b` times, the
BUDGET. An install, which knows neither, checks their first iteration; `PLOAD` checks every one (R277, R313). -/
def idxStep (idx h b : Nat) (ls : List LoopAt) : Option (Nat × Int) :=
  if idx = 0 then some (1, 0)
  else match ls[idx - 1]? with
    | none => none
    | some l =>
      if l.mode = 0 then some (l.count, 64 * l.stride)
      else if l.stride = 0 then some (1, 0)
      else some (if l.mode = 1 then h else b, 64 * l.stride)

/-- Every Slate, exchange-window and home range of an instruction is inside, at every iteration. -/
def rangesOk (x : EngInstr) (h b : Nat) (ls : List LoopAt) : Bool :=
  match idxStep x.idx h b ls with
  | none => false
  | some (n, st) =>
    ((slateRanges x.op).all fun r => if r.indexed then slateRangeOk r.addr st n r.len else slateRangeOk r.addr 0 1 r.len) &&
    ((homeRanges x.op).all fun r => if r.indexed then homeRangeOk r.addr st n r.len else homeRangeOk r.addr 0 1 r.len)

/-- A device-address range touches the upper half of the Slate or the exchange window of a participating engine: the
resources of R281 that the device address map shows (R517). -/
def annealOwnsDa (es : List Nat) (a n : Nat) : Bool :=
  let meets (b l : Nat) : Bool := decide (a < b + l) && decide (b < a + n)
  es.any fun e => meets (0x020000000000 + e * 2 ^ 25 + 2 ^ 24) (2 ^ 24) || meets (0x020100000000 + e * 2 ^ 20) (2 ^ 20)

/-- None of its Slate ranges, nor the device-address range of a `MOVE`, touches what an anneal owns (R281). -/
def avoidsAnneal (es : List Nat) (x : EngInstr) (h b : Nat) (ls : List LoopAt) : Bool :=
  match idxStep x.idx h b ls with
  | none => false
  | some (n, st) =>
    ((slateRanges x.op).all fun r =>
      let last : Int := (r.addr : Int) + ((n : Int) - 1) * (if r.indexed then st else 0)
      !annealOwned r.addr r.len && !annealOwned last r.len) &&
    (match x.op with
     | .move o => !(decide (o.dir ≤ 1) && annealOwnsDa es (64 * o.addr) (64 * (o.len + 1)))
     | _ => true)

/-! ## Encoding checks of one instruction (R286 to R299, R314) -/

/-- A format code that R288 lists. -/
def fmtListed (c : Nat) : Bool := (fmtOfCode c).isSome

/-- Units of a slot for V−1 = `v` (R247). -/
def slotUnits (v : Nat) : Nat := ceilDiv (v + 1) 32

/-- The encoding values of an instruction are not reserved, and it meets the rules that concern it alone. `npset` is
PSET_COUNT, `single` says that the image is of one device, `cert0` that a `CERT` names APB 0 in an image without ANNEAL. -/
def opOk (op : EngOp) : Bool :=
  match op with
  | .nop | .halt | .tstamp _ | .fill _ | .gather _ | .relax _ | .choose _ | .rollcall _ | .fieldup _ | .sweepend _
  | .pload _ | .result _ | .audit _ | .cert _ | .lsend _ | .lrecv _ | .swait _ | .ssignal _ => true
  | .loop o => decide (1 ≤ o.body) && decide (o.mode ≤ 2) && decide ((1 ≤ o.count) ↔ (o.mode = 0))
  | .stage o => decide (o.kind ≤ 4) && (decide (o.kind = 2) || decide (o.apb = 0))
  | .move o =>
    decide (o.dir ≤ 4) && (decide (o.hreg ≤ 7) || decide (o.hreg = 15)) &&
      (if o.dir = 2 ∨ o.dir = 3 then decide (o.addr < 2 ^ 24) else if o.dir = 4 then decide (o.addr < 2 ^ 20) else true)
  | .sld o => (decide (o.hreg ≤ 7) || decide (o.hreg = 15)) && fmtListed o.fmt &&
      (decide (o.space = 1) || (decide (o.addr < 2 ^ 20) && (decide (o.chk = 1) || decide (o.caddr < 2 ^ 20))))
  | .stream o => fmtListed o.fmt && decide (o.slot + slotUnits o.v ≤ 128)
  | .drain o =>
    decide (o.slot + slotUnits o.v ≤ 128) && decide (o.rnd ≤ 2) && decide (o.fuse ≤ 2) && decide (o.topk ≤ 2) &&
      fmtListed o.ofmt && decide (fmtOfCode o.ofmt ≠ some .e8m0) && (decide (o.topk = 0) || decide (o.ofmt = 0)) &&
      (decide (o.mxdim = 0) || decide ((o.v + 1) % 32 = 0))
  | .pdrain o => decide (o.slot + slotUnits o.v ≤ 128)
  | .preload o => decide (o.slot + slotUnits o.v ≤ 128)
  | .vop o =>
    match vtyOf o.ty with
    | none => false
    | some ty => vopOk o.func ty &&
        (if o.func = 0x09 then
          (if ty = .f32 then !fvLtNum (f32 o.imm) (f32 0) && decide (f32 o.imm ≠ .nan) else decide (0 ≤ immInt ty o.imm))
         else if o.func = 0x0A ∨ o.func = 0x0B then decide (o.imm ≤ 127) else true)
  | .vred o => (vtyOf o.ty).isSome && decide (o.op ≤ 2)
  | .vnorm _ => true
  | .vcvt o => fmtListed o.ifmt && fmtListed o.ofmt && decide (o.rnd ≤ 2) && (decide (o.rnd ≠ 2) || decide (o.nv + 1 ≤ 512))
  | .vtopk _ => true
  | .pbuild o => decide (o.kind ≤ 3) && decide (o.rnd ≤ 2) && decide (-64 ≤ signed 8 o.scaleE) && decide (signed 8 o.scaleE ≤ 63)
  | .red o => decide (o.op ≤ 2) && (decide (o.ty = 0) || decide (o.ty = 3) || decide (o.ty = 4)) && decide (o.scope ≤ 2)
  | .bcast o => decide (o.root < 32) && decide (o.scope ≤ 2)
  | .digest o => decide (1 ≤ o.ctx)

/-- A fused operand is its own destination or does not overlap it, at every iteration (R253). -/
def fuseOk (x : EngInstr) (h b : Nat) (ls : List LoopAt) : Bool :=
  match x.op with
  | .drain o =>
    if o.fuse = 0 then true
    else match idxStep x.idx h b ls with
      | none => false
      | some (n, st) =>
        let d : Int := 64 * o.sa
        let f : Int := 64 * o.fuseSa
        let dl : Int := drainLen o
        let tl : Int := fuseLen o
        let bad (a : Int) : Bool := decide (a + dl > f) && decide (f + tl > a) && decide (a ≠ f)
        if st = 0 then !bad d
        else
          -- the iterations lo to hi meet the operand: at most one of them may be the operand itself
          let d0 : Int := if st > 0 then d else d + ((n : Int) - 1) * st
          let sp : Int := if st > 0 then st else -st
          let lo : Int := max 0 ((f - dl - d0) / sp + 1)
          let hi : Int := min ((n : Int) - 1) ((f + tl - 1 - d0) / sp)
          if hi < lo then true else decide (lo = hi) && decide (d0 + lo * sp = f)
  | _ => true

/-! ## Checks of one program -/

/-- What a program has written so far to slot units and the stationary tile: the array rules of R292 and R294. -/
structure ArrayFlow where
  tile : Option Fmt
  units : List (Option (Nat × Nat))
  deriving DecidableEq, Repr

/-- Marks the units of a slot as last written by (SLOT, V−1). -/
def markUnits (u : List (Option (Nat × Nat))) (slot v : Nat) : List (Option (Nat × Nat)) :=
  u.mapIdx fun i e => if slot ≤ i ∧ i < slot + slotUnits v then some (slot, v) else e

/-- The array rules along one step: the new record, and whether the instruction is allowed. -/
def arrayStep (a : ArrayFlow) (op : EngOp) : ArrayFlow × Bool :=
  let last (slot v : Nat) : Bool := (List.range (slotUnits v)).all fun i => decide (nth a.units (slot + i) none = some (slot, v))
  match op with
  | .sld o => ({ a with tile := fmtOfCode o.fmt }, true)
  | .stream o =>
    ({ a with units := markUnits a.units o.slot o.v },
      match a.tile, fmtOfCode o.fmt with
      | some t, some f => pairOk t f
      | _, _ => false)
  | .preload o => ({ a with units := markUnits a.units o.slot o.v }, last o.slot o.v)
  | .drain o => (a, last o.slot o.v)
  | .pdrain o => (a, last o.slot o.v)
  | .pload _ => ({ a with units := List.replicate 128 none }, true)
  | _ => (a, true)

/-- The index of the first instruction that breaks an array rule. -/
def arrayCheck (p : List EngInstr) : Option Nat :=
  let r := (flowIdx p (p.length + 1) 0 p.length).foldl (fun (st : ArrayFlow × Option Nat) i =>
    match p[i]? with
    | none => st
    | some x =>
      let q := arrayStep st.1 x.op
      (q.1, match st.2 with | some j => some j | none => if q.2 then none else some i))
    (⟨none, List.replicate 128 none⟩, none)
  r.2

/-- The index of the first `LOOP` or IDX that R275, R276 or R314 rejects. -/
def loopCheck (p : List EngInstr) : Option Nat :=
  firstSome ((scanLoops p 0 []).map fun (i, x, ls) =>
    if x.idx > ls.length ∨ (x.idx ≠ 0 ∧ !hasIndexed x.op) then some i
    else match x.op with
      | .loop o =>
        let stop := i + 1 + o.body
        if stop > p.length ∨ ls.length ≥ 3 then some i
        else match ls.head? with
          | none => if o.mode = 1 then some i else none
          | some l => if stop > l.stop ∨ (o.mode = 1 ∧ l.mode ≠ 2) then some i else none
      | _ => none)

/-- The stage open at each instruction: the index and operands of the last `STAGE` before it. -/
def scanStages : List (Nat × EngInstr × List LoopAt) → Option (Nat × StageOp × List LoopAt) →
    List (Nat × EngInstr × List LoopAt × Option (Nat × StageOp × List LoopAt))
  | [], _ => []
  | (i, x, ls) :: l, st =>
    (i, x, ls, st) :: scanStages l (match x.op with | .stage o => some (i, o, ls) | .halt => none | _ => st)

/-- The kinds of item that R301 puts in order. -/
def sequenceItem (op : EngOp) : Option Nat :=
  match op with
  | .pload _ => some 0
  | .loop o => if o.mode = 2 then some 1 else if o.mode = 1 then some 2 else none
  | .gather _ => some 3
  | .relax _ => some 4
  | .choose _ => some 5
  | .rollcall _ => some 6
  | .fieldup _ => some 7
  | .sweepend _ => some 8
  | .result _ => some 9
  | _ => none

/-- The items of the sequence that enclose each item, innermost first: item 1 is the SWEEPS loop, item 2 the PHASES loop. -/
def sequenceNest : List (List Nat) := [[], [], [1], [2, 1], [2, 1], [2, 1], [2, 1], [2, 1], [1], []]

/-- The instruction at which a stage breaks R301: its items are not the ten of the sequence in order, each inside the loops of
the sequence that enclose it and no others beyond those around the stage, all naming the stage's APB; a stage of another
kind holds none, which of SWEEPS and PHASES loops is a DESIGN CHOICE (log entry 95). -/
def sequenceCheck (items : List (Nat × EngInstr × List LoopAt)) (st : Nat × StageOp × List LoopAt) : Option Nat :=
  let seq := items.filterMap fun (i, x, ls) => (sequenceItem x.op).map fun k => (i, k, ls, annealApb x.op)
  if st.2.1.kind ≠ 2 then seq.head?.map (·.1)
  else
    let base := st.2.2
    let at_ (n : Nat) : Option Nat := (seq[n]?).map (·.1)
    let bad := (seq.zipIdx).find? fun ((_, k, ls, a), n) =>
      let nest := nth sequenceNest n []
      decide (k ≠ n) || decide ((ls.take nest.length).map (fun l => some l.start) ≠ nest.map at_) ||
        decide (ls.drop nest.length ≠ base) || (match a with | some a => decide (a ≠ st.2.1.apb) | none => false)
    match bad with
    | some ((i, _), _) => some i
    | none => if seq.length = 10 then none else some st.1

/-- The instructions allowed between `PLOAD` and `RESULT` (R281). -/
def allowedInAnneal (op : EngOp) : Bool :=
  match op with
  | .nop | .loop _ | .tstamp _ | .move _ | .fill _ | .digest _ | .swait _ | .ssignal _ => true
  | op => (annealApb op).isSome

/-- Whether an image holds an ANNEAL stage's work: a `PLOAD`, which R301 puts into every one. -/
def holdsAnneal (b : List Byte) : Bool :=
  (progEngines b).any fun e => (engProg b e).any fun x => match x.op with | .pload _ => true | _ => false

/-- A `RESULT` of an APB and DA stands before index `i` (R699). -/
def resultBefore (p : List EngInstr) (i apb da : Nat) : Bool :=
  (p.take i).any fun y => match y.op with | .result r => decide (r.apb = apb) && decide (r.da = da) | _ => false

/-- The stage rules of one program (R279, R281, R301, R314, R322, R699): the index of the first instruction that breaks
one. `img` gives the stage table and PSET_COUNT. -/
def stageCheck (img : List Byte) (h b : Nat) (p : List EngInstr) : Option Nat :=
  let all := scanStages (scanLoops p 0 []) none
  let table := (List.range (imgStages img)).map (stageEntry img)
  let anneal := holdsAnneal img
  let opens := all.filterMap fun (i, x, ls, _) => match x.op with | .stage o => some (i, o, ls) | _ => none
  let perInstr := firstSome (all.map fun (i, x, _, st) =>
    match x.op, st with
    | .nop, _ => none
    | .loop _, _ => none
    | .stage o, _ =>
      if (table.any fun t => decide (t = (o.stageId, o.kind, o.apb))) && (decide (o.kind ≠ 2) || decide (o.apb < imgPsets img))
      then none else some i
    | .audit o, some (_, so, _) =>
      if so.kind = 3 ∧ o.apb < imgPsets img ∧ resultBefore p i o.apb o.da then none else some i
    | .cert o, some (_, so, _) =>
      if so.kind = 4 ∧ o.apb < imgPsets img ∧ (if anneal then resultBefore p i o.apb o.da else decide (o.apb = 0))
      then none else some i
    | .audit _, none => some i
    | .cert _, none => some i
    | op, some _ => match annealApb op with | some a => if a < imgPsets img then none else some i | none => none
    | op, none =>
      if (annealApb op).isNone ∧ (p.take i).any (fun y => match y.op with | .stage _ => true | _ => false) then none else some i)
  let seqs := firstSome (opens.map fun st =>
    sequenceCheck ((all.filter fun (_, _, _, s) => decide (s.map (·.1) = some st.1)).map fun (i, x, ls, _) => (i, x, ls)) st)
  let inside := firstSome (opens.map fun st =>
    let items := all.filter fun (_, _, _, s) => decide (s.map (·.1) = some st.1)
    let from' := items.dropWhile fun (_, x, _, _) => match x.op with | .pload _ => false | _ => true
    let upto := from'.takeWhile fun (_, x, _, _) => match x.op with | .result _ => false | _ => true
    firstSome (upto.map fun (i, x, ls, _) =>
      if allowedInAnneal x.op && ((annealApb x.op).isSome || avoidsAnneal (mainEngines img) x h b ls) then none else some i))
  firstSome [perInstr, seqs, inside]

/-- The device-address range that an instruction fixes lies in the map (R313, R518). -/
def daOk (anneal : Bool) (mapOk : Nat → Nat → Bool) (op : EngOp) : Bool :=
  match daRange anneal op with | some (a, n) => mapOk a n | none => true

/-- The first instruction whose device-address range an agent does not reach. -/
def daCheck (img : List Byte) (mapOk : Nat → Nat → Bool) : Option Loc :=
  firstSome ((progEngines img).map fun e =>
    (findIdx (fun x => !daOk (holdsAnneal img) mapOk x.op) (engProg img e) 0).map fun i => ⟨2, i, some e⟩)

/-- The channels that a program receives on: PEER and CHAN of its `LRECV`s. -/
def recvChans (p : List EngInstr) : List (Nat × Nat) :=
  p.filterMap fun x => match x.op with | .lrecv o => some (o.peer, o.chan) | _ => none

/-- All `LRECV` of one PEER and CHAN stand in one engine's program (R356). -/
def recvCheck (b : List Byte) : Bool :=
  (progEngines b).all fun e => (progEngines b).all fun f =>
    decide (f ≤ e) || !((recvChans (engProg b e)).any fun k => (recvChans (engProg b f)).contains k)

/-- The checks of one engine's program that need the image alone, in the classes of R314; the index of the instruction
located. `mapOk` is the device address map (R518), `pos` the device's position. -/
def progCheck (img : List Byte) (mapOk : Nat → Nat → Bool) (pos : Option Nat) (e : Nat) : Option Nat :=
  let p := engProg img e
  let sc := scanLoops p 0 []
  firstSome
    [firstSome ((List.range p.length).map fun i =>
       match decodeEng (engWord img e i) with
       | none => some i
       | some x => if opOk x.op then none else some i),
     loopCheck p,
     firstSome (sc.map fun (i, x, ls) =>
       if rangesOk x 1 1 ls && daOk (holdsAnneal img) mapOk x.op then none else some i),
     arrayCheck p,
     firstSome (sc.map fun (i, x, ls) => if fuseOk x 1 1 ls then none else some i),
     stageCheck img 1 1 p,
     firstSome (sc.map fun (i, x, _) =>
       match x.op with
       | .lsend o => if imgMode img = 0 ∨ pos = some o.peer ∨ o.peer ≥ imgDevCount img then some i else none
       | .lrecv o => if imgMode img = 0 ∨ pos = some o.peer ∨ o.peer ≥ imgDevCount img then some i else none
       | .bcast o =>
         if o.scope = 2 ∧ o.rdev ≥ imgDevCount img then some i
         else if (tagEngines img o.tag o.scope e).any fun f => decide (f = o.root) then none else some i
       | _ => none),
     (if p.any fun x => match x.op with | .halt => true | _ => false then none else some (p.length - 1))]

/-- The checks of indexed fields that need the loaded problem, at `PLOAD` (R277, R313, R314): every iteration of a PHASES loop, which runs
`h` times, and of a SWEEPS loop, which runs at most `b` times. The index of the instruction located. -/
def indexCheck (img : List Byte) (h b e : Nat) : Option Nat :=
  let p := engProg img e
  let sc := scanLoops p 0 []
  firstSome
    [firstSome (sc.map fun (i, x, ls) => if rangesOk x h b ls then none else some i),
     firstSome (sc.map fun (i, x, ls) => if fuseOk x h b ls then none else some i),
     stageCheck img h b p]

/-- The collectives two engines share, in the first one's order (R282). -/
def sharedColl (img : List Byte) (e f : Nat) : List CollItem :=
  (collSeq img e).filter fun it => match it with
    | .coll k => (participants img k e).any fun g => decide (g = f)
    | _ => (mainEngines img).any fun g => decide (g = f)

/-- The collective rule over the whole image (R282): E_img, and equal sequences for every pair of participants. -/
def collCheck (img : List Byte) : Bool :=
  decide (mainEngines img = List.range (eImg img)) &&
  ((progEngines img).all fun e => (progEngines img).all fun f =>
    decide (f ≤ e) || decide (sharedColl img e f = sharedColl img f e))

/-! ## The install (R313, R318 to R322) -/

/-- Image failures at a byte. -/
def imgFail (b : Bool) (o : Nat) : Option Loc := if b then some ⟨2, o, none⟩ else none

/-- The header checks of R318 and R322; `n` is the length the image was read with. -/
def headerCheck (b : List Byte) (n : Nat) : Option Loc :=
  let z (o w : Nat) := imgFail (decide (leAt b o w ≠ 0)) o
  let plain := decide (imgFlags b / 4 % 2 = 0)
  let table (o size : Nat) := imgFail (decide (leAt b o 8 % 64 ≠ 0) || decide (leAt b o 8 + size > imgLen b)) o
  firstSome
    [imgFail (decide (b.length < 128) || decide (leAt b 0 4 ≠ 0x504F5254)) 0, imgFail (decide (leAt b 4 2 ≠ 1)) 4,
     imgFail (decide (imgFlags b > 7)) 6, imgFail (decide (imgLen b < 128) || decide (imgLen b ≠ n)) 8,
     imgFail (decide (imgDevCount b < 1) || decide (imgDevCount b > 512)) 0x14,
     imgFail (decide (imgMode b > 3)) 0x16,
     imgFail ((decide (imgMode b = 0) && decide (imgDevCount b ≠ 1)) || (decide (imgMode b ≠ 0) && decide (imgDevCount b < 2))) 0,
     z 0x17 1,
     imgFail (decide (imgStages b < 1) || decide (imgStages b > 4096)) 0x18, imgFail (decide (imgPsets b > 16)) 0x1A,
     z 0x1B 1, table 0x20 512, table 0x28 256, table 0x30 (8 * imgStages b), table 0x38 (2 * imgDevCount b),
     table 0x40 (32 * imgConsts b), (if plain then firstSome [z 0x48 12, z 0x58 16] else none), z 0x54 4, z 0x68 24]

/-- The stage table (R322). -/
def stageTableCheck (b : List Byte) : Option Loc :=
  firstSome ((List.range (imgStages b)).map fun i =>
    let o := offStage b + 8 * i
    let e := stageEntry b i
    firstSome
      [imgFail ((List.range i).any fun j => decide ((stageEntry b j).1 = e.1)) 0, imgFail (decide (e.2.1 > 4)) (o + 2),
       imgFail (if e.2.1 = 2 then decide (e.2.2 ≥ imgPsets b) else decide (e.2.2 ≠ 0)) (o + 3),
       imgFail (decide (leAt b (o + 4) 4 ≠ 0)) (o + 4)])

/-- The parameter-set table and the sets themselves (R319, R322, R313). -/
def psetTableCheck (b : List Byte) : Option Loc :=
  firstSome ((List.range 16).map fun i =>
    let o := offPset b + 16 * i
    let e := psetEntry b i
    if i ≥ imgPsets b then imgFail (decide (leAt b o 16 ≠ 0)) o
    else firstSome
      [imgFail (decide (e.1 % 64 ≠ 0) || decide (e.1 + e.2 > imgLen b)) o, imgFail (decide (leAt b (o + 12) 4 ≠ 0)) (o + 12),
       (if e.2 < 0x130 ∨ (leAt b (e.1 + 0x70) 1 = 1 ∧ e.2 ≠ 0x130) then some ⟨4, e.1, none⟩ else none),
       (paramCheck (slice b e.1 e.2)).map fun l => ⟨4, e.1 + l, none⟩,
       (paramImageCheck (slice b e.1 e.2) (decide (imgMode b = 0) || !(imgFlags b).testBit 0)).map fun l => ⟨4, e.1 + l, none⟩])

/-- Two device-address ranges share a byte; `spans` gives the pieces of a range at their canonical addresses, so that a home region and
the region above its physical tile are one place (R517). -/
def rangesMeet (spans : Nat → Nat → List (Nat × Nat)) (a n a' n' : Nat) : Bool :=
  (spans a n).any fun p => (spans a' n').any fun q => decide (p.1 < q.1 + q.2) && decide (q.1 < p.1 + p.2)

/-- The constant table (R313, R320). `reach` says whether the INSTALL reaches a range, `spans` gives its canonical pieces. DESIGN CHOICE
(log entry 103): `another constant` is one of the same image; constants of other installed images are not compared. -/
def constTableCheck (b : List Byte) (reach : Nat → Nat → Bool) (spans : Nat → Nat → List (Nat × Nat)) : Option Loc :=
  let cs := constEnts b
  firstSome (cs.mapIdx fun i c =>
    let o := offConst b + 32 * i
    firstSome
      [imgFail (decide (c.src % 64 ≠ 0) || decide (c.src + c.len > imgLen b)) o, imgFail (decide (c.place > 1)) (o + 0x10),
       imgFail (decide (c.place = 0) && decide (c.eng > 31)) (o + 0x11),
       imgFail (decide (leAt b (o + 0x12) 6 ≠ 0)) (o + 0x12),
       imgFail (if c.place = 0 then decide (c.dest + c.len > 0x40000000) else !reach c.dest c.len) (o + 0x18),
       imgFail ((cs.take i).any fun d => rangesMeet spans (constAddr c) c.len (constAddr d) d.len) 0])

/-- The engine table (R318, R322). -/
def engTableCheck (b : List Byte) : Option Loc :=
  firstSome ((List.range 32).map fun e =>
    let o := offEngine b + 16 * e
    let t := engEntry b e
    if hasProg b e then
      firstSome [imgFail (decide (t.1 % 64 ≠ 0) || decide (t.1 + 16 * t.2 > imgLen b)) o,
        imgFail (decide (t.2 = 0) || decide (t.2 > 1048576)) (o + 8), imgFail (decide (leAt b (o + 12) 4 ≠ 0)) (o + 12)]
    else imgFail (decide (leAt b o 16 ≠ 0)) o)

/-- Every check of an image that depends on the image alone (R313), in the order header, tables, programs, collectives:
the location of the first that fails (the order is the model's, log entry 14). `mapOk` is what a program reaches, `reach` what the
INSTALL reaches. -/
def imageCheck (b : List Byte) (n : Nat) (mapOk reach : Nat → Nat → Bool) (spans : Nat → Nat → List (Nat × Nat)) (pos : Option Nat) :
    Option Loc :=
  firstSome
    [headerCheck b n, stageTableCheck b, psetTableCheck b, constTableCheck b reach spans, engTableCheck b,
     firstSome ((progEngines b).map fun e => (progCheck b mapOk pos e).map fun i => ⟨2, i, some e⟩),
     imgFail (!collCheck b || !recvCheck b) 0]

/-- The image as installed (R321): decrypted under the image key where FLAGS bit 2 is set; `none` where authentication
fails or no key is present. -/
def decryptImage (b : List Byte) (key : Option (List Byte)) : Option (List Byte) :=
  if imgFlags b / 4 % 2 = 0 then some b
  else match key with
    | none => none
    | some k =>
      let hdr := b.take 128
      let aad := b.take 0x58 ++ zeros 16 ++ (hdr.drop 0x68)
      (gcmDecrypt k (slice b 0x48 12) aad (b.drop 128) (slice b 0x58 16)).map fun pt => hdr ++ pt

/-- Bytes of constant masters that an image takes of the device reserve (R519): its constants in home regions. -/
def masterBytes (b : List Byte) : Nat := sumN ((constEnts b).map masterLen)

/-- Whether an image holds an ANNEAL stage. -/
def hasAnneal (b : List Byte) : Bool := holdsAnneal b

end Sys2Proof.Machine
end

