-- ==== Sys2Proof/Machine/Regs.lean ====
section
/-!
DEFINITION. The map of BAR 0: pages, registers, access codes, reset values, implemented bits and clamps
(spec/16_register_pages.md R627 to R631, and the page tables of the other chapters).
-/
namespace Sys2Proof.Machine

/-- The page types of R627. -/
inductive PageTy where
  | dev | txn | cfe | que | sync | dma | digest | audit | cert | eng | quad | bm | lm | scrub | link | pcie | time
  | power | therm | speed | cal | fuse | sec | key | locker | entropy | cipher | boot | debug | trace | test
  deriving DecidableEq, Repr

/-- The page at an index, with its instance (R627); other indices hold no page. -/
def pageAt (i : Nat) : Option (PageTy × Nat) :=
  if 0x003 ≤ i ∧ i ≤ 0x008 then some (.que, i - 0x003)
  else if 0x010 ≤ i ∧ i ≤ 0x033 then some (.eng, i - 0x010)
  else if 0x038 ≤ i ∧ i ≤ 0x03B then some (.quad, i - 0x038)
  else if 0x040 ≤ i ∧ i ≤ 0x043 then some (.bm, i - 0x040)
  else if 0x044 ≤ i ∧ i ≤ 0x047 then some (.lm, i - 0x044)
  else if 0x050 ≤ i ∧ i ≤ 0x05F then some (.link, i - 0x050)
  else match i with
    | 0x000 => some (.dev, 0) | 0x001 => some (.txn, 0) | 0x002 => some (.cfe, 0) | 0x009 => some (.sync, 0)
    | 0x00A => some (.dma, 0) | 0x00B => some (.digest, 0) | 0x00C => some (.audit, 0) | 0x00D => some (.cert, 0)
    | 0x048 => some (.scrub, 0) | 0x060 => some (.pcie, 0) | 0x061 => some (.time, 0) | 0x062 => some (.power, 0)
    | 0x063 => some (.therm, 0) | 0x064 => some (.speed, 0) | 0x065 => some (.cal, 0) | 0x066 => some (.fuse, 0)
    | 0x068 => some (.sec, 0) | 0x069 => some (.key, 0) | 0x06A => some (.locker, 0) | 0x06B => some (.entropy, 0)
    | 0x06C => some (.cipher, 0) | 0x070 => some (.boot, 0) | 0x071 => some (.debug, 0) | 0x072 => some (.trace, 0)
    | 0x073 => some (.test, 0) | _ => none

/-- The type code of PAGE_ID (R627). -/
def pageCode : PageTy → Nat
  | .dev => 0x01 | .txn => 0x02 | .cfe => 0x03 | .que => 0x04 | .sync => 0x05 | .dma => 0x06 | .digest => 0x07
  | .audit => 0x08 | .cert => 0x09 | .eng => 0x10 | .quad => 0x11 | .bm => 0x12 | .lm => 0x13 | .scrub => 0x14
  | .link => 0x18 | .pcie => 0x20 | .time => 0x21 | .power => 0x22 | .therm => 0x23 | .speed => 0x24 | .cal => 0x25
  | .fuse => 0x26 | .sec => 0x28 | .key => 0x29 | .locker => 0x2A | .entropy => 0x2B | .cipher => 0x2C | .boot => 0x30
  | .debug => 0x31 | .trace => 0x32 | .test => 0x33

/-! ## Page indices -/

def pgDev : Nat := 0x000
def pgTxn : Nat := 0x001
def pgCfe : Nat := 0x002
def pgQue (q : Nat) : Nat := 0x003 + q
def pgSync : Nat := 0x009
def pgAudit : Nat := 0x00C
def pgCert : Nat := 0x00D
def pgEng (p : Nat) : Nat := 0x010 + p
def pgBm (q : Nat) : Nat := 0x040 + q
def pgLm (q : Nat) : Nat := 0x044 + q
def pgScrub : Nat := 0x048
def pgLink (l : Nat) : Nat := 0x050 + l
def pgPcie : Nat := 0x060
def pgTime : Nat := 0x061
def pgPower : Nat := 0x062
def pgTherm : Nat := 0x063
def pgSpeed : Nat := 0x064
def pgCal : Nat := 0x065
def pgSec : Nat := 0x068
def pgKey : Nat := 0x069
def pgEntropy : Nat := 0x06B
def pgBoot : Nat := 0x070
def pgTrace : Nat := 0x072

/-- The BAR 0 offset of a register of a page: the key of the register file. -/
def rk (page off : Nat) : Nat := page * 0x1000 + off

/-! ## Header registers (R629) -/

def oCaps : Nat := 0x008
def oCtrl : Nat := 0x00C
def oStatus : Nat := 0x010
def oEvtStatus : Nat := 0x014
def oEvtEnable : Nat := 0x018
def oEvtForce : Nat := 0x01C
def oErrCe : Nat := 0x020
def oErrUe : Nat := 0x024
def oErrLog : Nat := 0x028
def oTxnCtrl : Nat := 0x02C
def oTxnStatus : Nat := 0x030
def oOwner : Nat := 0x034

/-- The pages that are diagnostic only (R627, R628). -/
def isDiag : PageTy → Bool
  | .dma | .digest | .quad | .fuse | .locker | .cipher | .debug | .trace | .test => true
  | _ => false

/-- The defined event bits of a page (R475, R548, R587, R652, R654, R656, R658, R661, R675). -/
def evtMask (t : PageTy) (inst : Nat) : Nat :=
  match t with
  | .dev | .cfe => 0x1F
  | .que => if inst < 2 then 0xF else 0x3
  | .eng | .pcie => 0xF
  | .bm | .lm | .sec => 0x3
  | .power | .entropy => 0x7
  | _ => 0

/-- The pages that hold the memory registers of R547, and the offset they add. -/
def memBase : PageTy → Option Nat
  | .bm | .lm => some 0
  | .eng => some 0x3C0
  | _ => none

/-- The pages that a soft reset acts on (R614). -/
def hasSoftReset : PageTy → Bool
  | .link | .que | .scrub | .dma | .trace => true
  | _ => false

/-- The pages with RWT registers (R645 and the page tables). BM and LM hold none, so their CAPS.HAS_TXN is 0 although
R645 lists them (DEDUCED, log entry 13). -/
def hasTxn : PageTy → Bool
  | .eng | .que | .cfe | .link | .power | .speed | .therm | .audit | .cert | .scrub | .time | .pcie => true
  | _ => false

/-- The error-log pointer (R629, R547, R655). -/
def errLogPtr : PageTy → Nat
  | .bm | .lm => 0x044
  | .eng => 0x404
  | _ => 0

/-- The implemented bits of an RWT register; `none` where the offset holds no RWT register. -/
def rwtMask (t : PageTy) (inst off : Nat) : Option Nat :=
  match t with
  | .cfe =>
    match off with
    | 0x050 | 0x054 | 0x05C | 0x060 | 0x064 | 0x100 | 0x104 => some 0xFFFFFFFF
    | _ => none
  | .que =>
    match off with
    | 0x040 | 0x044 | 0x048 | 0x04C | 0x050 | 0x054 => some 0xFFFFFFFF
    | 0x058 => some 0xFFFFFF7F
    | 0x100 => if inst < 2 then some 0xFFFFFFFF else none
    | 0x104 => if inst < 2 then some 0x3 else none
    | 0x108 => if inst < 2 then some 0xFFFFFFFF else none
    | _ => none
  | .audit => if off = 0x040 then some 1 else none
  | .cert => if off = 0x040 ∨ off = 0x044 ∨ off = 0x048 ∨ off = 0x04C ∨ off = 0x050 then some 0xFFFFFFFF else none
  | .eng => if off = 0x044 then some 1 else none
  | .scrub =>
    if 0x040 ≤ off ∧ off < 0x0A0 then
      match off % 0x20 with
      | 0x00 => some 0x3
      | 0x04 | 0x08 | 0x0C => some 0xFFFFFFFF
      | _ => none
    else none
  | .link => if off = 0x040 then some 0x7 else none
  | .pcie => if off = 0x044 ∨ off = 0x048 ∨ off = 0x04C then some 0xFFFFFFFF else none
  | .time =>
    match off with
    | 0x048 | 0x04C | 0x050 => some 0xFFFFFFFF
    | 0x054 => some 0xF
    | _ => none
  | .power =>
    match off with
    | 0x040 => some 1
    | 0x044 | 0x048 => some 7
    | 0x04C | 0x050 | 0x054 | 0x058 => some 0xFFFFFFFF
    | _ => none
  | .therm => if off = 0x04C then some 0xFFFFFFFF else none
  | .speed => if off = 0x040 then some 1 else if off = 0x044 ∨ off = 0x048 then some 0xF else none
  | _ => none

/-- The offsets of a page's RWT registers, rising: the registers a BEGIN copies (R640). -/
def rwtOffsets (t : PageTy) (inst : Nat) : List Nat :=
  (List.range 0x50).filterMap fun i => if (rwtMask t inst (4 * i)).isSome then some (4 * i) else none

/-- The implemented bits of an RW register whose write only sets it; `none` elsewhere. -/
def rwMask (t : PageTy) (inst off : Nat) : Option Nat :=
  if off = oEvtEnable then some (evtMask t inst)
  else
    match memBase t with
    | some b =>
      if off = b + 0x04C then some 0x1F
      else if b + 0x060 ≤ off ∧ off ≤ b + 0x084 then some 0xFFFFFFFF
      else none
    | none =>
      match t with
      | .dev => if off = 0x06C then some 0xFFFFFFFF else none
      | .txn => if off = 0x058 ∨ off = 0x05C ∨ (0x040 ≤ off ∧ off ≤ 0x04C) then some 0xFFFFFFFF else none
      | .cfe => if off = 0x04C then some 0xFFFFFFFF else none
      | .sync => if off = 0x040 then some 0x3FFF else if off = 0x050 ∨ off = 0x054 then some 0xFFFFFFFF else none
      | .sec => if off = 0x048 ∨ off = 0x04C then some 0xFFFFFFFF else none
      | .key =>
        if off = 0x048 ∨ off = 0x04C ∨ off = 0x058 ∨ off = 0x05C ∨ (0x080 ≤ off ∧ off ≤ 0x09C) then some 0xFFFFFFFF
        else none
      | .speed => if off = 0x04C then some 0x3F else none
      | .therm => if off = 0x044 then some 0x3F else none
      | .boot => if off = 0x044 then some 0xFFFFFFFF else none
      | .cal => if off = 0x048 ∨ off = 0x04C then some 0xFFFFFFFF else none
      | _ => none

/-- The clamp of an RW register at its write (R595, R606, R620, R646). -/
def rwClamp (t : PageTy) (off v : Nat) : Nat :=
  match t with
  | .txn => if off = 0x058 ∨ off = 0x05C then clampN v 1 10000 else v
  | .speed => if off = 0x04C then clampN v 0 35 else v
  | .therm => if off = 0x044 then clampN v 0 40 else v
  | .boot => if off = 0x044 then clampN v 0 0x01008000 else v
  | _ => v

/-- `v` rounded down to a power of two. -/
def floorPow2 (v : Nat) : Nat := if v = 0 then 0 else 2 ^ Nat.log2 v

/-- The clamp of an RWT register when it is applied, `cur` giving the other values of the transaction (R643). -/
def rwtClamp (t : PageTy) (off v : Nat) (cur : Nat → Nat) : Nat :=
  match t with
  | .cfe =>
    match off with
    | 0x050 => clampN v 100 1000000
    | 0x054 => clampN v 1 1000
    | 0x05C => clampN v 1 1000
    | 0x060 => clampN v 0 16
    | 0x064 => clampN v 0 127
    | 0x100 => if v < 2000 then 2000 else v
    | _ => v
  | .que =>
    match off with
    | 0x048 => clampN (floorPow2 v) 16 1024
    | 0x054 => clampN (floorPow2 v) 16 4096
    | 0x108 => clampN v 0 100000
    | _ => v
  | .cert =>
    match off with
    | 0x040 => clampN v 2 1000
    | 0x044 => clampN v 1 256
    | 0x050 => clampN v 0 4096
    | _ => v
  | .pcie =>
    match off with
    | 0x044 => clampN v 1 100
    | _ => v
  | .time =>
    match off with
    | 0x050 => unsigned 32 (clampI (signed 32 v) (-2147484) 2147484)
    | _ => v
  | .power =>
    match off with
    | 0x048 => if v < cur 0x044 then cur 0x044 else v
    | 0x04C => clampN v 600 1200
    | 0x050 => clampN v 550 850
    | 0x054 => max (clampN v 550 850) (cur 0x050)
    | 0x058 => clampN v 500 1500
    | _ => v
  | .therm => if off = 0x04C then clampN v 70 95 else v
  | .scrub =>
    let lim (x : Nat) := if off < 0x060 then clampN x 10 86400 else clampN x 1800 604800
    match off % 0x20 with
    | 0x08 => lim v
    | 0x0C => let m := lim v; if m < cur (off - 4) then cur (off - 4) else m
    | 0x04 => clampN v (cur (off + 4)) (cur (off + 8))
    | _ => v
  | _ => v

/-- The order in which the clamps of a transaction are made: the bounds before what they bound (R533, R657). -/
def clampOrder (t : PageTy) (inst : Nat) : List Nat :=
  match t with
  | .scrub => [0x040, 0x048, 0x04C, 0x044, 0x060, 0x068, 0x06C, 0x064, 0x080, 0x088, 0x08C, 0x084]
  | _ => rwtOffsets t inst

/-- The offsets of a page's saturating counters, which CNT_CLEAR clears (R648, R649). -/
def satCounters (t : PageTy) : List Nat :=
  [oErrCe, oErrUe] ++
  (match t with
   | .dev => [0x064, 0x068]
   | .txn => [0x060]
   | .cfe => [0x070, 0x074, 0x078]
   | .que => [0x07C, 0x114, 0x118, 0x11C, 0x120, 0x124]
   | .sync => [0x05C]
   | .audit => [0x048, 0x04C, 0x050]
   | .eng => [0x04C, 0x050, 0x44C, 0x450, 0x454, 0x458, 0x45C]
   | .bm | .lm => [0x08C, 0x090, 0x094, 0x098, 0x09C]
   | .scrub => [0x054, 0x058, 0x074, 0x078, 0x094, 0x098]
   | .link => [0x058, 0x05C, 0x060, 0x064, 0x068, 0x06C]
   | .pcie => [0x050, 0x054, 0x058, 0x05C, 0x060]
   | .power => [0x074, 0x078]
   | .therm => [0x050]
   | .speed => [0x058]
   | .entropy => [0x044, 0x048, 0x054]
   | _ => [])

/-- The reset value of a register of a page's own map. -/
def ownReset (t : PageTy) (inst off : Nat) : Nat :=
  match t with
  | .dev =>
    if off = 0x040 then 0x00B05120
    else if off = 0x044 then Config.serial.toNat % 2 ^ 32
    else if off = 0x048 then Config.serial.toNat / 2 ^ 32
    else 0
  | .txn => if off = 0x058 ∨ off = 0x05C then 0x64 else 0
  | .cfe =>
    match off with
    | 0x050 => 0x3E8 | 0x054 => 0x4 | 0x058 => 0x7918 | 0x05C => 0xA | 0x060 => 0x4 | 0x064 => 0x7F
    | 0x100 => 0xC350 | 0x104 => 0x100 | _ => 0
  | .que =>
    match off with
    | 0x048 | 0x054 => 0x10
    | 0x058 => 0x00010100
    | 0x104 => if inst < 2 then 1 else 0
    | 0x108 => if inst < 2 then 0x3E8 else 0
    | _ => 0
  | .audit => if off = 0x040 then 1 else 0
  | .cert => if off = 0x040 then 0xA else if off = 0x044 then 0x100 else 0
  | .eng => if off = 0x044 then 1 else 0
  | .scrub =>
    match off with
    | 0x040 | 0x060 | 0x080 => 3
    | 0x044 | 0x050 => 0x258
    | 0x048 => 0x3C
    | 0x04C => 0xE10
    | 0x064 | 0x070 | 0x084 | 0x090 => 0x5460
    | 0x068 | 0x088 => 0xE10
    | 0x06C | 0x08C => 0x15180
    | _ => 0
  | .link => if off = 0x048 then 0xFFFF else 0
  | .pcie => if off = 0x044 then 0xA else 0
  | .power =>
    match off with
    | 0x040 => 1 | 0x048 => 7 | 0x04C => 0x3E8 | 0x050 => 0x226 | 0x054 => 0x352 | 0x058 => 0x4B0 | 0x064 => 0x2EE
    | _ => 0
  | .therm => if off = 0x04C then 0x5F else 0
  | .speed => if off = 0x040 then 1 else if off = 0x048 then 0xF else 0
  | _ => 0

/-- The reset value of every register (R629 and the page tables); what an unlisted register reads as. -/
def regReset (k : Nat) : Word :=
  let off := k % 0x1000
  match pageAt (k / 0x1000) with
  | none => 0
  | some (t, inst) =>
    if off = 0x000 then BitVec.ofNat 32 (pageCode t + 256 * inst)
    else if off = 0x004 then 1
    else if off = oCaps then BitVec.ofNat 32 (b2n (hasTxn t) + 2 * b2n (hasSoftReset t) + 4 * b2n (decide (errLogPtr t ≠ 0)))
    else if off = oCtrl then (if t = .que ∨ t = .link then 0 else 1)
    else if off = oEvtEnable then BitVec.ofNat 32 (evtMask t inst)
    else if off = oErrLog then BitVec.ofNat 32 (errLogPtr t)
    else if off < 0x040 then 0
    else BitVec.ofNat 32 (ownReset t inst off)

end Sys2Proof.Machine
end

