-- ==== Sys2Proof/Machine/State.lean ====
section
/-!
DEFINITION. The state of the device: everything the spec names, as plain data; faults and refusals; and the state after
reset (a cold reset that has reached step P8 of R617, log entries 4 to 7).
-/
namespace Sys2Proof.Machine

/-- Why a command stops the model. -/
inductive Fault where
  /-- A command names a unit that the device does not have: a queue above 5, a link above 15, a tile above 35, a logical
  engine above 31, a context above 4,095, a semaphore above 16,383, a sensor, source, instance or scrubber that is absent.
  Raised by every meaning with such an operand. Safe: the device has no such unit to act on. -/
  | noSuchUnit
  deriving DecidableEq, Repr

/-- Why a command has no meaning. -/
inductive Refusal where
  /-- The command is not modelled yet; raised by arms of `exec` only. Safe. -/
  | notModelled (mnemonic : String)
  deriving DecidableEq, Repr

/-! ## What leaves the device -/

/-- What the device puts on its buses and pins (log entry 9). -/
inductive BusOut where
  | hostWrite (addr : Nat) (data : List Byte)
  | msix (vector : Nat)
  | barData (agent : Agent) (data : Nat)
  | bar2Data (poisoned : Bool) (data : List Byte)
  | flit (link : Nat) (data : List Byte)
  | codeword (link : Nat) (lanes : List (List Nat))
  | avsRequest (mv : Nat)
  | thermtrip (low : Bool)
  | aerFatal
  | aerAdvisory
  | flashWrite (what : Nat)
  | i3cReply (data status : Nat)
  | trace (kind value : Nat)
  | hostRead (addr : Nat)
  deriving DecidableEq, Repr

/-! ## Transactions (R639 to R647) -/

/-- The states of TXN_STATUS. -/
inductive TxnSt where
  | idle | open_ | pending | grouped
  deriving DecidableEq, Repr

/-- A page's transaction: LAST, APPLIED, and the staged registers by offset. -/
structure Txn where
  st : TxnSt
  agent : Agent
  began : Nat
  staged : Sparse Word
  last : Nat
  applied : Nat
  deriving DecidableEq, Repr

/-- A page with no transaction yet. -/
def txnIdle (_ : Nat) : Txn := ⟨.idle, .pcie, 0, [], 0, 0⟩

/-- The group transaction (R646, R647). -/
structure TxnGroup where
  st : TxnSt
  agent : Agent
  members : List Nat
  began : Nat
  committed : Nat
  arrived : List Nat
  last : Nat
  lastPage : Nat
  deriving DecidableEq, Repr

/-! ## Invocations (R434 to R449) -/

/-- The states of R440; DONE frees the context. -/
inductive Life where
  | fetched | waiting | ready | running | switchedOut | finishing | delivering
  deriving DecidableEq, Repr

/-- A wait entry, its latch and its last poll (R436, R451, R453). -/
structure Wait where
  thresh : Nat
  addr : Nat
  sem : Nat
  kind : Nat
  tmo : Nat
  latched : Bool
  polledAt : Option Nat
  deriving DecidableEq, Repr

/-- A signal entry (R436). -/
structure Signal where
  value : Nat
  addr : Nat
  sem : Nat
  kind : Nat
  op : Nat
  deriving DecidableEq, Repr

/-- An input entry (R436). -/
structure Input where
  src : Nat
  dst : Nat
  len : Nat
  srcDev : Bool
  digest : Nat
  deriving DecidableEq, Repr

/-- A cause that ends an invocation: status code, DETAIL, DETAIL_OFFSET (R472). -/
structure Cause where
  code : Nat
  detail : Nat
  offset : Nat
  deriving DecidableEq, Repr

/-- Where an entry came from. -/
inductive Origin where
  | ring
  | entry (buffer index : Nat)
  | release (prog number : Nat)
  | spare (position : Nat)
  deriving DecidableEq, Repr

/-- An open loop of an engine program and its iteration. -/
structure Frame where
  loop : LoopAt
  iter : Nat
  deriving DecidableEq, Repr

/-- Where an engine of an invocation stands in its program. -/
structure Cursor where
  eng : Nat
  pc : Nat
  frames : List Frame
  stage : Nat
  halted : Bool
  digests : List (List Byte)
  swaitEnd : Option Nat
  sent : List (Nat × Nat)
  deriving DecidableEq, Repr

/-- The stage flag word and the stage statistics of a stage: counts of the five flags, BUILD_CLAMPS, BUILD_NANS. -/
structure StageRec where
  flags : Nat
  counts : List Nat
  deriving DecidableEq, Repr

/-- The audited values of one top-eight entry (R399). -/
structure AuditVal where
  energy : Int
  improving : Nat
  minFlip : Int
  onehot : Nat
  rowViol : Nat
  maxResid : Nat
  deriving DecidableEq, Repr

/-- The audit of an invocation: its status code of R409, the values of the entries, and the end time. -/
structure AuditRes where
  status : Nat
  vals : List AuditVal
  tEnd : Nat
  deriving DecidableEq, Repr

/-- A result area that `RESULT` has written: its place and length, its digests, the run as it stood, its audit. -/
structure ResRec where
  addr : Nat
  len : Nat
  digests : List (List Byte)
  run : Anneal
  audit : Option AuditRes
  deriving DecidableEq, Repr

/-- A certificate that `CERT` has issued: CERT_SEQ, where it stands, the result area it is of. -/
structure IssuedCert where
  seq : Nat
  place : Nat
  addr : Nat
  deriving DecidableEq, Repr

/-- A command-buffer entry's progress (R468). -/
inductive EntrySt where
  | idle
  | running (ctx : Nat)
  | done (status : Nat)
  deriving DecidableEq, Repr

/-- A multi-device run as one device holds it (R349 to R373). `waitingOn`: what it waits for, as (barrier, position); `combines`
and `ups`: by combine, how many are over, and the value that has gone up the tree (log entry 24); `claimed`: a coordinator has sent
CLAIM; `fails`: the fail-overs so far; `package`: the run package as it was taken (R364). -/
structure MdRun where
  runId : Nat
  position : Nat
  devices : List Nat
  mode : Nat
  free : Bool
  timeoutUs : Nat
  ckptPhases : Nat
  startSent : Bool
  starts : List Nat
  heard : List Nat
  waitingOn : List (Nat × Nat)
  remote : List AccSet
  epochs : List (Nat × Nat)
  lastSent : Nat
  combBase : Nat
  combines : List (Nat × Nat)
  ups : List (Nat × List Int)
  lastProgress : Nat
  lost : Option Nat
  notices : List Nat
  collectFrom : Option Nat
  failover : Option (Nat × Nat × Nat)
  cutFlag : Bool
  late : Nat
  shareSent : Bool
  barrier : Nat
  claimed : Bool
  fails : Nat
  package : List Byte
  deriving DecidableEq, Repr

/-- An accumulator slot unit's flag record and what it holds: the first unit, V−1 and kind of its slot (R244); `unset` is 1 where its words
are what an anneal left there, which the spec leaves open (log entry 96). -/
structure SlotRec where
  slot : Nat
  v : Nat
  isInt : Bool
  flags : Nat
  unset : Nat
  deriving DecidableEq, Repr

/-- An invocation context (R430, R440). -/
structure Ctx where
  id : Nat
  ring : Nat
  shared : Bool
  slot : Nat
  order : Nat
  origin : Origin
  desc : List Byte
  life : Life
  ran : Bool
  argsRead : Bool
  regBlock : List Byte
  waits : List Wait
  signals : List Signal
  inputs : List Input
  waitStart : Nat
  waitClamp : Nat
  frozenAt : Option Nat
  causes : List Cause
  status : Option Cause
  tFetch : Nat
  tStart : Nat
  tSlice : Nat
  tEnd : Nat
  fed : Bool
  seed : Nat
  abort : Bool
  stages : List StageRec
  satStage : Option Nat
  curs : List Cursor
  anneal : Option Anneal
  inputDigest : List Byte
  inDigests : List (List Byte)
  seeded : Bool
  recs : List Nat
  resultAt : Option Nat
  resultLen : Nat
  resDigests : List (List Byte)
  results : List ResRec
  audit : Option AuditRes
  auditHeld : Bool
  issued : List IssuedCert
  certSeq : Option Nat
  certAt : Nat
  window : Option Nat
  windowWait : Nat
  sigPending : List Nat
  sigFault : Bool
  sigSkipped : Bool
  readyStamp : Nat
  written : Bool
  budget : Nat
  budgetNom : Nat
  sweepLimit : Nat
  degraded : Bool
  late : Bool
  selftestCols : Option Nat
  entries : List (List Byte)
  entrySt : List EntrySt
  inputsIn : Bool
  swSlot : Option Nat
  spillMem : Sparse Byte
  spillParts : Sparse (Option Bool)
  spillSlots : Sparse (Option SlotRec)
  spillTiles : Sparse (Option Tile)
  md : Option MdRun
  /-- Of a Bell release: the governing budget of the release that started before it, and whether that one was late (R495). -/
  before : Nat × Bool
  /-- Of lent work: the first release time since it last started that it has kept a release from (R490). -/
  blocked : Option Nat
  deriving DecidableEq, Repr

/-- A resident program (R438). -/
structure Prog where
  index : Nat
  image : List Byte
  digest : List Byte
  noLend : Bool
  masters : List (List (Nat × Nat))
  deriving DecidableEq, Repr

/-! ## Queues and records -/

/-- A completion record on its way: its bytes, its context, whether it counts for coalescing, its SEQ once it has one, and
whether it is replayed from the undelivered buffer. -/
structure RecW where
  bytes : List Byte
  ctx : Option Nat
  counts : Bool
  seq : Option Nat
  buf : Bool
  deriving DecidableEq, Repr

/-- A ring's own state beyond its registers: the next SEQ, records waiting to be written, records written and not
confirmed, the coalescing count and time, and a replay in progress (R461 to R466). -/
structure Queue where
  seq : Nat
  waiting : List RecW
  written : List RecW
  coCount : Nat
  coOldest : Option Nat
  replaying : Bool
  deriving DecidableEq, Repr

/-- A record of the undelivered buffer (R464, R465). -/
structure Undel where
  ring : Nat
  record : RecW
  deriving DecidableEq, Repr

/-! ## Bell (R476 to R502) -/

/-- A registered program. -/
structure BellProg where
  prog : Nat
  desc : List Byte
  block : List Byte
  signals : List Signal
  inputs : List Input
  first : Nat
  next : Nat
  held : Option Nat
  prevBudget : Nat
  prevLate : Bool
  meas : List (Nat × Nat × Nat)
  deriving DecidableEq, Repr

/-- A Bell ring: its programs, whether releases are suspended (R425 M2), the running release's context. -/
structure Bell where
  progs : List BellProg
  running : Option Nat
  deriving DecidableEq, Repr

/-! ## Audits and certificates (R399 to R418) -/

/-- A queued audit (R402), with what it needs of its invocation, since a Bell release is delivered before its audit; `out`: the
outcome of a Bell audit that is over, or skipped, before its release is delivered, which its follow-up then gives (R407); `mute`: one
that this device skips and the other devices of its run may not, so that it only passes their values on (R405). In a multi-device run: the devices, this one's position,
the image's MODE, its first global replica index, and how far the combines of R405 have come: stage, pass, the result of the
stage before, that of the first pass, and whether this stage's value went up the tree. -/
structure AuditJob where
  ring : Nat
  order : Nat
  ctx : Nat
  bell : Bool
  addr : Nat
  prob : Prob
  lam : List Nat
  engines : List Nat
  tag : Nat
  runId : Nat
  certSeq : Option Nat
  certAt : Nat
  cert : List Byte
  /-- The result's completion record, once it has been queued. -/
  record : List Byte
  prog : Nat
  mainQ : Bool
  out : Option AuditRes
  mute : Bool
  devices : List Nat
  pos : Nat
  mode : Nat
  gBase : Nat
  stage : Nat
  pass : Nat
  sofar : List Int
  first : List Int
  sent : Bool
  deriving DecidableEq, Repr

/-- A certificate waiting in or for a window: its bytes and who waits for its signature. -/
structure CertW where
  bytes : List Byte
  ctx : Option Nat
  follow : Option (Nat × List Byte)
  deriving DecidableEq, Repr

/-- A signing window. -/
structure Window where
  number : Nat
  opened : Nat
  limitMs : Nat
  limitCount : Nat
  certs : List CertW
  closed : Nat
  deriving DecidableEq, Repr

/-- The signing unit and the window ring. -/
structure CertUnit where
  seq : Nat
  windowNo : Nat
  bootId : Option Nat
  current : Option Window
  closed : List Window
  overflow : List CertW
  signed : List (List Byte × List CertW)
  ringBase : Nat
  ringSlots : Nat
  ringDirty : Bool
  deriving DecidableEq, Repr

/-! ## Tiles, repair -/

/-- The role of a physical tile (R655). -/
inductive Role where
  | active | spare | retired | unusable
  deriving DecidableEq, Repr

/-- A physical tile: role, the logical engine hosted or last hosted, whether that engine is lost, spare columns in use,
pending retirement entry. -/
structure TileSt where
  role : Role
  eng : Nat
  lost : Bool
  cols : Nat
  deriving DecidableEq, Repr

/-- A substitution in progress (R26): logical engine, failing tile, spare tile, the context that waits. -/
structure Subst where
  eng : Nat
  from_ : Nat
  to_ : Nat
  started : Nat
  ctx : Option Nat
  deriving DecidableEq, Repr

/-- An entry for the field repair log (R542): kind, tile or channel, location, logical engine. -/
structure RepairEnt where
  kind : Nat
  index : Nat
  loc : Nat
  eng : Nat
  deriving DecidableEq, Repr

/-! ## Memory integrity (R522 to R548) -/

/-- What stands wrong in a stored word (R524, R526, R544, R545, R692): the bits flipped against its check bits, the bits
of its address XORed in, poison, and the class it was found to read as where the spec leaves the class open. -/
structure Mark where
  flips : Nat
  addrX : Nat
  poison : Bool
  fixed : Option Nat
  deriving DecidableEq, Repr

/-- An unlisted word carries no mark. -/
def noMark (_ : Nat) : Mark := ⟨0, 0, false, none⟩

/-- A scrubber: the index of its next word, its period in s, when its next pass may begin, the corrected errors of the pass, the clean
passes in a row, and ADAPT, PERIOD_MIN and PERIOD_MAX as its pass took them (R530 to R533). -/
structure Scrub where
  pos : Nat
  period : Nat
  nextAt : Nat
  passCe : Nat
  cleanPasses : Nat
  adapt : Bool
  lo : Nat
  hi : Nat
  deriving DecidableEq, Repr

/-! ## Links and messages (R323 to R380) -/

/-- A flit waiting for a link, or sent and not acknowledged; `inp`: the link input and the class and lane whose buffer it still takes
(R337). -/
structure QFlit where
  typ : Nat
  cls : Nat
  vl : Nat
  rev : Bool
  dst : Nat
  src : Nat
  msg : Nat
  off : Nat
  data : List Byte
  inp : Option (Nat × Nat)
  deriving DecidableEq, Repr

/-- A sent flit in the replay buffer. -/
structure SentFlit where
  seq : Nat
  q : QFlit
  sentAt : Nat
  firstAt : Nat
  tries : Nat
  deriving DecidableEq, Repr

/-- A Reltan link (R324, R329 to R337, R375, R376). `txBits`: what waits for its codeword; `rxBits`: received bits, `none` where a
codeword was lost; `rxFirst`: when the first accepted flit came that is not acknowledged yet; `held`: accepted flits that wait in the
input for room at their consumer (R356). -/
structure Link where
  st : Nat
  cause : Nat
  peerLink : Nat
  since : Nat
  downAt : Nat
  txSeq : Nat
  rxSeq : Nat
  nak : Bool
  discarding : Bool
  rxCount : Nat
  replay : List SentFlit
  queue : List QFlit
  credits : List Nat
  freed : List Nat
  sinceBulk : Nat
  txEpoch : Nat
  rxEpoch : Nat
  txCount : Nat
  rxCount64 : Nat
  rxFirst : Option Nat
  txBits : List Bool
  rxBits : List (Option Bool)
  held : List QFlit
  deriving DecidableEq, Repr

/-- A message sent and not acknowledged; `src`: the source range that is read-locked until then (R336). -/
structure OutMsg where
  dst : Nat
  cls : Nat
  msg : Nat
  data : List Byte
  sentAt : Nat
  tries : Nat
  src : Option (Nat × Nat)
  deriving DecidableEq, Repr

/-- A message being reassembled (R334); `at_`: the place in an exchange window that an activation frame takes (R356). -/
structure PartMsg where
  src : Nat
  cls : Nat
  msg : Nat
  frags : List (Nat × List Byte)
  last : Option Nat
  at_ : Option Nat
  deriving DecidableEq, Repr

/-- A delivered message waiting for its consumer; an activation frame stands in memory at `at_`. -/
structure InMsg where
  src : Nat
  cls : Nat
  msg : Nat
  data : List Byte
  at_ : Option Nat
  deriving DecidableEq, Repr

/-- A mirror that this device holds (R363): of the run `runId` of device `dev`, where it stands in the mirror area, the bytes of its
share of the problem image, of the run package and of a checkpoint at most, the bytes got of the first two, and the checkpoints as
(number, length, bytes got). -/
structure Mirror where
  dev : Nat
  runId : Nat
  base : Nat
  imgLen : Nat
  pkgLen : Nat
  ckLen : Nat
  gotImg : Nat
  gotPkg : Nat
  ckpts : List (Nat × Nat × Nat)
  deriving DecidableEq, Repr

/-- A part of a mirror that a holder has sent to a spare (R368): its kind, where it begins in the whole, the whole's length. -/
structure Piece where
  holder : Nat
  kind : Nat
  off : Nat
  total : Nat
  data : List Byte
  deriving DecidableEq, Repr

/-- A claim in progress on a spare (R367): `won` once no in-run reply came, `ckpt` and `failAt` once FAILOVER has named it, `devices` the
run's devices and `fails` its fail-overs so far, `pieces` the copy, `done` the holders that have sent all with their outcome. -/
structure Claim where
  runId : Nat
  lostPos : Nat
  queue : Nat
  dev : Nat
  probedAt : Nat
  from_ : Nat
  won : Bool
  ckpt : Option Nat
  failAt : Nat
  devices : Option (List Nat)
  fails : Nat
  pieces : List Piece
  done : List (Nat × Nat × Bool)
  deriving DecidableEq, Repr

/-- Messages, mirrors, claims; `spares` holds the spares that notices have named, each with a member of its block; `fresh` the devices
whose message numbers have begun again, with the run that they began with (R335). -/
structure Net where
  out : List OutMsg
  part : List PartMsg
  inbox : List InMsg
  delivered : List (Nat × Nat × Nat)
  nextMsg : List (Nat × Nat)
  discard : List (Nat × Nat)
  unreachable : List Nat
  mirrors : List Mirror
  claim : Option Claim
  spareUsed : Bool
  rebuilding : List (Nat × Option (List Nat))
  aborted : List (Nat × Nat)
  spares : List (Nat × Nat)
  fresh : List (Nat × Nat)
  deriving DecidableEq, Repr

/-! ## Flash, security, entropy -/

/-- The system map as boot reads it (R342); `valid`: MAGIC, LAYOUT, the reserved fields and the digest pass. -/
structure SysMap where
  valid : Bool
  role : Nat
  dims : List Nat
  flags : Nat
  selfId : Nat
  spareId : Nat
  links : List (Nat × Nat × Nat)
  deriving DecidableEq, Repr

/-- The boot flash (R687): `slotA` and `slotB` the bytes of the firmware slots to the end of their bodies (R560), `keys` the four
128-byte entries of the KEYS partition, copy c of slot s at 2s + c (R571). -/
structure Flash where
  slotA : List Byte
  slotB : List Byte
  cal : List Byte
  keys : List (List Byte)
  repair : List RepairEnt
  sysmap : List Byte
  deriving DecidableEq, Repr

/-- The fuses (R550, R561, R565, R566): how many fuses of each of the four life-cycle groups read 1, the REV fuses, the SVN
thermometer. -/
structure Fuses where
  groups : List Nat
  revoked : List Bool
  svnMin : Nat
  deriving DecidableEq, Repr

/-- What the Locker holds besides the DRBG states (R559), as the seeds and keys themselves, and whether a tamper event has happened
(R554 to R575). Keys are absent after a wipe. -/
structure Sec where
  tampered : Bool
  idSeed : Option (List Byte)
  resSeed : Option (List Byte)
  kek : Option (List Byte)
  linkKey : Option (List Byte)
  imageKey : Option (List Byte)
  deriving DecidableEq, Repr

/-- A DRBG instance (R582). -/
structure Drbg where
  key : List Byte
  v : List Byte
  st : Nat
  count : Nat
  seededAt : Nat
  deriving DecidableEq, Repr

/-- A waiting internal request (R583): instance, purpose (0 BOOT_ID, 1 fresh seed, 2 wrap IV, 4 initial epoch), its context, key
slot or link, its time. -/
structure EntReq where
  inst : Nat
  purpose : Nat
  ctx : Nat
  at_ : Nat
  deriving DecidableEq, Repr

/-- The entropy service (R576 to R585). -/
structure Entropy where
  service : Nat
  sources : List Nat
  retestAt : List Nat
  prev : List Byte
  insts : List Drbg
  reqs : List EntReq
  hData : List Byte
  owed : List (Nat × List Byte)
  /-- When ENABLE of TEST_PATTERN was set in BLANK (R586). -/
  pattern : Option Nat
  deriving DecidableEq, Repr

/-! ## Power, heat, time, boot -/

/-- The reef controller (R596 to R601); `hist` holds the operating points of the last 100 ms that have ended: time, rate,
level (R488); `avsOut`: a VCORE request that is not acknowledged yet; `ackedAt`: when the request that a pending issue limit waits for was
(R600); `alert`: ALERT_N is low, `alertAt` when it last rose (R598); `vlo`, `vhi`, `vuntil`: the monitored targets of the request in
progress in mV, and how long its window stays (R591). -/
structure Power where
  level : Nat
  triggers : List (Nat × Nat)
  clearSince : Nat
  lastEval : Nat
  vspd : Int
  vreq : Nat
  pendingLimit : Option Nat
  issueLevel : Nat
  avsOut : Bool
  avsFailed : Bool
  lastAvs : Nat
  lastSpd : Nat
  hist : List (Nat × Nat × Nat)
  ackedAt : Option Nat
  alert : Bool
  alertAt : Nat
  vlo : Nat
  vhi : Nat
  vuntil : Nat
  deriving DecidableEq, Repr

/-- A tile's timing margin: its code, its calibrated floor, and the committed ADAPT, MARGIN_MIN and MARGIN_MAX as the tile has taken
them (R593, R595). -/
structure Margin where
  code : Nat
  floor : Nat
  adapt : Bool
  lo : Nat
  hi : Nat
  deriving DecidableEq, Repr

/-- The phases of reset and power-up (R564, R612, R617, R619). -/
inductive BootPhase where
  | held | starting | running | recovery | halted
  deriving DecidableEq, Repr

/-- Resets and power-up (R590, R591, R612 to R619): `warm` is a warm reset (true) or an FLR (false) in progress and its bound;
`fwDigest` is FW_DIGEST of the booted slot (R563). -/
structure Boot where
  phase : BootPhase
  porst : Bool
  perst : Bool
  pwrgd : Bool
  railsBad : List Nat
  mode : Nat
  slot : Nat
  startAt : Nat
  warm : Option (Bool × Nat)
  d3hot : Bool
  usableGib : Nat
  fwDigest : List Byte
  deriving DecidableEq, Repr

/-- The I3C target (R676, R677): dynamic address, last reply. -/
structure I3c where
  addr : Option Nat
  data : Nat
  status : Nat
  deriving DecidableEq, Repr

/-! ## The machine -/

/-- The configuration header of the PCI Express function (R663) and the size in GiB that BAR 2 has (R665). -/
structure PciCfg where
  vendor : Nat
  device : Nat
  revision : Nat
  classCode : Nat
  subVendor : Nat
  subsystem : Nat
  bar2Gib : Nat
  deriving DecidableEq, Repr

/-- A state of the device. -/
structure State where
  /-- Commands waiting, first in, first out. -/
  pending : List Instr
  /-- The time base (R503). -/
  now : Nat
  /-- The fraction of a nanosecond that RATE has accumulated, in 2⁻³². -/
  nowFrac : Int
  /-- How many free values have been drawn (log entry 8). -/
  free : Nat
  /-- What the device has put out, newest first (log entry 9). -/
  out : List BusOut
  regs : Sparse Word
  /-- Live 64-bit read-only values, by the offset of their LO register (R633). -/
  wide : Sparse DWord
  txns : Sparse Txn
  group : TxnGroup
  mem : Sparse Byte
  acc : Sparse Word
  slots : Sparse (Option SlotRec)
  tiles : Sparse (Option Tile)
  /-- Whether the partial pair that PDRAIN left at an address is of an INT32 slot (log entry 78). -/
  partials : Sparse (Option Bool)
  marks : Sparse Mark
  written : List Nat
  logs : List (List (List Byte))
  scrubs : List Scrub
  scrubHits : List (Nat × Nat)
  tileSt : List TileSt
  substs : List Subst
  /-- Logical engines whose tiles have failed in a phase, each with the order of the invocation that waits for Roll Call (R26, R29). -/
  failing : List (Nat × Nat)
  selftestDue : List Nat
  repairQueue : List RepairEnt
  queues : List Queue
  undelivered : List Undel
  ctxs : List Ctx
  order : Nat
  stamp : Nat
  progs : List Prog
  sems : Sparse DWord
  stateReq : Option (Nat × Bool)
  heldReq : Option (Nat × Bool)
  stallSince : Option Nat
  bells : List Bell
  audits : List AuditJob
  auditRun : Option AuditJob
  auditStarted : Nat
  cert : CertUnit
  links : List Link
  net : Net
  flash : Flash
  fuses : Fuses
  sec : Sec
  ent : Entropy
  power : Power
  margins : List Margin
  sensors : List Int
  issueHold : Bool
  thermTripped : Bool
  boot : Boot
  /-- The calibration record in force; empty where it is invalid (R623). -/
  calNow : List Byte
  pcieUp : Bool
  /-- The system map in force, fixed until the next boot (R342). -/
  sysmap : SysMap
  pciCfg : PciCfg
  i3c : I3c
  ppsLast : Option Nat
  ptmLast : Nat
  deriving DecidableEq, Repr

/-- What an unlisted slot unit holds: no slot. -/
def noSlot (_ : Nat) : Option SlotRec := none

/-- What an unlisted engine's stationary tile is: none. -/
def noTile (_ : Nat) : Option Tile := none

/-- What an unlisted address holds of a partial: none. -/
def noPartial (_ : Nat) : Option Bool := none

/-! ## Reset -/

/-- A link before training (R332, R379). -/
def linkReset : Link :=
  { st := 0, cause := 0, peerLink := 0, since := 0, downAt := 0, txSeq := 0, rxSeq := 0, nak := false,
    discarding := false, rxCount := 0, rxFirst := none, txBits := [], rxBits := [], held := [], replay := [], queue := [], credits := List.replicate 8 256,
    freed := List.replicate 8 0, sinceBulk := 0, txEpoch := 0, rxEpoch := 0, txCount := 0, rxCount64 := 0 }

/-- A queue after reset (R424, R461). -/
def queueReset : Queue := ⟨1, [], [], 0, none, false⟩

/-- The tile mapping of R18 with no retirement recorded. -/
def tileReset (p : Nat) : TileSt :=
  if p % 9 = 8 then ⟨.spare, 0, false, 0⟩ else ⟨.active, 8 * (p / 9) + p % 9, false, 0⟩

/-- A DRBG instance before its instantiation (R582). -/
def drbgReset : Drbg := ⟨zeros 32, zeros 16, 0, 0, 0⟩

/-- The map of a standalone device. -/
def mapStandalone : SysMap := ⟨true, 2, [1, 1, 1], 0, 0, 0xFFFF, List.replicate 16 (0xFFFF, 0, 0)⟩

/-- The bytes of a system map but for its digest (R342). -/
def mapBody (m : SysMap) : List Byte :=
  leBytes 4 0x5359534D ++ leBytes 2 1 ++ leBytes 1 m.role ++ [0] ++ (m.dims.map (leBytes 1)).flatten ++ leBytes 1 m.flags ++
    leBytes 2 m.selfId ++ leBytes 2 m.spareId ++ (m.links.map fun e => leBytes 2 e.1 ++ leBytes 1 e.2.1 ++ leBytes 1 e.2.2).flatten ++ zeros 16

/-- A system map as bytes, with its digest (R342). -/
def encMap (m : SysMap) : List Byte := mapBody m ++ shake256 (mapBody m) 32

/-- The system map that 128 bytes hold (R342). -/
def decMap (b : List Byte) : SysMap :=
  let links := (List.range 16).map fun i => (leAt b (0x10 + 4 * i) 2, leAt b (0x12 + 4 * i) 1, leAt b (0x13 + 4 * i) 1)
  { valid := decide (leAt b 0 4 = 0x5359534D) && decide (leAt b 4 2 = 1) && decide (leAt b 7 1 = 0) && decide (leAt b 0x0B 1 < 2) &&
      (links.all fun e => decide (e.2.2 < 4)) && decide (slice b 0x50 16 = zeros 16) && decide (slice b 0x60 32 = shake256 (b.take 0x60) 32)
    role := leAt b 6 1, dims := [leAt b 8 1, leAt b 9 1, leAt b 10 1], flags := leAt b 0x0B 1, selfId := leAt b 0x0C 2
    spareId := leAt b 0x0E 2, links := links }

/-- The configuration header and the size of BAR 2 after reset (R663, R665). -/
def cfgReset : PciCfg := ⟨0x1F3C, 0x5120, 0xB0, 0x120000, 0x1F3C, 0x0000, 64⟩

/-- The firmware slot of the reset state (R560; log entry 6): KEY_INDEX 0, SVN 1, over a body, a public key and a signature that no rule
gives. -/
def fwReset : List Byte :=
  let b := Config.firmware 0
  leBytes 4 0x4657494D ++ leBytes 2 1 ++ leBytes 2 0 ++ leBytes 4 1 ++ leBytes 4 0 ++ leBytes 8 b.length ++ (Config.firmware 1 ++ zeros 64).take 64 ++
    treeDigest b ++ zeros 8 ++ (Config.firmware 2 ++ zeros 29792).take 29792 ++ zeros 2848 ++ b

/-- The flash of the reset state (log entries 5 to 7): firmware in slot A, slot B empty, a calibration record, no keys, an empty
repair log, a STANDALONE map. -/
def flashReset : Flash :=
  { slotA := fwReset, slotB := [], cal := calFactory, keys := List.replicate 4 [],
    repair := [], sysmap := encMap mapStandalone }

/-- The registers that boot sets and the model stores (log entry 5): memory sizes, firmware SVN, a valid record. -/
def bootRegs : List (Nat × Nat) :=
  ((List.range 36).map fun p => (rk (pgEng p) 0x400, 0x10000)) ++ ((List.range 4).map fun q => (rk (pgBm q) 0x040, 0x10009)) ++
  ((List.range 4).map fun q => (rk (pgLm q) 0x040, 0x1001C)) ++ [(rk pgCal 0x040, 1), (rk pgSec 0x060, 1)]

/-- A register file with the listed values over the reset values. -/
def regsWith (l : List (Nat × Nat)) (m : Sparse Word) : Sparse Word :=
  l.foldl (fun m e => spSet regReset e.1 (BitVec.ofNat 32 e.2) m) m

/-- The device after a cold reset that has reached step P8: MAINTENANCE, life-cycle state PROVISIONED. -/
def State.reset : State :=
  { pending := [], now := 0, nowFrac := 0, free := 0, out := [], regs := regsWith bootRegs [], wide := [], txns := [],
    group := ⟨.idle, .pcie, [], 0, 0, [], 0, 0⟩, mem := [], acc := [], slots := [], tiles := [], partials := [], marks := [], written := [],
    logs := List.replicate 44 [], scrubs := List.replicate 144 ⟨0, 600, 0, 0, 0, true, 60, 3600⟩ ++ List.replicate 8 ⟨0, 21600, 0, 0, 0, true, 3600, 86400⟩, scrubHits := [],
    tileSt := (List.range 36).map tileReset, substs := [], failing := [], selftestDue := [], repairQueue := [],
    queues := List.replicate 6 queueReset, undelivered := [], ctxs := [], order := 0, stamp := 0, progs := [], sems := [],
    stateReq := none, heldReq := none, stallSince := none, bells := List.replicate 2 ⟨[], none⟩, audits := [],
    auditRun := none, auditStarted := 0, cert := ⟨0, 0, none, none, [], [], [], 0, 0, false⟩, links := List.replicate 16 linkReset,
    net := ⟨[], [], [], [], [], [], [], [], none, false, [], [], [], []⟩, flash := flashReset, fuses := ⟨[8, 0, 0, 0], List.replicate 4 false, 0⟩,
    sec := ⟨false, identityKey 1, resultKey 1, kekOf 1, none, none⟩,
    ent := ⟨1, [1, 1, 1], [0, 0, 0], [], List.replicate 4 drbgReset, [⟨0, 0, 0, 0⟩], zeros 32, [], none⟩,
    power := ⟨0, [], 0, 0, 750, 750, none, 0, false, false, 0, 0, [], none, false, 0, 750, 750, 0⟩, margins := List.replicate 36 ⟨0, 0, true, 0, 15⟩,
    sensors := List.replicate 41 0, issueHold := false, thermTripped := false,
    boot := ⟨.running, true, true, true, [], 0, 0, 0, none, false, 112, treeDigest fwReset⟩,
    calNow := calFactory, pcieUp := true, sysmap := mapStandalone, pciCfg := cfgReset, i3c := ⟨none, 0, 0⟩, ppsLast := none,
    ptmLast := 0 }

end Sys2Proof.Machine
end

