-- ==== Sys2Proof/Machine/Ops.lean ====
section
/-!
DEFINITION. The named operations over registers, events, counters, memory, contexts and free values.
-/
namespace Sys2Proof.Machine

/-! ## Outcomes -/

/-- The outcome of every meaning: a fault where a unit does not exist; where the command's condition does not hold, the
same state (log entry 1); else the effect. -/
@[inline] def act (unit : Bool) (enabled : Bool) (s t : State) : Host.Outcome State Fault Refusal :=
  if unit then .next (if enabled then t else s) else .fault .noSuchUnit

/-- Puts something on a bus or pin. -/
def emit (o : BusOut) (s : State) : State := { s with out := o :: s.out }

/-- The next free value (log entry 8). -/
def freshNat (s : State) : Nat × State := (Config.freeNat s.free, { s with free := s.free + 1 })

/-! ## Registers -/

/-- The stored value of a register. -/
def reg (s : State) (page off : Nat) : Nat := (spGet regReset (rk page off) s.regs).toNat

/-- Stores a register. -/
def setReg (page off v : Nat) (s : State) : State :=
  { s with regs := spSet regReset (rk page off) (BitVec.ofNat 32 v) s.regs }

/-- Sets or clears one bit of a register. -/
def setBit (page off i : Nat) (b : Bool) (s : State) : State :=
  let v := reg s page off
  setReg page off (if b then v ||| 2 ^ i else if v.testBit i then v - 2 ^ i else v) s

/-- Replaces bits `[lo + w − 1 : lo]` of a register. -/
def setField (page off lo w v : Nat) (s : State) : State :=
  let r := reg s page off
  setReg page off (r - field r lo w * 2 ^ lo + v % 2 ^ w * 2 ^ lo) s

/-- A register pair as one value. -/
def regPair (s : State) (page off : Nat) : Nat := reg s page off + 2 ^ 32 * reg s page (off + 4)

/-- Stores a register pair. -/
def setRegPair (page off v : Nat) (s : State) : State :=
  setReg page (off + 4) (v / 2 ^ 32) (setReg page off (v % 2 ^ 32) s)

/-- The stored 64-bit value of a read-only pair. -/
def wideOf (s : State) (page off : Nat) : Nat := (spGet zeroDWord (rk page off) s.wide).toNat

/-- Stores the 64-bit value of a read-only pair. -/
def setWide (page off v : Nat) (s : State) : State :=
  { s with wide := spSet zeroDWord (rk page off) (BitVec.ofNat 64 v) s.wide }

/-! ## Events and counters (R637, R648) -/

/-- Sends an MSI-X message. -/
def msix (vec : Nat) (s : State) : State := emit (.msix (vec % 128)) s

/-- Whether a page's enabled events are set. -/
def pageRaised (s : State) (page : Nat) : Bool := decide (reg s page oEvtStatus &&& reg s page oEvtEnable ≠ 0)

/-- The message of R637 when a page's enabled events went from none to some. -/
def eventMessage (page : Nat) (before : Bool) (s : State) : State :=
  if !before && pageRaised s page then msix (reg s pgCfe 0x064) s else s

/-- Sets event bits of a page. -/
def raiseMask (page mask : Nat) (s : State) : State :=
  eventMessage page (pageRaised s page) (setReg page oEvtStatus (reg s page oEvtStatus ||| mask) s)

/-- Raises one event of a page. -/
def raise (page bit : Nat) (s : State) : State := raiseMask page (2 ^ bit) s

/-- Raises an event and sends a message on FAULT_VEC: that of the event, or one of its own where the page's events were set or are
disabled. -/
def raiseSend (page bit : Nat) (s : State) : State :=
  let t := raise page bit s
  if pageRaised s page || !pageRaised t page then msix (reg t pgCfe 0x064) t else t

/-- Marks a counter of a page as saturated (R648). -/
def noteSat (page : Nat) (s : State) : State :=
  raise pgDev 2 (setReg pgDev 0x060 (2 ^ 31 + page) (setBit page oStatus 31 true s))

/-- Counts `n` events in a saturating register counter. -/
def bumpN (page off n : Nat) (s : State) : State :=
  let old := reg s page off
  let new := min (2 ^ 32 - 1) (old + n)
  let t := setReg page off new s
  if new = 2 ^ 32 - 1 ∧ old ≠ new then noteSat page t else t

/-- Counts one event. -/
def bump (page off : Nat) (s : State) : State := bumpN page off 1 s

/-! ## Pages -/

/-- The page type at an index, DEV where there is none. -/
def tyOf (page : Nat) : PageTy := ((pageAt page).map (·.1)).getD .dev

/-- The instance at a page index. -/
def instOf (page : Nat) : Nat := ((pageAt page).map (·.2)).getD 0

/-- The transaction of a page. -/
def txnOf (s : State) (page : Nat) : Txn := spGet txnIdle page s.txns

/-- Stores the transaction of a page. -/
def setTxn (page : Nat) (t : Txn) (s : State) : State := { s with txns := spSet txnIdle page t s.txns }

/-- The device state of R423, as CFE.STATE codes it. -/
def devState (s : State) : Nat := reg s pgCfe 0x040 % 4

/-- The life-cycle state: the number of leading blown groups, a group of eight fuses being blown when five of them read 1 (R549,
R550). -/
def Fuses.life (f : Fuses) : Nat := (f.groups.takeWhile fun g => decide (5 ≤ g)).length

/-- Whether the device is in MAINTENANCE or changing from it: TO_SERVICE counts as MAINTENANCE (DEDUCED, log entry 15). -/
def inMaintenance (s : State) : Bool := decide (devState s = 0) || decide (devState s = 3)

/-- Whether the device is in SERVICE or changing from it (log entry 15). -/
def inService (s : State) : Bool := !inMaintenance s

/-- Whether the device runs: powered, past P8, not in recovery and not in D3hot. -/
def alive (s : State) : Bool := decide (s.boot.phase = .running)

/-! ## What stops issue (R604, R605, R647) -/

/-- A member of a pending group holds at its safe point. -/
def pageHeld (s : State) (page : Nat) : Bool := decide (s.group.st = .pending) && s.group.arrived.contains page

/-- Engines, the audit evaluator and the DMA engines begin no work. -/
def issueOff (s : State) : Bool := s.issueHold || s.thermTripped

/-! ## The device address map (R517, R518) -/

/-- A place of the device address map. -/
inductive Place where
  | lpddr | reserve
  | home (e off : Nat)
  | phys (p off : Nat)
  | slate (e off : Nat)
  | xwin (e off : Nat)
  deriving DecidableEq, Repr

/-- The usable LPDDR6 capacity U in bytes. -/
def usable (s : State) : Nat := s.boot.usableGib * 2 ^ 30

/-- Where a device address lies. -/
def placeOf (s : State) (a : Nat) : Option Place :=
  if a < usable s - 0xC00000000 then some .lpddr
  else if a < usable s then some .reserve
  else if 0x010000000000 ≤ a ∧ a < 0x010800000000 then
    some (.home ((a - 0x010000000000) / 2 ^ 30) ((a - 0x010000000000) % 2 ^ 30))
  else if 0x018000000000 ≤ a ∧ a < 0x018900000000 then
    some (.phys ((a - 0x018000000000) / 2 ^ 30) ((a - 0x018000000000) % 2 ^ 30))
  else if 0x020000000000 ≤ a ∧ a < 0x020040000000 then
    some (.slate ((a - 0x020000000000) / 2 ^ 25) ((a - 0x020000000000) % 2 ^ 25))
  else if 0x020100000000 ≤ a ∧ a < 0x020102000000 then
    some (.xwin ((a - 0x020100000000) / 2 ^ 20) ((a - 0x020100000000) % 2 ^ 20))
  else none

/-- The ranges of R517 as kinds. -/
def placeKind : Place → Nat
  | .lpddr => 0 | .reserve => 1 | .home _ _ => 2 | .phys _ _ => 3 | .slate _ _ => 4 | .xwin _ _ => 5

/-- Agents that reach device memory (R517). -/
inductive Reach where
  | program | dma | maint | dmaMaint | bar2 | bar2Maint
  deriving DecidableEq, Repr

/-- Whether an agent reaches a kind of place. -/
def reaches (r : Reach) (k : Nat) : Bool :=
  match k with
  | 0 | 2 | 4 => true
  | 3 => decide (r = .maint) || decide (r = .dmaMaint) || decide (r = .bar2Maint)
  | 5 => decide (r = .dmaMaint) || decide (r = .bar2Maint)
  | _ => false

/-- Whether every byte of a range lies where an agent reaches (R518). -/
def mapOk (s : State) (r : Reach) (a n : Nat) : Bool :=
  match placeOf s a, placeOf s (a + n - 1) with
  | some x, some y => decide (placeKind x = placeKind y) && reaches r (placeKind x)
  | _, _ => false

/-- The physical tile that hosts a logical engine; for a lost engine, the tile that hosted it last (R18, R27). -/
def tileOf (s : State) (e : Nat) : Nat :=
  match findIdx (fun t => decide (t.role = .active) && decide (t.eng = e)) s.tileSt 0 with
  | some p => p
  | none =>
    match findIdx (fun t => t.lost && decide (t.eng = e)) s.tileSt 0 with
    | some p => p
    | none => 9 * (e / 8) + e % 8

/-- Whether a logical engine has no tile (R27). -/
def engineLost (s : State) (e : Nat) : Bool := s.tileSt.any fun t => t.lost && decide (t.eng = e)

/-- Base addresses of the windows. -/
def homeBase (e : Nat) : Nat := 0x010000000000 + e * 2 ^ 30
def physBase (p : Nat) : Nat := 0x018000000000 + p * 2 ^ 30
def slateBase (e : Nat) : Nat := 0x020000000000 + e * 2 ^ 25
def xwinBase (e : Nat) : Nat := 0x020100000000 + e * 2 ^ 20

/-- The key under which the model holds the byte of a device address: home regions are windows on the regions of the
tiles that host them (R517). -/
def canon (s : State) (a : Nat) : Nat :=
  match placeOf s a with
  | some (.home e o) => physBase (tileOf s e) + o
  | _ => a

/-- The pieces of a range by window instance: canonical address and length. -/
def pieces (s : State) : Nat → Nat → Nat → List (Nat × Nat)
  | 0, _, _ => []
  | k + 1, a, n =>
    if n = 0 then []
    else
      let room := 2 ^ 30 - a % 2 ^ 30
      if 0x010000000000 ≤ a ∧ a < 0x010800000000 ∧ room < n then
        (canon s a, room) :: pieces s k (a + room) (n - room)
      else [(canon s a, n)]

/-- `n` bytes of device memory from address `a`. -/
def memRead (s : State) (a n : Nat) : List Byte :=
  ((pieces s 34 a n).map fun p => spBytes s.mem p.1 p.2).flatten

/-- The byte address of a Slate or exchange-window operand (R287). -/
def saAddr (e sa : Nat) : Nat :=
  if sa < 0x2000000 then slateBase e + sa else xwinBase e + (sa - 0x2000000)

/-! ## Controllers (R515, R534) -/

/-- Whether an address is SRAM: 8-byte words; DRAM has 32-byte words. -/
def isSram (a : Nat) : Bool := decide (0x020000000000 ≤ a)

/-- Bytes of a code word (R522, R523). -/
def wordLen (a : Nat) : Nat := if isSram a then 8 else 32

/-- The word that holds a byte. -/
def wordAt (a : Nat) : Nat := a / wordLen a * wordLen a

/-- The keys of accumulator words and field-store words, which the map does not show. -/
def accKey (e i : Nat) : Nat := 0x030000000000 + e * 2 ^ 23 + i
def fieldKey (e i : Nat) : Nat := 0x040000000000 + e * 2 ^ 23 + 8 * i

/-- The SRAM of a tile that an address lies in: Slate, exchange window, accumulator, field store (R536). -/
def sramKind (a : Nat) : Nat :=
  if a < 0x020100000000 then 0 else if a < 0x030000000000 then 1 else if a < 0x040000000000 then 2 else 3

/-- The logical engine an SRAM address belongs to. -/
def sramEng (a : Nat) : Nat :=
  match sramKind a with
  | 0 => (a - 0x020000000000) / 2 ^ 25
  | 1 => (a - 0x020100000000) / 2 ^ 20
  | 2 => (a - 0x030000000000) / 2 ^ 23
  | _ => (a - 0x040000000000) / 2 ^ 23

/-- The byte address within its SRAM. -/
def sramOff (a : Nat) : Nat :=
  match sramKind a with
  | 0 => a % 2 ^ 25
  | 1 => a % 2 ^ 20
  | _ => a % 2 ^ 23

/-- The channel of an LPDDR6 address (R515). -/
def lmChannel (a : Nat) : Nat := a / 3584 % 16

/-- The controller of a canonical address: its page, the offset its registers add, and its log. -/
def ctlOf (s : State) (a : Nat) : Nat × Nat × Nat :=
  if isSram a then let p := tileOf s (sramEng a); (pgEng p, 0x3C0, 8 + p)
  else if 0x018000000000 ≤ a then let q := (a - 0x018000000000) / 2 ^ 30 / 9; (pgBm q, 0, q)
  else let q := lmChannel a / 4; (pgLm q, 0, 4 + q)

/-- The MEM field of a log entry (R536). -/
def memField (a : Nat) : Nat :=
  if isSram a then sramKind a else if 0x018000000000 ≤ a then 0 else lmChannel a % 4

/-- The ADDR field of a log entry (R536). -/
def logAddr (a : Nat) : Nat := if isSram a then sramOff (wordAt a) else wordAt a

/-! ## Reads and their classes (R524, R692) -/

/-- The classes of R524. -/
inductive RdClass where
  | clean
  | corrected (pos : Nat)
  | multi | address | poison
  deriving DecidableEq, Repr

/-- The class code of a log entry. -/
def classCode : RdClass → Nat
  | .corrected _ => 0 | .multi => 1 | .address => 2 | .poison => 3 | .clean => 7

/-- The class a number names: the choice a free value makes. -/
def classOfNat (n : Nat) : RdClass :=
  match n % 5 with
  | 0 => .clean | 1 => .corrected 0 | 2 => .multi | 3 => .address | _ => .poison

/-- Bad symbols of a DRAM word: nonzero bytes among the low `n`. -/
def badBytes (n v : Nat) : List Nat := (List.range n).filter fun i => decide (field v (8 * i) 8 ≠ 0)

/-- The class of a marked word, `none` where the spec does not determine it (R524, R692). -/
def classOf (sram : Bool) (m : Mark) : Option RdClass :=
  if m.poison then some .poison
  else match m.fixed with
  | some c => some (classOfNat c)
  | none =>
    if sram then
      let bits := (List.range 72).filter fun i => m.flips.testBit i
      let na := popcount 32 m.addrX
      match bits, na with
      | [], 0 => some .clean
      | [i], 0 => some (.corrected i)
      | [], 1 => some .address
      | _, _ => none
    else
      let sb := badBytes 36 m.flips
      let nv := (badBytes 5 m.addrX).length
      match sb, nv with
      | [], 0 => some .clean
      | [i], 0 => some (.corrected i)
      | [], 1 => some .address
      | _, _ => if sb.length + nv ≤ 3 then some .multi else none

/-- Within the guarantees of R692, an SRAM error of two bits reads MULTI or ADDRESS; beyond them, any class. -/
def openClass (sram : Bool) (m : Mark) (n : Nat) : Nat :=
  let nb := popcount 72 m.flips
  let na := popcount 32 m.addrX
  if sram && decide (nb + na = 2) && (decide (nb = 2) || decide (nb = 0)) then 2 + n % 2 else n % 5

/-- Appends to a controller's log of 32 entries; true where the new entry is dropped (R535). -/
def logPut (log : List (List Byte)) (e : List Byte) : List (List Byte) × Bool :=
  if log.length < 32 then (log ++ [e], false)
  else if leAt e 12 1 % 8 = 0 then (log, true)
  else match findIdx (fun x => decide (leAt x 12 1 % 8 = 0)) log 0 with
    | some i => (log.eraseIdx i ++ [e], false)
    | none => (log, true)

/-- The log entry of a read (R536). -/
def logEntry (s : State) (a : Nat) (c : RdClass) (src : Nat) : List Byte :=
  let pos := match c with | .corrected i => i | _ => 0x7F
  leBytes 8 (logAddr a) ++ leBytes 4 (s.now / 1024 % 2 ^ 32) ++
    leBytes 4 (classCode c + src * 8 + pos * 32 + memField a * 4096)

/-- Logs a read in its controller; a drop sets OVERFLOW and raises LOG_OVERFLOW. -/
def logRead (a : Nat) (c : RdClass) (src : Nat) (s : State) : State :=
  let k := ctlOf s a
  let r := logPut (nth s.logs k.2.2 []) (logEntry s a c src)
  let s := { s with logs := updAt s.logs k.2.2 fun _ => r.1 }
  if r.2 then raise k.1 0 (setBit k.1 (k.2.1 + 0x044) 31 true s) else s

/-- The mark of a word. -/
def markOf (s : State) (w : Nat) : Mark := spGet noMark w s.marks

/-- Stores the mark of a word. -/
def setMark (w : Nat) (m : Mark) (s : State) : State := { s with marks := spSet noMark w m s.marks }

/-- The bytes of a word with its data bits flipped as marked. -/
def flipWord (a flips : Nat) (m : Sparse Byte) : Sparse Byte :=
  spWrite (leBytes (wordLen a) (leNat (spBytes m a (wordLen a)) ^^^ flips % 2 ^ (8 * wordLen a))) a m

/-- Settles the class of a word where the spec leaves it open: a free value picks it, and it then stays. A word read as
CLEAN delivers its flipped bits; one read as CORRECTED delivers a free value (R692, log entry 8). -/
def settle (w : Nat) (s : State) : State :=
  let m := markOf s w
  match classOf (isSram w) m with
  | some _ => s
  | none =>
    let (n, s) := freshNat s
    let c := openClass (isSram w) m n
    match classOfNat c with
    | .clean => setMark w (noMark w) { s with mem := flipWord w m.flips s.mem }
    | .corrected _ =>
      let (v, s) := freshNat s
      setMark w ⟨1, 0, false, none⟩ { s with mem := spWrite (leBytes (wordLen w) v) w s.mem }
    | _ => setMark w { m with fixed := some c } s

/-- Counts one read of a marked word by source `src`: 0 read, 1 scrub, 2 read-modify-write, 3 audit port (R524, R534, R548). -/
def noteRead (src w : Nat) (s : State) : RdClass × State :=
  let s := settle w s
  let c := (classOf (isSram w) (markOf s w)).getD .clean
  let k := ctlOf s w
  match c with
  | .clean => (c, s)
  | .corrected _ => (c, logRead w c src (bump k.1 oErrCe s))
  | .multi => (c, raise k.1 1 (logRead w c src (bump k.1 oErrUe s)))
  | .address => (c, raise k.1 1 (logRead w c src (bump k.1 (k.2.1 + 0x094) (bump k.1 oErrUe s))))
  | .poison => (c, raise k.1 1 (logRead w c src s))

/-- The marked words of a canonical range. -/
def markedIn (s : State) (a n : Nat) : List Nat :=
  (s.marks.filter fun e => decide (wordAt a ≤ e.1) && decide (e.1 < a + n)).map (·.1)

/-- Reads a range through its codes: the words that are uncorrectable, the number that decoded CORRECTED. -/
def readCheck (src a n : Nat) (s : State) : List Nat × Nat × State :=
  ((pieces s 34 a n).map fun p => markedIn s p.1 p.2).flatten.foldl (fun (acc : List Nat × Nat × State) w =>
    let r := noteRead src w acc.2.2
    match r.1 with
    | .clean => (acc.1, acc.2.1, r.2)
    | .corrected _ => (acc.1, acc.2.1 + 1, r.2)
    | _ => (acc.1 ++ [w], acc.2.1, r.2)) ([], 0, s)

/-- Reads ranges through their codes: true where every word reads, with the number that decoded CORRECTED. -/
def partsRead (ps : List (Nat × Nat)) (s : State) : Bool × Nat × State :=
  ps.foldl (fun (acc : Bool × Nat × State) p =>
    let q := readCheck 0 p.1 p.2 acc.2.2
    (acc.1 && q.1.isEmpty, acc.2.1 + q.2.1, q.2.2)) (true, 0, s)

/-! ## Writes (R525 to R528, R544, R545) -/

/-- Poisons a word (R526), counted in POISONED when the mark is new. -/
def poisonWord (w : Nat) (s : State) : State :=
  let k := ctlOf s w
  if (markOf s w).poison then s
  else setMark w ⟨0, 0, true, none⟩ (bump k.1 (k.2.1 + 0x098) s)

/-- The flip mask of a controller (R544). -/
def injMask (s : State) (page base : Nat) : Nat :=
  sumN ((List.range 9).map fun i => reg s page (base + 0x060 + 4 * i) * 2 ^ (32 * i))

/-- Whether an armed mask applies to a write at a canonical address. -/
def injApplies (s : State) (w : Nat) : Bool :=
  let k := ctlOf s w
  let c := reg s k.1 (k.2.1 + 0x088)
  c.testBit 0 && (!isSram w || decide (field c 2 2 = sramKind w))

/-- A write of a whole word leaves it clean, or with the armed mask XORed in, which then disarms. -/
def wroteWord (w : Nat) (s : State) : State :=
  if injApplies s w then
    let k := ctlOf s w
    let mask := injMask s k.1 k.2.1 % 2 ^ (if isSram w then 72 else 288)
    setMark w ⟨mask, reg s k.1 (k.2.1 + 0x084), false, none⟩ (setBit k.1 (k.2.1 + 0x088) 0 false s)
  else if (markOf s w) = noMark w then s else setMark w (noMark w) s

/-- The first words of a run of whole words that each controller orders: its start, and where the next controller's words begin
(R512, R515, R544). -/
def ctlStarts (a n : Nat) : List Nat :=
  let b := if 0x018000000000 ≤ a ∧ a < 0x018900000000 then 0x018000000000 else 0
  let g := if a < 0x018000000000 then 3584 else if a < 0x020000000000 then 9 * 2 ^ 30 else if sramKind a = 0 then 2 ^ 25
    else if sramKind a = 1 then 2 ^ 20 else 2 ^ 23
  a :: ((List.range 32).map fun i => b + ((a - b) / g + 1 + i) * g).filter fun w => decide (w < a + n)

/-- The armed masks take the first words that their controllers write of a run. -/
def armRun (a n : Nat) (s : State) : State :=
  if n = 0 then s else (ctlStarts a n).foldl (fun s w => if injApplies s w then wroteWord w s else s) s

/-- Marks the 2 MiB blocks of a canonical range as written (R510). -/
def noteWritten (a n : Nat) (s : State) : State :=
  if 0x018000000000 ≤ a ∧ a < 0x018900000000 ∧ 0 < n then
    let b0 := (a - 0x018000000000) / 2 ^ 21
    let b1 := (a + n - 1 - 0x018000000000) / 2 ^ 21
    { s with written := (List.range (b1 - b0 + 1)).foldl (fun l i =>
        if l.contains (b0 + i) then l else insertBy (fun a b => decide (a < b)) (b0 + i) l) s.written }
  else s

/-- Part of one word written: a read-modify-write (R527, R528). -/
def writePart (w a : Nat) (bs : List Byte) (s : State) : State :=
  let k := ctlOf s w
  let s := bump k.1 (k.2.1 + 0x09C) s
  let r := if markOf s w = noMark w then (RdClass.clean, s) else noteRead 2 w s
  let s := r.2
  match r.1 with
  | .clean => wroteWord w { s with mem := spWrite bs a s.mem }
  | .corrected _ => wroteWord w { s with mem := spWrite bs a s.mem }
  | _ => poisonWord w { s with mem := spWrite bs a (spWrite (zeros (wordLen w)) w s.mem) }

/-- Writes bytes at a canonical address: whole words, with a read-modify-write at each ragged end. -/
def writeCanon (a : Nat) (bs : List Byte) (s : State) : State :=
  let n := bs.length
  if n = 0 then s
  else
    let L := wordLen a
    let w0 := wordAt a
    let w1 := (a + n - 1) / L * L
    let s := noteWritten a n s
    if w0 = w1 then (if n = L then wroteWord w0 { s with mem := spWrite bs a s.mem } else writePart w0 a bs s)
    else
      let head := (w0 + L - a) % L
      let tail := (a + n) % L
      let mid := (bs.drop head).take (n - head - tail)
      let s := if head = 0 then s else writePart w0 a (bs.take head) s
      let ma := a + head
      let s := { s with mem := spWrite mid ma s.mem, marks := spClear ma mid.length s.marks }
      let s := if 0 < mid.length then armRun ma mid.length s else s
      if tail = 0 then s else writePart w1 w1 (bs.drop (n - tail)) s

/-- Writes bytes of device memory, window by window. -/
def memWrite (a : Nat) (bs : List Byte) (s : State) : State :=
  ((pieces s 34 a bs.length).foldl (fun (st : State × List Byte) p =>
    (writeCanon p.1 (st.2.take p.2) st.1, st.2.drop p.2)) (s, bs)).1

/-! ## Contexts -/

/-- The context with an identifier. -/
def ctxOf (s : State) (c : Nat) : Option Ctx := s.ctxs.find? fun x => decide (x.id = c)

/-- Changes a context. -/
def updCtx (c : Nat) (f : Ctx → Ctx) (s : State) : State :=
  { s with ctxs := s.ctxs.map fun x => if x.id = c then f x else x }

/-- Frees a context. -/
def freeCtx (c : Nat) (s : State) : State := { s with ctxs := s.ctxs.filter fun x => decide (x.id ≠ c) }

/-- Whether a context exists and meets a condition. -/
def ctxIs (s : State) (c : Nat) (p : Ctx → Bool) : Bool :=
  match ctxOf s c with | some x => p x | none => false

/-- The resident program at an index. -/
def progAt (s : State) (i : Nat) : Option Prog := s.progs.find? fun p => decide (p.index = i)

/-! Descriptor fields (R434). -/

def dType (x : Ctx) : Nat := leAt x.desc 0x00 1
def dProgram (x : Ctx) : Nat := leAt x.desc 0x01 1
def dFlags (x : Ctx) : Nat := leAt x.desc 0x02 2
def dTag (x : Ctx) : Nat := leAt x.desc 0x04 4
def dRunId (x : Ctx) : Nat := leAt x.desc 0x08 8
def dSeed (x : Ctx) : Nat := leAt x.desc 0x10 8
def dDeadline (x : Ctx) : Nat := leAt x.desc 0x18 8
def dBudget (x : Ctx) : Nat := leAt x.desc 0x20 4
def dLimit (x : Ctx) : Nat := leAt x.desc 0x24 4
def dArgs (x : Ctx) : Nat := leAt x.desc 0x28 8
def dNWait (x : Ctx) : Nat := leAt x.desc 0x30 1
def dNSignal (x : Ctx) : Nat := leAt x.desc 0x31 1
def dNInput (x : Ctx) : Nat := leAt x.desc 0x32 1
def dCount (x : Ctx) : Nat := leAt x.desc 0x34 2
def flStrict (x : Ctx) : Bool := (dFlags x).testBit 0
def flFree (x : Ctx) : Bool := (dFlags x).testBit 1
def flAudit (x : Ctx) : Bool := (dFlags x).testBit 2
def flCert (x : Ctx) : Bool := (dFlags x).testBit 3
def flFresh (x : Ctx) : Bool := (dFlags x).testBit 4
def flFailSkip (x : Ctx) : Bool := (dFlags x).testBit 5
def flArgsDev (x : Ctx) : Bool := (dFlags x).testBit 6
def flNoIrq (x : Ctx) : Bool := (dFlags x).testBit 7

/-- Whether a context's ring is MAINT (R471). -/
def onMaint (x : Ctx) : Bool := decide (x.ring = 5)

/-- Whether a context is a Bell release. -/
def isBell (x : Ctx) : Bool := decide (x.ring ≤ 1)

/-- The program of an invocation. -/
def progOf (s : State) (x : Ctx) : Option Prog := progAt s (dProgram x)

/-- The image of an invocation's program. -/
def ctxImage (s : State) (x : Ctx) : List Byte := ((progOf s x).map (·.image)).getD []

/-- Counts a recovery of an invocation (R410). -/
def recAdd (c i n : Nat) (s : State) : State :=
  updCtx c (fun x => { x with recs := updAt x.recs i fun v => min (2 ^ 32 - 1) (v + n) }) s

end Sys2Proof.Machine
end

