-- ==== Sys2Proof/Machine/Clock.lean ====
section
/-!
DEFINITION. The 64-bit nanosecond counter (R503, R505) and its tick.
-/
namespace Sys2Proof.Machine

/-- One nanosecond of the time base under RATE: the counter advances by 1 plus the carry of the trim (R503). -/
def tick (s : State) : State :=
  let f := s.nowFrac + signed 32 (reg s pgTime 0x050)
  let carry := f / 2 ^ 32
  { s with now := ((s.now : Int) + 1 + carry).toNat % 2 ^ 64, nowFrac := f % 2 ^ 32 }

end Sys2Proof.Machine
end

