-- ==== Sys2Proof/Machine/Record.lean ====
section
/-!
DEFINITION. Status codes and their order (R472, R473), completion records (R461) and certificates (R394, R409).
-/
namespace Sys2Proof.Machine

/-! ## Status codes (R472) -/

def stOk : Nat := 0x0000
def stOkDegraded : Nat := 0x0001
def stOkLate : Nat := 0x0002
def stAccSaturated : Nat := 0x0003
def stFieldSaturated : Nat := 0x0004
def stProgramInvalid : Nat := 0x0100
def stDigestMismatch : Nat := 0x0101
def stAdmissionRefused : Nat := 0x0102
def stSeedUnavailable : Nat := 0x0103
def stHostReadFault : Nat := 0x0104
def stWaitTimeout : Nat := 0x0200
def stDeadlockBroken : Nat := 0x0201
def stAborted : Nat := 0x0202
def stPeerLost : Nat := 0x0300
def stAuditFault : Nat := 0x0301
def stInternalFault : Nat := 0x0302
def stHostWriteFault : Nat := 0x0500

/-- The order of R473: the status of several causes is the first of them. -/
def statusOrder : List Nat :=
  [stInternalFault, stPeerLost, stAuditFault, stAborted, stProgramInvalid, stHostReadFault, stAdmissionRefused,
   stDigestMismatch, stSeedUnavailable, stDeadlockBroken, stWaitTimeout, stFieldSaturated, stAccSaturated, stOkDegraded,
   stOkLate, stOk]

/-- The rank of a status code in R473. -/
def statusRank (c : Nat) : Nat := (findIdx (fun x => decide (x = c)) statusOrder 0).getD statusOrder.length

/-- Whether a completion status delivers a result (R472). -/
def deliversResult (c : Nat) : Bool := decide (c ≤ stFieldSaturated)

/-- A `PROGRAM_INVALID` cause at a location (R693). -/
def invalidAt (l : Loc) : Cause := ⟨stProgramInvalid, locDetail l, locOffset l⟩

/-- The cause that ranks first; OK with none (R473). -/
def bestCause (l : List Cause) : Cause :=
  l.foldl (fun b c => if statusRank c.code < statusRank b.code then c else b) ⟨stOk, 0, 0⟩

/-- The status that an invocation would complete with now: its causes, an abort of the started invocation among them (R447, R449), and
`ACC_SATURATED` of R245. -/
def statusNow (x : Ctx) : Cause :=
  bestCause (x.causes ++ (if x.abort then [⟨stAborted, 0, 0⟩] else []) ++ (match x.satStage with | some i => [⟨stAccSaturated, i, 0⟩] | none => []) ++
    (if x.degraded then [⟨stOkDegraded, 0, 0⟩] else []) ++ (if x.late then [⟨stOkLate, 0, 0⟩] else []))

/-- The final status, or the one that stands now. -/
def statusOf (x : Ctx) : Cause := x.status.getD (statusNow x)

/-! ## Digests (R394) -/

/-- LADDER_DIGEST: the final base codes and the rung assignment. -/
def ladderDigest (a : Anneal) : List Byte :=
  treeDigest ((a.codes.map (leBytes 4)).flatten ++ (a.rungs.map (leBytes 4)).flatten)

/-- PENALTY_DIGEST: the final penalty weights. -/
def penaltyDigest (a : Anneal) : List Byte := treeDigest (a.lam.map (leBytes 2)).flatten

/-- Whether the run of an anneal has produced a result. -/
def annealResult (x : Ctx) : Option Anneal :=
  match x.anneal with
  | some a => if a.resultDone then some a else none
  | none => none

/-- AUDIT_STATUS of a record or a certificate (R409): NONE, the outcome, or PENDING. -/
def auditStatus (s : State) (x : Ctx) : Nat :=
  let f (j : AuditJob) : Bool := decide (j.ctx = x.id) && decide (j.order = x.order) && (x.resultAt.getD j.addr == j.addr)
  match x.audit with
  | some a => a.status
  | none => if s.audits.any f || (match s.auditRun with | some j => f j | none => false) then 4 else 0

/-- The tracked energy of top-eight entry 0; 0 without one. -/
def trackedEnergy (x : Ctx) : Int :=
  match annealResult x with
  | some a => (a.top.head?.map (·.energy)).getD 0
  | none => 0

/-- The certificate's ENERGY: the audit's under CORRECTED, else the tracked one. -/
def certEnergy (x : Ctx) : Int :=
  match x.audit with
  | some ar => if ar.status = 2 then ((ar.vals.head?).map (·.energy)).getD (trackedEnergy x) else trackedEnergy x
  | none => trackedEnergy x

/-- SWEEPS_RUN: completed sweeps. -/
def sweepsRun (x : Ctx) : Nat := (x.anneal.map (·.sweep)).getD 0

/-- STOP_REASON of R397; 0 without an anneal that has stopped. -/
def stopReason (x : Ctx) : Nat := ((x.anneal.bind (·.stop)).map stopCode).getD 0

/-- The device position of an invocation. -/
def ctxPosition (x : Ctx) : Nat :=
  match x.origin with
  | .spare p => p
  | _ => (x.md.map (·.position)).getD 0

/-- A 32-byte digest, zero where the invocation did not produce it (R408). -/
def dig32 (l : Option (List Byte)) : List Byte := let b := l.getD []; (b ++ zeros 32).take 32

/-- What a follow-up certificate changes: KIND 1, FOLLOWS, its own times and status. -/
structure CertKind where
  kind : Nat
  follows : Nat
  seq : Nat
  status : Nat
  audit : Nat
  tEnd : Nat
  deriving DecidableEq, Repr

/-- SEED: the seed used; zero while a fresh seed is not drawn, since an invocation ignores the descriptor's then (R434, R408). -/
def certSeed (x : Ctx) : Nat := if flFresh x && !x.seeded then 0 else x.seed

/-- An invocation as it stood at the `RESULT` that wrote the area at an address (R310). -/
def asOf (x : Ctx) (addr : Nat) : Ctx :=
  match x.results.find? fun r => decide (r.addr = addr) with
  | some r => { x with anneal := some r.run, resDigests := r.digests, audit := r.audit, resultAt := some r.addr, resultLen := r.len }
  | none => x

/-- The 512 bytes of a certificate (R409). -/
def certBytes (s : State) (x : Ctx) (k : CertKind) : List Byte :=
  let img := ctxImage s x
  let a := annealResult x
  let single := decide (imgDevCount img ≤ 1)
  let av := x.audit.bind fun r => r.vals.head?
  let flags := b2n (single || !flFree x) + 2 * b2n (!single && flFree x) + 4 * b2n x.degraded + 8 * b2n x.late +
    16 * b2n (flFresh x) + 32 * b2n ((x.anneal.map (·.prob.satPossible)).getD false) + 64 * b2n (decide (x.budget < x.budgetNom))
  let dg (i : Nat) : List Byte := (nth x.resDigests i [] ++ zeros 32).take 32
  let prog := progOf s x
  leBytes 4 0x56435545 ++ leBytes 2 1 ++ leBytes 1 k.kind ++ leBytes 1 flags ++ leBytes 8 Config.serial.toNat ++
  leBytes 1 s.fuses.life ++ leBytes 1 (imgMode img) ++ leBytes 2 (ctxPosition x) ++ leBytes 2 (imgDevCount img) ++
  leBytes 1 x.ring ++ leBytes 1 0 ++ leBytes 8 k.seq ++ leBytes 8 (dRunId x) ++ leBytes 8 (certSeed x) ++
  (s.boot.fwDigest ++ zeros 32).take 32 ++ dig32 (prog.map (·.digest)) ++
  dig32 (x.anneal.map (·.prob.digest)) ++ dig32 (some x.inputDigest) ++ dg 0 ++ dg 1 ++ dig32 (a.map ladderDigest) ++
  dig32 (a.map penaltyDigest) ++ dg 2 ++ leBytes 16 (unsigned 128 (certEnergy x)) ++
  leBytes 16 (unsigned 128 (trackedEnergy x)) ++ leBytes 16 (unsigned 128 ((av.map (·.minFlip)).getD 0)) ++
  leBytes 4 ((av.map (·.improving)).getD 0) ++ leBytes 4 ((av.map (·.onehot)).getD 0) ++
  leBytes 4 ((av.map (·.rowViol)).getD 0) ++ leBytes 4 ((av.map (·.maxResid)).getD 0) ++ leBytes 2 k.status ++
  leBytes 1 k.audit ++ leBytes 1 ((x.audit.map (·.vals.length)).getD 0) ++ leBytes 1 (stopReason x) ++ zeros 3 ++
  leBytes 4 (sweepsRun x) ++ leBytes 4 x.budget ++ leBytes 4 x.budgetNom ++ leBytes 4 x.sweepLimit ++ leBytes 8 x.tFetch ++
  leBytes 8 k.tEnd ++ leBytes 8 ((x.audit.map (·.tEnd)).getD 0) ++ ((List.range 10).map fun i => leBytes 4 (nth x.recs i 0)).flatten ++
  leBytes 8 k.follows ++ leBytes 8 ((s.cert.bootId).getD 0) ++ zeros 8

/-- The record type of an entry (R461, R470, R482). -/
def recordType (x : Ctx) : Nat :=
  match x.origin with
  | .entry _ _ => 3
  | _ => match dType x with
    | 1 | 2 | 4 | 5 => 2
    | _ => 0

/-- The 128 bytes of a completion record (R461); SEQ is filled in when it is written, REPLAYED when it is replayed. -/
def recordBytes (s : State) (x : Ctx) : List Byte :=
  let st := statusOf x
  let flags := 2 * b2n x.certSeq.isSome + 4 * b2n x.sigSkipped + 8 * b2n x.sigFault
  let idx := match x.origin with | .ring => x.slot | .entry _ i => i | _ => 0xFFFF
  let win := match x.window with | some w => w | none => 2 ^ 64 - 1
  let tag := match x.origin with | .entry b _ => ((ctxOf s b).map dTag).getD (dTag x) | _ => dTag x
  leBytes 1 (recordType x) ++ leBytes 1 x.ring ++ leBytes 2 st.code ++ leBytes 4 tag ++ zeros 8 ++ leBytes 8 (dRunId x) ++
  leBytes 2 idx ++ leBytes 1 (dProgram x) ++ leBytes 1 flags ++ leBytes 1 (auditStatus s x) ++ leBytes 1 (stopReason x) ++
  leBytes 2 (ctxPosition x) ++ leBytes 8 (x.certSeq.getD 0) ++ leBytes 8 win ++ leBytes 16 (unsigned 128 (certEnergy x)) ++
  leBytes 8 x.tFetch ++ leBytes 8 x.tStart ++ leBytes 8 x.tEnd ++ leBytes 4 (sweepsRun x) ++ leBytes 4 x.budget ++
  leBytes 4 (min (2 ^ 32 - 1) (sumN x.recs)) ++ leBytes 4 st.detail ++ zeros 8 ++ leBytes 8 st.offset ++ zeros 8

/-- A record with its SEQ, and REPLAYED where it is replayed. -/
def recordWith (b : List Byte) (seq : Nat) (replayed : Bool) : List Byte :=
  let b := b.take 8 ++ leBytes 8 seq ++ b.drop 16
  if replayed then b.take 0x1B ++ leBytes 1 (leAt b 0x1B 1 ||| 1) ++ b.drop 0x1C else b

/-- A byte string with other bytes in place from an offset on. -/
def splice (b : List Byte) (o : Nat) (v : List Byte) : List Byte := b.take o ++ v ++ b.drop (o + v.length)

/-- RECOVERIES of a certificate's REC[0..9], saturating (R461). -/
def certRecoveries (cert : List Byte) : Nat := min (2 ^ 32 - 1) (sumN ((List.range 10).map fun i => leAt cert (0x1C0 + 4 * i) 4))

/-- The TYPE 1 record of a follow-up (R461, R500): the fields of the result's TYPE 0 record `rec`, with the follow-up's status, audit status,
energy and recoveries, its own certificate `seq` where one is issued, and FOLLOWS. It applies no signal (R455); WINDOW_NO is filled in
when the window is signed. -/
def followRecord (rec cert : List Byte) (audit status : Nat) (seq : Option Nat) (follows : Nat) : List Byte :=
  let b := padTo 128 rec
  let b := splice (splice (splice b 0x00 (leBytes 1 1)) 0x02 (leBytes 2 status)) 0x08 (zeros 8)
  let b := splice (splice b 0x1B (leBytes 1 (2 * b2n seq.isSome))) 0x1C (leBytes 1 audit)
  let b := splice b 0x20 (leBytes 8 (seq.getD 0) ++ leBytes 8 (2 ^ 64 - 1) ++ slice cert 0x150 16)
  let b := splice b 0x60 (leBytes 4 (certRecoveries cert))
  let b := if status = leAt rec 0x02 2 then b else splice (splice b 0x64 (zeros 4)) 0x70 (zeros 8)
  splice b 0x68 (leBytes 8 follows)

end Sys2Proof.Machine
end

