-- ==== Sys2Proof/Machine/Timing.lean ====
section
/-!
DEFINITION. The times that depend on the operating point (R695, R491) or on a register: T_CPL, W_MIN, the handshake-step
time; the margin codes that the values in force give (R593, R595).
-/
namespace Sys2Proof.Machine

/-- T_CPL in ns (R671). -/
def tCpl (s : State) : Nat := reg s pgPcie 0x044 * 1000000

/-- W_MIN in ns (R452). -/
def wMin (s : State) : Nat := 3 * tCpl s + 1000000

/-- The time of a wait of exponent TMO in ns, clamped up to `clamp` (R451). -/
def waitNs (tmo clamp : Nat) : Nat := max (2 ^ tmo * 1000) clamp

/-- The rate in 10⁶ handshake steps per second; N0's 1,200 while RATE_MIN reads 0 (DESIGN CHOICE, log entry 16). -/
def rateNow (s : State) : Nat :=
  let r := reg s pgSpeed 0x054 % 65536
  if r = 0 then 1200 else r

/-- The effective handshake-step time at a rate and a reef level, in ns, as a fraction (R596, R695). -/
def stepTime (rate level : Nat) : Nat × Nat := (8000, rate * (8 - min level 7))

/-- The issue limit in force: one that waits for a request follows 10 µs after its acknowledgement (R600). -/
def issueLevel (s : State) : Nat :=
  match s.power.pendingLimit, s.power.ackedAt with
  | some n, some t => if t + 10000 ≤ s.now then n else s.power.issueLevel
  | _, _ => s.power.issueLevel

/-- The effective handshake-step time now: t_cur of R491. -/
def tCur (s : State) : Nat × Nat := stepTime (rateNow s) (issueLevel s)

/-- The handshake-step time that RATE_MIN and the reef level in force give: 1/f of R695 is 1.2 ns⁻¹ times it. -/
def tPoint (s : State) : Nat × Nat := stepTime (rateNow s) s.power.level

/-- The larger of two fractions. -/
def maxFrac (a b : Nat × Nat) : Nat × Nat := if a.1 * b.2 < b.1 * a.2 then b else a

/-- The rate of the slowest tile of a mask's engines at a time, where the slowest active tile's is `least` (R595; log entry 16). -/
def maskRate (s : State) (mask least at_ : Nat) : Nat :=
  match ((List.range 32).filter fun e => mask.testBit e).map fun e => Config.tileRate (tileOf s e) at_ with
  | [] => least
  | r :: rs => max least (rs.foldl min r)

/-- An issue limit that waits for an acknowledged request is in force from 10 µs after the acknowledgement (R600): the operating point before it
enters the history. -/
def settleIssue (s : State) : State :=
  match s.power.pendingLimit, s.power.ackedAt with
  | some n, some t =>
    if t + 10000 ≤ s.now then
      { s with power := { s.power with
          issueLevel := n, pendingLimit := none, ackedAt := none, hist := (t + 10000, rateNow s, s.power.issueLevel) :: s.power.hist } }
    else s
  | _, _ => s

/-- The longest effective handshake-step time of the tiles of a mask's engines over the last 100 ms (R488). -/
def tLongest (s : State) (mask : Nat) : Nat × Nat :=
  ((settleIssue s).power.hist.filter fun h => decide (s.now ≤ h.1 + 100000000)).foldl
    (fun t h => maxFrac t (stepTime (maskRate s mask h.2.1 h.1) h.2.2)) (stepTime (maskRate s mask (rateNow s) s.now) (issueLevel s))

/-- Ends the operating point in force: it enters the history of the last 100 ms. -/
def noteOp (s : State) : State :=
  let s := settleIssue s
  { s with power := { s.power with hist :=
      (s.now, rateNow s, issueLevel s) ::
        (s.power.hist.filter fun h => decide (s.now ≤ h.1 + 100000000)) } }

/-! ## Margin codes (R593, R595) -/

/-- The floor and the upper bound of a tile's code. -/
def codeFloor (m : Margin) : Nat := max m.floor m.lo
def codeMax (m : Margin) : Nat := max m.hi (codeFloor m)

/-- The code that the bounds allow; without adaptation, the upper bound (R34, R593). -/
def boundCode (m : Margin) : Nat := if m.adapt then clampN m.code (codeFloor m) (codeMax m) else codeMax m

/-- A tile's margin under the values in force. -/
def inForce (s : State) (m : Margin) : Margin :=
  let m := { m with adapt := (reg s pgSpeed 0x040).testBit 0, lo := reg s pgSpeed 0x044 % 16, hi := reg s pgSpeed 0x048 % 16 }
  { m with code := boundCode m }

end Sys2Proof.Machine
end

