-- ==== Sys2Proof/Machine/Sync.lean ====
section
/-!
DEFINITION. Semaphores, waits and the stall condition (R450 to R460), and reads of host memory with their re-reads
(R453, R466, R672).
-/
namespace Sys2Proof.Machine

/-! ## Semaphores (R450) -/

/-- The value of a semaphore. -/
def semOf (s : State) (n : Nat) : Nat := (spGet zeroDWord n s.sems).toNat

/-- SET: any value, including a lower one. -/
def semSet (n v : Nat) (s : State) : State := { s with sems := spSet zeroDWord n (BitVec.ofNat 64 v) s.sems }

/-- ADD: a result above 2⁶⁴ − 1 leaves 2⁶⁴ − 1, counts in SAT_COUNT and raises SEM_SAT. -/
def semAdd (n v : Nat) (s : State) : State :=
  let r := semOf s n + v % 2 ^ 64
  if r < 2 ^ 64 then semSet n r s
  else raise pgCfe 4 (bump pgSync 0x05C (semSet n (2 ^ 64 - 1) s))

/-- ADD or SET by the operation bit. -/
def semDo (set : Bool) (n v : Nat) (s : State) : State := if set then semSet n v s else semAdd n v s

/-! ## Latching (R451) -/

/-- Whether a context has started its waits. -/
def waitsOn (x : Ctx) : Bool := decide (x.life = .waiting) && x.argsRead

/-- A semaphore wait whose value reaches its threshold latches. -/
def latchWait (s : State) (w : Wait) : Wait :=
  if w.kind = 0 ∧ w.thresh ≤ semOf s w.sem then { w with latched := true } else w

/-- Latches every satisfied semaphore wait. -/
def latchAll (s : State) : State :=
  { s with ctxs := s.ctxs.map fun x => if waitsOn x then { x with waits := x.waits.map (latchWait s) } else x }

/-- Every wait of a context has latched. -/
def allLatched (x : Ctx) : Bool := x.waits.all (·.latched)

/-- The lowest unlatched wait of a context. -/
def lowestUnlatched (x : Ctx) : Nat := (findIdx (fun w => !w.latched) x.waits 0).getD 0

/-- Host-address waits being polled (R453, R454). -/
def hostWaits (s : State) : Nat :=
  min 1024 (sumN (s.ctxs.map fun x => if waitsOn x then (x.waits.filter fun w => decide (w.kind = 1) && !w.latched).length else 0))

/-- Whether a host-address wait holds a polling slot: slots go to contexts in the order of fetching (R453, log entry 17). -/
def polled (s : State) (c w : Nat) : Bool :=
  let all := (s.ctxs.map fun x => if waitsOn x then
    (x.waits.zipIdx.filter fun e => decide (e.1.kind = 1) && !e.1.latched).map fun e => (x.id, e.2) else []).flatten
  (all.take 1024).contains (c, w)

/-! ## The stall condition (R458) -/

/-- A context that stands WAITING. -/
def isWaiting (x : Ctx) : Bool := decide (x.life = .waiting)

/-- A command buffer, a registration, an install or a remove is no invocation. -/
def isInvocation (x : Ctx) : Bool := decide (dType x = 0)

/-- An invocation between RUNNING and DELIVERING, or a command-buffer entry that has started and not completed. -/
def isBusy (x : Ctx) : Bool :=
  (isInvocation x && (decide (x.life = .running) || decide (x.life = .switchedOut) || decide (x.life = .finishing) ||
    decide (x.life = .delivering))) ||
  ((match x.origin with | .entry _ _ => true | _ => false) && x.ran && x.status.isNone)

/-- The stall condition but for the SYNC page, a write of which restarts the detector's timer. -/
def stallCond (s : State) : Bool :=
  !(s.ctxs.any isBusy) &&
    s.ctxs.any (fun x => waitsOn x && !allLatched x) &&
    !(s.ctxs.any fun x => waitsOn x && x.waits.any fun w => decide (w.kind = 1) && !w.latched) &&
    !(inService s && s.bells.any fun b => !b.progs.isEmpty)

/-- Follows the stall condition: its timer starts when it begins to hold and ends when it breaks (R459). -/
def trackStall (s : State) : State :=
  { s with stallSince := if stallCond s then some (s.stallSince.getD s.now) else none }

/-! ## Host memory (R453, R466, R671, R672) -/

/-- Counts what a completion of a device request reports (R672). -/
def noteCpl (c : Cpl) (s : State) : State :=
  match c with
  | .ur => emit .aerAdvisory (bump pgPcie 0x058 s)
  | .ca => emit .aerAdvisory (bump pgPcie 0x058 s)
  | .poisoned => raise pgPcie 3 (bump pgPcie 0x05C s)
  | .timeout => raise pgPcie 0 (bump pgPcie 0x054 s)
  | _ => s

/-- What a completion delivers. -/
def cplData (c : Cpl) : Option (List Byte) :=
  match c with
  | .data b => some b
  | .ok => some []
  | _ => none

/-- Host reads at an address, up to `k` of them: each puts the address on the bus, and a missing completion is a timeout. -/
def hostTry (a : Nat) : Nat → List Cpl → State → Option (List Byte) × State
  | 0, _, s => (none, s)
  | k + 1, rs, s =>
    let c := rs.headD .timeout
    let s := noteCpl c (emit (.hostRead a) s)
    match cplData c with
    | some b => (some b, s)
    | none => hostTry a k rs.tail s

/-- The `n` bytes that a host read at an address delivers, `none` when the read and two re-reads fail. -/
def hostGet (a : Nat) (rs : List Cpl) (n : Nat) (s : State) : Option (List Byte) × State :=
  let r := hostTry a 3 rs s
  (r.1.map fun b => (b ++ zeros n).take n, r.2)

/-- A device read by the CFE or the DMA engines: `none` when a word of it reads uncorrectably. Corrected reads count in
REC[2] of the invocation that reads (R410). -/
def devGet (c a n : Nat) (s : State) : Option (List Byte) × State :=
  let r := readCheck 0 a n s
  let s := recAdd c 2 r.2.1 r.2.2
  (if r.1.isEmpty then some (memRead s a n) else none, s)

/-- `INTERNAL_FAULT` where no tile and no instruction is concerned: R472 states no DETAIL for it, so DETAIL is a free value
(log entry 28). -/
def internalFault (s : State) : Cause × State := let (d, s) := freshNat s; (⟨stInternalFault, d % 2 ^ 32, 0⟩, s)

/-- A read of the space that ARGS_DEV names: bytes, or the cause that ends the entry. `detail` is the DETAIL of
`HOST_READ_FAULT`. -/
def argGet (x : Ctx) (a n detail : Nat) (rs : List Cpl) (s : State) : Except Cause (List Byte) × State :=
  if flArgsDev x then
    let r := devGet x.id a n s
    match r.1 with
    | some b => (.ok b, r.2)
    | none => let f := internalFault r.2; (.error f.1, f.2)
  else
    let r := hostGet a rs n s
    (match r.1 with | some b => .ok b | none => .error ⟨stHostReadFault, detail, 0⟩, r.2)

end Sys2Proof.Machine
end

