-- ==== Sys2Proof/Machine/Windows.lean ====
section
/-!
DEFINITION. Signing windows and the window ring (R411 to R418).
-/
namespace Sys2Proof.Machine

/-- CERT_SEQ of a certificate that is issued now (R413). -/
def nextCertSeq (s : State) : Nat × State := (s.cert.seq, { s with cert := { s.cert with seq := s.cert.seq + 1 } })

/-- Changes the signing unit. -/
def updCert (f : CertUnit → CertUnit) (s : State) : State := { s with cert := f s.cert }

/-- A window that opens now with its first certificates; WIN_MS and WIN_COUNT are those in force (R411, R418). -/
def openWindow (s : State) (cs : List CertW) : Window :=
  ⟨s.cert.windowNo, s.now, reg s pgCert 0x040, reg s pgCert 0x044, cs, 0⟩

/-- Writes the number of the window into the context that waits for it. -/
def tagWindow (n : Nat) (cs : List CertW) (s : State) : State :=
  cs.foldl (fun s c => match c.ctx with | some i => updCtx i (fun x => { x with window := some n }) s | none => s) s

/-- The open window is at a limit (R411, R415). -/
def windowFull (w : Window) : Bool := decide (w.limitCount ≤ w.certs.length) || decide (256 ≤ w.certs.length)

/-- The open window is past its time (R411). -/
def windowDue (s : State) (w : Window) : Bool := decide (w.opened + w.limitMs * 1000000 ≤ s.now)

/-- Closes the open window, if fewer than four wait for signing; certificates that wait outside any window join the next
(R415). -/
def closeWindow (s : State) : State :=
  match s.cert.current with
  | none => s
  | some w =>
    if s.cert.closed.length < 4 then
      let s := updCert (fun u =>
        { u with current := none, closed := u.closed ++ [{ w with closed := s.now }], windowNo := u.windowNo + 1 }) s
      let cs := s.cert.overflow.take 256
      if cs.isEmpty then s
      else tagWindow s.cert.windowNo cs
        (updCert (fun u => { u with current := some (openWindow s cs), overflow := u.overflow.drop 256 }) s)
    else s

/-- Closes the open window where its count limit asks for it: WINDOW_CLOSE_COUNT. -/
def closeFull (s : State) : State :=
  match s.cert.current with
  | some w => if windowFull w then closeWindow s else s
  | none => s

/-- A certificate joins the open window in CERT_SEQ order, or waits outside while it holds 256 (R411, R415). -/
def joinWindow (c : CertW) (s : State) : State :=
  match s.cert.current with
  | none => closeFull (tagWindow s.cert.windowNo [c] (updCert (fun u => { u with current := some (openWindow s [c]) }) s))
  | some w =>
    if 256 ≤ w.certs.length ∨ !s.cert.overflow.isEmpty then updCert (fun u => { u with overflow := u.overflow ++ [c] }) s
    else closeFull (tagWindow w.number [c] (updCert (fun u => { u with current := some { w with certs := w.certs ++ [c] } }) s))

/-- Replaces the bytes of the certificate of an invocation and a CERT_SEQ that no window has signed yet. -/
def refreshCerts (ctx seq : Nat) (b : List Byte) (cs : List CertW) : List CertW :=
  cs.map fun c => if c.ctx = some ctx ∧ leAt c.bytes 0x018 8 = seq then { c with bytes := b } else c

/-- Replaces the bytes of an invocation's certificate wherever it waits. -/
def refreshWindows (ctx seq : Nat) (b : List Byte) (s : State) : State :=
  let f (w : Window) : Window := { w with certs := refreshCerts ctx seq b w.certs }
  updCert (fun u => { u with current := u.current.map f, closed := u.closed.map f, overflow := refreshCerts ctx seq b u.overflow }) s

/-! ## The ring (R414, R418) -/

/-- The digest of a certificate (R412). -/
def certDigest (b : List Byte) : List Byte := shake256 (3 :: b) 32

/-- The result key pair's public half; without a result key, the field is zero (log entry 11). -/
def resultPublic (s : State) : List Byte := (s.sec.resSeed.map slhPublic).getD (zeros 64)

/-- The signature of a message under the result key (R412, R568). -/
def resultSign (s : State) (m : List Byte) : List Byte := (s.sec.resSeed.map (slhSign · m)).getD (zeros 49856)

/-- The window record of a closed window (R414). -/
def windowRecord (s : State) (w : Window) : List Byte :=
  let ds := w.certs.map fun c => certDigest c.bytes
  let head := leBytes 4 0x57494E44 ++ leBytes 2 1 ++ leBytes 2 w.certs.length ++ leBytes 8 w.number ++
    leBytes 8 (s.cert.bootId.getD 0) ++ leBytes 8 Config.serial.toNat ++ leBytes 8 w.closed ++ zeros 24 ++
    shake256 (resultPublic s) 32
  let root := shake256 (4 :: (head ++ ds.flatten)) 32
  head ++ root ++ (ds.flatten ++ zeros 8192).take 8192 ++ resultSign s root ++ zeros 7360

/-- The ring is full (R418). -/
def ringFull (s : State) : Bool :=
  decide (s.cert.ringSlots ≤ (reg s pgCert 0x058 + 2 ^ 32 - reg s pgCert 0x054) % 2 ^ 32)

/-- Nothing waits in the ring or for it. -/
def ringEmpty (s : State) : Bool := s.cert.signed.isEmpty && decide (reg s pgCert 0x058 = reg s pgCert 0x054)

/-- The committed ring (R418): bits [15:0] of RING_BASE are ignored. -/
def ringWanted (s : State) : Nat × Nat := (regPair s pgCert 0x048 / 65536 * 65536, reg s pgCert 0x050)

/-- CHANGE_PENDING of RING_STATE (R418): a committed RING_BASE or RING_SLOTS waits. -/
def ringPending (s : State) : Bool := s.cert.ringDirty

/-- A committed ring takes effect once the ring is empty: RING_WR and RING_RD return to 0. -/
def ringChange (s : State) : State :=
  if ringPending s && ringEmpty s then
    setReg pgCert 0x054 0 (setReg pgCert 0x058 0
      (updCert (fun u => { u with ringBase := (ringWanted s).1, ringSlots := (ringWanted s).2, ringDirty := false }) s))
  else s

/-- The contexts whose certificates a signed record holds stop waiting for it (R30). -/
def releaseSigned (cs : List CertW) (s : State) : State :=
  cs.foldl (fun s c => match c.ctx with | some i => updCtx i (fun x => { x with windowWait := x.windowWait - 1 }) s | none => s) s

/-- The TYPE 1 records that follow a signed window (R500). -/
def queueFollows (cs : List CertW) (n : Nat) (s : State) : State :=
  cs.foldl (fun s c => match c.follow with
    | some (ring, b) =>
      { s with queues := updAt s.queues ring fun q =>
          { q with waiting := q.waiting ++ [⟨b.take 0x28 ++ leBytes 8 n ++ b.drop 0x30, none, true, none, false⟩] } }
    | none => s) s

/-- Writes the oldest signed record into the next slot of the ring (R414). -/
def ringPut (s : State) : State :=
  match s.cert.signed with
  | [] => s
  | (b, cs) :: rest =>
    if ringFull s then s
    else
      let wr := reg s pgCert 0x058
      let s := memWrite (s.cert.ringBase + wr % s.cert.ringSlots * 65536) b s
      let s := setReg pgCert 0x058 ((wr + 1) % 2 ^ 32) s
      queueFollows cs (leAt b 8 8) (releaseSigned cs (updCert (fun u => { u with signed := rest }) s))

/-- Writes signed records while the ring has room, and changes the ring where it may. -/
def ringPump (s : State) : State := ringChange (iter (fun _ s => ringPut s) s.cert.signed.length s)

end Sys2Proof.Machine
end

