-- ==== Sys2Proof/Machine/Admit.lean ====
section
/-!
DEFINITION. Bell registrations and the admission test (R476 to R490).
-/
namespace Sys2Proof.Machine

/-! ## The registration block (R481) and the REGISTER descriptor (R480) -/

def bkPeriod (b : List Byte) : Nat := leAt b 0x00 8
def bkFirst (b : List Byte) : Nat := leAt b 0x08 8
def bkBudgetMin (b : List Byte) : Nat := leAt b 0x10 4
def bkSweep (b : List Byte) : Nat := leAt b 0x14 4
def bkFixed (b : List Byte) : Nat := leAt b 0x18 4
def bkTail (b : List Byte) : Nat := leAt b 0x1C 4
def bkSlots (b : List Byte) : Nat := leAt b 0x20 2
def bkStride (b : List Byte) : Nat := leAt b 0x28 8
def bkCoeff (b : List Byte) : Nat := leAt b 0x30 8
def bkRows (b : List Byte) : Nat := leAt b 0x38 4
def bkArgs (b : List Byte) : Nat := leAt b 0x40 8
def rdFlags (d : List Byte) : Nat := leAt d 0x02 2
def rdDeadline (d : List Byte) : Nat := leAt d 0x18 8
def rdBudget (d : List Byte) : Nat := leAt d 0x20 4

/-- The bytes of a list of inputs by source space. -/
def inputBytes (dev : Bool) (is : List Input) : Nat := sumN ((is.filter fun i => decide (i.srcDev = dev)).map (·.len))

/-- The Bell ring's state. -/
def bellOf (s : State) (q : Nat) : Bell := nth s.bells q ⟨[], none⟩

/-- Changes a Bell ring's state. -/
def updBell (q : Nat) (f : Bell → Bell) (s : State) : State := { s with bells := updAt s.bells q f }

/-- Changes a registered program. -/
def updBellProg (q p : Nat) (f : BellProg → BellProg) (s : State) : State :=
  updBell q (fun b => { b with progs := b.progs.map fun x => if x.prog = p then f x else x }) s

/-- Whether a program has an active registration on either ring (R439, R480). -/
def isRegistered (s : State) (p : Nat) : Bool := s.bells.any fun b => b.progs.any fun x => decide (x.prog = p)

/-- The engines of a Bell partition. -/
def partition (s : State) (q : Nat) : Nat := reg s (pgQue q) 0x100

/-! ## The admission test (R488), in exact fractions -/

/-- The common denominator: 64 × 40,000 × 345 × the denominator of t. -/
def admitUnit (t : Nat × Nat) : Nat := 883200000 * t.2

/-- The largest measured step counts of a program's last 64 releases; 0 before the first. -/
def measMax (p : BellProg) : Nat × Nat × Nat :=
  p.meas.foldl (fun a m => (max a.1 m.1, max a.2.1 m.2.1, max a.2.2 m.2.2)) (0, 0, 0)

/-- The cost of a release in units of 1/`admitUnit` ns. -/
def admitCost (t : Nat × Nat) (p : BellProg) : Nat :=
  let m := measMax p
  let steps := max (bkFixed p.block) m.1 + rdBudget p.desc * max (bkSweep p.block) m.2.1 + max (bkTail p.block) m.2.2
  883200000 * steps * t.1 + 27600000 * t.2 * inputBytes false p.inputs + 13800000 * t.2 * inputBytes true p.inputs +
    20000 * admitUnit t

/-- The audit bound of R403 in units of 1/`admitUnit` ns, at the operating point `t` in force: 1/f is 1.2 ns⁻¹ × t (R695). -/
def auditBound (t : Nat × Nat) (engines : Nat) (p : BellProg) : Nat :=
  let n := bkCoeff p.block + 4 * bkRows p.block
  let home := 264960 * n * t.1
  let bound := if bkCoeff p.block > 768 * 1048576 * engines then max home (2560000 * n * t.2) else home
  bound + 500000 * admitUnit t

/-- The release time of release `j` (R484). -/
def releaseTime (p : BellProg) (j : Nat) : Nat := p.first + j * bkPeriod p.block

/-- U as a fraction, where the test holds. -/
def admitTest (s : State) (q : Nat) (ps : List BellProg) : Option (Nat × Nat) :=
  let t := tLongest s (partition s q)
  let d := tPoint s
  let u := admitUnit t * d.2
  let img (p : BellProg) : List Byte := ((progAt s p.prog).map (·.image)).getD []
  let aud := sumN ((ps.filter fun p => (rdFlags p.desc).testBit 2 && decide (0 < bkCoeff p.block)).map fun p =>
    t.2 * auditBound d (popcount 32 (imgMask (img p))) p)
  let lend := if (reg s (pgQue q) 0x104).testBit 1 then
    (reg s (pgQue q) 0x108 * 1000 + 87500 * popcount 32 (partition s q)) * u else 0
  let need (p : BellProg) : Nat :=
    d.2 * (admitCost t p + ((ps.filter fun k => decide (k.prog ≠ p.prog)).map (admitCost t)).foldl max 0) + lend + aud
  if ps.any fun p => decide (rdDeadline p.desc * u < need p) then none
  else
    let f := ps.foldl (fun (a : Nat × Nat) p => (a.1 * (rdDeadline p.desc * u) + need p * a.2, a.2 * (rdDeadline p.desc * u))) (0, 1)
    if 100 * f.1 ≤ 85 * f.2 then some f else none

/-- Recomputes the test: OVERLOAD and BELL_UTIL follow (R476, R488, R654). ADMISSION_RECHECK. -/
def admitRecheck (q : Nat) (s : State) : State :=
  let ps := (bellOf s q).progs
  let st := reg s (pgQue q) 0x10C
  let st := st - st % 32 + min 16 ps.length
  match admitTest s q ps with
  | some f =>
    setReg (pgQue q) 0x110 (min (2 ^ 32 - 1) (f.1 * 65536 / f.2))
      (setReg (pgQue q) 0x10C (if st.testBit 8 then st - 256 else st) s)
  | none =>
    if st.testBit 8 then setReg (pgQue q) 0x10C st s else raise (pgQue q) 2 (setReg (pgQue q) 0x10C (st + 256) s)

end Sys2Proof.Machine
end

