-- ==== Sys2Proof/Machine/Deliver.lean ====
section
/-!
DEFINITION. The end of an entry (R440, R449, R455), completion records and their queues (R461 to R466), command buffers'
completion (R468, R470), and the CFE's pump, which does at once what follows from a command without a command of its own.
-/
namespace Sys2Proof.Machine

/-! ## Causes (R449) -/

/-- Adds a cause; one that arises after the status is final only counts in LATE_CAUSES. -/
def addCause (c : Nat) (k : Cause) (s : State) : State :=
  match ctxOf s c with
  | none => s
  | some x => if x.status.isSome then bump pgCfe 0x078 s else updCtx c (fun x => { x with causes := x.causes ++ [k] }) s

/-! ## Signals (R455, R456) -/

/-- Whether an entry's signals are applied: its argument block was read, and FAIL_SKIP does not skip them. -/
def signalsApply (x : Ctx) : Bool := x.argsRead && !(flFailSkip x && !deliversResult (statusOf x).code)

/-- Applies signal `k`: a semaphore operation, or a host write whose flush read is then due. -/
def applySignal (c k : Nat) (g : Signal) (s : State) : State :=
  if g.kind = 0 then semDo (decide (g.op = 1)) g.sem g.value s
  else updCtx c (fun x => { x with sigPending := x.sigPending ++ [k] }) (emit (.hostWrite g.addr (leBytes 8 g.value)) s)

/-- SIGNALS_APPLY: in entry order, or skipped under FAIL_SKIP. A wait that a signal satisfies latches before the next one (R451). -/
def applySignals (c : Nat) (s : State) : State :=
  match ctxOf s c with
  | none => s
  | some x =>
    if signalsApply x then x.signals.zipIdx.foldl (fun s e => latchAll (applySignal c e.2 e.1 s)) s
    else updCtx c (fun x => { x with sigSkipped := flFailSkip x && !deliversResult (statusOf x).code }) s

/-! ## Certificates (R408, R455) -/

/-- An invocation for which a certificate is issued: one whose descriptor was accepted, which ends FETCHED (R408, R437); none is
after a tamper event (R558). -/
def wantsCert (s : State) (x : Ctx) : Bool :=
  flCert x && !s.sec.tampered && isInvocation x && decide (x.life ≠ .fetched) && decide (s.cert.ringSlots ≠ 0)

/-- The result certificate of an invocation as it stands, with its end time. -/
def resultCert (s : State) (x : Ctx) (seq tEnd : Nat) : List Byte :=
  certBytes s x ⟨0, 0, seq, (statusOf x).code, auditStatus s x, tEnd⟩

/-- A queued audit of an invocation. -/
def jobOf (x : Ctx) (j : AuditJob) : Bool := decide (j.ctx = x.id) && decide (j.order = x.order)

/-- Gives the queued audits of an invocation its certificate, from which a follow-up is made (R500). -/
def tellAudits (x : Ctx) (seq : Option Nat) (b : List Byte) (s : State) : State :=
  let f (j : AuditJob) : AuditJob := if jobOf x j then { j with certSeq := seq, certAt := x.certAt, cert := b } else j
  { s with audits := s.audits.map f, auditRun := s.auditRun.map f }

/-- The follow-up certificate of a Bell audit: the result certificate with KIND 1, its own CERT_SEQ and FOLLOWS, the audit's
fields, and `AUDIT_FAULT` under FAULT (R407, R500, R501). -/
def followCert (j : AuditJob) (r : AuditRes) (seq : Nat) : List Byte :=
  let b := splice (splice j.cert 0x006 (leBytes 1 1)) 0x018 (leBytes 8 seq)
  let b := splice b 0x1E8 (leBytes 8 (j.certSeq.getD 0))
  let b := splice b 0x192 (leBytes 1 r.status ++ leBytes 1 r.vals.length)
  let b := splice b 0x1B8 (leBytes 8 r.tEnd)
  let b := if r.status = 3 then splice b 0x190 (leBytes 2 stAuditFault) else b
  let b := if r.status = 2 then splice b 0x1E0 (leBytes 4 (leAt b 0x1E0 4 + 1)) else b
  match r.vals.head? with
  | none => b
  | some v =>
    let b := splice b 0x170 (leBytes 16 (unsigned 128 v.minFlip) ++ leBytes 4 v.improving ++ leBytes 4 v.onehot ++
      leBytes 4 v.rowViol ++ leBytes 4 v.maxResid)
    if r.status = 2 then splice b 0x150 (leBytes 16 (unsigned 128 v.energy)) else b

/-- The status of a follow-up's TYPE 1 record: `AUDIT_FAULT` under FAULT, else that of the result (R501). -/
def followStatus (j : AuditJob) (r : AuditRes) : Nat := if r.status = 3 then stAuditFault else leAt j.cert 0x190 2

/-- Issues the follow-up of a Bell audit (R407, R500). -/
def followUp (j : AuditJob) (r : AuditRes) (s : State) : State :=
  match j.certSeq with
  | some q =>
    let (n, s) := nextCertSeq s
    let b := followCert j r n
    let s := if j.certAt = 0 then s else memWrite (j.certAt + 512) b s
    joinWindow ⟨b, none, some (j.ring, followRecord j.record b r.status (followStatus j r) (some n) q)⟩ s
  | none =>
    let w : RecW := ⟨followRecord j.record (followCert j r 0) r.status (followStatus j r) none 0, none, true, none, false⟩
    { s with queues := updAt s.queues j.ring fun q => { q with waiting := q.waiting ++ [w] } }

/-- The Bell audits of an invocation that are over when its record is queued, or were skipped, have their follow-ups (R31, R407). -/
def followSkips (x : Ctx) (s : State) : State :=
  let js := s.audits.filter fun j => jobOf x j && j.out.isSome
  js.foldl (fun s j => followUp j (j.out.getD ⟨5, [], 0⟩) s) { s with audits := s.audits.filter fun j => !(jobOf x j && j.out.isSome) }

/-- Brings an issued certificate up to date, wherever it stands. -/
def refreshIssued (x : Ctx) (s : State) (q : IssuedCert) : State :=
  let b := resultCert s (asOf x q.addr) q.seq x.tEnd
  memWrite q.place b (refreshWindows x.id q.seq b s)

/-- The certificate of a job's result: that of its result area, else the latest. -/
def jobCert (x : Ctx) (j : AuditJob) : Option IssuedCert :=
  match x.issued.find? fun q => decide (q.addr = j.addr) with
  | some q => some q
  | none => x.issued.getLast?

/-- Gives the queued audits of an invocation their certificates, from which follow-ups are made (R500). -/
def tellIssued (x : Ctx) (s : State) : State :=
  let f (j : AuditJob) : AuditJob :=
    match jobCert x j with
    | some q => if jobOf x j then { j with certSeq := some q.seq, certAt := q.place, cert := resultCert s (asOf x q.addr) q.seq x.tEnd } else j
    | none => j
  { s with audits := s.audits.map f, auditRun := s.auditRun.map f }

/-- The certificate at delivery: those that `CERT` issued are brought up to date; where `CERT` did not run, one is issued
(R408; log entry 18). A Bell result's joins no window (R411). -/
def certAtDelivery (c : Nat) (wanted : Bool) (s : State) : State :=
  match ctxOf s c with
  | none => s
  | some x =>
    if !x.issued.isEmpty then tellIssued x (x.issued.foldl (refreshIssued x) s)
    else if wanted then
      let (q, s) := nextCertSeq s
      let b := resultCert s { x with certSeq := some q } q x.tEnd
      let s := updCtx c (fun x => { x with certSeq := some q, windowWait := b2n (!isBell x) }) s
      let s := if x.certAt = 0 then s else memWrite x.certAt b s
      let s := tellAudits x (some q) b s
      if isBell x then s else joinWindow ⟨b, some c, none⟩ s
    else tellAudits x none (certBytes s x ⟨0, 0, 0, (statusOf x).code, auditStatus s x, x.tEnd⟩) s

/-! ## The status becomes final -/

/-- The deadline of a Bell release (R484). -/
def releaseDeadline (x : Ctx) : Nat := x.tFetch + dDeadline x

/-- What delivery means for a Bell release: LATE and DEGRADED count (R493, R496). -/
def noteBell (c : Nat) (s : State) : State :=
  match ctxOf s c with
  | none => s
  | some x =>
    match x.origin with
    | .release _ _ =>
      let late := decide (releaseDeadline x < s.now)
      let s := updCtx c (fun x => { x with late := late }) s
      let s := if late then bump (pgQue x.ring) 0x118 s else s
      if x.degraded then bump (pgQue x.ring) 0x11C s else s
    | _ => s

/-- After a Bell release: the partition is free, its lateness and its measured steps (free values, log entry 19) are kept,
and the admission test is recomputed (R488, R495). -/
def afterRelease (x : Ctx) (s : State) : State :=
  match x.origin with
  | .release p _ =>
    let (a, s) := freshNat s
    let (b, s) := freshNat s
    let (d, s) := freshNat s
    let s := updBell x.ring (fun r => { r with running := none }) s
    let s := updBellProg x.ring p (fun g => { g with
      prevLate := if x.curs.isEmpty then g.prevLate else x.late, prevBudget := if x.curs.isEmpty then g.prevBudget else x.budget, meas := ((a, b, d) :: g.meas).take 64 }) s
    admitRecheck x.ring s
  | _ => s

/-- A command buffer learns the outcome of its entry (R468). -/
def tellBuffer (x : Ctx) (s : State) : State :=
  match x.origin with
  | .entry b i => updCtx b (fun y => { y with entrySt := updAt y.entrySt i fun _ => .done (statusOf x).code }) s
  | _ => s

/-- An aborted invocation of a multi-device run answers probes as in the run for the barrier timeout plus 1 ms (R448). -/
def noteAborted (x : Ctx) (s : State) : State :=
  match x.md with
  | some m =>
    if (statusOf x).code = stAborted then
      { s with net := { s.net with aborted := (m.runId, s.now + m.timeoutUs * 1000 + 1000000) :: s.net.aborted } }
    else s
  | none => s

/-- An audit of the invocation is queued or runs. -/
def auditPending (s : State) (x : Ctx) : Bool :=
  s.audits.any (jobOf x) || (match s.auditRun with | some j => jobOf x j | none => false)

/-- A Bell result is delivered with status PENDING where its audit is still to come, a skipped one included (R407). -/
def holdPending (x : Ctx) (s : State) : State :=
  if isBell x ∧ auditPending s x then updCtx x.id (fun y => { y with audit := some ⟨4, [], 0⟩ }) s else s

/-- No run but `run` is under way with a device. -/
def soleRun (s : State) (run dev : Nat) : Bool :=
  s.ctxs.all fun x => match x.md with
    | some m => x.status.isSome || decide (m.runId = run) || !m.devices.contains dev
    | none => true

/-- What is kept for a run that is over on this device is dropped: its messages, its frames and their places, what marks its devices (R335, R369). -/
def endRun (x : Ctx) (s : State) : State :=
  match x.md with
  | none => s
  | some m =>
    let mine (src cls : Nat) : Bool := decide (cls = 2) && m.devices.contains src && soleRun s m.runId src
    { s with net := { s.net with
        fresh := s.net.fresh.filter fun e => decide (e.2 ≠ m.runId)
        discard := s.net.discard.filter fun e => decide (e.2 ≠ m.runId)
        inbox := s.net.inbox.filter fun i => !(mine i.src i.cls || ((decide (i.cls = 1) || decide (i.cls = 3)) && decide (leAt i.data 0 8 = m.runId)))
        part := s.net.part.filter fun q => !mine q.src q.cls } }

/-- STATUS_FINAL: the entry enters DELIVERING with the first of its causes (R449, R473); its signals are applied, its
certificate is brought to its final form. -/
def finish (c : Nat) (s : State) : State :=
  match ctxOf s c with
  | none => s
  | some x0 =>
    if x0.status.isSome then s
    else
      let wanted := wantsCert s x0
      let s := noteBell c s
      let s := updCtx c (fun x => { x with status := some (statusNow x), tEnd := s.now, life := .delivering, fed := false,
                                           swSlot := none, spillMem := [], spillParts := [], spillSlots := [], spillTiles := [] }) s
      let s := applySignals c (endRun x0 s)
      let s := certAtDelivery c wanted s
      match ctxOf s c with
      | none => s
      | some x => noteAborted x (holdPending x (afterRelease x s))

/-- Ends an entry with a cause. -/
def endWith (c : Nat) (k : Cause) (s : State) : State := finish c (addCause c k s)

/-- The engine work of an invocation has ended: it enters FINISHING, and its status is final at once unless a queued audit
still runs on an ordinary ring (R440). -/
def engineWorkDone (c : Nat) (s : State) : State :=
  match ctxOf s c with
  | none => s
  | some x =>
    let s := updCtx c (fun x => { x with life := .finishing }) s
    if auditPending s x && !isBell x then s else finish c s

/-! ## Command buffers (R468, R470) -/

/-- Every entry of a buffer has completed. -/
def bufferOver (x : Ctx) : Bool :=
  decide (dType x = 3) && decide (x.life = .running) &&
    x.entrySt.all fun e => match e with | .done _ => true | _ => false

/-- The buffer's status: that of its lowest-indexed entry that did not complete with OK. -/
def bufferStatus (x : Ctx) : Option Nat :=
  firstSome (x.entrySt.map fun e => match e with | .done st => if st = stOk then none else some st | _ => none)

/-- Completes the buffers whose entries have all completed. -/
def bufferDone (s : State) : State :=
  (s.ctxs.filter bufferOver).foldl (fun s x =>
    match bufferStatus x with
    | some st => endWith x.id ⟨st, 0, 0⟩ s
    | none => finish x.id s) s

/-! ## DEREGISTER (R483) -/

/-- A follow-up of a program on a ring still waits for its window. -/
def followWaits (s : State) (ring prog : Nat) : Bool :=
  let f (c : CertW) : Bool := match c.follow with | some (r, b) => decide (r = ring) && decide (leAt b 0x1A 1 = prog) | none => false
  (match s.cert.current with | some w => w.certs.any f | none => false) || s.cert.overflow.any f ||
    s.cert.closed.any (fun w => w.certs.any f) || s.cert.signed.any fun e => e.2.any f

/-- A release of a program runs, or its record or its follow-up is due. -/
def releaseLeft (s : State) (ring prog : Nat) : Bool :=
  (s.ctxs.any fun x => decide (x.ring = ring) && !x.written &&
    (match x.origin with | .release p _ => decide (p = prog) | _ => false)) ||
  s.audits.any (fun j => j.bell && decide (j.ring = ring) && decide (j.prog = prog)) ||
  (match s.auditRun with | some j => j.bell && decide (j.ring = ring) && decide (j.prog = prog) | none => false) ||
  followWaits s ring prog

/-- Completes a DEREGISTER once the release that had started and its follow-up have completed. -/
def deregDone (s : State) : State :=
  (s.ctxs.filter fun x => decide (dType x = 5) && decide (x.life = .finishing) && !releaseLeft s x.ring (dProgram x)).foldl
    (fun s x => finish x.id s) s

/-! ## Queues (R461 to R466) -/

def qHead (s : State) (q : Nat) : Nat := reg s (pgQue q) 0x060
def qTail (s : State) (q : Nat) : Nat := reg s (pgQue q) 0x05C
def cqTail (s : State) (q : Nat) : Nat := reg s (pgQue q) 0x064
def cqHead (s : State) (q : Nat) : Nat := reg s (pgQue q) 0x068
def ringSize (s : State) (q : Nat) : Nat := reg s (pgQue q) 0x048
def cqSize (s : State) (q : Nat) : Nat := reg s (pgQue q) 0x054
def qState (s : State) (q : Nat) : Nat := reg s (pgQue q) 0x070 % 4
def qEnabled (s : State) (q : Nat) : Bool := (reg s (pgQue q) oCtrl).testBit 0

/-- The base address of a ring or a completion queue: bits [11:0] are ignored (R653). -/
def pageBase (s : State) (q off : Nat) : Nat := regPair s (pgQue q) off / 4096 * 4096

/-- A ring's own state. -/
def queueOf (s : State) (q : Nat) : Queue := nth s.queues q queueReset

/-- Changes a ring's own state. -/
def updQueue (q : Nat) (f : Queue → Queue) (s : State) : State := { s with queues := updAt s.queues q f }

/-- Frees the context of a record. -/
def freeRec (r : RecW) (s : State) : State := match r.ctx with | some c => freeCtx c s | none => s

/-- A context's record can be written: its flush reads are over and its window is signed (R30, R440). -/
def recordReady (x : Ctx) : Bool :=
  decide (x.life = .delivering) && !x.written && x.sigPending.isEmpty && decide (x.windowWait = 0)

/-- The audits of an invocation keep its record, for that of a follow-up (R500). -/
def keepRecord (x : Ctx) (b : List Byte) (s : State) : State :=
  let f (j : AuditJob) : AuditJob := if jobOf x j then { j with record := b } else j
  { s with audits := s.audits.map f, auditRun := s.auditRun.map f }

/-- A context enters DONE: its record goes to its queue, a command buffer learns that its entry has completed (R468, R470), and follow-ups
that are due come after it (R31). -/
def pushRecord (s : State) (x : Ctx) : State :=
  let b := recordBytes s x
  let s := updQueue x.ring (fun q => { q with waiting := q.waiting ++ [⟨b, some x.id, !flNoIrq x, none, false⟩] })
    (updCtx x.id (fun x => { x with written := true }) s)
  followSkips x (tellBuffer x (keepRecord x b s))

/-- Hands the records of the contexts that enter DONE to their queues. -/
def pushRecords (s : State) : State := (s.ctxs.filter recordReady).foldl pushRecord s

/-- The completion queue has room for another record. -/
def cqRoom (s : State) (q : Nat) : Bool :=
  decide (((cqTail s q + (queueOf s q).written.length) + 2 ^ 32 - cqHead s q) % 2 ^ 32 < cqSize s q)

/-- Writes one record at its slot (R462). -/
def putRecord (q : Nat) (r : RecW) (s : State) : State :=
  let u := queueOf s q
  let seq := r.seq.getD u.seq
  let slot := (cqTail s q + u.written.length) % cqSize s q
  let b := recordWith r.bytes seq r.buf
  let s := emit (.hostWrite (pageBase s q 0x04C + 128 * slot) b) s
  updQueue q (fun u => { u with written := u.written ++ [{ r with seq := some seq }],
                                seq := if r.seq.isSome then u.seq else u.seq + 1 }) s

/-- Puts a record into the undelivered buffer and frees its context; UNDELIVERED_FULL at 64 (R464, R465, R475). -/
def bufferRecord (q : Nat) (r : RecW) (s : State) : State :=
  let u := queueOf s q
  let seq := r.seq.getD u.seq
  let s := updQueue q (fun u => { u with seq := if r.seq.isSome then u.seq else u.seq + 1 }) s
  let s := { s with undelivered := s.undelivered ++ [⟨q, { r with seq := some seq, ctx := none, buf := true }⟩] }
  let s := freeRec r s
  if s.undelivered.length = 64 then raise pgCfe 3 s else s

/-- The records of a ring in the buffer that are not being replayed yet, in SEQ order. -/
def toReplay (s : State) (q : Nat) : List RecW :=
  (sortBy (fun a b => decide (a.seq.getD 0 < b.seq.getD 0)) ((s.undelivered.filter fun e => decide (e.ring = q)).map (·.record))).filter
    fun r => !(queueOf s q).written.any fun w => decide (w.seq = r.seq)

/-- One step of a queue: the next replayed record, else the next waiting record, is written; in FAULTED, the next waiting
record enters the buffer (R464, R465). -/
def serveOne (q : Nat) (s : State) : State :=
  let u := queueOf s q
  if qState s q = 2 ∧ !u.replaying then
    match u.waiting with
    | r :: rest => if s.undelivered.length < 64 then bufferRecord q r (updQueue q (fun u => { u with waiting := rest }) s) else s
    | [] => s
  else if cqRoom s q then
    match toReplay s q with
    | r :: _ => putRecord q r s
    | [] =>
      match u.waiting with
      | r :: rest => putRecord q r (updQueue q (fun u => { u with waiting := rest }) s)
      | [] => s
  else s

/-- Serves a queue until nothing moves. -/
def serveQueue (s : State) (q : Nat) : State :=
  iter (fun _ s => serveOne q s) ((queueOf s q).waiting.length + s.undelivered.length) s

/-- Leaves FAULTED once the replay is complete: ENABLED, or DISABLED where CTRL.ENABLE is 0 (R432, log entry 20). -/
def replayOver (s : State) (q : Nat) : State :=
  let u := queueOf s q
  if u.replaying ∧ u.written.isEmpty ∧ u.waiting.isEmpty ∧ (toReplay s q).isEmpty then
    setReg (pgQue q) 0x06C 0 (setReg (pgQue q) 0x070 (if qEnabled s q then 1 else 0)
      (updQueue q (fun u => { u with replaying := false }) s))
  else s

/-! ## The pump -/

/-- What follows at once from any command: waits latch, signed records are written, records are queued in the order of entering DONE, so
that a buffer and a deregistration complete after what they wait for, completion records are written, the stall condition is followed. -/
def pump (s : State) : State :=
  let s := latchAll s
  let s := ringPump s
  let s := pushRecords s
  let s := bufferDone s
  let s := deregDone s
  let s := pushRecords s
  let s := (List.range 6).foldl serveQueue s
  let s := (List.range 6).foldl replayOver s
  trackStall (latchAll s)

/-- The outcome of a meaning of the CFE: the pump runs after it. -/
@[inline] def actCfe (unit enabled : Bool) (s t : State) : Host.Outcome State Fault Refusal := act unit enabled s (pump t)

/-! ## Flush reads and faults (R462 to R464) -/

/-- A record flush read: an unsupported request or a completer abort fails it at once; a timeout is re-read twice (R464). -/
def flushTry (a : Nat) : Nat → List Cpl → State → Bool × State
  | 0, _, s => (false, s)
  | k + 1, rs, s =>
    let c := rs.headD .timeout
    let s := noteCpl c (emit (.hostRead a) s)
    match c with
    | .timeout => flushTry a k rs.tail s
    | .data _ => (true, s)
    | .ok => (true, s)
    | _ => (false, s)

/-- The message of step 4 of R464: that of the event QUEUE_FAULTED, or one of its own where the page's events were set. -/
def faultMessage (s : State) : State := raiseSend pgCfe 2 s

/-- QUEUE_FAULTED: the queue enters FAULTED with a cause. -/
def faultQueue (q cause : Nat) (s : State) : State :=
  let s := setReg (pgQue q) 0x06C cause (setReg (pgQue q) 0x070 2 s)
  faultMessage (raise (pgQue q) 1 (updQueue q (fun u => { u with replaying := false }) s))

/-- The records written since the last confirmed flush enter the buffer; replayed ones are in it already (R464 step 3). -/
def bufferWritten (q : Nat) (s : State) : State :=
  let w := ((queueOf s q).written.filter fun r => !r.buf)
  updQueue q (fun u => { u with written := [], waiting := w ++ u.waiting }) s

/-- Messages for confirmed records (R463): on a Bell ring one each; elsewhere by count and time. -/
def coalesce (q : Nat) (rs : List RecW) (s : State) : State :=
  let irq := reg s (pgQue q) 0x058
  if q ≤ 1 then rs.foldl (fun s _ => msix (irq % 128) s) s
  else
    let n := (rs.filter (·.counts)).length
    if n = 0 then s
    else
      let total := (queueOf s q).coCount + n
      let lim := max 1 (field irq 8 8)
      if lim ≤ total ∨ irq / 65536 = 0 then
        msix (irq % 128) (updQueue q (fun u => { u with coCount := 0, coOldest := none }) s)
      else updQueue q (fun u => { u with coCount := total, coOldest := some (u.coOldest.getD s.now) }) s

/-- A successful flush read confirms every record written: CQ_TAIL advances, contexts and buffer entries are freed, messages
follow (R462). -/
def confirm (q : Nat) (s : State) : State :=
  let w := (queueOf s q).written
  let s := setReg (pgQue q) 0x064 ((cqTail s q + w.length) % 2 ^ 32) s
  let s := bumpN (pgQue q) 0x07C w.length s
  let s := updQueue q (fun u => { u with written := [] }) s
  let s := w.foldl (fun s r => freeRec r s) s
  let s := { s with undelivered := s.undelivered.filter fun e =>
    !(decide (e.ring = q) && w.any fun r => r.buf && decide (r.seq = e.record.seq)) }
  coalesce q w s

end Sys2Proof.Machine
end

