-- ==== Sys2Proof/Machine/Fec.lean ====
section
/-!
DEFINITION. The Reed–Solomon code RS(544,514) over GF(2¹⁰) of the Reltan links (R324): its field, its encoder, its decoder, and the
packing of flits into its message bits. Field polynomial, generator and bit order are those of IEEE 802.3, which R324 names and does not
reproduce (PRESUMED, log entry 101).
-/
namespace Sys2Proof.Machine

/-! ## GF(2¹⁰), with x¹⁰ + x³ + 1 -/

/-- Multiplication by the primitive element α. -/
def gfDouble (a : Nat) : Nat := if a < 512 then 2 * a else (2 * a) ^^^ 0x409

/-- The product of two elements. -/
def gfMul (a b : Nat) : Nat :=
  ((List.range 10).foldl (fun (p : Nat × Nat) i => (if b.testBit i then p.1 ^^^ p.2 else p.1, gfDouble p.2)) (0, a)).1

/-- A power of an element. -/
def gfPow (a : Nat) : Nat → Nat
  | 0 => 1
  | n + 1 => gfMul a (gfPow a n)

/-- α to the power `n`. -/
def gfExp (n : Nat) : Nat := iter (fun _ a => gfDouble a) (n % 1023) 1

/-- The inverse of a nonzero element: its power 1022, by squaring. -/
def gfInv (a : Nat) : Nat :=
  ((List.range 10).foldl (fun (p : Nat × Nat) i => (if (1022 : Nat).testBit i then gfMul p.1 p.2 else p.1, gfMul p.2 p.2)) (1, a)).1

/-- The value of a polynomial, highest coefficient first. -/
def gfEval (x : Nat) (p : List Nat) : Nat := p.foldl (fun v c => gfMul v x ^^^ c) 0

/-! ## The code -/

/-- The generator polynomial without its leading 1, highest coefficient first: its roots are α⁰ to α²⁹. -/
def rsGen : List Nat :=
  ((List.range 30).foldl (fun p i => List.zipWith (fun a b => a ^^^ b) (p ++ [0]) (0 :: p.map (gfMul (gfExp i)))) [1]).tail

/-- The 30 parity symbols of 514 message symbols: the remainder of the division by the generator. -/
def rsParity (m : List Nat) : List Nat :=
  m.foldl (fun r s =>
    let q := r.headD 0 ^^^ s
    List.zipWith (fun a g => a ^^^ gfMul q g) (r.tail ++ [0]) rsGen) (List.replicate 30 0)

/-- The codeword of 514 message symbols: the message first. -/
def rsEncode (m : List Nat) : List Nat := m ++ rsParity m

/-- The 30 syndromes of 544 received symbols. -/
def rsSyndromes (c : List Nat) : List Nat := (List.range 30).map fun i => gfEval (gfExp i) c

/-- Where the Berlekamp–Massey iteration stands: the locator polynomial and the one before its last change of length (lowest coefficient
first), the length, the shift and the discrepancy of that change. -/
structure RsIter where
  loc : List Nat
  old : List Nat
  len : Nat
  shift : Nat
  disc : Nat
  deriving DecidableEq, Repr

/-- The discrepancy of a locator at syndrome `n`. -/
def rsDisc (syn loc : List Nat) (n : Nat) : Nat :=
  (loc.zipIdx.filter fun c => decide (c.2 ≤ n)).foldl (fun d c => d ^^^ gfMul c.1 (nth syn (n - c.2) 0)) 0

/-- The sum of two polynomials, lowest coefficient first. -/
def gfAdd (a b : List Nat) : List Nat := (List.range (max a.length b.length)).map fun i => nth a i 0 ^^^ nth b i 0

/-- One step of the iteration. -/
def rsStep (syn : List Nat) (r : RsIter) (n : Nat) : RsIter :=
  let d := rsDisc syn r.loc n
  if d = 0 then { r with shift := r.shift + 1 }
  else
    let k := gfMul d (gfInv r.disc)
    let loc := gfAdd r.loc (List.replicate r.shift 0 ++ r.old.map (gfMul k))
    if 2 * r.len ≤ n then ⟨loc, r.loc, n + 1 - r.len, 1, d⟩ else { r with loc := loc, shift := r.shift + 1 }

/-- The error locator of syndromes and its length. -/
def rsLocator (syn : List Nat) : RsIter := (List.range 30).foldl (rsStep syn) ⟨[1], [1], 0, 1, 1⟩

/-- The value of a polynomial, lowest coefficient first. -/
def gfEvalLow (x : Nat) (p : List Nat) : Nat := gfEval x p.reverse

/-- The symbols in error: the power `p` of each place whose inverse is a root of the locator. -/
def rsPlaces (loc : List Nat) : List Nat := (List.range 544).filter fun p => decide (gfEvalLow (gfExp (1023 - p)) loc = 0)

/-- The error value at a place (Forney). -/
def rsError (syn loc : List Nat) (p : Nat) : Nat :=
  let x := gfExp (1023 - p)
  let ev := (List.range 30).map fun n => (List.range (n + 1)).foldl (fun v i => v ^^^ gfMul (nth loc i 0) (nth syn (n - i) 0)) 0
  let dl := (loc.zipIdx.filter fun c => decide (c.2 % 2 = 1)).foldl (fun v c => v ^^^ gfMul c.1 (gfPow x (c.2 - 1))) 0
  gfMul (gfExp p) (gfMul (gfEvalLow x ev) (gfInv dl))

/-- A codeword with its errors taken out: at most 15 symbols in error, else `none`; and whether there were any. -/
def rsDecode (c : List Nat) : Option (List Nat × Bool) :=
  let syn := rsSyndromes c
  if syn.all fun v => decide (v = 0) then some (c, false)
  else
    let r := rsLocator syn
    let loc := r.loc.take (r.len + 1)
    let ps := rsPlaces loc
    if 15 < r.len ∨ ps.length ≠ r.len then none
    else
      let fixed := c.zipIdx.map fun e => if ps.contains (543 - e.2) then e.1 ^^^ rsError syn loc (543 - e.2) else e.1
      if (rsSyndromes fixed).all fun v => decide (v = 0) then some (fixed, true) else none

/-! ## Bits, symbols and lanes (R324) -/

/-- The bits of bytes, the lowest bit of a byte first. -/
def byteBits (b : List Byte) : List Bool := (b.map fun x => (List.range 8).map fun i => x.toNat.testBit i).flatten

/-- The number that bits spell, the lowest first. -/
def bitsNat (l : List Bool) : Nat := l.foldr (fun b n => b2n b + 2 * n) 0

/-- Message bits as symbols, the lowest bit of a symbol first. -/
def bitSymbols (l : List Bool) : List Nat := (List.range (l.length / 10)).map fun i => bitsNat ((l.drop (10 * i)).take 10)

/-- Symbol `i` of a codeword goes on lane `i` mod 8. -/
def toLanes (c : List Nat) : List (List Nat) := (List.range 8).map fun j => (c.zipIdx.filter fun e => decide (e.2 % 8 = j)).map (·.1)

/-- The codeword of eight lanes. -/
def fromLanes (ls : List (List Nat)) : List Nat := (List.range 544).map fun i => nth (nth ls (i % 8) []) (i / 8) 0

/-- The 5,140 message bits that a received codeword carries, `none` each where it cannot be corrected, and whether it was corrected. -/
def codewordBits (ls : List (List Nat)) : List (Option Bool) × Option Bool :=
  match rsDecode (fromLanes ls) with
  | none => (List.replicate 5140 none, none)
  | some (c, fixed) => (((c.take 514).map fun v => (List.range 10).map fun i => some (v.testBit i)).flatten, some fixed)

/-- The bytes of a flit's bits; `none` where one of them was lost. -/
def flitOfBits (l : List (Option Bool)) : Option (List Byte) :=
  if l.any (·.isNone) then none
  else some ((List.range 256).map fun i => BitVec.ofNat 8 (bitsNat (((l.drop (8 * i)).take 8).map fun b => b.getD false)))

end Sys2Proof.Machine
end

