-- ==== Sys2Proof/Machine/Links.lean ====
section
/-!
DEFINITION. Reltan links: flits and their codes (R324, R326 to R328, R375, R376), routing (R339 to R347), messages and their
sending (R334 to R338). The payload bytes of control flits and messages are the model's own (log entry 24).
-/
namespace Sys2Proof.Machine

/-! ## Links -/

/-- A link. -/
def linkOf (s : State) (l : Nat) : Link := nth s.links l linkReset

/-- Changes a link. -/
def updLink (l : Nat) (f : Link → Link) (s : State) : State := { s with links := updAt s.links l f }

/-- A link is UP. -/
def linkUp (s : State) (l : Nat) : Bool := decide ((linkOf s l).st = 3)

/-- Changes what the device holds about messages. -/
def updNet (f : Net → Net) (s : State) : State := { s with net := f s.net }

/-- This device's identifier. -/
def selfId (s : State) : Nat := s.sysmap.selfId

/-- CIPHER_ANY of the system map (R342). -/
def cipherAny (s : State) : Bool := s.sysmap.flags.testBit 0

/-! ## Routing (R339 to R347) -/

/-- The coordinate of an identifier along a dimension (R339). -/
def coord (id d : Nat) : Nat := id / 8 ^ d % 8

/-- The size of a dimension. -/
def dimOf (s : State) (d : Nat) : Nat := max 1 (nth s.sysmap.dims d 1)

/-- The two links of a direction: the one of the parity of MSG, else the other one that is UP (R344). -/
def pickLink (s : State) (base msg : Nat) : Option Nat :=
  if linkUp s (base + msg % 2) then some (base + msg % 2)
  else if linkUp s (base + 1 - msg % 2) then some (base + 1 - msg % 2) else none

/-- The members of the block of a device, in block-local order (R341). -/
def blockOf (id : Nat) : List Nat :=
  let b := coord id 0 / 2 * 2 + 8 * (coord id 1 / 2 * 2) + 64 * (coord id 2 / 2 * 2)
  (List.range 8).map fun i => b + i % 2 + 8 * (i / 2 % 2) + 64 * (i / 4)

/-- A device that a run has declared lost, or that a run misses (R335, R366). -/
def lostDev (s : State) (dev : Nat) : Bool :=
  (s.net.discard.any fun e => decide (e.1 = dev)) ||
    s.ctxs.any fun x => x.md.any fun m => m.lost.any fun p => decide (nth m.devices p 0xFFFF = dev)

/-- The surviving members of a block that the torus has: those that are neither lost nor known to be unreachable (R347). -/
def liveBlock (s : State) (id : Nat) : List Nat :=
  (blockOf id).filter fun m =>
    (List.range 3).all (fun d => decide (coord m d < dimOf s d)) && !s.net.unreachable.contains m && !lostDev s m

/-- An identifier is an active position of the torus (R339). -/
def isTorus (s : State) (id : Nat) : Bool := decide (id < 512) && (List.range 3).all fun d => decide (coord id d < dimOf s d)

/-- The spare of the block of a device; 0xFFFF: none (log entry 26 for another block's). -/
def spareFor (s : State) (dev : Nat) : Nat :=
  if s.sysmap.role = 0 ∧ (blockOf (selfId s)).contains dev then s.sysmap.spareId else Config.spareOf dev

/-- A member of the block of a spare: this device's own block, one that a notice gave, or the first position whose spare it is. -/
def spareMember (s : State) (dst : Nat) : Option Nat :=
  if dst = s.sysmap.spareId ∧ s.sysmap.spareId ≠ 0xFFFF ∧ s.sysmap.role = 0 then some (selfId s)
  else if isTorus s dst then none
  else match s.net.spares.find? fun e => decide (e.1 = dst) with
    | some e => some e.2
    | none => (List.range 512).find? fun d => isTorus s d && decide (spareFor s d = dst)

/-- The devices that a flit is routed towards: the members of a spare's block, of which the first that can be reached is its gateway
(R347), else its destination. -/
def routeTargets (s : State) (dst : Nat) : List Nat :=
  match spareMember s dst with
  | some m => liveBlock s m
  | none => [dst]

/-- The virtual lane after a step from coordinate `a` along a ring of size `k` (R345). -/
def stepVl (k a vl : Nat) (plus : Bool) : Nat := if (plus ∧ a + 1 = k) ∨ (!plus ∧ a = 0) then 1 else vl

/-- The next hop of a flit along dimension `d`: link, virtual lane, REV (R344 to R346); a reversed flit goes on in the direction `way` that
it comes in. DESIGN CHOICE (log entry 105): a reversed flit takes no express link. -/
def hopAlong (s : State) (d dst msg vl : Nat) (rev : Bool) (way : Option Bool) : Option (Nat × Nat × Bool) :=
  let k := dimOf s d
  let a := coord (selfId s) d
  let dp := (coord dst d + k - a) % k
  let short := decide (dp ≤ k - dp)
  let plus := if rev then way.getD !short else short
  let dist := if plus then dp else k - dp
  let base (p : Bool) : Nat := 4 * d + (if p then 0 else 2)
  if !rev ∧ dist = 4 ∧ linkUp s (12 + d) ∧ (reg s (pgLink (12 + d)) 0x040).testBit 2 then some (12 + d, vl, false)
  else match pickLink s (base plus) msg with
    | some l => some (l, if rev then 1 else stepVl k a vl plus, rev)
    | none => if rev then none else (pickLink s (base (!plus)) msg).map fun l => (l, 1, true)

/-- The next hop of a flit towards device `t`. A flit that enters a new dimension is on lane 0 and no longer reversed; `via` is the
dimension and the direction that it comes in. -/
def hopTowards (s : State) (t dst msg vl : Nat) (rev : Bool) (via : Option (Nat × Bool)) : Option (Nat × Nat × Bool) :=
  match (List.range 3).find? fun d => decide (coord t d ≠ coord (selfId s) d) with
  | none => if linkUp s 15 ∧ t ≠ dst then some (15, 0, false) else none
  | some d =>
    match via.filter fun v => decide (v.1 = d) with
    | some v => hopAlong s d t msg vl rev (some v.2)
    | none => hopAlong s d t msg 0 false none

/-- The next hop of a flit for a device; `none` where it is unreachable. A spare's gateway is the first surviving member of its block; the
copy of a fail-over goes between it and a holder directly (R347). -/
def hopOf (s : State) (direct : Bool) (dst msg vl : Nat) (rev : Bool) (via : Option (Nat × Bool)) : Option (Nat × Nat × Bool) :=
  if s.sysmap.role = 1 then
    let l := (findIdx (fun m => decide (m = dst)) (blockOf dst) 0).getD 0
    if direct ∧ linkUp s l ∧ reg s (pgLink l) 0x048 = dst then some (l, 0, false)
    else ((List.range 8).find? fun l => linkUp s l && !lostDev s (reg s (pgLink l) 0x048)).map fun l => (l, 0, false)
  else if direct ∧ dst = s.sysmap.spareId ∧ linkUp s 15 then some (15, 0, false)
  else (routeTargets s dst).findSome? fun t => hopTowards s t dst msg vl rev via

/-- The dimension of a link. -/
def linkDim (l : Nat) : Option Nat := if l < 12 then some (l / 4) else if l < 15 then some (l - 12) else none

/-- The dimension and the direction of a flit that goes out over a link, and of one that came in over it, from the neighbour on that
side. -/
def outVia (l : Nat) : Option (Nat × Bool) := (linkDim l).map fun d => (d, decide (l / 2 % 2 = 0))
def inVia (l : Nat) : Option (Nat × Bool) := (linkDim l).map fun d => (d, decide (l / 2 % 2 = 1))

/-! ## Messages (R334 to R338) -/

def mkQuery : Nat := 15
def mkHave : Nat := 16
def mkFetch : Nat := 17
def mkFetchDone : Nat := 18
def mkDevices : Nat := 19
def mkShare : Nat := 20
def mkAgain : Nat := 21

/-- A flit of this device that belongs to the copy of a fail-over: of a message by which a spare asks for a mirror, or a holder sends it. -/
def isCopy (s : State) (f : QFlit) : Bool :=
  decide (f.cls = 3) && decide (f.src = selfId s) && s.net.out.any fun o => decide (o.dst = f.dst) && decide (o.cls = 3) && decide (o.msg = f.msg) &&
    [mkFetch, mkFetchDone, mkShare].contains (leAt o.data 8 1)

/-- Gives back the input buffer that a flit takes (R337). -/
def freeBuf (inp : Option (Nat × Nat)) (s : State) : State :=
  match inp with
  | some (l, i) => updLink l (fun k => { k with freed := updAt k.freed i (· + 1) }) s
  | none => s

/-- Puts a flit on its next link; a destination without one is unreachable from here. -/
def routeFlit (f : QFlit) (via : Option (Nat × Bool)) (s : State) : State :=
  match hopOf s (isCopy s f) f.dst f.msg f.vl f.rev via with
  | some (l, vl, rev) => updLink l (fun k => { k with queue := k.queue ++ [{ f with vl := vl, rev := rev }] }) s
  | none =>
    let s := freeBuf f.inp s
    if s.net.unreachable.contains f.dst then s else updNet (fun n => { n with unreachable := n.unreachable ++ [f.dst] }) s

/-- The payload bytes of the largest message, of 2²⁰ flits of 224 bytes (R334); what is longer goes as several messages. -/
def maxPayload : Nat := 0xE000000

/-- The flits of a message (R326, R334): 224 payload bytes each where CIPHER_ANY is set, else 232. -/
def msgFlits (s : State) (dst cls msg : Nat) (data : List Byte) : List QFlit :=
  let w := if cipherAny s then 224 else 232
  let n := max 1 (ceilDiv data.length w)
  (List.range n).map fun i => ⟨if i + 1 = n then 2 else 1, cls, 0, false, dst, selfId s, msg, i, slice data (w * i) w, none⟩

/-- The key of the message counter of a destination and a class; class 2 counts per channel (R335). -/
def msgKey (dst cls chan : Nat) : Nat := if cls = 2 then 4096 + 16 * dst + chan else 4 * dst + cls

/-- The next message number (R335). -/
def nextMsg (dst cls chan : Nat) (s : State) : Nat × State :=
  let k := msgKey dst cls chan
  let n := ((s.net.nextMsg.find? fun e => decide (e.1 = k)).map (·.2)).getD 0
  (if cls = 2 then chan * 2 ^ 28 + n % 2 ^ 28 else n % 2 ^ 32,
    updNet (fun m => { m with nextMsg := (k, n + 1) :: m.nextMsg.filter fun e => decide (e.1 ≠ k) }) s)

/-- Sends a message of a class from a source range, which stays read-locked until the MSG_ACK (R336). -/
def sendFrom (src : Option (Nat × Nat)) (dst cls chan : Nat) (data : List Byte) (s : State) : State :=
  let (m, s) := nextMsg dst cls chan s
  let s := updNet (fun n => { n with out := n.out ++ [⟨dst, cls, m, data, s.now, 0, src⟩] }) s
  (msgFlits s dst cls m data).foldl (fun s f => routeFlit f none s) s

/-- Sends a message of a class; it waits for its MSG_ACK (R336). -/
def sendMsg (dst cls chan : Nat) (data : List Byte) (s : State) : State := sendFrom none dst cls chan data s

/-- The flit of a routed control message. -/
def ctrlFlit (s : State) (dst msg : Nat) (data : List Byte) : QFlit := ⟨3, 0, 0, false, dst, selfId s, msg, 0, data, none⟩

/-- Sends a routed control message (R338). -/
def sendCtrl (dst : Nat) (data : List Byte) (s : State) : State :=
  let (m, s) := nextMsg dst 0 0 s
  let s := updNet (fun n => { n with out := n.out ++ [⟨dst, 0, m, data, s.now, 0, none⟩] }) s
  routeFlit (ctrlFlit s dst m data) none s

/-- Returns MSG_ACK, a message of class 0 with a number of its own (R335, R338), which is itself not acknowledged (R336). -/
def sendAck (dst cls msg : Nat) (s : State) : State :=
  let (n, s) := nextMsg dst 0 0 s
  routeFlit (ctrlFlit s dst n (leBytes 1 2 ++ leBytes 1 cls ++ leBytes 4 msg)) none s

/-- Sends a hop-scope control flit over a link (R338). -/
def sendHop (l : Nat) (data : List Byte) (s : State) : State :=
  updLink l (fun k => { k with queue := k.queue ++ [⟨3, 0, 0, false, reg s (pgLink l) 0x048 % 512, selfId s, 0, 0, data, none⟩] }) s

/-! Payloads of control codes, after the code byte (R338). DESIGN CHOICE (log entry 105): START also carries the governing budget that R502
combines, and CLAIM the identifier of the lost device, which R338 does not list. -/

def ctStart (b : StartBody) : List Byte :=
  leBytes 1 3 ++ leBytes 8 b.runId ++ leBytes 2 b.position ++ (b.program ++ zeros 32).take 32 ++
    (b.devlist ++ zeros 32).take 32 ++ leBytes 4 b.budget
def ctProgress (run phase : Nat) : List Byte := leBytes 1 4 ++ leBytes 8 run ++ leBytes 8 phase
def ctLost (run pos phase : Nat) : List Byte := leBytes 1 5 ++ leBytes 8 run ++ leBytes 2 pos ++ leBytes 8 phase
def ctClaim (run pos queue dev : Nat) : List Byte := leBytes 1 6 ++ leBytes 8 run ++ leBytes 2 pos ++ leBytes 1 queue ++ leBytes 2 dev
def ctProbe (run : Nat) : List Byte := leBytes 1 7 ++ leBytes 8 run
def ctProbeReply (run : Nat) (inRun : Bool) : List Byte := leBytes 1 8 ++ leBytes 8 run ++ leBytes 1 (b2n inRun)
def ctFailover (run pos spare k : Nat) : List Byte :=
  leBytes 1 9 ++ leBytes 8 run ++ leBytes 2 pos ++ leBytes 2 spare ++ leBytes 4 k
def ctEpoch (run phase : Nat) : List Byte := leBytes 1 10 ++ leBytes 8 run ++ leBytes 8 phase
def ctRekey (e : Nat) : List Byte := leBytes 1 11 ++ leBytes 4 e

/-- The DISCOVER flit of a link (R338, R343). -/
def ctDiscover (s : State) (l : Nat) : List Byte :=
  let m := s.sysmap
  leBytes 1 1 ++ leBytes 2 m.selfId ++ leBytes 8 Config.serial.toNat ++ leBytes 1 l ++ leBytes 1 m.role ++
    (m.dims.map (leBytes 1)).flatten ++ leBytes 1 (b2n ((reg s (pgLink l) 0x040).testBit 1)) ++ leBytes 1 m.flags

/-! ## Flits on the wire (R326 to R328, R375) -/

/-- One bit of the reflected CRC-64. -/
def crcBit (c : Nat) : Nat := if c % 2 = 1 then c / 2 ^^^ 0xC96C5795D7870F42 else c / 2

/-- The CRC of R327. -/
def crc64 (l : List Byte) : Nat :=
  (l.foldl (fun c b => iter (fun _ c => crcBit c) 8 (c ^^^ b.toNat)) (2 ^ 64 - 1)) ^^^ (2 ^ 64 - 1)

/-- The header of a flit. -/
def flitHead (f : QFlit) (seq ack : Nat) (nak : Bool) (cls vl crd : Nat) : List Byte :=
  leBytes 16 (f.typ + f.cls * 2 ^ 4 + cls * 2 ^ 6 + seq % 4096 * 2 ^ 8 + ack % 4096 * 2 ^ 20 + b2n nak * 2 ^ 32 +
    crd % 128 * 2 ^ 33 + f.dst % 512 * 2 ^ 40 + f.src % 512 * 2 ^ 49 + f.vl * 2 ^ 58 + vl * 2 ^ 59 + b2n f.rev * 2 ^ 60 +
    f.msg % 2 ^ 32 * 2 ^ 64 + f.off % 2 ^ 20 * 2 ^ 96 + (f.data.length - 1) % 256 * 2 ^ 116)

/-- The key of an epoch of the link key (R574). -/
def linkKeyOf (s : State) (epoch : Nat) : List Byte := shake256 (s.sec.linkKey.getD [] ++ ascii "ONK-LINK" ++ leBytes 4 epoch) 32

/-- The IV of a flit (R375). -/
def flitIv (sender link count : Nat) : List Byte := leBytes 8 count ++ leBytes 1 0 ++ leBytes 1 link ++ leBytes 2 sender

/-- A flit in plain text: DISCOVER, and the REKEY that announces a link's initial epoch before it (R574, log entry 37). -/
def isPlain (f : QFlit) : Bool := decide (f.typ = 3) && (decide (leAt f.data 0 1 = 1) || (decide (leAt f.data 0 1 = 11) && decide (f.msg = 0)))

/-- A link's cipher is on: in VERIFY the two ends have not yet compared their flags. -/
def cipherOn (s : State) (l : Nat) : Bool := (reg s (pgLink l) 0x040).testBit 1 && linkUp s l

/-- The 256 bytes of a flit that a link sends, encrypted where its cipher is on. -/
def flitBytes (s : State) (l : Nat) (f : QFlit) (seq ack : Nat) (nak : Bool) (cls vl crd : Nat) : List Byte :=
  let head := flitHead f seq ack nak cls vl crd
  let k := linkOf s l
  let body :=
    if cipherOn s l && !isPlain f then
      let e := gcmEncrypt (linkKeyOf s k.txEpoch) (flitIv (selfId s) l k.txCount) head ((f.data ++ zeros 224).take 224)
      e.1 ++ e.2.take 8
    else (f.data ++ zeros 232).take 232
  let b := head ++ body
  b ++ leBytes 8 (crc64 b)

end Sys2Proof.Machine
end

