-- ==== Sys2Proof/Machine/Multi.lean ====
section
/-!
DEFINITION. What a device holds of a multi-device run: positions (R349), messages of a run and their bytes (log entry 24),
the device-tree combine (R349, R350), accepted sets on the wire (R159, R160, R175).
-/
namespace Sys2Proof.Machine

/-- Changes the multi-device part of an invocation. -/
def updMd (c : Nat) (f : MdRun → MdRun) (s : State) : State := updCtx c (fun x => { x with md := x.md.map f }) s

/-- The device at a position. -/
def devAt (m : MdRun) (p : Nat) : Nat := nth m.devices p 0xFFFF

/-- The position of a device. -/
def posOf (m : MdRun) (d : Nat) : Option Nat := findIdx (fun x => decide (x = d)) m.devices 0

/-- The other positions, ascending. -/
def others (m : MdRun) : List Nat := (List.range m.devices.length).filter fun p => decide (p ≠ m.position)

/-- A run over more than one device. -/
def isMulti (x : Ctx) : Bool := match x.md with | some m => decide (1 < m.devices.length) | none => false

/-- A spanned run (R318). -/
def isSpanned (s : State) (x : Ctx) : Bool := isMulti x && decide (imgMode (ctxImage s x) = 1)

/-- A farmed run. -/
def isFarmed (s : State) (x : Ctx) : Bool := isMulti x && decide (imgMode (ctxImage s x) = 2)

/-- The invocation that takes part in a run, while it does. -/
def runCtx (s : State) (runId : Nat) : Option Ctx :=
  s.ctxs.find? fun x => (match x.md with | some m => decide (m.runId = runId) | none => false) && decide (x.status = none)

/-- The device waits for positions at barrier `k`, and at no others there (R357). -/
def waitAt (c k : Nat) (ps : List Nat) (s : State) : State :=
  updMd c (fun m => { m with waitingOn := m.waitingOn.filter (fun e => decide (e.1 ≠ k)) ++ ps.map fun p => (k, p) }) s

/-- The device waits for positions at a barrier of its anneal or a START: barrier 0. -/
def waitFor (c : Nat) (ps : List Nat) (s : State) : State := waitAt c 0 ps s

/-- A barrier of a tagged collective, and that of an audit. -/
def tagKey (tag : Nat) : Nat := 1 + tag
def auditKey : Nat := 2 ^ 16

/-! ## Messages of a run: run identifier, kind, number, body -/

def mkAcc : Nat := 0
def mkUp : Nat := 1
def mkDown : Nat := 2
def mkTileDigest : Nat := 3
def mkImage : Nat := 5
def mkPackage : Nat := 6
def mkCkpt : Nat := 7

/-- The bytes of a message of a run. -/
def runMsg (runId kind num : Nat) (body : List Byte) : List Byte := leBytes 8 runId ++ leBytes 1 kind ++ leBytes 8 num ++ body

/-- Sends a message of a run to a position. -/
def sendRun (c p cls kind num : Nat) (body : List Byte) (s : State) : State :=
  match (ctxOf s c).bind (·.md) with
  | some m => sendMsg (devAt m p) cls 0 (runMsg m.runId kind num body) s
  | none => s

/-- A delivered message is one of a kind and number from a device of a run. -/
def isRunMsg (runId dev kind num : Nat) (i : InMsg) : Bool :=
  decide (i.src = dev) && decide (leAt i.data 0 8 = runId) && decide (leAt i.data 8 1 = kind) && decide (leAt i.data 9 8 = num) &&
    (decide (i.cls = 1) || decide (i.cls = 3))

/-- The body of a delivered message of a run, if it has arrived. -/
def gotRun (s : State) (m : MdRun) (p kind num : Nat) : Option (List Byte) :=
  (s.net.inbox.find? (isRunMsg m.runId (devAt m p) kind num)).map fun i => i.data.drop 17

/-- Consumes a delivered message. -/
def dropRun (m : MdRun) (p kind num : Nat) (s : State) : State :=
  updNet (fun n => { n with inbox := n.inbox.filter fun i => !isRunMsg m.runId (devAt m p) kind num i }) s

/-! ## The device-tree combine (R349) -/

/-- The positions whose values a position takes in, by level. -/
def treeKids (d p : Nat) : List Nat :=
  (List.range 9).filterMap fun l => if p % 2 ^ (l + 1) = 0 ∧ p + 2 ^ l < d then some (p + 2 ^ l) else none

/-- The position that takes in this one's value. -/
def treeParent (p : Nat) : Nat := match (List.range 9).find? fun l => decide (p % 2 ^ (l + 1) ≠ 0) with | some l => p - 2 ^ l | none => 0

/-- Values on the wire. -/
def encInts (l : List Int) : List Byte := (l.map fun v => leBytes 16 (unsigned 128 v)).flatten

/-- Values from the wire. -/
def decInts (b : List Byte) : List Int := (List.range (b.length / 16)).map fun i => signed 128 (leAt b (16 * i) 16)

/-- The number of a combine's messages: which combine of its key it is, under the run's base. -/
def combNum (m : MdRun) (k : Nat) : Nat := m.combBase + ((m.combines.find? fun e => decide (e.1 = k)).map (·.2)).getD 0 + 2 ^ 40 * k

/-- Sends a combine's result down the tree, in reverse level order. -/
def sendDown (c k : Nat) (m : MdRun) (r : List Int) (s : State) : State :=
  (treeKids m.devices.length m.position).reverse.foldl (fun s p => sendRun c p 1 mkDown (combNum m k) (encInts r) s) s

/-- Counts a combine of a key. -/
def countComb (k : Nat) (l : List (Nat × Nat)) : List (Nat × Nat) :=
  (k, ((l.find? fun e => decide (e.1 = k)).map (·.2)).getD 0 + 1) :: l.filter fun e => decide (e.1 ≠ k)

/-- A combine is over on this device. -/
def combineOver (c k : Nat) (s : State) : State :=
  waitAt c k [] (updMd c (fun m => { m with combines := countComb k m.combines, ups := m.ups.filter fun e => decide (e.1 ≠ k) }) s)

/-- One execution of a device-tree combine under key `k` (0 for an anneal's): the result once it is there, else `none` and what
this execution could do (values taken in, sent up, passed down). -/
def combineAt (c k : Nat) (op : List Int → List Int → List Int) (v : List Int) (s : State) : Option (List Int) × State :=
  match (ctxOf s c).bind (·.md) with
  | none => (some v, s)
  | some m =>
    let num := combNum m k
    let up := treeParent m.position
    if m.devices.length ≤ 1 then (some v, s)
    else if m.ups.any fun e => decide (e.1 = k) then
      match gotRun s m up mkDown num with
      | none => (none, waitAt c k [up] s)
      | some b =>
        let r := decInts b
        (some r, combineOver c k (sendDown c k m r (dropRun m up mkDown num s)))
    else
      let ks := treeKids m.devices.length m.position
      let miss := ks.filter fun p => (gotRun s m p mkUp num).isNone
      if !miss.isEmpty then (none, waitAt c k miss s)
      else
        let r := ks.foldl (fun a p => op a (decInts ((gotRun s m p mkUp num).getD []))) v
        let s := ks.foldl (fun s p => dropRun m p mkUp num s) s
        if m.position = 0 then (some r, combineOver c k (sendDown c k m r s))
        else
          let s := sendRun c up 1 mkUp num (encInts r) s
          (none, waitAt c k [up] (updMd c (fun m => { m with ups := (k, r) :: m.ups }) s))

/-- A combine of an anneal. -/
def combine (c : Nat) (op : List Int → List Int → List Int) (v : List Int) (s : State) : Option (List Int) × State :=
  combineAt c 0 op v s

/-- Element-by-element addition of equal-length lists. -/
def addLists (a b : List Int) : List Int := (List.range (max a.length b.length)).map fun i => nth a i 0 + nth b i 0

/-! ## Accepted sets (R159, R160, R175) -/

/-- A delta record: 2 bits per lane (R159). -/
def deltaRecord (d : Nat × Nat) : Nat :=
  (List.range 512).foldl (fun acc j => acc + (if d.1.testBit j then 1 else if d.2.testBit j then 2 else 0) * 4 ^ j) 0

/-- The masks of the lanes that became +1 and −1. -/
def deltaMasks (v : Nat) : Nat × Nat :=
  (lanesMask ((List.range 512).filter fun j => decide (field v (2 * j) 2 = 1)),
    lanesMask ((List.range 512).filter fun j => decide (field v (2 * j) 2 = 2)))

/-- The bytes of an accepted proposal: its segment, a delta record per replica, a residual-delta record. -/
def encDelta (d : Delta) : List Byte :=
  leBytes 4 d.seg ++ (d.lanes.map fun l => leBytes 128 (deltaRecord l)).flatten ++ leBytes 4 d.rows.length ++
    (d.rows.map fun r => leBytes 4 r.1).flatten ++ (d.rows.map fun r => (r.2.map fun v => leBytes 4 (unsigned 32 v)).flatten).flatten

/-- The bytes of an accepted set. -/
def encAcc (a : AccSet) : List Byte :=
  leBytes 8 a.phase ++ leBytes 4 a.deltas.length ++ leBytes 4 a.dl.length ++ leBytes 1 (b2n a.sat) ++ (a.deltas.map encDelta).flatten ++ encInts a.dl

/-- Reads `n` accepted proposals of `r` replicas. -/
def decDeltas (r : Nat) : Nat → List Byte → List Delta × List Byte
  | 0, b => ([], b)
  | n + 1, b =>
    let rows := leAt b (4 + 128 * r) 4
    let o := 8 + 128 * r
    let d : Delta :=
      { seg := leAt b 0 4, lanes := (List.range r).map fun i => deltaMasks (leAt b (4 + 128 * i) 128),
        rows := (List.range rows).map fun k =>
          (leAt b (o + 4 * k) 4, (List.range r).map fun i => signed 32 (leAt b (o + 4 * rows + 4 * (r * k + i)) 4)),
        de := List.replicate r 0 }
    let rest := decDeltas r n (b.drop (o + 4 * rows + 4 * r * rows))
    (d :: rest.1, rest.2)

/-- An accepted set from the wire. -/
def decAcc (pos : Nat) (b : List Byte) : AccSet :=
  let r := leAt b 12 4
  let d := decDeltas r (leAt b 8 4) (b.drop 17)
  ⟨pos, leAt b 0 8, d.1, (decInts d.2).take r, decide (leAt b 16 1 = 1)⟩

/-- Sends this device's accepted set to every other position, ascending (R352). -/
def sendAcc (c : Nat) (a : AccSet) (s : State) : State :=
  match (ctxOf s c).bind (·.md) with
  | none => s
  | some m =>
    updMd c (fun m => { m with lastSent := a.phase }) ((others m).foldl (fun s p => sendRun c p 1 mkAcc a.phase (encAcc a) s) s)

/-- The order in which accepted sets apply (R175, R178). -/
def accBefore (a b : AccSet) : Bool := decide (a.pos < b.pos) || (decide (a.pos = b.pos) && decide (a.phase < b.phase))

/-- Takes the accepted sets that have arrived whole into the run, ordered by sender position, then phase (R178). -/
def takeAccs (c : Nat) (s : State) : State :=
  match (ctxOf s c).bind (·.md) with
  | none => s
  | some m =>
    let isAcc (i : InMsg) : Bool :=
      decide (i.cls = 1) && decide (leAt i.data 0 8 = m.runId) && decide (leAt i.data 8 1 = mkAcc) && (posOf m i.src).isSome
    let got := (s.net.inbox.filter isAcc).map fun i => decAcc ((posOf m i.src).getD 0) (i.data.drop 17)
    let s := updNet (fun n => { n with inbox := n.inbox.filter fun i => !isAcc i }) s
    updMd c (fun m => { m with remote := sortBy accBefore (m.remote ++ got) }) s

/-- The bytes of the largest accepted set that a peer can make in a phase: it owns as many segments (R61), and any of them can hold
entries of every row (R358). -/
def largestAcc (p : Prob) : Nat :=
  17 + p.segCount * (8 + 128 * p.replicas) + p.segCount * p.rows.length * (4 + 4 * p.replicas) + 16 * p.replicas

/-- The bytes of the largest combine of a spanned run: the sums of its load, or of its penalty weights (R76, R205). -/
def largestSum (p : Prob) : Nat := 17 + 16 * (2 + 2 * p.replicas + p.rows.length * (1 + p.replicas))

/-- The bytes of the largest message of an epoch barrier of a farmed run of `d` devices: the energies and offers of all of them, of every
sweep of the epoch (R219, R220, R350). -/
def largestGather (p : Prob) (epoch d : Nat) : Nat :=
  17 + 16 * d * (p.replicas + 1 + p.replicas * (1 + epoch) * (3 + 4 * p.segCount))

/-- The bytes of the largest message that a run-scope collective of a program waits for (R303, R304), or an `LRECV` (R355). -/
def largestOp (i : EngInstr) : Nat :=
  match i.op with
  | .red o => if o.scope = 2 then 17 + 16 * 512 * (o.nv + 1) else 0
  | .bcast o => if o.scope = 2 then 17 + 64 * (o.len + 1) else 0
  | .lrecv _ => 65536
  | _ => 0

/-- The bytes of the largest message that a program's instructions wait for. -/
def largestProg (img : List Byte) : Nat :=
  ((progEngines img).map fun e => ((engProg img e).map largestOp).foldl max 0).foldl max 0

/-- The bytes of the largest message that a barrier of a spanned or farmed run waits for (R358). -/
def largestAnneal (s : State) (x : Ctx) (m : MdRun) (p : Prob) (ps : Params) : Nat :=
  max (largestProg (ctxImage s x)) (if m.mode = 2 then largestGather p ps.rat.epoch m.devices.length else max (largestAcc p) (largestSum p))

/-- The barrier timeout of a run, clamped up for the sending of its largest message, of `n` bytes, at 185.2 GB/s (R358), in µs. -/
def clampTimeout (n tmo : Nat) : Nat := max tmo (ceilDiv (1720000 + 5 * ceilDiv (n * 10) 1852) 1000)

end Sys2Proof.Machine
end

