-- ==== Sys2Proof/Machine/Result.lean ====
section
/-!
DEFINITION. The result area (R397, R398), its digests (R394, R395), the place of the certificate (R310), and queueing an
audit (R402, R407).
-/
namespace Sys2Proof.Machine

/-- The device address that an instruction's DA names: a Bell release's result addresses move by its slot (R485). -/
def daOf (x : Ctx) (da : Nat) : Nat :=
  64 * da + (match x.origin with
    | .release _ j => j % max 1 (bkSlots x.regBlock) * bkStride x.regBlock
    | _ => 0)

/-- `n` rounded up to a multiple of 64. -/
def up64 (n : Nat) : Nat := ceilDiv n 64 * 64

/-- The offsets of sections of given lengths, in order from `at_`, each at a multiple of 64; and the end of the last. -/
def layOut : List Nat → Nat → List Nat × Nat
  | [], e => ([], e)
  | n :: l, e => let o := up64 e; let r := layOut l (o + n); (o :: r.1, r.2)

/-- The lengths of the six sections of a result area (R398). -/
def resultLens (replicas segs top k rows : Nat) (spanned : Bool) : List Nat :=
  [replicas * (32 + 64 * segs), top * (32 + 64 * segs), 8 * k, 4 * (k - 1), 2 * rows,
   8 * stCount + (if spanned then 32 * replicas else 0)]

/-- The length of a result area: the end of its last section. -/
def resultLength (replicas segs top k rows : Nat) (spanned : Bool) : Nat :=
  (layOut (resultLens replicas segs top k rows spanned) 256).2

/-- The state words of a state of the owned segments (R217, R228). -/
def stateWords (st : List Nat) : List Byte := (st.map (leBytes 64)).flatten

/-- STATE_DIGEST: the state of top-eight entry 0 (R394). -/
def stateDigest (a : Anneal) : List Byte := treeDigest (stateWords ((a.top.head?.map (·.state)).getD []))

/-- The statistics of a result: those of the last completed sweep end (R694), PW_AT_CEIL as at the end of the run. -/
def resultStats (a : Anneal) : List Nat :=
  updAt a.snap stPwAtCeil fun _ => (a.lam.filter fun l => decide (l = a.ps.rot.pwCeil)).length

/-- The bytes of a result area (R397, R398). DESIGN CHOICE (log 98): of the per-replica statistics all SUMs stand before all MAXs. -/
def resultBytes (a : Anneal) (spanned : Bool) (digest run : List Byte) : List Byte :=
  let segs := a.prob.segCount
  let best := (a.best.map fun b => leBytes 16 (unsigned 128 b.energy) ++ leBytes 4 b.sweeps ++ zeros 12 ++ stateWords b.state).flatten
  let top := (a.top.map fun t => leBytes 16 (unsigned 128 t.energy) ++ leBytes 4 t.gri ++ leBytes 4 t.sweeps ++ zeros 8 ++
    stateWords t.state).flatten
  let ladder := (a.codes.map (leBytes 4)).flatten ++ (a.rungs.map (leBytes 4)).flatten
  let est := (a.est.map fun e => leBytes 4 (unsigned 32 e)).flatten
  let pw := (a.lam.map (leBytes 2)).flatten
  let st := ((resultStats a).map (leBytes 8)).flatten ++
    (if spanned then (a.snapSum.map fun v => leBytes 16 (unsigned 128 v)).flatten ++
      (a.snapMax.map fun v => leBytes 16 (unsigned 128 v)).flatten else [])
  let secs := [best, top, ladder, est, pw, st]
  let offs := (layOut (secs.map (·.length)) 256).1
  let head := leBytes 4 0x52534C54 ++ leBytes 2 1 ++ leBytes 1 ((a.stop.map stopCode).getD 0) ++ leBytes 1 a.top.length ++
    leBytes 2 a.prob.replicas ++ zeros 2 ++ leBytes 4 segs ++ leBytes 4 a.kRungs ++ leBytes 4 a.lam.length ++
    leBytes 4 a.sweep ++ leBytes 4 a.budget ++ (offs.map (leBytes 8)).flatten ++ digest ++ run ++ zeros 112
  (secs.zip offs).foldl (fun b so => b ++ zeros (so.2 - b.length) ++ so.1) head

/-- Writes the result area at an address, with its digests (R302, R394). -/
def writeResult (c addr : Nat) (run : List Byte) (s : State) : State :=
  match ctxOf s c with
  | none => s
  | some x =>
    match x.anneal with
    | none => s
    | some a =>
      let d := stateDigest a
      let b := resultBytes a (isSpanned s x) d run
      let s := memWrite addr b s
      let a := { a with resultDone := true, resultAddr := addr }
      let ds := [d, run, treeDigest b]
      updCtx c (fun x => { x with resultAt := some addr, resultLen := b.length, resDigests := ds, audit := none, anneal := some a,
                                  results := ⟨addr, b.length, ds, a, none⟩ :: x.results.filter fun r => decide (r.addr ≠ addr) }) s

/-- Where the certificate of a result area goes (R310). -/
def certPlace (x : Ctx) (addr : Nat) : Nat :=
  match x.results.find? fun r => decide (r.addr = addr) with
  | some r => up64 (addr + r.len)
  | none => addr

/-! ## Queueing an audit (R402) -/

/-- The engines of an invocation's image. -/
def ctxEngines (s : State) (x : Ctx) : List Nat := progEngines (ctxImage s x)

/-- A queued audit that the evaluator is still to take. -/
def auditQueued (j : AuditJob) : Bool := j.out.isNone

/-- The queued audits that count for the backlog. -/
def backlog (s : State) : Nat := (s.audits.filter fun j => auditQueued j && !j.mute).length

/-- The other devices of a run take part in its audits (R405). -/
def auditShared (x : Ctx) : Bool := isMulti x && (match x.md with | some m => decide (m.mode = 1) || decide (m.mode = 2) | none => false)

/-- The job of an invocation's audit; a pipelined run's devices audit each its own result (R399, R405). -/
def auditJob (s : State) (x : Ctx) (a : Anneal) (addr : Nat) (out : Option AuditRes) (mute : Bool) : AuditJob :=
  let multi := auditShared x
  { ring := x.ring, order := x.order, ctx := x.id, bell := isBell x, addr := addr, prob := a.prob, lam := a.lam,
    engines := ctxEngines s x, tag := dTag x, runId := dRunId x, certSeq := none, certAt := 0, cert := [], record := [], prog := dProgram x,
    mainQ := onMaint x, out := out, mute := mute, devices := if multi then (x.md.map (·.devices)).getD [] else [],
    pos := if multi then (x.md.map (·.position)).getD 0 else 0, mode := if multi then imgMode (ctxImage s x) else 0, gBase := a.gBase, stage := 0,
    pass := 0, sofar := [], first := [], sent := false }

def mkAudUp : Nat := 12
def mkAudDown : Nat := 13

/-- An invocation's audit of the result at an address has an outcome. -/
def setAudit (c addr : Nat) (r : AuditRes) (s : State) : State :=
  updCtx c (fun x => { x with audit := some r, results := x.results.map fun q => if q.addr = addr then { q with audit := some r } else q }) s

/-- Queues the audit of a result, or skips it: with the backlog full, or with audits switched off (R402). In a run whose devices
audit together, a device that skips still passes the others' values on (R405). -/
def queueAudit (c addr : Nat) (s : State) : State :=
  match ctxOf s c with
  | none => s
  | some x =>
    match x.anneal with
    | none => s
    | some a =>
      let skip := decide (64 ≤ backlog s) || !(reg s pgAudit 0x040).testBit 0
      let a := match x.results.find? fun r => decide (r.addr = addr) with | some r => r.run | none => a
      let s := if skip then bump pgAudit 0x050 s else s
      if skip && !auditShared x then
        if isBell x then { s with audits := s.audits ++ [auditJob s x a addr (some ⟨5, [], 0⟩) false] }
        else setAudit c addr ⟨5, [], 0⟩ s
      else { s with audits := s.audits ++ [auditJob s x a addr none skip] }

end Sys2Proof.Machine
end

