-- ==== Sys2Proof/WellFormed.lean ====
section
/-!
DEFINITION. Which terms are commands of this device: every operand field of an engine instruction fits its width
(spec/08_engine_programs.md R286, R287, R289), and every unit named exists.
-/
namespace Sys2Proof

/-- Every operand field of an engine instruction fits its width (R289). -/
def EngOp.fits (op : EngOp) : Bool :=
  match op with
  | .nop | .halt => true
  | .loop o => decide (o.count < 2 ^ 24) && decide (o.stride < 2 ^ 20) && decide (o.body < 2 ^ 16) &&
      decide (o.mode < 2 ^ 2)
  | .stage o => decide (o.stageId < 2 ^ 16) && decide (o.kind < 2 ^ 3) && decide (o.apb < 2 ^ 4)
  | .tstamp o => decide (o.sa < 2 ^ 20)
  | .move o => decide (o.sa < 2 ^ 20) && decide (o.len < 2 ^ 19) && decide (o.dir < 2 ^ 3) &&
      decide (o.hreg < 2 ^ 4) && decide (o.ctx < 2 ^ 4) && decide (o.addr < 2 ^ 42)
  | .fill o => decide (o.sa < 2 ^ 20) && decide (o.len < 2 ^ 19) && decide (o.pattern < 2 ^ 32)
  | .sld o => decide (o.addr < 2 ^ 24) && decide (o.space < 2 ^ 1) && decide (o.hreg < 2 ^ 4) &&
      decide (o.fmt < 2 ^ 5) && decide (o.trans < 2 ^ 1) && decide (o.chk < 2 ^ 1) && decide (o.caddr < 2 ^ 24) &&
          decide (o.scale < 2 ^ 20)
  | .stream o => decide (o.sa < 2 ^ 20) && decide (o.v < 2 ^ 9) && decide (o.fmt < 2 ^ 5) &&
      decide (o.slot < 2 ^ 7) && decide (o.mode < 2 ^ 1) && decide (o.scale < 2 ^ 20)
  | .drain o => decide (o.sa < 2 ^ 20) && decide (o.slot < 2 ^ 7) && decide (o.v < 2 ^ 9) &&
      decide (o.ofmt < 2 ^ 5) && decide (o.rnd < 2 ^ 2) && decide (o.fuse < 2 ^ 2) && decide (o.fuseSa < 2 ^ 20) &&
          decide (o.shift < 2 ^ 5) && decide (o.topk < 2 ^ 2) && decide (o.k < 2 ^ 4) &&
              decide (o.srTile < 2 ^ 12) && decide (o.srStream < 2 ^ 8) && decide (o.mxdim < 2 ^ 1)
  | .pdrain o => decide (o.sa < 2 ^ 20) && decide (o.slot < 2 ^ 7) && decide (o.v < 2 ^ 9)
  | .preload o => decide (o.sa < 2 ^ 20) && decide (o.slot < 2 ^ 7) && decide (o.v < 2 ^ 9)
  | .vop o => decide (o.saD < 2 ^ 20) && decide (o.saA < 2 ^ 20) && decide (o.saB < 2 ^ 20) &&
      decide (o.nv < 2 ^ 11) && decide (o.func < 2 ^ 6) && decide (o.ty < 2 ^ 3) && decide (o.imm < 2 ^ 32)
  | .vred o => decide (o.saD < 2 ^ 20) && decide (o.saA < 2 ^ 20) && decide (o.nv < 2 ^ 11) &&
      decide (o.op < 2 ^ 2) && decide (o.ty < 2 ^ 3)
  | .vnorm o => decide (o.saD < 2 ^ 20) && decide (o.saA < 2 ^ 20) && decide (o.n < 2 ^ 20) &&
      decide (o.kind < 2 ^ 1) && decide (o.eps < 2 ^ 32)
  | .vcvt o => decide (o.saD < 2 ^ 20) && decide (o.saA < 2 ^ 20) && decide (o.nv < 2 ^ 11) &&
      decide (o.ifmt < 2 ^ 5) && decide (o.ofmt < 2 ^ 5) && decide (o.rnd < 2 ^ 2) && decide (o.srTile < 2 ^ 12) &&
          decide (o.srStream < 2 ^ 8)
  | .vtopk o => decide (o.saD < 2 ^ 20) && decide (o.saA < 2 ^ 20) && decide (o.nr < 2 ^ 11) &&
      decide (o.mode < 2 ^ 1) && decide (o.k < 2 ^ 4)
  | .pbuild o => decide (o.saA < 2 ^ 20) && decide (o.saD < 2 ^ 20) && decide (o.count < 2 ^ 18) &&
      decide (o.kind < 2 ^ 3) && decide (o.stype < 2 ^ 1) && decide (o.scaleE < 2 ^ 8) && decide (o.rnd < 2 ^ 2) &&
          decide (o.srTile < 2 ^ 12) && decide (o.srStream < 2 ^ 8)
  | .pload o => decide (o.apb < 2 ^ 4) && decide (o.da < 2 ^ 42)
  | .gather o => decide (o.apb < 2 ^ 4)
  | .relax o => decide (o.apb < 2 ^ 4)
  | .choose o => decide (o.apb < 2 ^ 4)
  | .rollcall o => decide (o.apb < 2 ^ 4)
  | .fieldup o => decide (o.apb < 2 ^ 4)
  | .sweepend o => decide (o.apb < 2 ^ 4)
  | .result o => decide (o.apb < 2 ^ 4) && decide (o.da < 2 ^ 42)
  | .red o => decide (o.saA < 2 ^ 20) && decide (o.saD < 2 ^ 20) && decide (o.nv < 2 ^ 11) &&
      decide (o.op < 2 ^ 2) && decide (o.ty < 2 ^ 3) && decide (o.scope < 2 ^ 2) && decide (o.tag < 2 ^ 8)
  | .bcast o => decide (o.sa < 2 ^ 20) && decide (o.len < 2 ^ 19) && decide (o.root < 2 ^ 5) &&
      decide (o.rdev < 2 ^ 9) && decide (o.scope < 2 ^ 2) && decide (o.tag < 2 ^ 8)
  | .lsend o => decide (o.sa < 2 ^ 20) && decide (o.len < 2 ^ 19) && decide (o.peer < 2 ^ 9) &&
      decide (o.chan < 2 ^ 4)
  | .lrecv o => decide (o.sa < 2 ^ 20) && decide (o.len < 2 ^ 19) && decide (o.peer < 2 ^ 9) &&
      decide (o.chan < 2 ^ 4)
  | .swait o => decide (o.sem < 2 ^ 14) && decide (o.thresh < 2 ^ 64) && decide (o.tmo < 2 ^ 5)
  | .ssignal o => decide (o.sem < 2 ^ 14) && decide (o.value < 2 ^ 64) && decide (o.op < 2 ^ 1)
  | .audit o => decide (o.apb < 2 ^ 4) && decide (o.da < 2 ^ 42)
  | .digest o => decide (o.sa < 2 ^ 20) && decide (o.len < 2 ^ 19) && decide (o.ctx < 2 ^ 4) && decide (o.op < 2 ^ 2)
  | .cert o => decide (o.apb < 2 ^ 4) && decide (o.da < 2 ^ 42)

/-- An engine instruction whose fields all fit. -/
def EngInstr.fits (i : EngInstr) : Bool := i.op.fits && decide (i.idx < 4)

/-- A context and a logical engine that exist (R430, R14). -/
def EngRef.ok (x : EngRef) : Bool := decide (x.ctx < 4096) && decide (x.eng < 32)

/-- A 32-bit register value. -/
def isWord (v : Nat) : Bool := decide (v < 2 ^ 32)

/-- A page index of the map (R627). -/
def pageIx (p : Nat) : Bool :=
  decide (p ≤ 0x00D) || decide (0x010 ≤ p ∧ p ≤ 0x033) || decide (0x038 ≤ p ∧ p ≤ 0x03B) || decide (0x040 ≤ p ∧ p ≤ 0x048) ||
    decide (0x050 ≤ p ∧ p ≤ 0x066) || decide (0x068 ≤ p ∧ p ≤ 0x06C) || decide (0x070 ≤ p ∧ p ≤ 0x073)

/-- A page with a memory controller: ENG, BM, LM. -/
def memPageIx (p : Nat) : Bool := decide (0x010 ≤ p ∧ p ≤ 0x033) || decide (0x040 ≤ p ∧ p ≤ 0x047)

/-- The lanes of a codeword: 8 of 68 symbols of 10 bits. -/
def lanesOk (ls : List (List Nat)) : Bool :=
  decide (ls.length = 8) && ls.all fun l => decide (l.length = 68) && l.all fun v => decide (v < 1024)

/-- A command of this device: its units exist and its values fit. -/
def Instr.wf : Instr → Bool
  | .nop x => x.ok
  | .halt x => x.ok
  | .loop x o => x.ok && (EngOp.loop o).fits
  | .stage x o => x.ok && (EngOp.stage o).fits
  | .tstamp x o => x.ok && (EngOp.tstamp o).fits
  | .move x o => x.ok && (EngOp.move o).fits
  | .fill x o => x.ok && (EngOp.fill o).fits
  | .sld x o => x.ok && (EngOp.sld o).fits
  | .stream x o _ => x.ok && (EngOp.stream o).fits
  | .drain x o => x.ok && (EngOp.drain o).fits
  | .pdrain x o => x.ok && (EngOp.pdrain o).fits
  | .preload x o => x.ok && (EngOp.preload o).fits
  | .vop x o => x.ok && (EngOp.vop o).fits
  | .vred x o => x.ok && (EngOp.vred o).fits
  | .vnorm x o => x.ok && (EngOp.vnorm o).fits
  | .vcvt x o => x.ok && (EngOp.vcvt o).fits
  | .vtopk x o => x.ok && (EngOp.vtopk o).fits
  | .pbuild x o => x.ok && (EngOp.pbuild o).fits
  | .pload c o => decide (c < 4096) && (EngOp.pload o).fits
  | .gather c o => decide (c < 4096) && (EngOp.gather o).fits
  | .relax c o _ => decide (c < 4096) && (EngOp.relax o).fits
  | .choose c o _ => decide (c < 4096) && (EngOp.choose o).fits
  | .rollcall c o _ => decide (c < 4096) && (EngOp.rollcall o).fits
  | .fieldup c r => decide (c < 4096) && (EngOp.fieldup r.op).fits
  | .sweepend c o => decide (c < 4096) && (EngOp.sweepend o).fits
  | .result c o => decide (c < 4096) && (EngOp.result o).fits
  | .red c o => decide (c < 4096) && (EngOp.red o).fits
  | .bcast c o => decide (c < 4096) && (EngOp.bcast o).fits
  | .lsend x o => x.ok && (EngOp.lsend o).fits
  | .lrecv x o => x.ok && (EngOp.lrecv o).fits
  | .swait x o => x.ok && (EngOp.swait o).fits
  | .swaitTimeout x => x.ok
  | .ssignal x o => x.ok && (EngOp.ssignal o).fits
  | .audit c o => decide (c < 4096) && (EngOp.audit o).fits
  | .digestStart x o => x.ok && (EngOp.digest o).fits && decide (o.op = 0)
  | .digestAbsorb x o => x.ok && (EngOp.digest o).fits && decide (o.op = 1)
  | .digestFinal x o => x.ok && (EngOp.digest o).fits && decide (o.op = 2)
  | .digestCompare x o => x.ok && (EngOp.digest o).fits && decide (o.op = 3)
  | .cert c o => decide (c < 4096) && (EngOp.cert o).fits
  | .tileSubstitutionDone e => decide (e < 32)
  | .tileSelftest t _ => decide (t < 36)
  | .invoke c | .remove c | .removeComplete c | .join c | .enterWaiting c | .waitTimeout c | .engineGrant c
  | .switchOut c | .switchIn c | .invocationAbortStop c | .deregister c | .cutPoint c | .progressSend c
  | .lostCollectEnd c | .failoverCopyDone c => decide (c < 4096)
  | .epochBarrierDone r => decide (r.ctx < 4096)
  | .install c _ => decide (c < 4096)
  | .cmdbuf c _ => decide (c < 4096)
  | .argumentBlockRead c _ => decide (c < 4096)
  | .register c _ => decide (c < 4096)
  | .selftest c _ => decide (c < 4096)
  | .cmdbufEntryStart c i => decide (c < 4096) && decide (i < 4096)
  | .hostWaitPoll c w _ => decide (c < 4096) && decide (w < 4)
  | .inputsMoved c _ _ => decide (c < 4096)
  | .hostSignalFlushDone c k _ => decide (c < 4096) && decide (k < 4)
  | .peerTimerExpire c _ => decide (c < 4096)
  | .recordFlushDone q _ => decide (q < 6)
  | .msixCoalesceTimeout q => decide (q < 6)
  | .queTailWrite _ q v => decide (q < 6) && isWord v
  | .cqHeadWrite _ q v => decide (q < 6) && isWord v
  | .queEnable _ q | .queDisable _ q | .queRearm _ q | .abortTag _ q | .abortAll _ q => decide (q < 6)
  | .semOpAdd _ i | .semOpSet _ i => decide (i < 16384)
  | .bellRelease r p => decide (r < 2) && decide (p < 256)
  | .releaseStart r => decide (r < 2)
  | .lendBlockExpiry r c => decide (r < 2) && decide (c < 4096)
  | .certRingRdWrite _ v => isWord v
  | .flitSend l | .replayTimeout l | .laneLockLoss l | .linkTrainStart l | .linkTrainLock l | .linkTrainFail l =>
    decide (l < 16)
  | .flitReceive l came ls => decide (l < 16) && (if came then lanesOk ls else ls.isEmpty)
  | .discover l _ => decide (l < 16)
  | .probe l _ => decide (l < 16)
  | .rekey l _ => decide (l < 16)
  | .scrubRead k => decide (k < 152)
  | .logClear _ p => memPageIx p
  | .injArm _ p v => memPageIx p && isWord v
  | .revoke _ k => decide (k < 4)
  | .keyProvision _ k => decide (k < 2)
  | .entropyTestTrip k => decide (k < 3)
  | .sourceRetest k _ => decide (k < 3)
  | .conditionedBlock b => decide (b.length = 32)
  | .drbgReseedDue i => decide (i < 4)
  | .canaryFire t => decide (t < 36)
  | .marginDecay t => decide (t < 36)
  | .sensorSample t => decide (t.length = 41)
  | .thermtrip k => decide (k < 41)
  | .tamperDetect k => decide (k < 6)
  | .railFault r => decide (r.rail < 7)
  | .porstNRise m _ => decide (m < 4)
  | .ptmExchange t => decide (t < 2 ^ 64)
  | .i3cEntdaa a => decide (a < 128)
  | .i3cWriteRequest o v => isWord o && isWord v
  | .i3cReadRequest o => isWord o
  | .txnBegin _ p | .txnCommit _ p | .txnAbort _ p | .txnApply p | .txnExpire p => pageIx p
  | .rwtWrite _ o v => decide (o < 0x74000) && isWord v
  | .ownerLock _ p i | .ownerRelease _ p i => pageIx p && decide (i < 2 ^ 16)
  | .evtClear _ p m r => pageIx p && isWord m && isWord r
  | .evtForce _ p m => pageIx p && isWord m
  | .cntClear _ p | .softRst _ p | .softResetApply p => pageIx p
  | .readLoLatch _ o => isWord o
  | .registerWrite _ o v => isWord o && isWord v
  | .repairLogWrite | .descriptorFetch _ | .stallDetectorFire | .stateReqMaintFinish _ | .stateReqMaintAbort _
  | .stateReqService _ | .enterMaintenance | .enterService | .auditStart | .auditFinish _ _ | .windowTimeout
  | .windowSigned | .msgAckTimeout _ _ _ | .msgAck _ _ _ | .start _ _ | .progress _ _ _ | .lost _ _ _ _ | .claim _ _ _ _ _
  | .probeReply _ _ | .probeTimeout _ | .failover _ _ _ _ _ | .epoch _ _ _ | .mirrorRebuildDone _ | .lcReqDeployed _
  | .lcReqRma _ | .lcReqScrapped _ | .lcProvision | .svnCommit _ | .attestation _ _ | .hReq _
  | .hDataLastRead _ | .entropyRequestTimeout _ | .bootIdDraw | .reefEvaluation _ | .alertNFall | .vspdEvaluation _
  | .avsAck | .avsRetry _ | .pwrgdLow | .porstNAssert | .bootComplete _ | .perstNAssert | .perstNRise | .pcieHotReset
  | .flr | .d3hotEntry | .recoveryCmd _ | .calWrite _ | .calRead _ | .calCapture _ _ _ | .ppsInEdge | .ppsLoss
  | .timeclkLoss | .timeclkRelock | .cplTimeout | .bar2Read _ _ | .bar2Write _ _ | .i3cPrivateRead | .grpBegin _
  | .grpCommit _ | .grpAbort _ | .grpApply | .grpSafeTimeout | .internalResetRelease _ | .returnToD0
  | .warmResetComplete | .pcieLinkTrained _ _ _ | .powerSurge | .startUpTestsEnd _ _ _ | .pcieFlitReplay
  | .malformedTlp | .badAccess _ => true

end Sys2Proof
end

