-- ==== Sys2Proof/Machine/Engine.lean ====
section
/-!
DEFINITION. How the engines of an invocation run (R272 to R285, R316): cursors, loops, indexed addresses, the reads of an
instruction through the codes and their recoveries (R496 to R498, R537 to R539), and the outcome of an engine instruction.
-/
namespace Sys2Proof.Machine

/-! ## Cursors -/

/-- The cursor of an engine. -/
def curOf (x : Ctx) (e : Nat) : Option Cursor := x.curs.find? fun u => decide (u.eng = e)

/-- Changes the cursor of an engine. -/
def updCur (c e : Nat) (f : Cursor → Cursor) (s : State) : State :=
  updCtx c (fun x => { x with curs := x.curs.map fun u => if u.eng = e then f u else u }) s

/-- A cursor at the first instruction of an engine's program. -/
def startCur (img : List Byte) (e : Nat) : Cursor := ⟨e, 0, [], imgStages img, false, List.replicate 16 [], none, []⟩

/-- The instruction that an engine executes next. -/
def curInstr (s : State) (x : Ctx) (e : Nat) : Option EngInstr :=
  match curOf x e with
  | none => none
  | some u => if u.halted then none else engInstr (ctxImage s x) e u.pc

/-- H of the loaded problem (R275). -/
def runPhases (x : Ctx) : Nat :=
  match x.anneal with | some a => phasesPerSweep a.prob.segCount a.prob.engReq | none => 1

/-- The run has stopped (R278, R696). -/
def runStopped (x : Ctx) : Bool := match x.anneal with | some a => a.stop.isSome | none => false

/-- Leaves the bodies that end at `pc`, or repeats them (R275, R278). DESIGN CHOICE (log 95): a run that stopped leaves the SWEEPS loop
    at its body's end, so what stands after SWEEPEND in the body still runs. -/
def closeLoops (stopped : Bool) (h : Nat) : List Frame → Nat → List Frame × Nat
  | [], pc => ([], pc)
  | f :: fs, pc =>
    if pc < f.loop.stop then (f :: fs, pc)
    else
      let more := match f.loop.mode with
        | 0 => decide (f.iter + 1 < f.loop.count)
        | 1 => decide (f.iter + 1 < h)
        | _ => !stopped
      if more then ({ f with iter := f.iter + 1 } :: fs, f.loop.start + 1) else closeLoops stopped h fs f.loop.stop

/-- The next instruction of an engine. -/
def advance (c e : Nat) (s : State) : State :=
  match ctxOf s c with
  | none => s
  | some x => updCur c e (fun u =>
      let r := closeLoops (runStopped x) (runPhases x) u.frames (u.pc + 1)
      { u with frames := r.1, pc := r.2 }) s

/-- Opens a loop: its body, or what follows it where it is a SWEEPS loop of a run that has stopped (R696). -/
def enterLoop (c e : Nat) (o : LoopOp) (s : State) : State :=
  match ctxOf s c with
  | none => s
  | some x => updCur c e (fun u =>
      if o.mode = 2 ∧ runStopped x then
        let r := closeLoops true (runPhases x) u.frames (u.pc + 1 + o.body)
        { u with frames := r.1, pc := r.2 }
      else { u with frames := ⟨loopAt u.pc o, 0⟩ :: u.frames, pc := u.pc + 1 }) s

/-- The frames outside the SWEEPS loop, and the index after it. -/
def sweepsExit : List Frame → Option (List Frame × Nat)
  | [] => none
  | f :: fs => if f.loop.mode = 2 then some (fs, f.loop.stop) else sweepsExit fs

/-- A cursor inside a SWEEPS loop goes to the first instruction after it. -/
def leaveSweeps (h : Nat) (u : Cursor) : Cursor :=
  match sweepsExit u.frames with
  | none => u
  | some r => let q := closeLoops true h r.1 r.2; { u with frames := q.1, pc := q.2 }

/-- Leaves the SWEEPS loop on every engine (R278). -/
def exitSweeps (c : Nat) (s : State) : State :=
  match ctxOf s c with
  | none => s
  | some x => updCtx c (fun y => { y with curs := y.curs.map (leaveSweeps (runPhases x)) }) s

/-- The byte offset that IDX adds (R277). -/
def idxOff (u : Cursor) (idx : Nat) : Int :=
  if idx = 0 then 0
  else match u.frames[idx - 1]? with
    | none => 0
    | some f => (f.iter : Int) * f.loop.stride * 64

/-- A byte address with its index. -/
def ixByte (u : Cursor) (idx b : Nat) : Nat := ((b : Int) + idxOff u idx).toNat

/-- The device address of an indexed SA. -/
def saIx (u : Cursor) (idx sa : Nat) : Nat := saAddr u.eng (ixByte u idx (64 * sa))

/-- The device address of an SA without an index. -/
def sa0 (u : Cursor) (sa : Nat) : Nat := saAddr u.eng (64 * sa)

/-- The home region that HREG names (R287). -/
def hregEng (e hreg : Nat) : Nat := if hreg = 15 then e else 8 * (e / 8) + hreg

/-- The micro-batch index (R280). -/
def microBatch (u : Cursor) : Nat :=
  ((u.frames.reverse.find? fun f => decide (f.loop.mode = 0)).map (·.iter)).getD 0

/-- A cursor stands in an ANNEAL stage. -/
def inAnnealStage (img : List Byte) (u : Cursor) : Bool :=
  !u.halted && decide (u.stage < imgStages img) && decide ((stageEntry img u.stage).2.1 = 2)

/-- The phase field of a stochastic-rounding draw (R257): the anneal phase index inside an ANNEAL stage; elsewhere the micro-batch index.
DESIGN CHOICE (log entry 94): before the `PLOAD` of a stage it is the last phase index of the invocation's earlier run, 0 where there was
none. -/
def drawPhase (s : State) (x : Ctx) (u : Cursor) : Nat :=
  if inAnnealStage (ctxImage s x) u then (x.anneal.map (·.n)).getD 0 else microBatch u

/-! ## Switch points (R285) -/

/-- The run stands at a phase boundary. -/
def atBoundary (x : Ctx) : Bool :=
  match x.anneal with
  | some a => !a.loading && !a.resultDone &&
      (decide (a.pos = .gather) || decide (a.pos = .over) || (decide (a.pos = .sweepend) && decide (a.part = 0)))
  | none => false

/-- An invocation stands at a switch point (R285). -/
def switchPoint (s : State) (x : Ctx) : Bool :=
  let img := ctxImage s x
  x.curs.all (fun u => !inAnnealStage img u) || atBoundary x

/-! ## The stage records (R245) -/

/-- An empty stage record. -/
def stageZero : StageRec := ⟨0, List.replicate 7 0⟩

/-- ORs flags into the stage flag word of the open stage and counts them: SAT or CONV_SAT marks the stage for
`ACC_SATURATED`. -/
def stageFlags (c e bits : Nat) (s : State) : State :=
  match ctxOf s c with
  | none => s
  | some x =>
    match curOf x e with
    | none => s
    | some u =>
      let n := u.stage
      updCtx c (fun x => { x with
        stages := updAt x.stages n fun r => ⟨r.flags ||| bits, r.counts.mapIdx fun i v => if i < 5 ∧ bits.testBit i then v + 1 else v⟩
        satStage := if bits.testBit 0 ∨ bits.testBit 3 then some (match x.satStage with | some m => min m n | none => n)
          else x.satStage }) s

/-- Counts events of the stage statistics: 5 BUILD_CLAMPS, 6 BUILD_NANS. -/
def stageCount (c e i n : Nat) (s : State) : State :=
  match (ctxOf s c).bind (curOf · e) with
  | none => s
  | some u => updCtx c (fun x => { x with stages := updAt x.stages u.stage fun r => { r with counts := updAt r.counts i (· + n) } }) s

/-! ## Recovery (R537 to R539) -/

/-- Restarts an invocation from its first instruction; its inputs are moved again (R537). -/
def restart (c : Nat) (s : State) : State :=
  match ctxOf s c with
  | none => s
  | some x =>
    let img := ctxImage s x
    updCtx c (fun x => { x with fed := false, inputsIn := false, anneal := none, satStage := none,
                                stages := List.replicate (imgStages img + 1) stageZero,
                                curs := (progEngines img).map (startCur img) }) s

/-- The `RESULT` that the invocation's anneal comes to next. -/
def nextResult (s : State) (x : Ctx) : Option ResultOp :=
  let img := ctxImage s x
  let e := (mainEngines img).headD 0
  ((engProg img e).drop (((curOf x e).map (·.pc)).getD 0)).findSome? fun i => match i.op with | .result o => some o | _ => none

/-- The result area of a release that a disruptive fault ends, where `RESULT` has not written it: the records are those of the last
completed sweep end (R496). Its address. -/
def degradeWrite (c : Nat) (x : Ctx) (a : Anneal) (s : State) : Option Nat × State :=
  if a.resultDone then (some a.resultAddr, s)
  else match nextResult s x with
    | none => (none, s)
    | some o => (some (daOf x o.da), writeResult c (daOf x o.da) (if isSpanned s x then zeros 32 else stateDigest a) s)

/-- An audit of a result has been queued, or has an outcome. -/
def auditedAt (s : State) (x : Ctx) (addr : Nat) : Bool :=
  let f (j : AuditJob) : Bool := decide (j.ctx = x.id) && decide (j.order = x.order) && decide (j.addr = addr)
  s.audits.any f || (match s.auditRun with | some j => f j | none => false) || (asOf x addr).audit.isSome

/-- What a release that a disruptive fault ends delivers: a run still in its SWEEPS loop ends with stop reason DEADLINE; its result
area is written, its audit queued, and its certificate given its place (R28, R496). -/
def degrade (c : Nat) (s : State) : State :=
  match ctxOf s c with
  | none => s
  | some x =>
    match x.anneal with
    | none => s
    | some a =>
      let b := if a.stop.isSome then a else { a with stop := some .deadline }
      let limit := if a.stop.isSome then x.sweepLimit else a.sweep
      let r := degradeWrite c x b (updCtx c (fun x => { x with degraded := true, sweepLimit := limit, anneal := some b }) s)
      match r.1 with
      | none => r.2
      | some at_ =>
        let img := ctxImage s x
        let audits := (progEngines img).any fun e => (engProg img e).any fun i => match i.op with | .audit _ => true | _ => false
        let s := if flAudit x && audits && !ctxIs r.2 c (fun y => auditedAt r.2 y at_) then queueAudit c at_ r.2 else r.2
        updCtx c (fun x => { x with certAt := if flCert x && x.issued.isEmpty then certPlace x at_ else x.certAt }) s

/-- A disruptive fault of a Bell release, `none` where no release is concerned: before its `PLOAD` has completed it ends with the
cause; after that it is delivered as it stood, in its SWEEPS loop or past it (R28, R496 to R498). -/
def disrupt (c : Nat) (k : Cause) (s : State) : Option State :=
  match ctxOf s c with
  | none => none
  | some x =>
    if !isBell x then none
    else if x.status.isSome then some s
    else match x.anneal with
      | none => some (endWith c k s)
      | some a => if a.loading then some (endWith c k s) else some (finish c (degrade c s))

/-- A disruptive fault strikes where a release is concerned; what recovers it proceeds (R28, R496). -/
def disruptOr (c : Nat) (k : Cause) (s : State) : State := (disrupt c k s).getD s

/-- An invocation has no status yet. -/
def goesOn (s : State) (c : Nat) : Bool := ctxIs s c fun x => x.status.isNone

/-- The constant of an installed image that holds a byte of a word, with the places of its master (R519). -/
def constOf (s : State) (p : Prog) (w : Nat) : Option (ConstEnt × List (Nat × Nat)) :=
  ((constEnts p.image).zip p.masters).find? fun k => inHome k.1 &&
    (pieces s 34 (constAddr k.1) k.1.len).any fun q => decide (q.1 < w + wordLen w) && decide (w < q.1 + q.2)

/-- The constant of the running image that a home-region word belongs to. -/
def constAt (s : State) (x : Ctx) (w : Nat) : Option (ConstEnt × List (Nat × Nat)) :=
  (progAt s (dProgram x)).bind fun p => constOf s p w

/-- Copies a constant from its master to its place (R537): false where the master reads uncorrectably. -/
def copyMaster (k : ConstEnt × List (Nat × Nat)) (s : State) : Bool × Nat × State :=
  let r := partsRead k.2 s
  (r.1, r.2.1, if r.1 then memWrite (constAddr k.1) (((k.2.map fun p => memRead s p.1 p.2).flatten).take k.1.len) r.2.2 else r.2.2)

/-- Reloads a constant of an invocation from its master (R537, R538). -/
def reloadConst (c : Nat) (k : ConstEnt × List (Nat × Nat)) (f : Cause) (s : State) : State :=
  let r := copyMaster k s
  let s := recAdd c 2 r.2.1 r.2.2
  if r.1 || !goesOn s c then s else endWith c f s

/-- Counts a reload of the controller of a word and of the invocation. -/
def noteReload (c w : Nat) (s : State) : State :=
  let k := ctlOf s w
  recAdd c 3 1 (bump k.1 (k.2.1 + 0x08C) s)

/-- Counts a recompute of the controller of a word and of the invocation. -/
def noteRecompute (c w : Nat) (s : State) : State :=
  let k := ctlOf s w
  recAdd c 4 1 (bump k.1 (k.2.1 + 0x090) s)

/-- `INTERNAL_FAULT` of an engine: its tile and the instruction it stands at (R472). -/
def engineFault (s : State) (x : Ctx) (e : Nat) : Cause :=
  ⟨stInternalFault, tileOf s e + 256 * ((curOf x e).map (·.pc)).getD 0, 0⟩

/-- Recovers an uncorrectable word that an instruction outside an anneal phase read: a constant is reloaded from its
master, SRAM data restarts the invocation, and other data has no recovery; on MAINT none is made (R537 to R539). -/
def recoverWord (c e w : Nat) (s : State) : State :=
  match ctxOf s c with
  | none => s
  | some x =>
    if onMaint x then endWith c (engineFault s x e) s
    else match constAt s x w with
      | some k => reloadConst c k (engineFault s x e) (noteReload c w (disruptOr c (engineFault s x e) s))
      | none =>
        if isSram w then
          let s := disruptOr c (engineFault s x e) s
          if goesOn s c then restart c (noteRecompute c w s) else s
        else endWith c (engineFault s x e) s

/-- The reads of an instruction, by address and length: true where every word reads; corrected reads count in REC[2]. -/
def engReads (c e : Nat) (rs : List (Nat × Nat)) (s : State) : Bool × State :=
  let r := rs.foldl (fun (acc : List Nat × State) r =>
    let q := readCheck 0 r.1 r.2 acc.2
    (acc.1 ++ q.1, recAdd c 2 q.2.1 q.2.2)) ([], s)
  match r.1 with
  | [] => (true, r.2)
  | w :: _ => (false, recoverWord c e w r.2)

/-! ## Accumulator memory (R247) -/

/-- The key of slot word (v, col) of a slot. -/
def slotKey (e slot v col : Nat) : Nat := accKey e (65536 * slot + 2048 * v + 4 * col)

/-- A slot word. -/
def slotWord (s : State) (e slot v col : Nat) : Nat := (spGet zeroWord (slotKey e slot v col) s.acc).toNat

/-- The record of a slot. -/
def slotRec (s : State) (e slot : Nat) : Option SlotRec := spGet noSlot (128 * e + slot) s.slots

/-- The slot units that accumulator bytes of an engine lie in. -/
def unitsOf (off n : Nat) : List Nat := (List.range ((off + n + 65535) / 65536 - off / 65536)).map (off / 65536 + ·)

/-- Words and flags of a slot that an anneal has left open get free values when a slot of `v` vectors is read (R164; log entry 96). -/
def settleSlot (e slot v : Nat) (s : State) : State :=
  if (List.range (ceilDiv v 32)).any fun i => (slotRec s e (slot + i)).any fun r => decide (r.unset = 1) then
    let n := s.free
    let word (i j : Nat) : Word := BitVec.ofNat 32 (Config.freeNat (n + 1 + 512 * i + j))
    let r : SlotRec := ⟨slot, v - 1, (Config.freeNat n).testBit 5, Config.freeNat n % 32, 0⟩
    { s with
      free := n + 1 + 512 * v
      acc := (List.range v).foldl (fun m i => (List.range 512).foldl (fun m j => spSet zeroWord (slotKey e slot i j) (word i j) m) m) s.acc
      slots := (List.range (ceilDiv v 32)).foldl (fun m i => spSet noSlot (128 * e + slot + i) (some r) m) s.slots }
  else s

/-- The marked words of a slot: an uncorrectable one restarts the invocation. -/
def slotReads (c e slot v : Nat) (s : State) : Bool × State :=
  let s := settleSlot e slot v s
  let ws := markedIn s (slotKey e slot 0 0) (2048 * v)
  let r := ws.foldl (fun (acc : List Nat × State) w =>
    let q := noteRead 0 w acc.2
    match q.1 with
    | .clean => (acc.1, q.2)
    | .corrected _ => (acc.1, recAdd c 2 1 q.2)
    | _ => (acc.1 ++ [w], q.2)) ([], s)
  match r.1 with
  | [] => (true, r.2)
  | w :: _ => (false, recoverWord c e w r.2)

/-- Writes slot words, vector by vector, and the record of the slot's units. -/
def writeSlot (e : Nat) (r : SlotRec) (ws : List (List Nat)) (s : State) : State :=
  let base := slotKey e r.slot 0 0
  let n := 2048 * ws.length
  let keep := spClear base n s.acc
  let acc := ws.zipIdx.foldl (fun m v => v.1.zipIdx.foldl (fun m w =>
    spSet zeroWord (slotKey e r.slot v.2 w.2) (BitVec.ofNat 32 w.1) m) m) keep
  let slots := (List.range (ceilDiv (r.v + 1) 32)).foldl (fun m i => spSet noSlot (128 * e + r.slot + i) (some r) m) s.slots
  let s := { s with acc := acc, slots := slots, marks := spClear base n s.marks }
  if injApplies s base then wroteWord base s else s

/-! ## Outcomes -/

/-- The Slate and exchange-window ranges that an instruction writes, as device addresses, and the range of a `MOVE` to one. -/
def writesTo (u : Cursor) (i : EngInstr) : List (Nat × Nat) :=
  let sa (r : OpRange) : Nat × Nat := (if r.indexed then saAddr u.eng (ixByte u i.idx r.addr) else saAddr u.eng r.addr, r.len)
  let rs := (slateRanges i.op).map sa
  match i.op with
  | .move o =>
    if o.dir = 1 then [(64 * o.addr, 64 * (o.len + 1))] else if o.dir = 3 then [] else if o.dir = 4 then rs.drop 1 else rs.take 1
  | .pbuild _ => rs.drop 1
  | .red _ => rs.drop 1
  | .sld _ => []
  | .stream _ => []
  | .preload _ => []
  | .lsend _ => []
  | .digest o => if o.op = 2 then rs else []
  | _ => rs.take 1

/-- The instruction that an engine stands at writes a range that a message still has to be acknowledged for (R273, R336). -/
def readLocked (s : State) (x : Ctx) (e : Nat) : Bool :=
  match curOf x e, curInstr s x e with
  | some u, some i => s.net.out.any fun o =>
      match o.src with
      | some l => (writesTo u i).any fun r => decide (r.1 < l.1 + l.2) && decide (l.1 < r.1 + r.2)
      | none => false
  | _, _ => false

/-- An engine may issue: its invocation runs and is fed; no substitution, fail-over or protection holds it (R26, R368), what it
writes is not read-locked (R336), and it has not been aborted and reached its switch point (R447). -/
def engIssues (s : State) (x : Ctx) (e : Nat) : Bool :=
  decide (x.life = .running) && x.fed && !(x.abort && switchPoint s x) && !issueOff s && !pageHeld s pgSpeed && !pageHeld s (pgEng (tileOf s e)) && !(s.substs.any fun u => decide (u.eng = e)) &&
    (match x.md with | some m => m.failover.isNone | none => true) && !readLocked s x e

/-- The engine of an invocation stands at an instruction and may issue it. -/
def engAt (s : State) (x : Ctx) (e : Nat) (op : EngOp) : Bool :=
  engIssues s x e && decide ((curInstr s x e).map (·.op) = some op)

/-- The IDX of the instruction that an engine executes next. -/
def curIdx (s : State) (x : Ctx) (e : Nat) : Nat := ((curInstr s x e).map (·.idx)).getD 0

/-- What an instruction does, given its invocation, its cursor and its IDX. -/
def engRun (x : EngRef) (f : Ctx → Cursor → Nat → State → State) (s : State) : State :=
  match ctxOf s x.ctx with
  | none => s
  | some c =>
    match curOf c x.eng with
    | none => s
    | some u => f c u (curIdx s c x.eng) s

/-- The outcome of an engine instruction: where the engine stands at it (R273), its effect. -/
@[inline] def engAct (x : EngRef) (op : EngOp) (s : State) (f : Ctx → Cursor → Nat → State → State) :
    Host.Outcome State Fault Refusal :=
  actCfe x.ok (ctxIs s x.ctx fun c => engAt s c x.eng op) s (engRun x f s)

/-- An instruction that reads ranges, changes the state, and is then followed by the next one. -/
def reading (c : Ctx) (u : Cursor) (rs : List (Nat × Nat)) (f : State → State) (s : State) : State :=
  let r := engReads c.id u.eng rs s
  if r.1 then advance c.id u.eng (f r.2) else r.2

/-! ## Collectives (R282) -/

/-- Every participant of an anneal-class collective, `AUDIT` or `CERT` stands at it. -/
def collAt (s : State) (x : Ctx) (op : EngOp) : Bool :=
  let es := mainEngines (ctxImage s x)
  !es.isEmpty && es.all fun e => engAt s x e op

/-- The next instruction for every participant. -/
def collAdvance (c : Nat) (s : State) : State :=
  match ctxOf s c with
  | none => s
  | some x => (mainEngines (ctxImage s x)).foldl (fun s e => advance c e s) s

/-- The outcome of a collective. -/
@[inline] def collAct (c : Nat) (op : EngOp) (s : State) (f : Ctx → State → State) : Host.Outcome State Fault Refusal :=
  actCfe (decide (c < 4096)) (ctxIs s c fun x => collAt s x op) s
    (match ctxOf s c with | some x => f x s | none => s)

end Sys2Proof.Machine
end

