-- ==== Sys2Proof/Machine/Control.lean ====
section
/-!
DEFINITION. Control, moves, digests and semaphores of engine programs (R275, R279, R284, R289 to R291, R307 to R309).
-/
namespace Sys2Proof.Machine

/-- NOP (R289): no effect. -/
def execNop (x : EngRef) (s : State) : Host.Outcome State Fault Refusal :=
  engAct x .nop s fun c u _ s => advance c.id u.eng s

/-- Ends a program; with every program ended, the invocation's engine work ends. -/
def haltEngine (c e : Nat) (s : State) : State :=
  let s := updCur c e (fun u => { u with halted := true }) s
  match ctxOf s c with
  | none => s
  | some x => if x.curs.all (·.halted) then engineWorkDone c s else s

/-- HALT (R284): ends the engine's program; when every program has executed it, the engine work of the invocation ends. -/
def execHalt (x : EngRef) (s : State) : Host.Outcome State Fault Refusal :=
  engAct x .halt s fun c u _ s => haltEngine c.id u.eng s

/-- LOOP (R275, R276): opens a loop over the BODY instructions that follow. -/
def execLoop (x : EngRef) (o : LoopOp) (s : State) : Host.Outcome State Fault Refusal :=
  engAct x (.loop o) s fun c u _ s => enterLoop c.id u.eng o s

/-- The place of a STAGE_ID in the image's stage table. -/
def stageIndex (img : List Byte) (id : Nat) : Nat :=
  ((List.range (imgStages img)).find? fun i => decide ((stageEntry img i).1 = id)).getD (imgStages img)

/-- STAGE (R279): opens a stage. -/
def execStage (x : EngRef) (o : StageOp) (s : State) : Host.Outcome State Fault Refusal :=
  engAct x (.stage o) s fun c u _ s =>
    advance c.id u.eng (updCur c.id u.eng (fun u => { u with stage := stageIndex (ctxImage s c) o.stageId }) s)

/-- TSTAMP (R289): writes the 64-bit time base to SA. -/
def execTstamp (x : EngRef) (o : TstampOp) (s : State) : Host.Outcome State Fault Refusal :=
  engAct x (.tstamp o) s fun c u i s => advance c.id u.eng (memWrite (saIx u i o.sa) (leBytes 8 s.now) s)

/-- The source and the destination of a `MOVE` (R289, R290). -/
def moveEnds (u : Cursor) (i : Nat) (o : MoveOp) : Nat × Nat :=
  let sa := saIx u i o.sa
  let ha := homeBase (hregEng u.eng o.hreg) + 64 * o.addr
  match o.dir with
  | 0 => (64 * o.addr, sa)
  | 1 => (sa, 64 * o.addr)
  | 2 => (ha, sa)
  | 3 => (sa, ha)
  | _ => (sa, sa0 u o.addr)

/-- Absorbs bytes into a digest context; context 0 is none. -/
def absorb (c e ctx : Nat) (b : List Byte) (s : State) : State :=
  if ctx = 0 then s else updCur c e (fun u => { u with digests := updAt u.digests ctx (· ++ b) }) s

/-- Whether the words of a partial drain are INT32 or FP32, which its bytes do not say, goes with them (R250; log entry 96). -/
def moveTags (src dst n : Nat) (s : State) : State :=
  { s with partials := (spRange src n s.partials).foldl (fun m c => spSet noPartial (c.1 - src + dst) c.2 m) (spClear dst n s.partials) }

/-- MOVE (R289 to R291): copies LEN bytes, the whole source read first, and absorbs them into a digest context. -/
def execMove (x : EngRef) (o : MoveOp) (s : State) : Host.Outcome State Fault Refusal :=
  engAct x (.move o) s fun c u i s =>
    let n := 64 * (o.len + 1)
    let e := moveEnds u i o
    reading c u [(e.1, n)] (fun s => let b := memRead s e.1 n; absorb c.id u.eng o.ctx b (moveTags e.1 e.2 n (memWrite e.2 b s))) s

/-- FILL (R289): writes the 32-bit PATTERN repeatedly. -/
def execFill (x : EngRef) (o : FillOp) (s : State) : Host.Outcome State Fault Refusal :=
  engAct x (.fill o) s fun c u i s =>
    let t := memWrite (saIx u i o.sa) (List.replicate (16 * (o.len + 1)) (leBytes 4 o.pattern)).flatten s
    advance c.id u.eng { t with partials := spClear (saIx u i o.sa) (64 * (o.len + 1)) t.partials }

/-! ## Digest contexts (R309) -/

/-- The bytes that a digest context has absorbed. -/
def digestBytes (u : Cursor) (ctx : Nat) : List Byte := nth u.digests ctx []

/-- DIGEST, OP = START (R309): empties the context. -/
def execDigestStart (x : EngRef) (o : DigestOp) (s : State) : Host.Outcome State Fault Refusal :=
  engAct x (.digest o) (s) fun c u _ s =>
    if o.op = 0 then advance c.id u.eng (updCur c.id u.eng (fun u => { u with digests := updAt u.digests o.ctx fun _ => [] }) s) else s

/-- DIGEST, OP = ABSORB (R309): appends LEN bytes from SA. -/
def execDigestAbsorb (x : EngRef) (o : DigestOp) (s : State) : Host.Outcome State Fault Refusal :=
  engAct x (.digest o) s fun c u i s =>
    let n := 64 * (o.len + 1)
    if o.op = 1 then reading c u [(saIx u i o.sa, n)] (fun s => absorb c.id u.eng o.ctx (memRead s (saIx u i o.sa) n) s) s else s

/-- DIGEST, OP = FINAL (R309): writes the tree digest of the bytes absorbed to SA. -/
def execDigestFinal (x : EngRef) (o : DigestOp) (s : State) : Host.Outcome State Fault Refusal :=
  engAct x (.digest o) s fun c u i s =>
    if o.op = 2 then advance c.id u.eng (memWrite (saIx u i o.sa) (treeDigest (digestBytes u o.ctx)) s) else s

/-- Compares the digest with the 32 bytes at SA. DETAIL holds an input index (R472), which a comparison has none of: a free
value (log entry 28). -/
def digestCompare (c : Ctx) (u : Cursor) (a ctx : Nat) (s : State) : State :=
  let r := engReads c.id u.eng [(a, 32)] s
  if !r.1 then r.2
  else if memRead r.2 a 32 = treeDigest (digestBytes u ctx) then advance c.id u.eng r.2
  else let (d, s) := freshNat r.2; endWith c.id ⟨stDigestMismatch, d % 2 ^ 32, 0⟩ s

/-- DIGEST, OP = COMPARE (R309): a mismatch ends the invocation with `INPUT_DIGEST_MISMATCH`. -/
def execDigestCompare (x : EngRef) (o : DigestOp) (s : State) : Host.Outcome State Fault Refusal :=
  engAct x (.digest o) s fun c u i s => if o.op = 3 then digestCompare c u (saIx u i o.sa) o.ctx s else s

/-! ## Semaphores (R307, R308) -/

/-- Completes a `SWAIT` whose semaphore has reached THRESH, or starts its timeout. -/
def swaitTry (c : Ctx) (u : Cursor) (o : SwaitOp) (s : State) : State :=
  if o.thresh ≤ semOf s o.sem then advance c.id u.eng (updCur c.id u.eng (fun u => { u with swaitEnd := none }) s)
  else match u.swaitEnd with
    | some _ => s
    | none => updCur c.id u.eng (fun u => { u with swaitEnd := some (s.now + waitNs o.tmo (wMin s)) }) s

/-- SWAIT (R307): completes when the semaphore's value is at least THRESH, compared unsigned; until then the engine waits. -/
def execSwait (x : EngRef) (o : SwaitOp) (s : State) : Host.Outcome State Fault Refusal :=
  engAct x (.swait o) s fun c u _ s => swaitTry c u o s

/-- An engine waits at a `SWAIT` whose timeout has passed and whose semaphore is still below THRESH. -/
def swaitDue (s : State) (e : Nat) (c : Ctx) : Bool :=
  match curOf c e, curInstr s c e with
  | some u, some i =>
    (match i.op, u.swaitEnd with
     | .swait o, some t => decide (t ≤ s.now) && decide (semOf s o.sem < o.thresh) && decide (c.life = .running)
     | _, _ => false)
  | _, _ => false

/-- SWAIT_TIMEOUT (R307): the timeout expires, and the invocation completes with `WAIT_TIMEOUT`. -/
def execSwaitTimeout (x : EngRef) (s : State) : Host.Outcome State Fault Refusal :=
  actCfe x.ok (ctxIs s x.ctx (swaitDue s x.eng)) s (endWith x.ctx ⟨stWaitTimeout, 0x100, 0⟩ s)

/-- SSIGNAL (R308): changes a semaphore by ADD or SET. -/
def execSsignal (x : EngRef) (o : SsignalOp) (s : State) : Host.Outcome State Fault Refusal :=
  engAct x (.ssignal o) s fun c u _ s => advance c.id u.eng (semDo (decide (o.op = 1)) o.sem o.value s)

end Sys2Proof.Machine
end

