-- ==== Sys2Proof/Machine/Mirrors.lean ====
section
/-!
DEFINITION. Checkpoints of multi-device runs (R223, R360) as bytes (log entry 24), and the mirror holders (R362, R363).
-/
namespace Sys2Proof.Machine

def mkOffer : Nat := 4
def mkAnswer : Nat := 8

/-- The mirror holders of this device (R362). -/
def holdersOf (s : State) (dev : Nat) : List Nat :=
  (List.range 3).filterMap fun d =>
    if dimOf s d < 2 then none else some (if coord dev d % 2 = 0 then dev + 8 ^ d else dev - 8 ^ d)

/-- The device that stands in for another: the spare that a FAILOVER has put in its place. -/
def standIn (s : State) (d : Nat) : Nat := ((s.net.spares.find? fun e => decide (e.2 = d)).map (·.1)).getD d

/-- The holders of a device's mirror, as they stand now. -/
def liveHolders (s : State) (d : Nat) : List Nat := (holdersOf s d).map (standIn s)

/-- A run keeps mirrors: checkpoints are on, and every device of it had a spare at its start (R363); a spare that has taken a position keeps
none, since its block has no further spare (R372). -/
def keepsMirrors (s : State) (m : MdRun) : Bool :=
  decide (m.ckptPhases ≠ 0) && decide (s.sysmap.role ≠ 1) &&
    m.devices.all fun d => decide (spareFor s d ≠ 0xFFFF) || s.net.spares.any fun e => decide (e.1 = d)

/-- `PLOAD` sends the mirror of a run; a pipelined run's is sent when it enters RUNNING (R363). -/
def mirrored (s : State) (m : MdRun) : Bool := keepsMirrors s m && decide (m.mode ≠ 3)

/-! ## Checkpoints as bytes -/

/-- Counted lists of numbers. -/
def encInt (v : Int) : List Byte := leBytes 16 (unsigned 128 v)
def encNats (l : List Nat) : List Byte := leBytes 4 l.length ++ (l.map (leBytes 8)).flatten
def encNums (l : List Int) : List Byte := leBytes 4 l.length ++ (l.map encInt).flatten
def encMasks (l : List Nat) : List Byte := leBytes 4 l.length ++ (l.map (leBytes 64)).flatten

/-- Reads a counted list of items of `w` bytes: the items and the rest. -/
def decItems (w : Nat) (b : List Byte) : List (List Byte) × List Byte :=
  let n := leAt b 0 4
  ((List.range n).map fun i => slice b (4 + w * i) w, b.drop (4 + w * n))

def decNats (b : List Byte) : List Nat × List Byte := let r := decItems 8 b; (r.1.map leNat, r.2)
def decNums (b : List Byte) : List Int × List Byte := let r := decItems 16 b; (r.1.map fun x => signed 128 (leNat x), r.2)
def decMasks (b : List Byte) : List Nat × List Byte := let r := decItems 64 b; (r.1.map leNat, r.2)

/-- Reads `n` values in a row. -/
def decMany {α : Type} (f : List Byte → α × List Byte) : Nat → List Byte → List α × List Byte
  | 0, b => ([], b)
  | n + 1, b => let x := f b; let r := decMany f n x.2; (x.1 :: r.1, r.2)

def encBest (b : BestRec) : List Byte := encInt b.energy ++ leBytes 4 b.sweeps ++ encMasks b.state
def decBest (b : List Byte) : BestRec × List Byte :=
  let r := decMasks (b.drop 20)
  (⟨signed 128 (leAt b 0 16), r.1, leAt b 16 4⟩, r.2)
def encTop (t : TopEntry) : List Byte := encInt t.energy ++ leBytes 4 t.gri ++ leBytes 4 t.sweeps ++ encMasks t.state
def decTop (b : List Byte) : TopEntry × List Byte :=
  let r := decMasks (b.drop 24)
  (⟨signed 128 (leAt b 0 16), leAt b 16 4, leAt b 20 4, r.1⟩, r.2)

/-- A checkpoint as bytes (R360, R223). -/
def encCkpt (k : Ckpt) : List Byte :=
  encNats [k.num, k.n, k.sweep, k.rounds, k.stall, k.spins.length, k.best.length, k.top.length, k.offers.length] ++
    (k.spins.map encMasks).flatten ++ (k.resid.map encNums).flatten ++ encNums k.energy ++ encNats k.lam ++ encNats k.rungs ++
    encNats k.codes ++ encNums k.est ++ (k.best.map encBest).flatten ++ (k.top.map encTop).flatten ++ encNats k.trips ++
    encNats k.stats ++ encNums k.exs ++ (k.offers.map encTop).flatten ++ encNats k.formed

/-- A checkpoint from bytes. -/
def decCkpt (b : List Byte) : Ckpt :=
  let h := decNats b
  let g (i : Nat) : Nat := nth h.1 i 0
  let sp := decMany decMasks (g 5) h.2
  let re := decMany decNums (g 5) sp.2
  let en := decNums re.2
  let la := decNats en.2
  let ru := decNats la.2
  let co := decNats ru.2
  let es := decNums co.2
  let be := decMany decBest (g 6) es.2
  let tps := decMany decTop (g 7) be.2
  let tr := decNats tps.2
  let st := decNats tr.2
  let ex := decNums st.2
  let of_ := decMany decTop (g 8) ex.2
  { num := g 0, n := g 1, sweep := g 2, spins := sp.1, resid := re.1, energy := en.1, lam := la.1, rungs := ru.1, codes := co.1,
    est := es.1, rounds := g 3, best := be.1, top := tps.1, stall := g 4, trips := tr.1, stats := st.1, exs := ex.1,
    offers := of_.1, formed := (decNats of_.2).1 }

/-- The checkpoint of a run as it stands (R360). -/
def ckptOf (a : Anneal) (num : Nat) : Ckpt :=
  { num := num, n := a.n, sweep := a.sweep, spins := a.spins, resid := a.resid, energy := a.energy, lam := a.lam, rungs := a.rungs,
    codes := a.codes, est := a.est, rounds := a.rounds, best := a.best, top := a.top, stall := a.stall, trips := a.trips,
    stats := a.stats, exs := a.exSum ++ a.exMax, offers := a.offers, formed := a.formed }

/-- A run as a checkpoint left it, its fields recomputed under R46 (R360). -/
def restoreCkpt (a : Anneal) (k : Ckpt) : Anneal :=
  let fields := (List.range k.spins.length).map fun r => (List.range a.prob.segCount).map fun g => (List.range 512).map fun j =>
    fieldOf a.prob k.lam (nth k.spins r []) (nth k.resid r []) (512 * g + j)
  { a with spins := k.spins, fields := fields, resid := k.resid, energy := k.energy, lam := k.lam, n := k.n, sweep := k.sweep,
           hIdx := 0, pos := .gather, visits := [], deltas := [], accepted := [], dl := [], marked := false, rungs := k.rungs,
           codes := k.codes, est := k.est, rounds := k.rounds, best := k.best, top := k.top, stall := k.stall, trips := k.trips,
           stats := k.stats, snap := k.stats,
           exSum := k.exs.take k.spins.length, exMax := k.exs.drop k.spins.length, snapSum := k.exs.take k.spins.length,
           snapMax := k.exs.drop k.spins.length, formed := k.formed, kept := [], staged := [], redo := [], topKeys := topKeysOf k.top, gathered := [],
           ckptIdx := k.n / a.ckptEvery, ckpts := a.ckpts.filter fun e => decide (e.num ≤ k.num), offers := k.offers, part := 0, pwDue := false, applied := [],
           stop := none, satPhase := 0, resultDone := false, loading := false }

end Sys2Proof.Machine
end

