-- ==== Sys2Proof/Machine/AnnealHome.lean ====
section
/-!
DEFINITION. What an anneal holds in the home regions (R521, R698), what its instructions read of it, and the recoveries of those
reads: reloads, recomputed rows, redone phases, resumed runs (R186, R224, R537 to R539). Places that R698 and R506 leave open are the
model's (log entry 96).
-/
namespace Sys2Proof.Machine

/-! ## Places in the home regions (R698) -/

/-- The owned segments with home rows on an engine. -/
def homeSegs (p : Prob) (e : Nat) : List Nat :=
  if wholeHomed p.segCount p.engReq then (List.range p.segCount).filter fun g => decide (g % p.engReq = e)
  else if e < eUse p.segCount p.engReq then [e / groupM p.segCount p.engReq] else []

/-- Which part of its segment's rows an engine holds. -/
def homePart (p : Prob) (e : Nat) : Nat := e % groupM p.segCount p.engReq

/-- The engines that take home rows. -/
def homeEngines (p : Prob) : List Nat := List.range (eUse p.segCount p.engReq)

/-- The engines that hold rows of an owned segment. -/
def segEngines (p : Prob) (g : Nat) : List Nat :=
  if wholeHomed p.segCount p.engReq then [g % p.engReq]
  else (List.range (groupM p.segCount p.engReq)).map fun q => g * groupM p.segCount p.engReq + q

/-- The rows of a segment that each of its engines holds. -/
def partRows (p : Prob) : Nat := 512 / groupM p.segCount p.engReq

/-- Bytes of an engine's part of a tile. -/
def tilePart (p : Prob) : Nat := tileBytes p.width / groupM p.segCount p.engReq

/-- The number of a resident tile part within its engine's areas: by home segment, then column segment. -/
def tileNo (p : Prob) (g b : Nat) : Nat := (if wholeHomed p.segCount p.engReq then g / p.engReq else 0) * (p.n / 512) + b

/-- Bytes of a sum of a stored checksum column, which 16 bits hold for INT4 tiles, and of a whole column (log entry 96). -/
def sumWidth (p : Prob) : Nat := if p.width = 0 then 2 else 4
def sumLen (p : Prob) : Nat := 512 * sumWidth p

/-- The staging buffers of an engine: tile parts that its coupling area takes, and its checksum area the columns of (R66, R698). -/
def stageCap (p : Prob) : Nat := max 1 (min (0x30000000 / tilePart p) (0x800000 / sumLen p))

/-- The stagings of a phase that concern an engine, in their order: staging `i` takes buffer `i` mod the number of buffers. -/
def stagedOn (p : Prob) (staged : List (Nat × Nat)) (e : Nat) : List (Nat × Nat) := staged.filter fun t => (homeSegs p e).contains t.1

/-- The latest staging of a tile that still stands in its engine's buffers. -/
def stagedAt (p : Prob) (staged : List (Nat × Nat)) (e g b : Nat) : Option Nat :=
  let l := stagedOn p staged e
  (((List.range l.length).filter fun i => decide (l[i]? = some (g, b)) && decide (l.length ≤ i + stageCap p)).getLast?)

/-- The place of a tile part in its engine's coupling area; a tile of a spilled problem stands in a staging buffer. -/
def tileSlot (p : Prob) (staged : List (Nat × Nat)) (e g b : Nat) : Nat :=
  if p.spilled then (stagedAt p staged e g b).getD 0 % stageCap p else tileNo p g b

/-- The tile whose part stands at a place of an engine's coupling area. -/
def slotTile (p : Prob) (staged : List (Nat × Nat)) (e k : Nat) : Option (Nat × Nat) :=
  if p.spilled then
    let l := stagedOn p staged e
    ((List.range l.length).filter fun i => decide (i % stageCap p = k)).getLast?.bind fun i => l[i]?
  else ((homeSegs p e)[k / (p.n / 512)]?).map fun g => (g, k % (p.n / 512))

/-- The owned variable of an engine's home row `i`. -/
def homeVar (p : Prob) (e i : Nat) : Nat :=
  512 * nth (homeSegs p e) (i / partRows p) 0 + homePart p e * partRows p + i % partRows p

/-- The home rows of an engine. -/
def homeCount (p : Prob) (e : Nat) : Nat := (homeSegs p e).length * partRows p

/-- The offsets of the image's sections. -/
def secOff (s : State) (p : Prob) (i : Nat) : Nat := nth (readHdr s.mem (canon s p.imageAddr)).offs i 0

/-- The device-address range of a section of the image. -/
def secRange (s : State) (p : Prob) (i : Nat) : Nat × Nat :=
  let r := nth (hdrSections (readHdr s.mem (canon s p.imageAddr))) i (0, 0)
  (p.imageAddr + r.1, r.2)

/-- The device address of tile (g, b) in the canonical image. -/
def masterTile (s : State) (p : Prob) (g b : Nat) : Nat := p.imageAddr + secOff s p 0 + (g * (p.n / 512) + b) * tileBytes p.width

/-- An engine's rows of a tile, by lane of the column segment. -/
def tileRows (p : Prob) (e g b : Nat) : List (List (Nat × Int)) :=
  ((p.coup.drop (512 * g + homePart p e * partRows p)).take (partRows p)).map fun r =>
    (r.filter fun x => decide (x.1 / 512 = b)).map fun x => (x.1 - 512 * b, x.2)

/-- Numbers as 32-bit words. -/
def wordBytes (l : List Int) : List Byte := (l.map fun v => leBytes 4 (unsigned 32 v)).flatten

/-- The checksum column of an engine's part of a tile: the tile enters the array transposed, so it holds column sums (R234). -/
def tileSums (p : Prob) (e g b : Nat) : List Int :=
  (tileRows p e g b).foldl (fun acc r => if r.isEmpty then acc else List.zipWith (fun x y => x + y) acc (denseRow 512 0 r)) (List.replicate 512 0)

/-- A checksum column as it is stored. -/
def sumBytes (p : Prob) (e g b : Nat) : List Byte := ((tileSums p e g b).map fun v => leBytes (sumWidth p) (unsigned (8 * sumWidth p) v)).flatten

/-- Places one tile part at place `k` of its engine, with its checksum column. -/
def placeTile (p : Prob) (e k g b : Nat) (s : State) : State :=
  memWrite (homeBase e + 0x30000000 + sumLen p * k) (sumBytes p e g b)
    (memWrite (homeBase e + k * tilePart p) (memRead s (masterTile s p g b + homePart p e * tilePart p) (tilePart p)) s)

/-- The row entries of an engine's home variables, in whole words (R529). -/
def rowArea (p : Prob) (e : Nat) : List Byte :=
  padTo 32 (p.rows.map fun r => ((r.entries.filter fun x =>
    let i := x.1 - 512 * p.segFirst
    decide (homeEngine p.segCount p.engReq (i / 512) (i % 512) = e)).map fun x =>
      leBytes 4 (x.1 + 2 ^ 24 * unsigned 8 x.2)).flatten).flatten

/-- The parts of an engine's segment tables, each with its home segment: biases of the home rows, held masks, and group tables, which hold
for every lane the number of its group, or 0 (log entry 96). -/
def segParts (p : Prob) (e : Nat) : List (Nat × List Byte) :=
  let gs := homeSegs p e
  (gs.map fun g => (g, ((List.range (partRows p)).map fun j =>
      leBytes 4 (unsigned 32 (nth p.bias (512 * g + homePart p e * partRows p + j) 0))).flatten)) ++
    (gs.map fun g => (g, leBytes 64 (nth p.held g 0))) ++
    (gs.map fun g => (g, ((List.range 512).map fun j =>
      leBytes 2 (((findIdx (fun l => l.contains j) (segGroups p g) 0).map (· + 1)).getD 0)).flatten))

/-- The segment tables of an engine. -/
def segArea (p : Prob) (e : Nat) : List Byte := ((segParts p e).map (·.2)).flatten

/-- The offset of the digest of a tile in the run-state area (R521). -/
def digestOff (p : Prob) (g b : Nat) : Nat := 0x39100000 + 32 * tileNo p g b

/-- The SHAKE256 digest of a tile as the master copy holds it (R521). -/
def masterDigest (s : State) (p : Prob) (g b : Nat) : List Byte := shake256 (memRead s (masterTile s p g b) (tileBytes p.width)) 32

/-- The tiles that an engine holds rows of. -/
def homeTiles (p : Prob) (e : Nat) : List (Nat × Nat) :=
  ((homeSegs p e).map fun g => (List.range (p.n / 512)).map fun b => (g, b)).flatten

/-- Places what an engine holds of a problem; the tiles of a spilled one stay in their master (R66). The digest of every tile is
recorded. -/
def placeEngine (p : Prob) (s : State) (e : Nat) : State :=
  let s := if p.spilled then s else (homeTiles p e).foldl (fun s t => placeTile p e (tileNo p t.1 t.2) t.1 t.2 s) s
  let s := memWrite (homeBase e + 0x39000000) (segArea p e) (memWrite (homeBase e + 0x30800000) (rowArea p e) s)
  (homeTiles p e).foldl (fun s t => memWrite (homeBase e + digestOff p t.1 t.2) (masterDigest s p t.1 t.2) s) s

/-- The parts of a home region that an anneal takes, as offsets and lengths: the coupling area, or the staging buffers in it, its
checksum columns, row entries, residuals, segment tables, run state. -/
def annealRanges (p : Prob) (e : Nat) : List (Nat × Nat) :=
  let n := if p.spilled then min (stageCap p) (homeTiles p e).length else (homeTiles p e).length
  [(0, n * tilePart p), (0x30000000, n * sumLen p),
   (0x30800000, (rowArea p e).length), (0x31000000, 4 * p.rows.length * p.replicas), (0x39000000, (segArea p e).length),
   (0x39100000, 0x6F00000)]

/-- An anneal takes an offset of a home region. -/
def annealUses (p : Prob) (e off : Nat) : Bool := (annealRanges p e).any fun r => decide (r.1 ≤ off) && decide (off < r.1 + r.2)

/-- The logical engine of a canonical home-region address, and the offset. -/
def homeAt (s : State) (w : Nat) : Option (Nat × Nat) :=
  ((List.range 32).find? fun e => decide (physBase (tileOf s e) ≤ w) && decide (w < physBase (tileOf s e) + 2 ^ 30)).map fun e =>
    (e, w - physBase (tileOf s e))

/-- Reloads a tile part and its checksum column from the master, checked against the digest of the load (R521, R537): whether the master
and the digest read and agree, the number of words that decoded CORRECTED, the state. -/
def reloadTile (p : Prob) (e k g b : Nat) (s : State) : Bool × Nat × State :=
  let d := homeBase e + digestOff p g b
  let r := partsRead [(masterTile s p g b, tileBytes p.width), (d, 32)] s
  (r.1 && decide (masterDigest s p g b = memRead s d 32), r.2.1, placeTile p e k g b r.2.2)

/-- Places of parts laid end to end from an offset. -/
def partOffs : List (Nat × List Byte) → Nat → List (Nat × Nat × List Byte)
  | [], _ => []
  | x :: l, o => (x.1, o, x.2) :: partOffs l (o + x.2.length)

/-- Reloads the tables of the segment that a byte of an engine's segment tables belongs to: its biases, its held mask, and the groups. -/
def reloadSeg (p : Prob) (e off : Nat) (s : State) : Bool × Nat × State :=
  let ps := partOffs (segParts p e) 0x39000000
  let g := ((ps.find? fun x => decide (off < x.2.1 + x.2.2.length)).map (·.1)).getD 0
  let r := partsRead [((secRange s p 2).1 + 2048 * g, 2048), ((secRange s p 3).1 + 64 * g, 64), secRange s p 4] s
  (r.1, r.2.1, (ps.filter fun x => decide (x.1 = g)).foldl (fun s x => memWrite (homeBase e + x.2.1) x.2.2 s) r.2.2)

/-- Reloads the unit of a home-region word from the canonical image: a tile part, the row entries of an engine, the tables of a
segment (R537); false where the recovery cannot complete (R538), with the number of words read CORRECTED. -/
def reloadUnit (p : Prob) (staged : List (Nat × Nat)) (e off : Nat) (s : State) : Bool × Nat × State :=
  let tile (k : Nat) : Bool × Nat × State :=
    match slotTile p staged e k with
    | some t => reloadTile p e k t.1 t.2 s
    | none => (true, 0, s)
  if off < 0x30000000 then tile (off / tilePart p)
  else if off < 0x30800000 then tile ((off - 0x30000000) / sumLen p)
  else if off < 0x31000000 then
    let r := partsRead [secRange s p 5, secRange s p 6] s
    (r.1, r.2.1, memWrite (homeBase e + 0x30800000) (rowArea p e) r.2.2)
  else reloadSeg p e off s

/-! ## The run of an invocation -/

/-- Changes the run of an invocation. -/
def updRun (c : Nat) (f : Anneal → Anneal) (s : State) : State := updCtx c (fun x => { x with anneal := x.anneal.map f }) s

/-- The run of an invocation. -/
def runOf (s : State) (c : Nat) : Option Anneal := (ctxOf s c).bind (·.anneal)

/-- The tiles that a run has staged. -/
def stagedOf (s : State) (c : Nat) : List (Nat × Nat) := ((runOf s c).map (·.staged)).getD []

/-- Writes of a run's field stores: every word is whole, and an armed mask hits the first. -/
def fieldWrites (p : Prob) (s : State) : State :=
  (homeEngines p).foldl (fun s e =>
    let n := 8 * homeCount p e * p.replicas
    armRun (fieldKey e 0) n { s with marks := spClear (fieldKey e 0) n s.marks }) s

/-- The residuals of every row for every replica (R698), row by row, in whole words (R529). -/
def residBytes (a : Anneal) : List Byte :=
  padTo 32 ((List.range a.prob.rows.length).map fun k => wordBytes (a.resid.map fun l => nth l k 0)).flatten

/-- Writes a record into the run-state areas of a run's engines, 36 MiB on each at most. -/
def writeStream (p : Prob) (off : Nat) (b : List Byte) (s : State) : State :=
  (homeEngines p).foldl (fun s e => memWrite (homeBase e + off) ((b.drop (e * 0x2400000)).take 0x2400000) s) s

/-- The record of a run in the run-state areas, and the places of its two latest checkpoints (R361). -/
def runRecOff : Nat := 0x39300000
def ckptOff (num : Nat) : Nat := if num % 2 = 0 then 0x3B700000 else 0x3DB00000

/-- A run record: the run as a checkpoint holds it, in whole words. -/
def runRec (k : Ckpt) : List Byte := padTo 32 (encCkpt k)

/-- Writes the residuals and the run record of an invocation's run (R46, R698). -/
def writeRun (c : Nat) (s : State) : State :=
  match runOf s c with
  | none => s
  | some a =>
    let b := residBytes a
    writeStream a.prob runRecOff (runRec (ckptOf a 0))
      ((homeEngines a.prob).foldl (fun s e => memWrite (homeBase e + 0x31000000) b s) s)

/-! ## Rewinding (R224, R360, R365, R368) -/

/-- The SWEEPS loop of a run in an engine's program. -/
def sweepsLoop (img : List Byte) (e apb : Nat) : Option LoopAt :=
  (scanLoops (engProg img e) 0 []).findSome? fun i =>
    match i.2.1.op with
    | .sweepend o => if o.apb = apb then i.2.2.find? fun l => decide (l.mode = 2) else none
    | _ => none

/-- A cursor at the start of the sweep after `k` completed ones. -/
def rewindCur (img : List Byte) (apb k : Nat) (u : Cursor) : Cursor :=
  match sweepsLoop img u.eng apb with
  | none => u
  | some l =>
    let outer := u.frames.filter fun f => decide (f.loop.start < l.start) && decide (l.stop ≤ f.loop.stop)
    { u with halted := false, pc := l.start + 1, frames := ⟨l, k⟩ :: outer }

/-- Restores a checkpoint of a run. -/
def restoreRun (c : Nat) (k : Ckpt) (s : State) : State :=
  match ctxOf s c with
  | none => s
  | some x =>
    match x.anneal with
    | none => s
    | some a =>
      let img := ctxImage s x
      let es := mainEngines img
      writeRun c (fieldWrites a.prob
        (updCtx c (fun x => { x with anneal := some (restoreCkpt a k), curs := x.curs.map fun u => if es.contains u.eng then rewindCur img a.apb k.sweep u else u }) s))

/-- A record in the run-state areas reads. -/
def streamReads (c : Nat) (p : Prob) (off n : Nat) (s : State) : Bool × State :=
  (homeEngines p).foldl (fun (acc : Bool × State) e =>
    let r := readCheck 0 (homeBase e + off) (min 0x2400000 (n - e * 0x2400000)) acc.2
    (acc.1 && r.1.isEmpty, recAdd c 2 r.2.1 r.2.2)) (true, s)

/-- The checkpoint that a run resumes from: the latest that reads, or the start where none has been taken (R224, R537). -/
def resumePoint (c : Nat) (a : Anneal) (s : State) : Option Ckpt × State :=
  let ks := a.ckpts.filter fun k => decide (k.num ≠ 0)
  if ks.isEmpty then (a.ckpts.head?, s)
  else ks.foldl (fun (acc : Option Ckpt × State) k =>
    if acc.1.isSome then acc
    else
      let r := streamReads c a.prob (ckptOff k.num) (runRec k).length acc.2
      (if r.1 then some k else none, r.2)) (none, s)

/-- Resumes a run. A device of a multi-device run, whose peers do not go back with it, takes its place again at once: the result is
the same (log entry 92). A run that is over only has its record restored. -/
def resumeRun (c : Nat) (k : Cause) (x : Ctx) (a : Anneal) (s : State) : State :=
  if isMulti x || !goesOn s c then writeRun c s
  else
    let r := resumePoint c a s
    match r.1 with
    | some q => restoreRun c q r.2
    | none => endWith c k r.2

/-- The last `GATHER` that a cursor has passed. -/
def gatherCur (img : List Byte) (u : Cursor) : Cursor :=
  let is_ (i : EngInstr) : Bool := match i.op with | .gather _ => true | _ => false
  let ps := ((engProg img u.eng).take (u.pc + 1)).zipIdx.filter fun i => is_ i.1
  match ps.getLast? with | some i => { u with pc := i.2 } | none => u

/-- A run back at the start of its phase: what the phase counted is taken back, but for the pair checks resolved in it (R189). -/
def backToStart (a : Anneal) : Anneal :=
  { a with stats := updAt a.start.stats stPairRecomputes fun _ => nth a.stats stPairRecomputes 0, formed := a.start.formed,
           visits := [], deltas := [], accepted := [], dl := [], marked := false, redo := [], pos := .gather }

/-- The phase under way is redone on every engine from its phase-start state (R110, R185, R537). -/
def redoPhase (c : Nat) (s : State) : State :=
  match ctxOf s c with
  | none => s
  | some x =>
    match x.anneal with
    | none => s
    | some a =>
      if a.pos = .relax ∨ a.pos = .choose ∨ a.pos = .rollcall ∨ a.pos = .fieldup then
        let img := ctxImage s x
        let es := mainEngines img
        updCtx c (fun x => { x with anneal := some (backToStart a), curs := x.curs.map fun u => if es.contains u.eng then gatherCur img u else u }) s
      else s

/-! ## Reads and their recovery (R537 to R539) -/

/-- A recovery at engine `e`: on MAINT the invocation ends instead; a Bell release is disrupted, and the recovery proceeds (R496, R539). -/
def recovering (c e : Nat) (f : Ctx → Cause → State → State) (s : State) : State :=
  match ctxOf s c with
  | none => s
  | some x =>
    let k := engineFault s x e
    if onMaint x then endWith c k s else f x k (disruptOr c k s)

/-- A recovery that only a run which goes on needs. -/
def whileOn (c : Nat) (f : State → State) (s : State) : State := if goesOn s c then f s else s

/-- A reload's outcome: the words it corrected count, and the invocation goes on, or ends with the cause. -/
def reloadEnds (c : Nat) (k : Cause) (r : Bool × Nat × State) : State :=
  let s := recAdd c 2 r.2.1 r.2.2
  if r.1 || !goesOn s c then s else endWith c k s

/-- Recovers an uncorrectable word at a place of an engine's home region: its unit is reloaded. -/
def recoverUnit (c : Nat) (p : Prob) (w : Nat) (h : Nat × Nat) (s : State) : State :=
  recovering c h.1 (fun _ k s => reloadEnds c k (reloadUnit p (stagedOf s c) h.1 h.2 (noteReload c w s))) s

/-- Recovers an uncorrectable coefficient word; a master has no recovery (R538). -/
def recoverCoeff (c : Nat) (p : Prob) (w : Nat) (s : State) : State :=
  (homeAt s w).elim (match ctxOf s c with | some x => endWith c (engineFault s x 0) s | none => s) fun h => recoverUnit c p w h s

/-- The reads of coefficient ranges (canonical address, length) through a port. -/
def coeffReads (c : Nat) (p : Prob) (src : Nat) (rs : List (Nat × Nat)) (s : State) : State :=
  (rs.map fun r => markedIn s r.1 r.2).flatten.foldl (fun s w =>
    if !goesOn s c then s
    else
      let r := noteRead src w s
      match r.1 with
      | .clean => r.2
      | .corrected _ => recAdd c 2 1 r.2
      | _ => recoverCoeff c p w r.2) s

/-- The ranges of a tile part of an engine in its home region: its couplings and its checksum column. -/
def tileRanges (s : State) (p : Prob) (staged : List (Nat × Nat)) (e g b : Nat) : List (Nat × Nat) :=
  let k := tileSlot p staged e g b
  [(canon s (homeBase e + k * tilePart p), tilePart p), (canon s (homeBase e + 0x30000000 + sumLen p * k), sumLen p)]

/-- A tile of a spilled problem is read from its master into the coupling areas of its engines, unless it stands there (R66, R154). -/
def stageTile (c : Nat) (p : Prob) (t : Nat × Nat) (s : State) : State :=
  if (segEngines p t.1).all fun e => (stagedAt p (stagedOf s c) e t.1 t.2).isSome then s
  else
    let s := coeffReads c p 0 [(canon s (masterTile s p t.1 t.2), tileBytes p.width)] s
    let s := updRun c (fun a => { a with staged := a.staged ++ [t] }) s
    (segEngines p t.1).foldl (fun s e => placeTile p e (tileSlot p (stagedOf s c) e t.1 t.2) t.1 t.2 s) s

/-- A tile part of a spilled problem is staged and read. -/
def stagedRead (c : Nat) (p : Prob) (t : Nat × Nat × Nat) (s : State) : State :=
  let s := stageTile c p t.2 s
  coeffReads c p 0 (tileRanges s p (stagedOf s c) t.1 t.2.1 t.2.2) s

/-- Reads of tile parts: (engine, a, b), `a` owned; those of a spilled problem in ascending column-segment order, each as it is staged. -/
def partReads (c : Nat) (p : Prob) (ts : List (Nat × Nat × Nat)) (s : State) : State :=
  if p.spilled then (sortBy (fun a b => decide (a.2.2 < b.2.2)) ts).foldl (fun s t => stagedRead c p t s) s
  else coeffReads c p 0 ((ts.map fun t => tileRanges s p [] t.1 t.2.1 t.2.2).flatten) s

/-- Reads of whole tiles by their segments (a, b), `a` owned. -/
def tileReads (c : Nat) (p : Prob) (ts : List (Nat × Nat)) (s : State) : State :=
  partReads c p (ts.map fun t => (segEngines p t.1).map fun e => (e, t)).flatten s

/-- Reads of the row entries and segment tables of engines. -/
def tableReads (c : Nat) (p : Prob) (es : List Nat) (s : State) : State :=
  coeffReads c p 0 ((es.map fun e => [(canon s (homeBase e + 0x30800000), (rowArea p e).length),
    (canon s (homeBase e + 0x39000000), (segArea p e).length)]).flatten) s

/-- Reads of the coupling row of an engine's home row `i`, with its tables (R186). -/
def rowReads (c : Nat) (p : Prob) (e i : Nat) (s : State) : State :=
  let g := nth (homeSegs p e) (i / partRows p) 0
  let n := tileBytes p.width / 512
  let at_ (b : Nat) : Nat :=
    if p.spilled then canon s (masterTile s p g b + (homePart p e * partRows p + i % partRows p) * n)
    else canon s (homeBase e + tileNo p g b * tilePart p + i % partRows p * n)
  tableReads c p [e] (coeffReads c p 0 ((List.range (p.n / 512)).map fun b => (at_ b, n)) s)

/-- The fields of owned variable `v` recomputed in every replica (R46, R186). -/
def redoField (v : Nat) (a : Anneal) : Anneal :=
  let one (f : List (List Int)) (r : Nat) : List (List Int) :=
    updAt f (v / 512) fun l => updAt l (v % 512) fun _ => fieldOf a.prob a.lam (nth a.spins r []) (nth a.resid r []) v
  { a with fields := a.fields.zipIdx.map fun f => one f.1 f.2 }

/-- Recomputes the fields of home row `i` of engine `e` in every replica: one recovery (R186, R537). -/
def recomputeRow (c e i w : Nat) (a : Anneal) (s : State) : State :=
  let p := a.prob
  let v := homeVar p e i
  let on := goesOn s c
  let s := rowReads c p e i (noteRecompute c w s)
  if on && !goesOn s c then s
  else
    let s := { s with marks := spClear (fieldKey e (i * p.replicas)) (8 * p.replicas) s.marks }
    updRun c (redoField v) (armRun (fieldKey e (i * p.replicas)) (8 * p.replicas) s)

/-- Recovers an uncorrectable field-store word: its row is recomputed. -/
def recoverField (c e w : Nat) (s : State) : State :=
  recovering c e (fun x _ s =>
    match x.anneal with
    | none => s
    | some a => recomputeRow c e ((w - fieldKey e 0) / 8 / max 1 a.prob.replicas) w a s) s

/-- Reads of the field stores of engines: row by row in each engine's store, every replica of a row together. -/
def fieldReads (c : Nat) (p : Prob) (es : List Nat) (s : State) : State :=
  (es.map fun e => (markedIn s (fieldKey e 0) (8 * homeCount p e * p.replicas)).map fun w => (e, w)).flatten.foldl (fun s ew =>
    if !goesOn s c then s
    else
      let r := noteRead 0 ew.2 s
      match r.1 with
      | .clean => r.2
      | .corrected _ => recAdd c 2 1 r.2
      | _ => recoverField c ew.1 ew.2 r.2) s

/-- Reads of ranges (canonical address, length): the first uncorrectable word of them, if any. -/
def wordReads (c : Nat) (rs : List (Nat × Nat)) (s : State) : Option Nat × State :=
  let r := (rs.map fun r => markedIn s r.1 r.2).flatten.foldl (fun (acc : List Nat × State) w =>
    let q := noteRead 0 w acc.2
    match q.1 with
    | .clean => (acc.1, q.2)
    | .corrected _ => (acc.1, recAdd c 2 1 q.2)
    | _ => (acc.1 ++ [w], q.2)) ([], s)
  (r.1.head?, r.2)

/-- Recovers an uncorrectable word of the spins, residuals, energies or Ratline state in a home region: the run is resumed (R224). -/
def recoverRun (c w : Nat) (s : State) : State :=
  recovering c (((homeAt s w).map (·.1)).getD 0) (fun x k s =>
    match x.anneal with
    | none => s
    | some a => resumeRun c k x a (noteRecompute c w s)) s

/-- Recovers an uncorrectable word of a phase's working data: the phase is redone (R537). -/
def recoverPhase (c w : Nat) (s : State) : State := recovering c (sramEng w) (fun _ _ s => whileOn c (fun s => redoPhase c (noteRecompute c w s)) s) s

/-- The work of an anneal in an engine's accumulator memory is written: its slots' words and flags are open afterwards (R164), and an armed
mask hits the first word (R544). -/
def accWrites (off n : Nat) (s : State) (e : Nat) : State :=
  let k := accKey e off
  let opened (m : Sparse (Option SlotRec)) (i : Nat) : Sparse (Option SlotRec) := spSet noSlot (128 * e + i) (some ⟨i, 0, false, 0, 1⟩) m
  armRun k n { s with marks := spClear k n s.marks, slots := (unitsOf off n).foldl opened s.slots }

/-- The outcome of reads: true where every word reads. -/
def readsOr (f : Nat → State → State) (r : Option Nat × State) : Bool × State :=
  match r.1 with
  | none => (true, r.2)
  | some w => (false, f w r.2)

/-- What passes of a phase put into an area of the accumulator memories of engines is written and read again (R164): true where it reads;
else the phase is redone (R537). -/
def accPass (c : Nat) (es : List Nat) (off n : Nat) (s : State) : Bool × State :=
  if n = 0 then (true, s)
  else readsOr (recoverPhase c) (wordReads c (es.map fun e => (accKey e off, n)) (es.foldl (accWrites off n) s))

/-- The areas of R164 in bytes: the two product slots, and with them the cross-term area. -/
def productLen (p : Prob) : Nat := 4096 * p.replicas
def crossLen (p : Prob) : Nat := 4608 * p.replicas

/-- The staging of a phase's field increments in the Slate (R171; its place is the model's, log entry 96): home rows × R words of 8 bytes
on each engine, written and read again; the phase is redone where they do not read. -/
def stageIncr (c : Nat) (p : Prob) (s : State) : Bool × State :=
  let rs := (homeEngines p).map fun e => (slateBase e + 0x1800000, 8 * homeCount p e * p.replicas)
  readsOr (recoverPhase c) (wordReads c rs (rs.foldl (fun s r => armRun r.1 r.2 { s with marks := spClear r.1 r.2 s.marks }) s))

/-- The residual areas of a run's engines, as canonical ranges. -/
def residRanges (s : State) (p : Prob) : List (Nat × Nat) :=
  (homeEngines p).map fun e => (canon s (homeBase e + 0x31000000), 4 * p.rows.length * p.replicas)

/-- The places of a run record, as canonical ranges. -/
def runRecRanges (s : State) (a : Anneal) : List (Nat × Nat) :=
  let n := (runRec (ckptOf a 0)).length
  (homeEngines a.prob).map fun e => (canon s (homeBase e + runRecOff), min 0x2400000 (n - e * 0x2400000))

/-- A run's spins, energies and Ratline state, and its residuals, are read: true where they read; else the run has been resumed, or
the invocation has ended. -/
def runReads (c : Nat) (a : Anneal) (s : State) : Bool × State :=
  readsOr (recoverRun c) (wordReads c (runRecRanges s a ++ residRanges s a.prob) s)

/-! ## Working data of a phase (R91, R153, R161, R172) -/

/-- The visiting engine of a visit. -/
def visitEng (p : Prob) (g : Nat) : Nat := visitEngine p.segCount p.engReq g

/-- Where a visit's working state and working fields stand in the visiting engine's Slate. -/
def workRange (p : Prob) (g : Nat) : Nat × Nat := (slateBase (visitEng p g) + 0x1500000, 4160 * p.replicas)

/-- Bytes of a segment's relaxation and chooser tiles (R88, R138). The 4 MiB of R91 are counted without the checksum columns (DESIGN
CHOICE, log entry 96). -/
def keptBytes (a : Anneal) (g : Nat) : Nat :=
  let relax := if a.ps.relax.t = 0 then 0 else if a.ps.relax.tileWidth = 0 then 262144 else 524288
  let choose := if a.ps.choose.t = 0 then 0 else
    let l := limbCount (effBlock a.prob a.lam g)
    if l = 0 then 262144 else 524288 * l
  relax + choose

/-- All the tiles that an engine visits fit in 4 MiB: it keeps every one (R91). -/
def keepsAll (a : Anneal) (e : Nat) : Bool :=
  decide (sumN (((List.range a.prob.segCount).filter fun g => decide (visitEng a.prob g = e)).map (keptBytes a)) ≤ 4194304)

/-- A tile that stands in the Slate of the tile that now hosts its engine. -/
def keptTile (s : State) (a : Anneal) (key : Nat) : Option Kept :=
  a.kept.find? fun k => decide (k.key = key) && decide (k.tile = tileOf s (visitEng a.prob (key / 2)))

/-- The place of a tile of `n` bytes among those an engine keeps: the first gap. -/
def firstFit (l : List Kept) (n : Nat) : Nat :=
  ((sortBy (fun a b => decide (a < b)) (0 :: l.map fun k => k.off + k.len)).find? fun o =>
    l.all fun k => decide (o + n ≤ k.off) || decide (k.off + k.len ≤ o)).getD 0

/-- The bytes of a tile and its checksum column: elements of `w` bytes row by row, then the 512 sums as i32 (DESIGN CHOICE, log entry 96:
which bytes a stored relaxation or chooser tile has, no rule says). -/
def vtileBytes (w : Nat) (t : VTile) : List Byte :=
  (t.rows.map fun r => ((denseRow 512 0 r).map fun v => leBytes w (unsigned (8 * w) v)).flatten).flatten ++ wordBytes t.chk

/-- The bytes of the tile of a key: the relaxation tile, or the chooser tile, its limb tiles in ascending order (DESIGN CHOICE, log entry
96). -/
def visitTileBytes (a : Anneal) (key : Nat) : List Byte :=
  let m := effBlock a.prob a.lam (key / 2)
  if key % 2 = 0 then vtileBytes (a.ps.relax.tileWidth + 1) (formTile (relaxTile a.ps.relax m).2.1)
  else ((chooserTiles m).map (vtileBytes (if limbCount m = 0 then 1 else 2))).flatten

/-- A segment whose rows lie on several engines. -/
def isShared (p : Prob) : Bool := decide (1 < groupM p.segCount p.engReq)

/-- The visiting engine's reads to form a tile; what a gather has brought is not read again (R153). -/
def formReads (c : Nat) (p : Prob) (g : Nat) (again : Bool) (s : State) : State :=
  let es := if isShared p && !again then [visitEng p g] else segEngines p g
  tableReads c p es (partReads c p (es.map fun e => (e, g, p.segFirst + g)) s)

/-- Forms a tile and stores it: where the engine keeps all its tiles, at its place; else where the visit works, and what it overwrites there
is kept no longer. -/
def formKey (c key : Nat) (again : Bool) (s : State) : State :=
  match runOf s c with
  | none => s
  | some a =>
    let p := a.prob
    let e := visitEng p (key / 2)
    let s := formReads c p (key / 2) again s
    if !goesOn s c then s
    else
      let b := visitTileBytes a key
      let mine := a.kept.filter fun k => decide (k.key ≠ key) && decide (k.tile = tileOf s e)
      let off := if keepsAll a e then firstFit mine b.length else 0x100000 * (key % 2)
      let stays (k : Kept) : Bool := decide (k.key ≠ key) &&
        (decide (k.tile ≠ tileOf s e) || decide (k.off + k.len ≤ off) || decide (off + b.length ≤ k.off))
      updRun c (fun a => { a with kept := ⟨key, tileOf s e, off, b.length⟩ :: a.kept.filter stays })
        (memWrite (slateBase e + 0x1000000 + off) b s)

/-- A kept tile is read; an uncorrectable one is formed again (R112). -/
def reuseKey (c e : Nat) (k : Kept) (s : State) : State :=
  let r := wordReads c [(slateBase e + 0x1000000 + k.off, k.len)] s
  match r.1 with
  | none => r.2
  | some w => recovering c e (fun _ _ s => whileOn c (fun s => formKey c k.key true (noteRecompute c w s)) s) r.2

/-- The tile of a visit: reused where it stands in the Slate and the engine keeps all its tiles; where it does not keep them all,
whether it kept this one is a free value (R91). -/
def useKey (c key : Nat) (s : State) : State :=
  match runOf s c with
  | none => s
  | some a =>
    let e := visitEng a.prob (key / 2)
    match keptTile s a key with
    | none => formKey c key false s
    | some k =>
      if keepsAll a e then reuseKey c e k s
      else
        let (n, s) := freshNat s
        if n.testBit 0 then reuseKey c e k s else formKey c key true s

/-- Every lane of an owned segment is held. -/
def allHeld (p : Prob) (g : Nat) : Bool := (List.range 512).all fun i => (nth p.held g 0).testBit i

/-- The tiles of the visits of a phase; the relaxation of a segment with no free lane forms none (R78). -/
def formTiles (c : Nat) (a : Anneal) (chooser : Bool) (s : State) : State :=
  a.visits.foldl (fun s v =>
    if !goesOn s c || (!chooser && allHeld a.prob v.seg) then s else useKey c (2 * v.seg + b2n chooser) s) s

/-- Puts records into an engine's exchange window, from its first byte, wrapping at its end. -/
def deliver (e : Nat) (b : List Byte) (s : State) : State :=
  (List.range (ceilDiv b.length 0x100000)).foldl (fun s i => memWrite (xwinBase e) ((b.drop (i * 0x100000)).take 0x100000) s) s

/-- Both tiles of a segment stand in its visiting engine's Slate: a gather omits the diagonal rows (R153). -/
def tilesKept (s : State) (a : Anneal) (g : Nat) : Bool :=
  keepsAll a (visitEng a.prob g) && (keptTile s a (2 * g)).isSome && (keptTile s a (2 * g + 1)).isSome

/-- What an engine sends its visiting engine: the fields of its rows for every replica, its row entries, its diagonal rows. -/
def gatherBytes (s : State) (c : Nat) (a : Anneal) (g e : Nat) : List Byte :=
  let p := a.prob
  let diag := p.segFirst + g
  ((List.range (partRows p)).map fun i =>
    (a.fields.map fun f => leBytes 8 (unsigned 64 (nth (nth f g []) (homePart p e * partRows p + i) 0))).flatten).flatten ++
  rowArea p e ++
  (if tilesKept s a g then [] else memRead s (homeBase e + tileSlot p (stagedOf s c) e g diag * tilePart p) (tilePart p))

/-- The gather of a shared segment (R153): its other engines are read in ascending order and their data delivered. -/
def gatherSeg (c : Nat) (a : Anneal) (g : Nat) (s : State) : State :=
  let p := a.prob
  let es := (segEngines p g).drop 1
  let s := tableReads c p es s
  let s := if tilesKept s a g then s else partReads c p (es.map fun e => (e, g, p.segFirst + g)) s
  if goesOn s c then deliver (visitEng p g) ((es.map (gatherBytes s c a g)).flatten) s else s

/-- The bytes that a gather has put into an exchange window. -/
def gatherLen (s : State) (a : Anneal) (g : Nat) : Nat :=
  let p := a.prob
  sumN (((segEngines p g).drop 1).map fun e =>
    8 * p.replicas * partRows p + (rowArea p e).length + if tilesKept s a g then 0 else tilePart p)

/-- The records of a phase's proposals as the die root delivers them (R159 to R161): for each, a delta record per replica, then its
residual-delta record. -/
def deltaBytes (ds : List Delta) : List Byte := (ds.map fun d => (encDelta d).drop 4).flatten

/-- Writes of the visits' working states: every word is whole, and an armed mask hits the first. -/
def workWrites (a : Anneal) (s : State) : State :=
  a.visits.foldl (fun s v =>
    let r := workRange a.prob v.seg
    armRun r.1 r.2 { s with marks := spClear r.1 r.2 s.marks }) s

/-- The working data of a phase's visits is read: true where it reads; else the phase is redone, or the invocation has ended. -/
def phaseReads (c : Nat) (a : Anneal) (s : State) : Bool × State :=
  readsOr (recoverPhase c) (wordReads c ((a.visits.map fun v =>
    [workRange a.prob v.seg, (xwinBase (visitEng a.prob v.seg), min 0x100000 (gatherLen s a v.seg))]).flatten) s)

/-- The delivered records of a phase are read in every engine's exchange window. -/
def recordReads (c : Nat) (a : Anneal) (s : State) : Bool × State :=
  let n := min 0x100000 (deltaBytes a.deltas).length
  readsOr (recoverPhase c) (wordReads c ((homeEngines a.prob).map fun e => (xwinBase e, n)) s)

/-! ## SRAM words that no instruction read (R112, R186, R537) -/

/-- Recovers a word of an anneal's half of a Slate: a kept tile that holds it is given up and formed again at its next use (R112); else
the phase under way is redone. -/
def recoverHalf (x : Ctx) (a : Anneal) (e w : Nat) (s : State) : State :=
  let off := w - (slateBase e + 0x1000000)
  match a.kept.find? fun k => decide (k.tile = tileOf s e) && decide (k.off ≤ off) && decide (off < k.off + k.len) with
  | some k => recovering x.id e (fun _ _ s =>
      updRun x.id (fun a => { a with kept := a.kept.filter fun j => decide (j.key ≠ k.key) }) (noteRecompute x.id w s)) s
  | none => if a.visits.isEmpty then s else recoverPhase x.id w s

/-- Recovers an SRAM word that a running invocation holds on an engine: inside an anneal a field word, a kept tile or working data; else
data of another stage (R537). -/
def recoverSram (x : Ctx) (e w : Nat) (s : State) : State :=
  let annealing := x.curs.any fun u => decide (u.eng = e) && inAnnealStage (ctxImage s x) u
  match x.anneal with
  | none => recoverWord x.id e w s
  | some a =>
    if sramKind w = 3 then recoverField x.id e w s
    else if !annealing then recoverWord x.id e w s
    else if sramKind w ≠ 0 then (if a.visits.isEmpty then s else recoverPhase x.id w s)
    else if slateBase e + 0x1000000 ≤ w then recoverHalf x a e w s
    else recoverWord x.id e w s

end Sys2Proof.Machine
end

