-- ==== Sys2Proof/Machine/Entry.lean ====
section
/-!
DEFINITION. Entries from their ring to READY (R423 to R437, R447 to R460): fetching, the descriptor and argument-block
checks, waits, aborts and the stall detector.
-/
namespace Sys2Proof.Machine

/-! ## Contexts (R430) -/

/-- The contexts reserved for a ring. -/
def ringReserve (q : Nat) : Nat := if q ≤ 1 then 32 else if q = 5 then 64 else 0

/-- The context that a ring can obtain: from its reserve (`false`) or from the shared pool (`true`). -/
def contextFor (s : State) (q : Nat) : Option Bool :=
  if (s.ctxs.filter fun x => decide (x.ring = q) && !x.shared).length < ringReserve q then some false
  else if (s.ctxs.filter (·.shared)).length < 3968 then some true
  else none

/-- The lowest free context identifier. -/
def freeId (s : State) : Nat := ((List.range 4096).find? fun i => !s.ctxs.any fun x => decide (x.id = i)).getD 4096

/-- A context as it is when its descriptor has been read. -/
def newCtx (s : State) (q : Nat) (shared : Bool) (slot : Nat) (origin : Origin) (desc : List Byte) : Ctx :=
  { id := freeId s, ring := q, shared := shared, slot := slot, order := s.order, origin := origin, desc := desc,
    life := .fetched, ran := false, argsRead := false, regBlock := [], waits := [], signals := [], inputs := [],
    waitStart := s.now, waitClamp := 0, frozenAt := none, causes := [], status := none, tFetch := s.now, tStart := 0,
    tSlice := 0, tEnd := 0, fed := false, seed := leAt desc 0x10 8, abort := false, stages := [], satStage := none,
    curs := [], anneal := none, inputDigest := [], inDigests := [], seeded := false, recs := List.replicate 10 0, resultAt := none, resultLen := 0,
    resDigests := [], results := [], audit := none, auditHeld := false, issued := [], certSeq := none, certAt := 0, window := none, windowWait := 0,
    sigPending := [], sigFault := false, sigSkipped := false, readyStamp := 0, written := false, budget := leAt desc 0x20 4,
    budgetNom := leAt desc 0x20 4, sweepLimit := leAt desc 0x24 4, degraded := false, late := false,
    selftestCols := none, entries := [], entrySt := [], inputsIn := false, swSlot := none, spillMem := [], spillParts := [],
    spillSlots := [], spillTiles := [], md := none, before := (0, false), blocked := none }

/-- Takes a context for a descriptor. -/
def takeCtx (q : Nat) (shared : Bool) (slot : Nat) (origin : Origin) (desc : List Byte) (s : State) : State :=
  { s with ctxs := s.ctxs ++ [newCtx s q shared slot origin desc], order := s.order + 1 }

/-! ## Fetching (R430, R466) -/

/-- A ring is fetched: enabled, with an unfetched descriptor, in a state that fetches it (R423, R425). -/
def fetches (s : State) (q : Nat) : Bool :=
  decide (qState s q = 1) && decide (qHead s q ≠ qTail s q) && (decide (q = 5) || decide (devState s = 1)) &&
    (contextFor s q).isSome

/-- The ring that the CFE fetches from next: the highest in priority (R427, R430). -/
def fetchRing (s : State) : Option Nat := (List.range 6).find? (fetches s)

/-- Fetches one descriptor of a ring. -/
def fetchFrom (q : Nat) (rs : List Cpl) (s : State) : State :=
  let slot := qHead s q % ringSize s q
  let r := hostGet (pageBase s q 0x040 + 64 * slot) rs 64 s
  match r.1 with
  | none => faultQueue q stHostReadFault r.2
  | some d => takeCtx q ((contextFor s q).getD true) slot .ring d (setReg (pgQue q) 0x060 ((qHead s q + 1) % 2 ^ 32) r.2)

/-- DESCRIPTOR_FETCH (R430): one descriptor, from the highest-priority ring that holds one and can obtain a context; a
descriptor that cannot be read faults the queue, and HEAD stays (R466). -/
def execDescriptorFetch (rs : List Cpl) (s : State) : Host.Outcome State Fault Refusal :=
  match fetchRing s with
  | none => .next s
  | some q => .next (pump (fetchFrom q rs s))

/-! ## Checks of a descriptor (R435, R437) -/

/-- A `PROGRAM_INVALID` at a descriptor field. -/
def badAt (base src off : Nat) : Cause := invalidAt ⟨src, base + off, none⟩

/-- The first failed check of a list. -/
def firstBad (l : List (Bool × Nat)) : Option Nat := firstSome (l.map fun c => if c.1 then some c.2 else none)

/-- A type that a ring accepts in the device state (R435, R467); `entry`: in a command buffer. A spare device accepts
invocations on MAINT only, so it registers no Bell program either (R367). -/
def typeAccepted (s : State) (entry : Bool) (q t : Nat) : Bool :=
  if entry then decide (t ≤ 2) || decide (t = 6) || decide (t = 7)
  else match t with
    | 0 => decide (q = 5) || (decide (2 ≤ q) && decide (s.sysmap.role ≠ 1))
    | 1 | 2 => decide (2 ≤ q)
    | 3 => decide (q = 5) && inMaintenance s
    | 4 => decide (q ≤ 1) && inService s && decide (s.sysmap.role ≠ 1)
    | 5 => decide (q ≤ 1) && inService s
    | _ => false

/-- An earlier REMOVE has asked for a program's index (R439). -/
def removeAhead (s : State) (x : Ctx) : Bool :=
  s.ctxs.any fun y => decide (dType y = 2) && (decide (y.life = .fetched) || decide (y.life = .waiting) || decide (y.life = .ready)) &&
    decide (dProgram y = dProgram x) && decide (y.order < x.order)

/-- Whether certificates can be issued at all: not after a tamper event, and not without a result key (R558, R570). -/
def certPossible (s : State) : Bool := !s.sec.tampered && decide (s.fuses.life ≠ 0) && decide (s.fuses.life ≠ 4)

/-- The exchange mode that a descriptor asks for is one that a multi-device image allows (R314, R434). -/
def modeOk (x : Ctx) (img : List Byte) : Bool :=
  decide (imgDevCount img ≤ 1) || (imgFlags img).testBit (if flFree x then 1 else 0)

/-- The byte of the descriptor that fails first (R437). -/
def descBad (s : State) (x : Ctx) : Option Nat :=
  let t := dType x
  let entry := match x.origin with | .entry _ _ => true | _ => false
  let counts := decide (t = 1) || decide (t = 3)
  let prog := progAt s (dProgram x)
  let img := (prog.map (·.image)).getD []
  let none0 := decide (dArgs x = 0)
  let badCount (n lim : Nat) : Bool := decide (lim < n) || (decide (n ≠ 0) && (none0 || counts))
  let runs := decide (t = 0) || decide (t = 4)
  firstBad
    [(!typeAccepted s entry x.ring t, 0x00),
     (decide (dFlags x / 256 ≠ 0) || (flStrict x && flFree x), 0x02),
     (decide (leAt x.desc 0x33 1 ≠ 0), 0x33),
     (decide (leAt x.desc 0x36 2 ≠ 0), 0x36),
     (!entry && decide (leAt x.desc 0x38 8 ≠ 0), 0x38),
     (decide (t = 6) && decide (35 < dProgram x), 0x01),
     (runs && (prog.isNone || removeAhead s x), 0x01),
     (badCount (dNWait x) 4, 0x30), (badCount (dNSignal x) 4, 0x31), (badCount (dNInput x) 8, 0x32),
     (decide (t = 4) && decide (dNWait x ≠ 0), 0x30),
     (if t = 3 then decide (dCount x = 0) || decide (4096 < dCount x) else decide (dCount x ≠ 0), 0x34),
     (decide (dArgs x % 64 ≠ 0) || ((decide (t = 1) || decide (t = 3) || decide (t = 4)) && none0), 0x28),
     (if 2 ≤ x.ring then decide (dDeadline x ≠ 0) else decide (t = 4) && decide (dDeadline x < 10000), 0x18),
     (if t = 4 then decide (dLimit x ≠ 0) else false, 0x24),
     (decide (dBudget x < dLimit x), 0x20),
     (runs && prog.isSome && hasAnneal img && decide (dBudget x = 0), 0x20),
     (decide (t = 4) && prog.isSome && !hasAnneal img && decide (dBudget x ≠ 1), 0x20),
     (runs && prog.isSome && !modeOk x img, 0x02),
     (runs && flCert x && !certPossible s, 0x02)]

/-- The source and the base that locate a field of an entry's descriptor (R693). -/
def descLoc (x : Ctx) : Nat × Nat := match x.origin with | .entry _ i => (5, 64 * i) | _ => (0, 0)

/-! ## WAITING (R431, R436, R440) -/

/-- Every earlier entry of a ring has started or completed (R431). -/
def inOrder (s : State) (x : Ctx) : Bool :=
  match x.origin with
  | .ring => !s.ctxs.any fun y => decide (y.ring = x.ring) && decide (y.origin = .ring) && decide (y.order < x.order) &&
      (decide (y.life = .fetched) || decide (y.life = .waiting) || (decide (y.life = .ready) && decide (dType y ≠ 2)))
  | _ => true

/-- Entries of BELL0 to LOW start in SERVICE only (R425). -/
def ringRuns (s : State) (x : Ctx) : Bool := onMaint x || decide (devState s = 1)

/-- The wait timers of an entry start (R436, R451); the clamp in force now holds for them (R671). -/
def startWaits (c : Nat) (s : State) : State :=
  updCtx c (fun x => { x with argsRead := true, waitStart := s.now, waitClamp := wMin s }) s

/-- Whether an entry has an argument block, or a registration block, to read. -/
def readsArgs (x : Ctx) : Bool :=
  decide (dType x = 4) || decide (0 < dNWait x + dNSignal x + dNInput x)

/-- The descriptor checks, and WAITING; a descriptor that fails them is not accepted, and no certificate is issued for it (R408). -/
def enterWaiting (c : Nat) (s : State) : State :=
  match ctxOf s c with
  | none => s
  | some x =>
    match descBad s x with
    | some o => endWith c (badAt (descLoc x).2 (descLoc x).1 o) s
    | none =>
      let s := updCtx c (fun x => { x with life := .waiting }) s
      if readsArgs x then s else startWaits c s

/-- ENTER_WAITING (R431, R437): once every earlier entry of its ring has started, an entry becomes WAITING and its
descriptor is checked. -/
def execEnterWaiting (c : Nat) (s : State) : Host.Outcome State Fault Refusal :=
  actCfe (decide (c < 4096)) (ctxIs s c fun x => decide (x.life = .fetched) && inOrder s x && ringRuns s x) s (enterWaiting c s)

/-! ## The argument block (R436, R437) -/

/-- A wait entry. -/
def readWait (b : List Byte) (i : Nat) : Wait :=
  let o := 32 * i
  ⟨leAt b o 8, leAt b (o + 8) 8, leAt b (o + 0x10) 2, leAt b (o + 0x12) 1, leAt b (o + 0x13) 1, false, none⟩

/-- A signal entry. -/
def readSignal (b : List Byte) (i : Nat) : Signal :=
  let o := 0x80 + 32 * i
  ⟨leAt b o 8, leAt b (o + 8) 8, leAt b (o + 0x10) 2, leAt b (o + 0x12) 1, leAt b (o + 0x13) 1⟩

/-- An input entry. -/
def readInput (b : List Byte) (i : Nat) : Input :=
  let o := 0x100 + 32 * i
  ⟨leAt b o 8, leAt b (o + 8) 8, leAt b (o + 0x10) 8 % 2 ^ 48, (leAt b (o + 0x10) 8).testBit 63, leAt b (o + 0x18) 8⟩

/-- The reach of the DMA engines for a ring (R517). -/
def dmaReach (q : Nat) : Reach := if q = 5 then .dmaMaint else .dma

/-- The byte of a wait or signal entry that fails. -/
def entryBad (o kind sem addr z : Nat) (last : Bool) (zeroAddr : Bool) : Option Nat :=
  firstBad
    [(decide (1 < kind), o + 0x12), (last, o + 0x13), (decide (kind = 0) && decide (16383 < sem), o + 0x10),
     (if kind = 0 then zeroAddr && decide (addr ≠ 0) else decide (addr % 8 ≠ 0), o + 0x08), (decide (z ≠ 0), o + 0x14)]

/-- The byte of an input entry that fails; `before` are the inputs above it. -/
def inputBad (s : State) (x : Ctx) (b : List Byte) (i : Nat) (before : List Input) : Option Nat :=
  let o := 0x100 + 32 * i
  let e := readInput b i
  let r := dmaReach x.ring
  firstBad
    [(decide (e.len = 0) || decide (leAt b (o + 0x10) 8 / 2 ^ 48 % 2 ^ 15 ≠ 0), o + 0x10),
     (e.srcDev && !mapOk s r e.src e.len, o),
     (!mapOk s r e.dst e.len, o + 0x08),
     (before.any fun y => rangesMeet (pieces s 34) e.dst e.len y.dst y.len, 0),
     (decide (e.digest % 32 ≠ 0) || (flArgsDev x && decide (e.digest ≠ 0) && !mapOk s r e.digest 32), o + 0x18)]

/-- The byte of a signal entry that fails. -/
def signalBad (b : List Byte) (i : Nat) : Option Nat :=
  let g := readSignal b i
  entryBad (0x80 + 32 * i) g.kind g.sem g.addr (leAt b (0x94 + 32 * i) 12)
    (decide (1 < g.op) || (decide (g.kind = 1) && decide (g.op ≠ 1))) false

/-- The byte of an argument block that fails first (R436, R437). -/
def argsBad (s : State) (x : Ctx) (b : List Byte) (nw ns ni : Nat) : Option Nat :=
  firstSome
    [firstSome ((List.range nw).map fun i =>
       let w := readWait b i
       entryBad (32 * i) w.kind w.sem w.addr (leAt b (32 * i + 0x14) 12) (decide (31 < w.tmo)) true),
     firstSome ((List.range ns).map (signalBad b)),
     firstSome ((List.range ni).map fun i => inputBad s x b i ((List.range i).map (readInput b)))]

/-- The argument block as read: its entries are checked and kept, and the wait timers start. Where a check fails, the block has been read
all the same, and the signals whose own entries are good are applied unless FAIL_SKIP skips them (R455; DEDUCED, log entry 104). -/
def takeArgs (c : Nat) (b : List Byte) (s : State) : State :=
  match ctxOf s c with
  | none => s
  | some x =>
    match argsBad s x b (dNWait x) (dNSignal x) (dNInput x) with
    | some o =>
      let good := (List.range (dNSignal x)).filter fun i => (signalBad b i).isNone
      endWith c (badAt 0 1 o) (updCtx c (fun x => { x with argsRead := true, signals := good.map (readSignal b) }) s)
    | none =>
      startWaits c (updCtx c (fun x => { x with waits := (List.range (dNWait x)).map (readWait b),
                                                signals := (List.range (dNSignal x)).map (readSignal b),
                                                inputs := (List.range (dNInput x)).map (readInput b) }) s)

/-- The registration block as read: it is kept for REGISTER (R481). -/
def takeBlock (c : Nat) (b : List Byte) (s : State) : State :=
  startWaits c (updCtx c (fun x => { x with regBlock := b }) s)

/-- The entries of an argument block at `a` that the counts of waits, signals and inputs cover (R436). -/
def entryRanges (a w g i : Nat) : List (Nat × Nat) :=
  [(a, 32 * w), (a + 0x80, 32 * g), (a + 0x100, 32 * i)].filter fun r => decide (0 < r.2)

/-- The ranges of the block at ARGS that the device reads: a registration block, or the covered entries. -/
def argRanges (x : Ctx) : List (Nat × Nat) :=
  if dType x = 4 then [(dArgs x, 128)] else entryRanges (dArgs x) (dNWait x) (dNSignal x) (dNInput x)

/-- An argument block at `a`, as its covered entries read. -/
def argBlock (x : Ctx) (a : Nat) (ranges : List (Nat × Nat)) (rs : List Cpl) (s : State) : Except Cause (List Byte) × State :=
  if flArgsDev x then
    let r := partsRead ranges s
    let s := recAdd x.id 2 r.2.1 r.2.2
    if r.1 then (.ok (memRead s a 512), s) else let f := internalFault s; (.error f.1, f.2)
  else argGet x a 512 0xFF rs s

/-- Reads the block at ARGS. An ARGS that is a device address outside the map is a misaddressed descriptor field (R518). -/
def readArgs (c : Nat) (rs : List Cpl) (s : State) : State :=
  match ctxOf s c with
  | none => s
  | some x =>
    if flArgsDev x && (argRanges x).any (fun r => !mapOk s (dmaReach x.ring) r.1 r.2) then endWith c (badAt (descLoc x).2 (descLoc x).1 0x28) s
    else
      let r := argBlock x (dArgs x) (argRanges x) rs s
      match r.1 with
      | .error k => endWith c k r.2
      | .ok b => if dType x = 4 then takeBlock c b r.2 else takeArgs c b r.2

/-- ARGUMENT_BLOCK_READ (R436): the argument block has been read, its entries are checked and the wait timers start; a block
that cannot be read ends the entry with `HOST_READ_FAULT`. -/
def execArgumentBlockRead (c : Nat) (rs : List Cpl) (s : State) : Host.Outcome State Fault Refusal :=
  actCfe (decide (c < 4096)) (ctxIs s c fun x => decide (x.life = .waiting) && !x.argsRead) s (readArgs c rs s)

/-! ## Waits (R449, R451, R453) -/

/-- The time that a context's wait timers have run: they stand still in MAINTENANCE (R426). -/
def waited (s : State) (x : Ctx) : Nat := (x.frozenAt.getD s.now) - x.waitStart

/-- A wait's timer has expired. -/
def waitExpired (s : State) (x : Ctx) (w : Wait) : Bool := decide (waitNs w.tmo x.waitClamp ≤ waited s x)

/-- A wait timer of a WAITING entry has expired with some wait of it unlatched. -/
def entryTimedOut (s : State) (x : Ctx) : Bool := waitsOn x && !allLatched x && x.waits.any (waitExpired s x)

/-- The wait that DETAIL names: the lowest unlatched one whose timer expired, else the lowest unlatched (log entry 21). -/
def timedOutWait (s : State) (x : Ctx) : Nat :=
  (findIdx (fun w => !w.latched && waitExpired s x w) x.waits 0).getD (lowestUnlatched x)

/-- WAIT_TIMEOUT (R451): a wait timer has expired with a wait unlatched. Satisfied waits latch first (R449). -/
def execWaitTimeout (c : Nat) (s : State) : Host.Outcome State Fault Refusal :=
  let s0 := latchAll s
  actCfe (decide (c < 4096)) (ctxIs s0 c (entryTimedOut s0)) s
    (match ctxOf s0 c with | some x => endWith c ⟨stWaitTimeout, timedOutWait s0 x, 0⟩ s0 | none => s0)

/-- POLL_US has passed since the last poll of a wait (R453). -/
def pollDue (s : State) (e : Wait) : Bool :=
  match e.polledAt with
  | some t => decide (t + reg s pgCfe 0x054 * 1000 ≤ s.now)
  | none => true

/-- A wait is polled now. -/
def notePoll (c w : Nat) (s : State) : State :=
  updCtx c (fun x => { x with waits := updAt x.waits w fun v => { v with polledAt := some s.now } }) s

/-- A poll of a host-address wait (R453): a value at or above THRESH latches it; one that arrives after the wait's timer
has fired is discarded and counted in LATE_RECOVERIES and REC[9]. -/
def pollWait (c w : Nat) (rs : List Cpl) (s : State) : State :=
  match ctxOf s c with
  | none => s
  | some x =>
    match x.waits[w]? with
    | none => s
    | some e =>
      let r := hostGet e.addr rs 8 (notePoll c w s)
      match r.1 with
      | none => r.2
      | some b =>
        if waitExpired s x e then recAdd c 9 1 (bump pgCfe 0x074 r.2)
        else if e.thresh ≤ leNat b then updCtx c (fun x => { x with waits := updAt x.waits w fun v => { v with latched := true } }) r.2
        else r.2

/-- HOST_WAIT_POLL (R453): every POLL_US the CFE reads the 8 bytes of a host-address wait, with up to two re-reads. -/
def execHostWaitPoll (c w : Nat) (rs : List Cpl) (s : State) : Host.Outcome State Fault Refusal :=
  actCfe (decide (c < 4096) && decide (w < 4))
    (ctxIs s c fun x => waitsOn x && polled s c w && ((x.waits[w]?).map fun e => decide (e.kind = 1) && !e.latched && pollDue s e).getD false) s
    (pollWait c w rs s)

/-! ## The stall detector (R459) -/

/-- The entry that the detector breaks: of the lowest-priority ring with a WAITING entry, the oldest (log entry 22). -/
def stallVictim (s : State) : Option Ctx :=
  (s.ctxs.filter fun x => waitsOn x && !allLatched x).foldl (fun b x =>
    match b with
    | none => some x
    | some y => if y.ring < x.ring ∨ (y.ring = x.ring ∧ x.order < y.order) then some x else some y) none

/-- The stall condition has held for STALL_US. -/
def stallDue (s : State) : Bool :=
  match s.stallSince with
  | some t => decide (t + reg s pgCfe 0x050 * 1000 ≤ s.now) && stallCond s
  | none => false

/-- The detector fires: STALL, STALLS, DEADLOCK_BROKEN; its timer restarts. -/
def stallFire (s : State) : State :=
  match stallVictim s with
  | none => s
  | some x =>
    let s := raise pgCfe 1 (bump pgCfe 0x070 s)
    endWith x.id ⟨stDeadlockBroken, lowestUnlatched x, 0⟩ { s with stallSince := none }

/-- STALL_DETECTOR_FIRE (R459). -/
def execStallDetectorFire (s : State) : Host.Outcome State Fault Refusal :=
  let s0 := trackStall (latchAll s)
  actCfe true (stallDue s0) s (stallFire s0)

/-! ## Aborts (R447) -/

/-- Aborts one context: at once where it has not started, at its next switch point where it runs, which makes the abort a cause of its
status from now on (R447, R449); an entry in FINISHING or DELIVERING, and one that is no invocation and has started, is left alone. -/
def abortCtx (c : Nat) (s : State) : State :=
  match ctxOf s c with
  | none => s
  | some x =>
    match x.life with
    | .fetched => endWith c ⟨stAborted, 0, 0⟩ s
    | .waiting => endWith c ⟨stAborted, 0, 0⟩ s
    | .ready => endWith c ⟨stAborted, 0, 0⟩ s
    | .running => if isInvocation x then updCtx c (fun x => { x with abort := true }) s else s
    | .switchedOut => updCtx c (fun x => { x with abort := true }) s
    | _ => s

/-- Aborts the contexts that meet a condition. -/
def abortWhere (p : Ctx → Bool) (s : State) : State := (s.ctxs.filter p).foldl (fun s x => abortCtx x.id s) s

/-- A write of CFE.ABORT: bits [2:0] ring, bit 3 every entry or those with ABORT_TAG (R474). -/
def abortWrite (v : Nat) (s : State) : State :=
  let q := v % 8
  let tag := reg s pgCfe 0x04C
  pump (abortWhere (fun x => decide (x.ring = q) && (v.testBit 3 || decide (dTag x = tag))) s)

end Sys2Proof.Machine
end

