-- ==== Sys2Proof/Machine/Commands.lean ====
section
/-!
DEFINITION. The entries that are no invocations: INSTALL, REMOVE, command buffers, JOIN (R438, R439, R467 to R470); and
INVOKE, which makes an invocation READY (R440).
-/
namespace Sys2Proof.Machine

/-- An entry of a type that stands WAITING with every wait latched. -/
def entryDue (t : Nat) (x : Ctx) : Bool := decide (dType x = t) && waitsOn x && allLatched x

/-- One that its device state lets start: entries of BELL0 to LOW that have not started stay in their contexts (R425). -/
def entryRuns (s : State) (t : Nat) (x : Ctx) : Bool := entryDue t x && ringRuns s x

/-- An entry begins its work: T_START. -/
def beginWork (c : Nat) (life : Life) (s : State) : State :=
  updCtx c (fun x => { x with life := life, ran := true, tStart := s.now }) s

/-! ## INVOKE (R440) -/

/-- The invocation is READY. -/
def makeReady (c : Nat) (s : State) : State :=
  let s := updCtx c (fun x => { x with life := .ready, readyStamp := s.stamp }) s
  { s with stamp := s.stamp + 1 }

/-- INVOKE (R440): every wait of the invocation has latched, and it is READY. -/
def execInvoke (c : Nat) (s : State) : Host.Outcome State Fault Refusal :=
  actCfe (decide (c < 4096)) (ctxIs (latchAll s) c (entryDue 0)) s (makeReady c (latchAll s))

/-! ## INSTALL (R313, R318 to R322, R438) -/

/-- The image at ARGS as read, IMAGE_LEN bytes long; a device range must lie in the map (R518). -/
def readImage (x : Ctx) (rs : List Cpl) (s : State) : Except Cause (List Byte) × State :=
  if flArgsDev x then
    let r := dmaReach x.ring
    if !mapOk s r (dArgs x) 128 then (.error (badAt (descLoc x).2 (descLoc x).1 0x28), s)
    else
      let n := imgLen (memRead s (dArgs x) 128)
      if n < 128 ∨ !mapOk s r (dArgs x) n then (.error (invalidAt ⟨2, 0x008, none⟩), s)
      else argGet x (dArgs x) n 0xFF [] s
  else
    let r := hostTry (dArgs x) 3 rs s
    match r.1 with
    | some b => (.ok (b.take (imgLen b)), r.2)
    | none => (.error ⟨stHostReadFault, 0xFF, 0⟩, r.2)

/-- The position of this device in an image's device list (R350). -/
def selfPosition (s : State) (img : List Byte) : Option Nat :=
  if imgDevCount img ≤ 1 then none else findIdx (fun d => decide (d = s.sysmap.selfId)) (imgDevlist img) 0

/-- Bytes of constant masters that the installed images hold (R519). -/
def mastersUsed (s : State) : Nat := sumN (s.progs.map fun p => masterBytes p.image)

/-- Every check of an install, on the image as read: the location of the first that fails, or the image as installed. A MAINT
invocation may run the image, so its programs' device-address ranges are checked for what MAINT reaches (R517; log entry 95); its
constants are placed by the INSTALL itself, on whose queue it depends what they may reach. -/
def installCheck (s : State) (ring : Nat) (b : List Byte) : Except Loc (List Byte) :=
  match headerCheck b b.length with
  | some l => .error l
  | none =>
    match decryptImage b s.sec.imageKey with
    | none => .error ⟨2, 0, none⟩
    | some img =>
      match imageCheck img img.length (mapOk s .maint) (mapOk s (if ring = 5 then .maint else .program)) (pieces s 34)
          (selfPosition s img) with
      | some l => .error l
      | none => if mastersUsed s + masterBytes img ≤ 2 ^ 31 then .ok img else .error ⟨2, 0, none⟩

/-- The masters' area of the device reserve: its last 2 GiB (R519). -/
def masterArea (s : State) : Nat := usable s - 0x80000000

/-- The gaps between parts in ascending order, from `lo` to `hi`. -/
def gapsOf : List (Nat × Nat) → Nat → Nat → List (Nat × Nat)
  | [], lo, hi => [(lo, hi - lo)]
  | p :: l, lo, hi => (lo, p.1 - lo) :: gapsOf l (p.1 + p.2) hi

/-- The first `n` bytes of gaps, as parts, and the gaps left. -/
def takeGaps : List (Nat × Nat) → Nat → List (Nat × Nat) × List (Nat × Nat)
  | [], _ => ([], [])
  | g :: gs, n =>
    if n = 0 then ([], g :: gs)
    else if g.2 = 0 then takeGaps gs n
    else if n ≤ g.2 then ([(g.1, n)], (g.1 + n, g.2 - n) :: gs)
    else let r := takeGaps gs (n - g.2); (g :: r.1, r.2)

/-- The places that the masters of an image's constants take: the lowest free bytes of the area, in table order (log entry 103). -/
def masterPlaces (s : State) (img : List Byte) : List (List (Nat × Nat)) :=
  let used := sortBy (fun a b => decide (a.1 < b.1)) (s.progs.map fun p => p.masters.flatten).flatten
  ((constEnts img).foldl (fun (acc : List (List (Nat × Nat)) × List (Nat × Nat)) k =>
    let r := takeGaps acc.2 (masterLen k)
    (acc.1 ++ [r.1], r.2)) ([], gapsOf used (masterArea s) (masterArea s + 2 ^ 31))).1

/-- Writes bytes to parts, in their order. -/
def writeParts (ps : List (Nat × Nat)) (b : List Byte) (s : State) : State :=
  (ps.foldl (fun (acc : State × List Byte) p => (writeCanon p.1 (acc.2.take p.2) acc.1, acc.2.drop p.2)) (s, b)).1

/-- Places the constants of an image (R320), and the master of each that goes to a home region (R519). -/
def placeConstants (img : List Byte) (ms : List (List (Nat × Nat))) (s : State) : State :=
  ((constEnts img).zip ms).foldl (fun s k =>
    let b := slice img k.1.src k.1.len
    writeParts k.2 (b ++ zeros (masterLen k.1 - k.1.len)) (memWrite (constAddr k.1) b s)) s

/-- Installs the image that an entry names, or ends the entry with the cause that refuses it. -/
def installEntry (c : Nat) (rs : List Cpl) (s : State) : State :=
  match ctxOf s c with
  | none => s
  | some x =>
    let s := beginWork c .running s
    if (progAt s (dProgram x)).isSome then endWith c (badAt (descLoc x).2 (descLoc x).1 0x01) s
    else
      let r := readImage x rs s
      let s := r.2
      match r.1 with
      | .error k => endWith c k s
      | .ok b =>
        match installCheck s x.ring b with
        | .error l => endWith c (invalidAt l) s
        | .ok img =>
          let ms := masterPlaces s img
          let s := placeConstants img ms s
          finish c { s with progs := s.progs ++ [⟨dProgram x, img, treeDigest img, false, ms⟩] }

/-- INSTALL (R438): reads, checks and installs a Porant image; its constants are placed and PROGRAM_DIGEST is formed. -/
def execInstall (c : Nat) (rs : List Cpl) (s : State) : Host.Outcome State Fault Refusal :=
  actCfe (decide (c < 4096)) (ctxIs (latchAll s) c (entryRuns s 1)) s (installEntry c rs (latchAll s))

/-! ## REMOVE (R439) -/

/-- Asks for an index to be freed. -/
def removeEntry (c : Nat) (s : State) : State :=
  match ctxOf s c with
  | none => s
  | some x =>
    if (progAt s (dProgram x)).isNone ∨ isRegistered s (dProgram x) then
      endWith c (badAt (descLoc x).2 (descLoc x).1 0x01) (beginWork c .running s)
    else beginWork c .ready s

/-- REMOVE (R439): requests that a resident program index be freed; an empty index, or a registered program, fails. -/
def execRemove (c : Nat) (s : State) : Host.Outcome State Fault Refusal :=
  actCfe (decide (c < 4096)) (ctxIs (latchAll s) c (entryRuns s 2)) s (removeEntry c (latchAll s))

/-- A context other than `c` names a program to run it. -/
def programHeld (s : State) (c p : Nat) : Bool :=
  s.ctxs.any fun y => decide (y.id ≠ c) && (decide (dType y = 0) || decide (dType y = 4)) && decide (dProgram y = p)

/-- Frees the index. -/
def removeDone (c : Nat) (s : State) : State :=
  match ctxOf s c with
  | none => s
  | some x => finish c { s with progs := s.progs.filter fun p => decide (p.index ≠ dProgram x) }

/-- REMOVE_COMPLETE (R439): no context names the program any more, and the index is freed. -/
def execRemoveComplete (c : Nat) (s : State) : Host.Outcome State Fault Refusal :=
  actCfe (decide (c < 4096))
    (ctxIs s c fun x => decide (dType x = 2) && decide (x.life = .ready) && !programHeld s c (dProgram x)) s (removeDone c s)

/-! ## Command buffers (R467 to R470) -/

/-- Starts a command buffer with its entries. -/
def startBuffer (c : Nat) (b : List Byte) (s : State) : State :=
  updCtx c (fun x => { x with entries := (List.range (dCount x)).map (fun i => slice b (64 * i) 64),
                              entrySt := List.replicate (dCount x) .idle }) (beginWork c .running s)

/-- Reads the entries of a command buffer. In SERVICE none starts: the type is then not accepted (R435). -/
def bufferEntry (c : Nat) (rs : List Cpl) (s : State) : State :=
  match ctxOf s c with
  | none => s
  | some x =>
    let n := 64 * dCount x
    if devState s ≠ 0 then endWith c (badAt 0 0 0x00) s
    else if flArgsDev x && !mapOk s (dmaReach x.ring) (dArgs x) n then endWith c (badAt 0 0 0x28) s
    else
      let r := argGet x (dArgs x) n 0xFF rs s
      match r.1 with
      | .error k => endWith c k r.2
      | .ok b => startBuffer c b r.2

/-- CMDBUF (R467): starts a maintenance command buffer of COUNT entries; none starts during a change to SERVICE (R425). -/
def execCmdbuf (c : Nat) (rs : List Cpl) (s : State) : Host.Outcome State Fault Refusal :=
  actCfe (decide (c < 4096)) (ctxIs (latchAll s) c (entryDue 3) && decide (devState s ≠ 3)) s (bufferEntry c rs (latchAll s))

/-- DEPS of an entry (R468). -/
def entryDeps (e : List Byte) : List Nat := (List.range 4).map fun k => leAt e (0x38 + 2 * k) 2

/-- The first dependency that is not lower than the entry's own index. -/
def depsBad (e : List Byte) (i : Nat) : Option Nat :=
  (findIdx (fun d => decide (d ≠ 0xFFFF) && decide (i ≤ d)) (entryDeps e) 0).map fun k => 0x38 + 2 * k

/-- The outcome of a dependency: completed with a result, completed without, not completed. An entry completes when it enters DONE. -/
def depState (x : Ctx) (d : Nat) : Option Bool :=
  match nth x.entrySt d .idle with
  | .done st => some (deliversResult st)
  | _ => none

/-- The dependencies of an entry, those that name one. -/
def realDeps (e : List Byte) : List Nat := (entryDeps e).filter fun d => decide (d ≠ 0xFFFF)

/-- The lowest dependency that completed without a result. -/
def failedDep (x : Ctx) (e : List Byte) : Option Nat :=
  (sortBy (fun a b => decide (a < b)) (realDeps e)).find? fun d => depState x d = some false

/-- An entry starts when its dependencies have all completed, or one has completed without a result, or it names an impossible one. -/
def entryStarts (s : State) (i : Nat) (x : Ctx) : Bool :=
  let e := nth x.entries i []
  decide (dType x = 3) && decide (x.life = .running) && decide (i < x.entries.length) && decide (nth x.entrySt i .idle = .idle) &&
    ((depsBad e i).isSome || (failedDep x e).isSome || (realDeps e).all fun d => (depState x d).isSome) && (contextFor s 5).isSome

/-- Starts an entry in a context of its own: it is aborted where a dependency failed, else its descriptor is checked and it
becomes WAITING. -/
def startEntry (b i : Nat) (s : State) : State :=
  match ctxOf s b with
  | none => s
  | some x =>
    let e := nth x.entries i []
    let c := freeId s
    let s := takeCtx 5 ((contextFor s 5).getD true) i (.entry b i) e s
    let s := updCtx b (fun x => { x with entrySt := updAt x.entrySt i fun _ => .running c }) s
    match depsBad e i with
    | some o => endWith c (badAt (64 * i) 5 o) s
    | none =>
      match failedDep x e with
      | some d => endWith c ⟨stAborted, d, 0⟩ s
      | none => enterWaiting c s

/-- CMDBUF_ENTRY_START (R468): an entry starts once its dependencies have completed, or is aborted when one failed. -/
def execCmdbufEntryStart (c i : Nat) (s : State) : Host.Outcome State Fault Refusal :=
  actCfe (decide (c < 4096) && decide (i < 4096)) (ctxIs s c (entryStarts s i)) s (startEntry c i s)

/-- JOIN (R469): has no effect and completes with OK. -/
def execJoin (c : Nat) (s : State) : Host.Outcome State Fault Refusal :=
  actCfe (decide (c < 4096)) (ctxIs (latchAll s) c (entryDue 7)) s (finish c (beginWork c .running (latchAll s)))

end Sys2Proof.Machine
end

