-- ==== Sys2Proof/Machine/Tiles.lean ====
section
/-!
DEFINITION. Failing tiles: failed checks, retirement and substitution (R26 to R29, R36, R264 to R266, R655, R656), self-tests
(R266, R400, R469) and the repair log (R541 to R543).
-/
namespace Sys2Proof.Machine

/-! ## Failed checks (R265, R655) -/

/-- Records a failed check in a tile's page: the instruction, the engine, the tile, the streamed vector, the time. -/
def noteCheckFail (p e instr vec : Nat) (s : State) : State :=
  let s := setReg (pgEng p) 0x060 instr (bump (pgEng p) 0x04C s)
  let s := setReg (pgEng p) 0x064 (e % 32 + p % 64 * 2 ^ 8 + vec % 512 * 2 ^ 16 + 2 ^ 31) s
  raise (pgEng p) 3 (setWide (pgEng p) 0x068 s.now s)

/-! ## Retirement (R26 to R28, R655) -/

/-- The invocations in flight that use an engine. -/
def usersOf (s : State) (e : Nat) : List Ctx :=
  s.ctxs.filter fun x => isInvocation x && hasProg (ctxImage s x) e &&
    (decide (x.life = .running) || decide (x.life = .switchedOut))

/-- The spare tile of a quadrant, while it has one. -/
def spareOf (s : State) (q : Nat) : Option Nat :=
  (List.range 36).find? fun p => decide (p / 9 = q) && decide ((nth s.tileSt p ⟨.retired, 0, false, 0⟩).role = .spare)

/-- Changes a tile. -/
def updTile (p : Nat) (f : TileSt → TileSt) (s : State) : State := { s with tileSt := updAt s.tileSt p f }

/-- Copies a 2 MiB block (R26 step 3, R510): every marked word of it is read, what is corrected counts, and what is uncorrectable arrives
poisoned; those words, where they arrive. -/
def copyBlock (c : Option Nat) (src dst : Nat) (a : List Nat × State) : List Nat × State :=
  let n := 2 ^ 21
  let r := (spRange src n a.2.marks).foldl (fun (acc : List Nat × State) e =>
    let k := noteRead 0 e.1 acc.2
    match k.1 with
    | .clean => (acc.1, k.2)
    | .corrected _ => (acc.1, match c with | some c => recAdd c 2 1 k.2 | none => k.2)
    | _ => (acc.1 ++ [e.1 - src + dst], k.2)) ([], a.2)
  let s := noteWritten dst n r.2
  let s := armRun dst n { s with
    mem := (spRange src n s.mem).foldl (fun m e => spSet zeroByte (e.1 - src + dst) e.2 m) (spClear dst n s.mem)
    marks := spClear dst n s.marks }
  (a.1 ++ r.1, { s with marks := r.1.foldl (fun m w => spSet noMark w ⟨0, 0, true, none⟩ m) s.marks })

/-- Copies the blocks of region `p` that the written map marks into region `q`. -/
def copyRegion (c : Option Nat) (p q : Nat) (s : State) : List Nat × State :=
  (s.written.filter fun b => decide (b / 512 = p)).foldl
    (fun a b => copyBlock c (physBase p + 2 ^ 21 * (b % 512)) (physBase q + 2 ^ 21 * (b % 512)) a) ([], s)

/-- A home-region offset holds coefficients of an anneal, which have a master. -/
def coeffOff (p : Prob) (e off : Nat) : Bool :=
  annealUses p e off && (decide (off < 0x31000000) || (decide (0x39000000 ≤ off) && decide (off < 0x39100000)))

/-- Reloads a constant that no invocation in flight uses from its master (R537, R538). -/
def adoptConst (w : Nat) (s : State) : State :=
  match s.progs.findSome? fun p => constOf s p w with
  | some k => let k' := ctlOf s w; (copyMaster k (bump k'.1 (k'.2.1 + 0x08C) s)).2.2
  | none => s

/-- Reloads the unit of a word that arrived poisoned in the adopted region of engine `e` from its master: a constant, or a coefficient
of a held anneal (R26 step 3, R537). A word with no master stays poisoned, and is recovered by what reads it. -/
def adoptWord (e w : Nat) (s : State) : State :=
  if markOf s w = noMark w then s
  else
    let us := usersOf s e
    match us.find? fun x => (constAt s x w).isSome with
    | some x => recoverWord x.id e w s
    | none =>
      let off := w % 2 ^ 30
      match us.find? fun x => match x.anneal with | some a => coeffOff a.prob e off | none => false with
      | some x => (match x.anneal with | some a => recoverCoeff x.id a.prob w s | none => s)
      | none => adoptConst w s

/-- `INTERNAL_FAULT` of an invocation whose engine has no tile (R27, R472). -/
def lostFault (p e : Nat) (x : Ctx) : Cause := ⟨stInternalFault, p + 256 * ((curOf x e).map (·.pc)).getD 0, 0⟩

/-- The quadrant's spare takes the engine of a retired tile: region and mapping move, the field store is rebuilt, and the invocation
whose check failed waits (R26). -/
def substitute (c : Option Nat) (p q e : Nat) (s : State) : State :=
  let r := copyRegion c p q s
  let s := updTile q (fun t => ⟨.active, e, false, t.cols⟩) (updTile p (fun t => { t with role := .retired }) r.2)
  let s := { s with marks := spClear (fieldKey e 0) (2 ^ 23) s.marks, substs := s.substs ++ [⟨e, p, q, s.now, c⟩] }
  raise (pgEng p) 2 (r.1.foldl (fun s w => adoptWord e w s) s)

/-- Retires a tile (TILE_RETIRE), `c` being the invocation whose check failed: its engine goes to the quadrant's spare, or has no
tile. A Bell release in flight on it is disrupted; without a spare, every invocation in flight that uses the engine ends (R26 to R28). -/
def retireTile (c : Option Nat) (p cause : Nat) (s : State) : State :=
  let e := (nth s.tileSt p ⟨.retired, 0, false, 0⟩).eng
  let users := usersOf s e
  let s := setReg (pgEng p) 0x048 cause s
  let s := { s with repairQueue := s.repairQueue ++ [⟨2, p, 0, e⟩] }
  match spareOf s (p / 9) with
  | some q =>
    let s := substitute c p q e s
    users.foldl (fun s x => (disrupt x.id (engineFault s x e) s).getD s) s
  | none =>
    let s := raise (pgEng p) 2 (updTile p (fun t => { t with role := .retired, lost := true }) s)
    users.foldl (fun s x => (disrupt x.id (lostFault p e x) s).getD (endWith x.id (lostFault p e x) s)) s

/-- A tile fails beyond recomputation (R27, R28, R36, R264): with retirement switched off the invocation ends, a Bell release
in its SWEEPS loop as degraded; else the tile is retired. -/
def failTile (c p cause : Nat) (k : Cause) (s : State) : State :=
  if (reg s (pgEng p) 0x044).testBit 0 then retireTile (some c) p cause s
  else (disrupt c k s).getD (endWith c k s)

/-- What a failed check of an invocation's pass leads to: on MAINT the invocation ends; else one recomputation, counted when
it passes; when it fails too, the tile fails. True where the results stand. -/
def checkOutcome (c e instr vec : Nat) (recovers : Bool) (s : State) : Bool × State :=
  match ctxOf s c with
  | none => (false, s)
  | some x =>
    let p := tileOf s e
    let k : Cause := ⟨stInternalFault, p + 256 * instr, 0⟩
    let s := noteCheckFail p e instr vec s
    if onMaint x then (false, endWith c k s)
    else if recovers then (true, recAdd c 0 1 (bump (pgEng p) 0x050 s))
    else (false, failTile c p 1 k (noteCheckFail p e instr vec s))

/-- The engines of an invocation whose tiles have failed in the phase under way, in ascending order. -/
def failingAt (s : State) (c : Nat) : List Nat :=
  match ctxOf s c with
  | none => []
  | some x => sortBy (fun a b => decide (a < b)) ((s.failing.filter fun f => decide (f.2 = x.order)).map (·.1))

/-- A tile fails for an invocation in a phase: its work of the phase is abandoned and Roll Call waits for it (R26 steps 1 and 2), so that
of two failures of one quadrant in a phase the spare goes to the lower engine (R29). A Bell release is disrupted at once, and with
retirement switched off the invocation ends (R28, R36). -/
def tileFails (c e : Nat) (s : State) : State :=
  match ctxOf s c with
  | none => s
  | some x =>
    let p := tileOf s e
    if (failingAt s c).contains e then s
    else if !isBell x && (reg s (pgEng p) 0x044).testBit 0 then { s with failing := s.failing ++ [(e, x.order)] }
    else failTile c p 1 (engineFault s x e) s

/-- A failed check of a phase whose recomputation failed too. -/
def failLater (c e instr vec : Nat) (s : State) : State :=
  if ctxIs s c onMaint then (checkOutcome c e instr vec false s).2
  else if (failingAt s c).contains e then s
  else tileFails c e (noteCheckFail (tileOf s e) e instr vec (noteCheckFail (tileOf s e) e instr vec s))

/-- The phase boundary of R26 step 2: the spares take the engines whose tiles have failed, in ascending order, and these engines are to
redo their visits and cross terms (R29, R185). -/
def replaceTiles (c : Nat) (s : State) : State :=
  match ctxOf s c with
  | none => s
  | some x =>
    let es := failingAt s c
    let s := es.foldl (fun s e => if goesOn s c then failTile c (tileOf s e) 1 (engineFault s x e) s else s)
      { s with failing := s.failing.filter fun f => decide (f.2 ≠ x.order) }
    if goesOn s c then updRun c (fun a => { a with redo := es }) s else s

/-- An engine's tile has failed for an invocation that is over since. -/
def orphaned (s : State) (e : Nat) : Bool :=
  s.failing.any fun f => decide (f.1 = e) && !(s.ctxs.any fun x => decide (x.order = f.2) && x.status.isNone)

/-- Such a tile is retired. -/
def retireOrphan (e : Nat) (s : State) : State :=
  if orphaned s e then retireTile none (tileOf s e) 1 { s with failing := s.failing.filter fun f => decide (f.1 ≠ e) } else s

/-- TILE_SUBSTITUTION_DONE (R26): the copy and the rebuild of a substitution are complete; the engine goes on, the invocation counts
it in REC[1], and the adopting tile is due the self-test that follows a retirement (R266; DEDUCED, log entry 81). -/
def substDone (e : Nat) (s : State) : State :=
  let us := s.substs.filter fun u => decide (u.eng = e)
  let s := { s with substs := s.substs.filter fun u => decide (u.eng ≠ e) }
  let due := (us.map (·.to_)).filter fun p => !s.selftestDue.contains p
  us.foldl (fun s u => match u.ctx with | some c => recAdd c 1 1 s | none => s) { s with selftestDue := s.selftestDue ++ due }

/-- TILE_SUBSTITUTION_DONE (R26), of a tile too that failed for an invocation which ended before its Roll Call. -/
def execTileSubstitutionDone (e : Nat) (s : State) : Host.Outcome State Fault Refusal :=
  actCfe (decide (e < 32)) ((s.substs.any fun u => decide (u.eng = e)) || orphaned s e) s (substDone e (retireOrphan e s))

/-! ## The repair log (R542, R543) -/

/-- Writes the oldest waiting entry, or drops it with REPAIR_LOG_FULL. -/
def repairWrite (s : State) : State :=
  match s.repairQueue with
  | [] => s
  | r :: rest =>
    let s := { s with repairQueue := rest }
    if s.flash.repair.length < 255 then
      emit (.flashWrite 3) { s with flash := { s.flash with repair := s.flash.repair ++ [r] } }
    else raise pgDev 0 s

/-- REPAIR_LOG_WRITE (R542): an entry is written to the repair log; with 255 entries in it, the entry is dropped (R543). -/
def execRepairLogWrite (s : State) : Host.Outcome State Fault Refusal :=
  actCfe true (!s.repairQueue.isEmpty) s (repairWrite s)

/-! ## Self-tests (R266, R469) -/

/-- No invocation runs on a tile. -/
def tileIdle (s : State) (p : Nat) : Bool :=
  let t := nth s.tileSt p ⟨.retired, 0, false, 0⟩
  decide (t.role ≠ .active) || !(s.ctxs.any fun x => decide (x.life = .running) && isInvocation x && hasProg (ctxImage s x) t.eng)

/-- A self-test finds `n` faulty columns: spare columns take them, or the test fails. True where it passed. -/
def selfTest (p n : Nat) (s : State) : Bool × State :=
  let t := nth s.tileSt p ⟨.retired, 0, false, 0⟩
  let ok := decide (t.cols + n ≤ 15)
  let s := setReg (pgEng p) 0x058 ((if ok then 1 else 2) + 256 * min 255 n) s
  if ok then
    let s := updTile p (fun t => { t with cols := t.cols + n }) s
    (true, { s with repairQueue := s.repairQueue ++ (List.range n).map fun i => ⟨3, p, t.cols + i, t.eng⟩ })
  else (false, s)

/-- A failed self-test retires an active tile, unless retirement is switched off. -/
def testedTile (p n cause : Nat) (s : State) : State :=
  let r := selfTest p n s
  if r.1 then r.2
  else
    let t := nth r.2.tileSt p ⟨.retired, 0, false, 0⟩
    if (reg r.2 (pgEng p) 0x044).testBit 0 then
      match t.role with
      | .active => retireTile none p cause r.2
      | .spare => updTile p (fun t => { t with role := .unusable }) r.2
      | _ => r.2
    else r.2

/-- TILE_SELFTEST (R266, R400): the self-test of a tile that is due one, while it is idle. -/
def execTileSelftest (p n : Nat) (s : State) : Host.Outcome State Fault Refusal :=
  actCfe (decide (p < 36)) (s.selftestDue.contains p && tileIdle s p) s
    (testedTile p n 2 { s with selftestDue := s.selftestDue.filter fun q => decide (q ≠ p) })

/-- SELFTEST as an entry: `OK`, or `INTERNAL_FAULT` with the number of faulty columns. -/
def selftestEntry (c n : Nat) (s : State) : State :=
  match ctxOf s c with
  | none => s
  | some x =>
    let p := dProgram x
    let ok := decide ((nth s.tileSt p ⟨.retired, 0, false, 0⟩).cols + n ≤ 15)
    let s := testedTile p n 3 (beginWork c .running s)
    if ok then finish c s else endWith c ⟨stInternalFault, n, 0⟩ s

/-- SELFTEST (R469): the self-test of the physical tile in PROGRAM, once it is idle. -/
def execSelftest (c n : Nat) (s : State) : Host.Outcome State Fault Refusal :=
  actCfe (decide (c < 4096)) (ctxIs (latchAll s) c fun x => entryDue 6 x && tileIdle s (dProgram x)) s (selftestEntry c n (latchAll s))

end Sys2Proof.Machine
end

