-- ==== Sys2Proof/Machine/Array.lean ====
section
/-!
DEFINITION. The array class: SLD, STREAM, DRAIN, PDRAIN, PRELOAD (R230 to R264, R292 to R294).
-/
namespace Sys2Proof.Machine

/-- The key of an invocation's draws: its seed, and its position in farmed and pipelined runs (R386, R390). -/
def drawKey (s : State) (x : Ctx) : LaneKey :=
  ⟨laneKey x.seed, if imgMode (ctxImage s x) = 2 ∨ imgMode (ctxImage s x) = 3 then ctxPosition x else 0⟩

/-- The format a code names; FP32 where it names none, which the checks of an image exclude. -/
def fmtOf (c : Nat) : Fmt := (fmtOfCode c).getD .fp32

/-- The rounding mode a code names. -/
def rndOf (c : Nat) : Rnd := match c with | 0 => .rne | 1 => .rtz | _ => .sr

/-! ## SLD -/

/-- The address of an operand in the Slate or in a home region. -/
def spaceAddr (u : Cursor) (space hreg b : Nat) : Nat := if space = 0 then saAddr u.eng b else homeBase (hregEng u.eng hreg) + b

/-- The tile that an `SLD` loads from memory. -/
def loadTile (u : Cursor) (i : Nat) (o : SldOp) (s : State) : Tile :=
  let f := fmtOf o.fmt
  let a := canon s (spaceAddr u o.space o.hreg (ixByte u i (64 * o.addr)))
  let t : Tile :=
    { fmt := f, trans := decide (o.trans = 1), data := spCut s.mem a (tileLen (elemFmt f)),
      scale := if isMx f then spCut s.mem (sa0 u o.scale) 8192 else [], chk := [] }
  { t with chk := if o.chk = 1 then formChk t
                  else (List.range 512).map fun k =>
                    leNat (spBytes s.mem (canon s (spaceAddr u o.space o.hreg (64 * o.caddr)) + 4 * k) 4) }

/-- SLD (R292, R293): loads a stationary tile with its scales and its checksum column, read or formed. -/
def execSld (x : EngRef) (o : SldOp) (s : State) : Host.Outcome State Fault Refusal :=
  engAct x (.sld o) s fun c u i s =>
    let f := fmtOf o.fmt
    let rs := [(spaceAddr u o.space o.hreg (ixByte u i (64 * o.addr)), tileLen (elemFmt f))] ++
      (if o.chk = 0 then [(spaceAddr u o.space o.hreg (64 * o.caddr), 2048)] else []) ++
      (if isMx f then [(sa0 u o.scale, 8192)] else [])
    reading c u rs (fun s => { s with tiles := spSet noTile u.eng (some (loadTile u i o s)) s.tiles }) s

/-! ## STREAM -/

/-- The result of a pass for one vector: the 512 column codes or sums, and whether its check passes. -/
structure PassOut where
  ints : List Int
  floats : List (Nat × Bool × List Int)
  ok : Bool
  deriving DecidableEq, Repr

/-- One integer vector (R238, R261). -/
def intVec (ts : List (Nat × Nat × Int)) (chk : List Nat) (xs : List Int) : PassOut :=
  let ys := intColumns ts xs
  let z : Int := sumI ((List.range 512).map fun k => signed 32 (nth chk k 0) * nth xs k 0)
  ⟨ys, [], decide (sumI ys = z)⟩

/-- One float or MX vector (R239 to R241, R262, R263). -/
def floatVec (t : Tile) (x : SVec) : PassOut :=
  let ys := floatPass t x
  ⟨[], ys, floatCheck ys (floatChk t x)⟩

/-- The 512 element codes of vector `v` at an address. -/
def vecCodes (s : State) (a v : Nat) (f : Fmt) : List Nat :=
  let b := memRead s (a + v * vecStride (elemFmt f)) (vecStride (elemFmt f))
  (List.range 512).map (unpackElem (fmtBits f) b)

/-- A pass over `n` vectors (R232). -/
def runPass (t : Tile) (a sc n : Nat) (f : Fmt) (s : State) : List PassOut :=
  if isIntFmt t.fmt then
    let ts := tileInts t
    (List.range n).map fun v => intVec ts t.chk ((vecCodes s a v f).map (decodeInt f))
  else (List.range n).map fun v =>
    floatVec t ⟨(vecCodes s a v f).map (decodeElem f), if isMx f then (memRead s (sc + 16 * v) 16).map (·.toNat) else List.replicate 16 127⟩

/-- The slot words of a vector of a pass, and their flags (R242 to R244). -/
def slotWords (acc : Bool) (old : List Nat) (r : PassOut) : List (Nat × Flags) :=
  if r.floats.isEmpty then r.ints.zipIdx.map fun y => accInt acc (nth old y.2 0) y.1
  else r.floats.zipIdx.map fun y =>
    let w := accFloat acc (nth old y.2 0) y.1.1
    (w.1, orFlags w.2 { sat := y.1.2.1 })

/-- Writes a pass into its slot. DESIGN CHOICE (log entry 94): an ACCUMULATE pass into a slot whose words are of the other kind, INT32 or
FP32, takes their bits as of its own kind, which the slot has from then on. -/
def storePass (u : Cursor) (o : StreamOp) (isInt : Bool) (rs : List PassOut) (s : State) : State :=
  let acc := decide (o.mode = 1)
  let ws := rs.zipIdx.map fun r =>
    slotWords acc (if acc then (List.range 512).map (slotWord s u.eng o.slot r.2) else []) r.1
  let old := if acc then ((slotRec s u.eng o.slot).map (·.flags)).getD 0 else 0
  let fl := old ||| flagBits (flagsAll ws.flatten)
  writeSlot u.eng ⟨o.slot, o.v, isInt, fl, 0⟩ (ws.map fun v => v.map (·.1)) s

/-- The streamed vector of an engine's pass that physics upset, and whether a recomputation clears it. -/
def upsetOf (e : Nat) : Upset → Option (Nat × Bool)
  | .none => none
  | .transient f v => if f = e then some (v, true) else none
  | .permanent f v => if f = e then some (v, false) else none

/-- The pass of a `STREAM`, its check, and its slot. -/
def streamPass (c : Ctx) (u : Cursor) (o : StreamOp) (a : Nat) (t : Tile) (up : Option (Nat × Bool)) (s : State) : State :=
  let f := fmtOf o.fmt
  let rs := runPass t a (sa0 u o.scale) (o.v + 1) f s
  let done (s : State) : State := advance c.id u.eng (storePass u o (isIntFmt t.fmt) rs s)
  match findIdx (fun r => !r.ok) rs 0 with
  | some v => (checkOutcome c.id u.eng u.pc v false s).2
  | none =>
    match up with
    | none => done s
    | some (v, recovers) =>
      let q := checkOutcome c.id u.eng u.pc v recovers s
      if q.1 then done q.2 else q.2

/-- STREAM (R232, R264): one pass of V vectors through the latest tile into a slot. A failed check is recomputed; a failure
that recomputation does not clear fails the tile, and the pass is redone after the substitution. -/
def execStream (x : EngRef) (o : StreamOp) (up : Upset) (s : State) : Host.Outcome State Fault Refusal :=
  engAct x (.stream o) s fun c u i s =>
    let f := fmtOf o.fmt
    let a := saIx u i o.sa
    let rs := (a, (o.v + 1) * vecStride (elemFmt f)) :: (if isMx f then [(sa0 u o.scale, 16 * (o.v + 1))] else [])
    let r := engReads c.id u.eng rs s
    if !r.1 then r.2
    else
      let q := if o.mode = 1 then slotReads c.id u.eng o.slot (o.v + 1) r.2 else (true, r.2)
      if !q.1 then q.2
      else match spGet noTile u.eng q.2.tiles with
        | none => q.2
        | some t => streamPass c u o a t (upsetOf u.eng up) q.2

/-! ## DRAIN -/

/-- The value of fused element `j` of a vector at `a`, with its MX scale (R253; log entry 25). -/
def fuseElem (s : State) (o : DrainOp) (f : Fmt) (a v j : Nat) : FVal :=
  let b := memRead s (a + v * vecStride f) (vecStride f)
  let e := decodeElem f (unpackElem (fmtBits f) b j)
  if isMx f then
    let x := (spGet zeroByte (canon s (a + (o.v + 1) * vecStride f + 16 * v + j / 32)) s.mem).toNat
    if x = 255 then .nan else fvScale e ((x : Int) - 127)
  else e

/-- The integer that element `j` of the operand of an INT32 slot stands for where OFMT is no integer format: R253 calls the
operand an integer tensor and gives no reading of such codes, a free value of the stored code and its scale (log entry 25). -/
def fuseOpen (s : State) (o : DrainOp) (f : Fmt) (a v j : Nat) : FVal :=
  let b := memRead s (a + v * vecStride f) (vecStride f)
  let x := if isMx f then (spGet zeroByte (canon s (a + (o.v + 1) * vecStride f + 16 * v + j / 32)) s.mem).toNat else 0
  fvalOfInt (Config.fuseInt o.ofmt (unpackElem (fmtBits f) b j + 2 ^ 32 * x))

/-- The fused operand of a vector: 512 exact values. A top-k drain takes slot words (log entry 25). -/
def fuseVec (s : State) (o : DrainOp) (isInt : Bool) (a v : Nat) : List FVal :=
  if o.topk ≠ 0 then (List.range 512).map fun j => wordVal isInt (leNat (memRead s (a + 2048 * v + 4 * j) 4))
  else if isInt && !isIntFmt (fmtOf o.ofmt) then (List.range 512).map (fuseOpen s o (fmtOf o.ofmt) a v)
  else (List.range 512).map (fuseElem s o (fmtOf o.ofmt) a v)

/-- The words of a vector after the fused operation and the shift (R252 to R254). -/
def fusedWords (o : DrainOp) (isInt : Bool) (ws : List Nat) (ts : List FVal) (rnd : Rnd) (draw : Nat → Nat) : List (Nat × Flags) :=
  let shift (c w : Nat) : Nat := if isInt then unsigned 32 (outShift rnd (draw c) o.shift (signed 32 w)) else w
  if o.fuse = 0 then ws.zipIdx.map fun w => (shift w.2 w.1, {})
  else ws.zipIdx.map fun w =>
    let r := fuseWord isInt o.fuse w.1 (nth ts w.2 (.fin false 0 0))
    (shift w.2 r.1, r.2)

/-- The bytes of a vector, padded to the stride. -/
def padVec (f : Fmt) (cs : List Nat) : List Byte :=
  let b := packElems (fmtBits f) cs
  b ++ zeros (vecStride f - b.length)

/-- The blocks of 32 of a list. -/
def blocks32 {α : Type} (l : List α) : List (List α) := (List.range (ceilDiv l.length 32)).map fun j => (l.drop (32 * j)).take 32

/-- Converted elements with their scales along the columns of each vector (R258, R293, MXDIM = 0). -/
def mxRows (f : Fmt) (rnd : Rnd) (draw : Nat → Nat → Nat) (vs : List (List FVal)) : List (List (Nat × Flags)) × List Nat :=
  let scs := vs.map fun v => (blocks32 v).map (mxScale f)
  ((vs.zip scs).zipIdx.map fun e => e.1.1.zipIdx.map fun w => mxElem f rnd (draw e.2 w.2) (nth e.1.2 (w.2 / 32) 127) w.1, scs.flatten)

/-- Converted elements with their scales along the vectors of each column (MXDIM = 1): per group of 32 vectors, 512 scales. -/
def mxCols (f : Fmt) (rnd : Rnd) (draw : Nat → Nat → Nat) (vs : List (List FVal)) : List (List (Nat × Flags)) × List Nat :=
  let scs := (blocks32 vs).map fun g => (List.range 512).map fun c => mxScale f (g.map fun v => nth v c (.fin false 0 0))
  (vs.zipIdx.map fun e => e.1.zipIdx.map fun w => mxElem f rnd (draw e.2 w.2) (nth (nth scs (e.2 / 32) []) w.2 127) w.1, scs.flatten)

/-- The bytes of converted vectors, and the flags that conversion raised (R255 to R258, R293, R294). -/
def convVecs (f : Fmt) (mxdim : Nat) (rnd : Rnd) (draw : Nat → Nat → Nat) (vs : List (List FVal)) : List Byte × Flags :=
  if isMx f then
    let r := if mxdim = 0 then mxRows f rnd draw vs else mxCols f rnd draw vs
    ((r.1.map fun v => padVec f (v.map (·.1))).flatten ++ (r.2.map (leBytes 1)).flatten, flagsAll r.1.flatten)
  else
    let r := vs.zipIdx.map fun v => v.1.zipIdx.map fun w => convElem f rnd (draw v.2 w.2) w.1
    ((r.map fun v => padVec f (v.map (·.1))).flatten, flagsAll r.flatten)

/-- The words of every vector of a slot after the fused operation. -/
def drainWords (o : DrainOp) (u : Cursor) (isInt : Bool) (rnd : Rnd) (draw : Nat → Nat → Nat) (s : State) :
    List (List (Nat × Flags)) :=
  (List.range (o.v + 1)).map fun v =>
    let ws := (List.range 512).map (slotWord s u.eng o.slot v)
    let ts := if o.fuse = 0 then [] else fuseVec s o isInt (sa0 u o.fuseSa) v
    fusedWords o isInt ws ts rnd (draw v)

/-- Drains a slot through the output path; the flags of the slot and of the conversion enter the stage flag word (R245). -/
def drainSlot (c : Ctx) (u : Cursor) (dst : Nat) (o : DrainOp) (r : SlotRec) (s : State) : State :=
  let rnd := rndOf o.rnd
  let k := drawKey s c
  let draw (v j : Nat) : Nat := laneDraw k v o.srTile (drawPhase s c u) (8192 + o.srStream) j
  let w := drainWords o u r.isInt rnd draw s
  let out : List Byte × Flags :=
    if o.topk ≠ 0 then
      ((w.map fun v => topRecord (o.k + 1) (topRank r.isInt (decide (o.topk = 1)) (v.zipIdx.map fun e => (e.1.1, e.2)))).flatten, {})
    else convVecs (fmtOf o.ofmt) o.mxdim rnd draw (w.map fun v => v.map fun e => wordVal r.isInt e.1)
  let fl := r.flags ||| flagBits (orFlags (flagsAll w.flatten) out.2)
  let slots := (List.range (slotUnits o.v)).foldl (fun m i => spSet noSlot (128 * u.eng + r.slot + i) (some { r with flags := fl }) m) s.slots
  advance c.id u.eng (stageFlags c.id u.eng fl (memWrite dst out.1 { s with slots := slots }))

/-- DRAIN (R252 to R260, R293, R294): the output path. -/
def execDrain (x : EngRef) (o : DrainOp) (s : State) : Host.Outcome State Fault Refusal :=
  engAct x (.drain o) s fun c u i s =>
    let q := engReads c.id u.eng (if o.fuse = 0 then [] else [(sa0 u o.fuseSa, fuseLen o)]) s
    if !q.1 then q.2
    else
      let q := slotReads c.id u.eng o.slot (o.v + 1) q.2
      if !q.1 then q.2
      else drainSlot c u (saIx u i o.sa) o ((slotRec q.2 u.eng o.slot).getD ⟨o.slot, o.v, false, 0, 0⟩) q.2

/-- The bytes of a slot in the partial format (R250). -/
def partialBytes (s : State) (e slot v flags : Nat) : List Byte :=
  ((List.range v).map fun i => ((List.range 512).map fun j => leBytes 4 (slotWord s e slot i j)).flatten).flatten ++ leBytes 64 flags

/-- A slot goes to the Slate in the partial format; its flags enter the stage flag word (R245), and whether it held INT32 or
FP32 words is kept with its address, since the partial format has no room for it (log entry 78). -/
def pdrainSlot (c : Ctx) (u : Cursor) (a : Nat) (o : PdrainOp) (s : State) : State :=
  let r := (slotRec s u.eng o.slot).getD ⟨o.slot, o.v, false, 0, 0⟩
  let s1 := memWrite a (partialBytes s u.eng o.slot (o.v + 1) r.flags) s
  advance c.id u.eng (stageFlags c.id u.eng r.flags { s1 with partials := spSet noPartial a (some r.isInt) s1.partials })

/-- PDRAIN (R250): copies a slot to the Slate in the partial format. -/
def execPdrain (x : EngRef) (o : PdrainOp) (s : State) : Host.Outcome State Fault Refusal :=
  engAct x (.pdrain o) s fun c u i s =>
    let q := slotReads c.id u.eng o.slot (o.v + 1) s
    if !q.1 then q.2
    else pdrainSlot c u (saIx u i o.sa) o q.2

/-- Restores a slot from the partial format: words of the kind that was drained to the address, or, where no slot was, of the
kind that the slot holds. -/
def preloadSlot (u : Cursor) (o : PreloadOp) (a : Nat) (s : State) : State :=
  let b := memRead s a (2048 * (o.v + 1) + 64)
  let ws := (List.range (o.v + 1)).map fun v => (List.range 512).map fun j => leAt b (2048 * v + 4 * j) 4
  let isInt := (spGet noPartial a s.partials).getD (((slotRec s u.eng o.slot).map (·.isInt)).getD false)
  writeSlot u.eng ⟨o.slot, o.v, isInt, leAt b (2048 * (o.v + 1)) 1 % 32, 0⟩ ws s

/-- PRELOAD (R250): restores the words and the flags of a slot exactly. -/
def execPreload (x : EngRef) (o : PreloadOp) (s : State) : Host.Outcome State Fault Refusal :=
  engAct x (.preload o) s fun c u i s =>
    reading c u [(saIx u i o.sa, 2048 * (o.v + 1) + 64)] (preloadSlot u o (saIx u i o.sa)) s

end Sys2Proof.Machine
end

