-- ==== Sys2Proof/Machine/Package.lean ====
section
/-!
DEFINITION. Mirrors of multi-device runs (R363, R364, R519, R520): run packages and shares of the problem image as bytes (log entry
24), and what a holder does with them in its mirror area.
-/
namespace Sys2Proof.Machine

/-! ## The run package (R364) -/

/-- The argument block that an invocation's entries came from (R436). -/
def argBytes (x : Ctx) : List Byte :=
  let part (n : Nat) (l : List (List Byte)) : List Byte := (l.flatten ++ zeros n).take n
  part 0x80 (x.waits.map fun w => leBytes 8 w.thresh ++ leBytes 8 w.addr ++ leBytes 2 w.sem ++ leBytes 1 w.kind ++ leBytes 1 w.tmo ++ zeros 12) ++
    part 0x80 (x.signals.map fun g => leBytes 8 g.value ++ leBytes 8 g.addr ++ leBytes 2 g.sem ++ leBytes 1 g.kind ++ leBytes 1 g.op ++ zeros 12) ++
    part 0x100 (x.inputs.map fun i => leBytes 8 i.src ++ leBytes 8 i.dst ++ leBytes 8 (i.len + (if i.srcDev then 2 ^ 63 else 0)) ++ leBytes 8 i.digest)

/-- What is left of a range without another. -/
def cutRange (q r : Nat × Nat) : List (Nat × Nat) :=
  if r.1 + r.2 ≤ q.1 ∨ q.1 + q.2 ≤ r.1 then [q]
  else [(q.1, r.1 - q.1), (r.1 + r.2, q.1 + q.2 - (r.1 + r.2))].filter fun x => decide (0 < x.2)

/-- What is left of a range without several others. -/
def cutRanges (q : Nat × Nat) (rs : List (Nat × Nat)) : List (Nat × Nat) := rs.foldl (fun l r => (l.map fun x => cutRange x r).flatten) [q]

/-- The device-address ranges that a package carries: the input buffers, the lower Slate halves, and of the home regions the blocks that
the written map marks, but for what the anneal of problem `p` places itself (R364, R510). -/
def packageRanges (s : State) (x : Ctx) (p : Option Prob) : List (Nat × Nat) :=
  let es := ctxEngines s x
  let blocks (e : Nat) : List (Nat × Nat) :=
    let own := match p with | some q => if e < eUse q.segCount q.engReq then annealRanges q e else [] | none => []
    ((List.range 512).filter fun b => s.written.contains (512 * tileOf s e + b)).map (fun b => cutRanges (2 ^ 21 * b, 2 ^ 21) own) |>.flatten
  (x.inputs.map fun i => (i.dst, i.len)) ++ (es.map fun e => (slateBase e, 0x1000000)) ++
    (match p with | some _ => (es.map fun e => (blocks e).map fun r => (homeBase e + r.1, r.2)).flatten | none => [])

/-- The nonzero bytes of a device-address range, by offset; what a range does not list of itself is zero. -/
def rangeCells (s : State) (a n : Nat) : List (Nat × Byte) :=
  ((pieces s 34 a n).foldl (fun (r : List (Nat × Byte) × Nat) q =>
    (r.1 ++ (spRange q.1 q.2 s.mem).map fun c => (c.1 - q.1 + r.2, c.2), r.2 + q.2)) ([], 0)).1

/-- A byte string with its length before it. -/
def encBytes (b : List Byte) : List Byte := leBytes 8 b.length ++ b
def decBytes (b : List Byte) : List Byte × List Byte := let n := leAt b 0 8; ((b.drop 8).take n, b.drop (8 + n))

/-- A range with its contents as bytes, and back. -/
def encRange (s : State) (r : Nat × Nat) : List Byte :=
  let cs := rangeCells s r.1 r.2
  leBytes 8 r.1 ++ leBytes 8 r.2 ++ leBytes 8 cs.length ++ (cs.map fun c => leBytes 8 c.1 ++ leBytes 1 c.2.toNat).flatten

/-- Where the engines of a program stand, as bytes: an ANNEAL stage is found again by it (R368, log entry 24). -/
def encCurs (l : List Cursor) : List Byte :=
  leBytes 4 l.length ++ (l.map fun u => leBytes 4 u.eng ++ leBytes 4 u.pc ++ leBytes 4 u.stage ++ leBytes 4 u.frames.length ++
    (u.frames.map fun f => leBytes 4 f.loop.start ++ leBytes 4 f.iter).flatten).flatten

/-- A cursor from bytes, by the loops of its program, and the rest. -/
def decCur (img : List Byte) (b : List Byte) : Cursor × List Byte :=
  let e := leAt b 0 4
  let n := leAt b 12 4
  let loops := ((scanLoops (engProg img e) 0 []).map fun i => i.2.2).flatten
  let fr (i : Nat) : Option Frame := (loops.find? fun l => decide (l.start = leAt b (16 + 8 * i) 4)).map fun l => ⟨l, leAt b (20 + 8 * i) 4⟩
  ({ startCur img e with pc := leAt b 4 4, stage := leAt b 8 4, frames := (List.range n).filterMap fr }, b.drop (16 + 8 * n))

/-- Reads what a run package carries through its codes (R524); the words that a read cannot correct are recovered. True where all read. -/
def packageReads (s : State) (x : Ctx) (p : Option Prob) : Bool × State :=
  engReads x.id ((ctxEngines s x).headD 0) (packageRanges s x p) s

/-- The run package of an invocation (R364), with the digests that a spare compares. -/
def packageBytes (s : State) (x : Ctx) (p : Option Prob) : List Byte :=
  let rs := packageRanges s x p
  encBytes (ctxImage s x) ++ encBytes x.desc ++ encBytes (argBytes x) ++ encBytes x.inputDigest ++ encBytes (x.inDigests.flatten) ++
    encBytes (((progOf s x).map (·.digest)).getD []) ++ encBytes ((p.map (·.digest)).getD []) ++ leBytes 8 x.seed ++
    leBytes 4 x.budget ++ leBytes 4 (x.md.map (·.timeoutUs) |>.getD 0) ++ leBytes 4 (x.md.map (·.ckptPhases) |>.getD 0) ++
    encCurs x.curs ++ leBytes 4 rs.length ++ (rs.map (encRange s)).flatten

/-- A run package taken apart; `ranges`: address, length, contents. -/
structure Package where
  image : List Byte
  desc : List Byte
  args : List Byte
  digest : List Byte
  inDigests : List (List Byte)
  program : List Byte
  coeff : List Byte
  seed : Nat
  budget : Nat
  timeoutUs : Nat
  ckptPhases : Nat
  curs : List Cursor
  ranges : List (Nat × Nat × List (Nat × Byte))
  deriving DecidableEq, Repr

/-- A range from bytes, and the rest. -/
def decRange (b : List Byte) : (Nat × Nat × List (Nat × Byte)) × List Byte :=
  let n := leAt b 16 8
  ((leAt b 0 8, leAt b 8 8, (List.range n).map fun i => (leAt b (24 + 9 * i) 8, BitVec.ofNat 8 (leAt b (32 + 9 * i) 1))), b.drop (24 + 9 * n))

/-- A run package from bytes. -/
def decPackage (b : List Byte) : Package :=
  let a := decMany decBytes 7 b
  let g (i : Nat) : List Byte := nth a.1 i []
  let r := a.2
  let cs := decMany (decCur (g 0)) (leAt r 20 4) (r.drop 24)
  { image := g 0, desc := g 1, args := g 2, digest := g 3,
    inDigests := (List.range ((g 4).length / 32)).map fun i => slice (g 4) (32 * i) 32,
    program := g 5, coeff := g 6, seed := leAt r 0 8, budget := leAt r 8 4, timeoutUs := leAt r 12 4, ckptPhases := leAt r 16 4,
    curs := cs.1, ranges := (decMany decRange (leAt cs.2 0 4) (cs.2.drop 4)).1 }

/-- Places a range of a package: every byte of it, the ones that it does not list as zeros. -/
def placeRange (s : State) (r : Nat × Nat × List (Nat × Byte)) : State :=
  ((pieces s 34 r.1 r.2.1).foldl (fun (a : State × Nat) q =>
    let t := noteWritten q.1 q.2 a.1
    let cs := r.2.2.filter fun c => decide (a.2 ≤ c.1) && decide (c.1 < a.2 + q.2)
    (armRun q.1 q.2 { t with mem := cs.foldl (fun m c => spSet zeroByte (c.1 - a.2 + q.1) c.2 m) (spClear q.1 q.2 t.mem), marks := spClear q.1 q.2 t.marks },
      a.2 + q.2)) (s, 0)).1

/-- Places the ranges of a package. -/
def placeRanges (l : List (Nat × Nat × List (Nat × Byte))) (s : State) : State := l.foldl placeRange s

/-! ## Shares of the problem image (R363) -/

/-- A holder's share of an image of `len` bytes at `at_`, of `p` holders: coupling tile t goes to holder t mod p; the first also gets every
other section, after four numbers that tell where the tiles stand. -/
def imageShare (s : State) (q : Prob) (p i : Nat) : List Byte :=
  let o := secOff s q 0
  let tb := tileBytes q.width
  let nt := q.segCount * (q.n / 512)
  let e := o + nt * tb
  (if i = 0 then leBytes 8 o ++ leBytes 8 tb ++ leBytes 8 nt ++ leBytes 8 q.imageLen ++ memRead s q.imageAddr o ++
     memRead s (q.imageAddr + e) (q.imageLen - e) else []) ++
    (((List.range nt).filter fun t => decide (t % p = i)).map fun t => memRead s (q.imageAddr + o + t * tb) tb).flatten

/-- The image that shares spell. -/
def imageOf (shares : List (List Byte)) : List Byte :=
  let h := shares.headD []
  let o := leAt h 0 8
  let tb := leAt h 8 8
  let nt := leAt h 16 8
  let tail := leAt h 24 8 - (o + nt * tb)
  let p := max 1 shares.length
  let tiles := shares.zipIdx.map fun e => if e.2 = 0 then e.1.drop (32 + o + tail) else e.1
  (h.drop 32).take o ++ ((List.range nt).map fun t => slice (nth tiles (t % p) []) (t / p * tb) tb).flatten ++ (h.drop (32 + o)).take tail

/-- The bytes that a checkpoint of a run can take at most (R360). -/
def ckptMax (q : Prob) (ps : Params) : Nat :=
  let rows := q.rows.length
  let segs := q.n / 512
  let top := 28 + 64 * segs
  4096 + q.replicas * (256 + 132 * segs + 16 * rows) + 8 * rows + (8 + q.replicas * (1 + ps.rat.epoch)) * top + 16 * segs

/-! ## A holder (R363, R519, R520) -/

/-- The mirror of a device's run. -/
def mirrorOf (s : State) (dev run : Nat) : Option Mirror := s.net.mirrors.find? fun m => decide (m.dev = dev) && decide (m.runId = run)

/-- Changes a mirror. -/
def updMirror (dev run : Nat) (f : Mirror → Mirror) (s : State) : State :=
  updNet (fun n => { n with mirrors := n.mirrors.map fun m => if m.dev = dev ∧ m.runId = run then f m else m }) s

/-- The mirror area of the device reserve (R519): 22 GiB after the switch slots. -/
def mirrorArea (s : State) : Nat := usable s - 0x600000000

/-- A length in whole words. -/
def wordsUp (n : Nat) : Nat := ceilDiv n 32 * 32

/-- The bytes that a mirror takes: its share of the image, the package, two checkpoints. -/
def mirrorLen (img pkg ck : Nat) : Nat := wordsUp img + wordsUp pkg + 2 * wordsUp ck

/-- Where the parts of a mirror stand. -/
def mirrorImg (m : Mirror) : Nat := m.base
def mirrorPkg (m : Mirror) : Nat := m.base + wordsUp m.imgLen
def mirrorCk (m : Mirror) (num : Nat) : Nat := m.base + wordsUp m.imgLen + wordsUp m.pkgLen + num % 2 * wordsUp m.ckLen

/-- The first gap of the mirror area that takes `n` bytes beside other mirrors. -/
def mirrorGap (s : State) (ms : List Mirror) (n : Nat) : Option Nat :=
  let ends := (ms.map fun m => m.base + mirrorLen m.imgLen m.pkgLen m.ckLen)
  (sortBy (fun a b => decide (a < b)) (mirrorArea s :: ends)).find? fun o =>
    decide (o + n ≤ mirrorArea s + 22 * 2 ^ 30) &&
      ms.all fun m => decide (o + n ≤ m.base) || decide (m.base + mirrorLen m.imgLen m.pkgLen m.ckLen ≤ o)

/-- A part of a checkpoint has come: of a new one, or of one that a run that went back to an earlier point takes again, it takes the place
of the one before the last (R360, R363). -/
def noteCkpt (num total len : Nat) (l : List (Nat × Nat × Nat)) : List (Nat × Nat × Nat) :=
  if l.any fun e => decide (e.1 = num) && decide (e.2.2 < e.2.1) then l.map fun e => if e.1 = num then (num, total, e.2.2 + len) else e
  else (num, total, len) :: l.filter fun e => decide (e.1 % 2 ≠ num % 2)

/-- A part of the image, the package or a checkpoint of a mirror that this device holds goes into the mirror area. -/
def mirrorPiece (m : Mirror) (i : InMsg) (s : State) : State :=
  let kind := leAt i.data 8 1
  let num := leAt i.data 9 8
  let b := i.data.drop 17
  let off := leAt b 0 8
  let d := b.drop 16
  if kind = mkImage then updMirror m.dev m.runId (fun m => { m with gotImg := m.gotImg + d.length }) (writeCanon (mirrorImg m + off) d s)
  else if kind = mkPackage then updMirror m.dev m.runId (fun m => { m with gotPkg := m.gotPkg + d.length }) (writeCanon (mirrorPkg m + off) d s)
  else updMirror m.dev m.runId (fun m => { m with ckpts := noteCkpt num (leAt b 8 8) d.length m.ckpts }) (writeCanon (mirrorCk m num + off) d s)

/-- A delivered message is a part of a mirror of a device's run. -/
def isPiece (dev run : Nat) (i : InMsg) : Bool :=
  decide (i.cls = 3) && decide (i.src = dev) && decide (leAt i.data 0 8 = run) &&
    [mkImage, mkPackage, mkCkpt].contains (leAt i.data 8 1)

/-- The parts of a mirror that came before its offer. -/
def earlyPieces (dev run : Nat) (s : State) : State :=
  let got := s.net.inbox.filter (isPiece dev run)
  let s := updNet (fun n => { n with inbox := n.inbox.filter fun i => !isPiece dev run i }) s
  got.foldl (fun s i => match mirrorOf s dev run with | some m => mirrorPiece m i s | none => s) s

/-- An offer of a mirror is accepted, beside those of the device's other runs under way, or refused (R520). -/
def takeOffer (dev run img pkg ck : Nat) (live : List Nat) (s : State) : State :=
  let ms := s.net.mirrors.filter fun m => decide (m.dev ≠ dev) || (decide (m.runId ≠ run) && live.contains m.runId)
  let g := mirrorGap s ms (mirrorLen img pkg ck)
  let s := match g with
    | some b => updNet (fun n => { n with mirrors := ms ++ [⟨dev, run, b, img, pkg, ck, 0, 0, []⟩] }) s
    | none => s
  earlyPieces dev run (sendMsg dev 3 0 (runMsg run mkAnswer 0 (leBytes 1 (b2n g.isSome))) s)

/-- A delivered class-3 message of a mirror: an offer, or a part of the image, of the package or of a checkpoint, which goes into the
mirror area; a part that comes before its offer waits for it. True where it was one. -/
def mirrorMessage (i : InMsg) (s : State) : Bool × State :=
  let run := leAt i.data 0 8
  let b := i.data.drop 17
  if i.cls ≠ 3 then (false, s)
  else if leAt i.data 8 1 = mkOffer then (true, takeOffer i.src run (leAt b 0 8) (leAt b 8 8) (leAt b 16 8) (decNats (b.drop 24)).1 s)
  else if isPiece i.src run i then
    match mirrorOf s i.src run with
    | none => (false, s)
    | some m => (true, mirrorPiece m i s)
  else (false, s)

/-- The bytes of one message of a mirror's transfer: what R334 lets a message hold, less its head. -/
def pieceLen : Nat := 0x8000000

/-- Sends bytes to a device as messages of a kind, each with its place in the whole and the whole's length (R334). -/
def sendPieces (run h kind num : Nat) (b : List Byte) (s : State) : State :=
  (List.range (ceilDiv b.length pieceLen)).foldl (fun s i =>
    sendMsg h 3 0 (runMsg run kind num (leBytes 8 (i * pieceLen) ++ leBytes 8 b.length ++ (b.drop (i * pieceLen)).take pieceLen)) s) s

/-- The runs that a device takes part in. -/
def liveRuns (s : State) : List Nat := s.ctxs.filterMap fun x => if x.status.isNone then x.md.map (·.runId) else none

/-- Offers a mirror to a holder: how much it takes, and which runs of this device are under way. -/
def sendOffer (run h img pkg ck : Nat) (s : State) : State :=
  sendMsg h 3 0 (runMsg run mkOffer 0 (leBytes 8 img ++ leBytes 8 pkg ++ leBytes 8 ck ++ encNats (liveRuns s))) s

/-- Asks a device for what this one holds of it: of every run, as the stand-in of device `old`, or of one run (R372, R537). -/
def askAgain (dev run old : Nat) (all : Bool) (s : State) : State :=
  sendMsg dev 3 0 (runMsg run mkAgain old (leBytes 1 0 ++ leBytes 1 (b2n all))) s

/-- A word of a mirror that is held for a neighbour has no good value: the mirror is rebuilt from the neighbour, and is not whole until
then (R531, R537). -/
def rebuildMirror (w : Nat) (s : State) : State :=
  (s.net.mirrors.filter fun m => decide (m.base < w + wordLen w) && decide (w < m.base + mirrorLen m.imgLen m.pkgLen m.ckLen)).foldl
    (fun s m => askAgain m.dev m.runId (selfId s) false
      (updMirror m.dev m.runId (fun m => { m with gotImg := 0, gotPkg := 0, ckpts := [] }) s)) s

/-- A checkpoint of the run is still on its way to a holder (R361). -/
def ckptInFlight (s : State) (m : MdRun) : Bool :=
  s.net.out.any fun o => decide (o.cls = 3) && decide (leAt o.data 0 8 = m.runId) && decide (leAt o.data 8 1 = mkCkpt)

end Sys2Proof.Machine
end

