-- ==== Sys2Proof/Machine/AnnealLoad.lean ====
section
/-!
DEFINITION. `PLOAD` (R302): the load step of R72 to R76, the initial states, fields and energies, and what the devices of a run share at
its start.
-/
namespace Sys2Proof.Machine

/-! ## The checks of `PLOAD` -/

/-- The location of a check of the `PLOAD` instruction itself (R693). -/
def ploadLoc (s : State) (x : Ctx) : Loc :=
  let e := (mainEngines (ctxImage s x)).headD 0
  ⟨2, ((curOf x e).map (·.pc)).getD 0, some e⟩

/-- The range of device memory that a read problem lies in, with its bytes at address 0. -/
def viewOf (s : State) (a n : Nat) : Sparse Byte :=
  ((pieces s 34 a n).foldl (fun (acc : Sparse Byte × Nat) p =>
    (acc.1 ++ (spRange p.1 p.2 s.mem).map (fun e => (e.1 - p.1 + acc.2, e.2)), acc.2 + p.2)) ([], 0)).1

/-- The devices that share a problem, and this device's position among them (R61). -/
def spanOf (s : State) (x : Ctx) : Nat × Nat :=
  if isSpanned s x then ((x.md.map (·.devices.length)).getD 1, (x.md.map (·.position)).getD 0) else (1, 0)

/-- The rungs of a run, and the global index of its replica 0 (R191). -/
def rungsOf (s : State) (x : Ctx) (replicas : Nat) : Nat × Nat :=
  match x.md with
  | some m => if isFarmed s x then (m.devices.length * replicas, m.position * replicas) else (replicas, 0)
  | none => (replicas, 0)

/-- The bytes from the result area's start that `RESULT`, `CERT` and a follow-up write. -/
def resultReach (x : Ctx) (len : Nat) : Nat :=
  if flCert x then up64 len + (if isBell x then 1024 else 512) else len

/-- What the programs of an invocation reach (R517). -/
def progReach (x : Ctx) : Reach := if onMaint x then .maint else .program

/-- The result area and the certificates fit where they go: in the device address map, and in the slot of a Bell release
(R313, R485). -/
def resultPlaceBad (s : State) (x : Ctx) (p : Prob) : Option Loc :=
  match nextResult s x with
  | none => none
  | some o =>
    let k := (rungsOf s x p.replicas).1
    let len := resultLength p.replicas p.segCount 8 k p.rows.length (isSpanned s x)
    if !mapOk s (progReach x) (daOf x o.da) (resultReach x len) then some (ploadLoc s x)
    else if isBell x && decide (bkStride x.regBlock < up64 len + 1024) then some ⟨3, 0, none⟩
    else none

/-- A spilled problem's image does not lie wholly in host-managed LPDDR6 (R75). -/
def spillPlaceBad (s : State) (h : ProbHdr) (a : Nat) : Bool :=
  spills h && decide (((placeOf s a).map placeKind) ≠ some 0)

/-- The checks of R75, R85, R124, R156, R196, R485 and R489, and the problem they pass (log entry 31). -/
def ploadCheck (s : State) (x : Ctx) (o : PloadOp) : Except Loc Prob :=
  let img := ctxImage s x
  let a := 64 * o.da
  let d := spanOf s x
  let h := readHdr (viewOf s a 128) 0
  let set := psetBytes img o.apb
  let ps := readParams set
  let base := (psetEntry img o.apb).1
  let e3 (l : Option Nat) : Option Loc := l.map fun n => ⟨3, n, none⟩
  let e4 (l : Option Nat) : Option Loc := l.map fun n => ⟨4, base + n, none⟩
  let fail (b : Bool) (l : Loc) : Option Loc := if b then some l else none
  let first := firstSome
    [fail (!mapOk s (progReach x) a 128) (ploadLoc s x), e3 (chkHeader (viewOf s a 128) 0 h), e3 (chkShape h (eImg img) d.2 d.1),
     fail (!mapOk s (progReach x) a (imageLen h)) (ploadLoc s x)]
  match first with
  | some l => .error l
  | none =>
    let m := viewOf s a (imageLen h)
    let p := { readProb m 0 (if ps.rot.pwEnable = 1 then some ps.rot.pwCeil else none) with imageAddr := a }
    match firstSome
      [e3 (loadCheck m 0 (eImg img) d.2 d.1), fail (spillPlaceBad s h a) (ploadLoc s x),
       e4 (paramCheck set),
       e4 (paramLoadCheck ps set.length (rungsOf s x p.replicas).1 p.replicas (!isMulti x) (flFree x) (p.rows.map (·.lam))),
       fail (isBell x && (decide (bkCoeff x.regBlock < h.segCount * h.segs * tileBytes h.width) ||
         decide (bkRows x.regBlock < h.entryCount))) ⟨3, 0, none⟩,
       firstSome ((progEngines img).map fun e =>
         (indexCheck img (phasesPerSweep h.segCount h.engReq) x.budget e).map fun i => ⟨2, i, some e⟩),
       resultPlaceBad s x p] with
    | some l => .error l
    | none => .ok p

/-! ## What devices of a spanned run share at load (R76; initial states: log entry 32) -/

/-- The elements of a tile, row by row; or column by column. -/
def tileElems (p : Prob) (g b : Nat) (byCol : Bool) : List Int :=
  let rows := (List.range 512).map fun i => nth p.coup (512 * g + i) []
  let at_ (i j : Nat) : Int := rowAt (nth rows i []) (512 * b + j)
  ((List.range 512).map fun i => (List.range 512).map fun j => if byCol then at_ j i else at_ i j).flatten

/-- Pairs of INT4 elements as bytes. -/
def nibbles : List Int → List Byte
  | x :: y :: l => leBytes 1 (unsigned 4 x + 16 * unsigned 4 y) ++ nibbles l
  | _ => []

/-- The bytes of a tile's elements in its width. -/
def elemBytes (width : Nat) (l : List Int) : List Byte :=
  match width with
  | 0 => nibbles l
  | 1 => (l.map fun v => leBytes 1 (unsigned 8 v)).flatten
  | _ => (l.map fun v => leBytes 2 (unsigned 16 v)).flatten

/-- The tile pairs that two positions split, the lower position's segment first. -/
def splitPairs (segs lo hi : Nat) : List (Nat × Nat) :=
  ((List.range segs).map fun i => (List.range segs).map fun j => (lo * segs + i, hi * segs + j)).flatten

/-- The digests of this device's tiles of the pairs it splits with a position: columns on the lower position, rows on the
higher (R76). -/
def pairDigests (p : Prob) (me other : Nat) : List (List Byte) :=
  let lower := decide (me < other)
  (splitPairs p.segCount (min me other) (max me other)).map fun ab =>
    let mine := if lower then ab.1 else ab.2
    let theirs := if lower then ab.2 else ab.1
    shake256 (elemBytes p.width (tileElems p (mine - p.segFirst) theirs lower)) 32

/-- The digest of the row headers: targets and penalty weights (log entry 30). -/
def rowsDigest (p : Prob) : List Byte :=
  shake256 (p.rows.map fun r => leBytes 4 (unsigned 32 r.t) ++ leBytes 2 r.lam ++ zeros 2).flatten 32

/-- What this device sends another at load: the digests, and its initial states. -/
def shareBody (p : Prob) (me other : Nat) (own : List (List Nat)) : List Byte :=
  rowsDigest p ++ (pairDigests p me other).flatten ++ ((own.map fun st => (st.map (leBytes 64)).flatten).flatten)

/-- The location of the first digest that differs from a position's. -/
def shareBad (p : Prob) (offs : List Nat) (me other : Nat) (b : List Byte) : Option Nat :=
  let ps := splitPairs p.segCount (min me other) (max me other)
  let mine := pairDigests p me other
  firstSome
    ([failIf (decide (b.take 32 ≠ rowsDigest p)) (nth offs 5 0)] ++
      (List.range ps.length).map fun i =>
        let ab := nth ps i (0, 0)
        let a := if me < other then ab.1 else ab.2
        let c := if me < other then ab.2 else ab.1
        failIf (decide (slice b (32 + 32 * i) 32 ≠ nth mine i []))
          (nth offs 0 0 + ((a - p.segFirst) * (p.n / 512) + c) * tileBytes p.width))

/-- The initial states in a share. -/
def shareStates (p : Prob) (b : List Byte) : List (List Nat) :=
  let o := 32 + 32 * p.segCount * p.segCount
  (List.range p.replicas).map fun r => (List.range p.segCount).map fun g => leAt b (o + 64 * (r * p.segCount + g)) 64

/-! ## Initial states -/

/-- The normalised initial states of the owned segments, and the groups that were normalised (R57, R58, R74). -/
def initialStates (p : Prob) (k : LaneKey) : List (List Nat) × Nat :=
  let rs := (List.range p.replicas).map fun r => (List.range p.segCount).map fun g =>
    normSegment p g (if p.initial.isEmpty then drawnState k r (p.segFirst + g) else nth (nth p.initial r []) g 0)
  (rs.map fun r => r.map (·.1), sumN (rs.map fun r => sumN (r.map (·.2))))

/-- The bound B_i of R51 from the whole rows' sums of |w|. -/
def boundWith (p : Prob) (lmax : List Nat) (rowAbs : List Int) (i : Nat) : Int :=
  let gi := 512 * p.segFirst + i
  sumI ((nth p.coup i []).map fun e => (e.2.natAbs : Int)) + (nth p.bias i 0).natAbs +
  sumI ((varEntries p.rows gi).map fun e =>
    2 * lamAt lmax e.1 * (e.2.natAbs : Int) *
      (nth rowAbs e.1 0 - (e.2.natAbs : Int) + ((((p.rows[e.1]?).map fun (r : Row) => r.t).getD 0).natAbs : Int)))

/-! ## The run at its start -/

/-- A run whose load is still under way. -/
def loadingRun (s : State) (x : Ctx) (o : PloadOp) (p : Prob) (spins : List (List Nat)) (resid : List (List Int)) (norm : Nat) : Anneal :=
  let ps := readParams (psetBytes (ctxImage s x) o.apb)
  let k := rungsOf s x p.replicas
  let lam := p.rows.map (·.lam)
  let st := statAdd (List.replicate stCount 0) stNormalised norm
  let st := statMax st stSatPossible (b2n p.satPossible)
  { apb := o.apb, ps := ps, prob := p, key := drawKey s x, budget := x.budget, limit := x.sweepLimit, kRungs := k.1, gBase := k.2,
    spins := spins,
    fields := (List.range p.replicas).map fun r => (List.range p.segCount).map fun g => (List.range 512).map fun j =>
      fieldOf p lam (nth spins r []) (nth resid r []) (512 * g + j),
    resid := resid, energy := [], lam := lam, n := 0, sweep := 0, hIdx := 0, pos := .over, visits := [], deltas := [],
    accepted := [], dl := [], marked := false, rungs := List.range k.1, codes := baseCodes ps k.1,
    est := List.replicate (k.1 - 1) ps.rat.target, rounds := 0, best := [], top := [], stall := 0,
    trips := updAt (List.replicate k.1 0) 0 fun _ => 1, stats := st, snap := st,
    exSum := List.replicate p.replicas 0, exMax := List.replicate p.replicas 0, snapSum := List.replicate p.replicas 0,
    snapMax := List.replicate p.replicas 0, stop := none, satPhase := 0, start := ⟨[], [], [], [], [], []⟩, formed := [],
    kept := [], staged := [], redo := [], topKeys := [], gathered := [], ckptIdx := 0,
    ckptEvery := (x.md.map (·.ckptPhases)).getD (reg s pgCfe 0x104), ckpts := [], offers := [], loading := true, part := 0, pwDue := false,
    applied := [], resultDone := false, resultAddr := 0 }

/-- A combine by addition over the devices of a spanned run; elsewhere the value itself. -/
def spanSum (c : Nat) (v : List Int) (s : State) : Option (List Int) × State :=
  if ctxIs s c (isSpanned s) then combine c addLists v s else (some v, s)

/-- A combine by concatenation over the devices of a farmed run; elsewhere the value itself. -/
def farmGather (c : Nat) (v : List Int) (s : State) : Option (List Int) × State :=
  if ctxIs s c (isFarmed s) then combine c (fun a b => a ++ b) v s else (some v, s)

/-- The owned part of a state. -/
def ownState (p : Prob) (st : List Nat) : List Nat := (st.drop p.segFirst).take p.segCount

/-- Top-eight entries as numbers, for a combine, and back. -/
def topInts (t : TopEntry) : List Int :=
  [t.energy, (t.gri : Int), (t.sweeps : Int)] ++
    (t.state.map fun m => (List.range 4).map fun i => signed 128 (m / 2 ^ (128 * i) % 2 ^ 128)).flatten
def intsTop (segs : Nat) (l : List Int) : TopEntry :=
  ⟨nth l 0 0, (nth l 1 0).toNat, (nth l 2 0).toNat, (List.range segs).map fun g =>
    sumN ((List.range 4).map fun i => unsigned 128 (nth l (3 + 4 * g + i) 0) * 2 ^ (128 * i))⟩
def intsTops (segs : Nat) (l : List Int) : List TopEntry :=
  (List.range (l.length / (3 + 4 * segs))).map fun i => intsTop segs ((l.drop (i * (3 + 4 * segs))).take (3 + 4 * segs))

/-- Offers in ascending global replica index; those of one replica, which a farmed barrier may bring from several sweeps, in the order
of their sweeps (DESIGN CHOICE, log entry 98). -/
def griOrder (l : List TopEntry) : List TopEntry := sortBy (fun a b => decide (a.gri < b.gri) || (decide (a.gri = b.gri) && decide (a.sweeps < b.sweeps))) l

/-! ## `PLOAD` step by step -/

/-- Ends an invocation at a failed check. -/
def ploadFails (c : Nat) (l : Loc) (s : State) : State := endWith c (invalidAt l) s

/-- The parameters of a load. -/
def loadParams (s : State) (x : Ctx) (apb : Nat) : Params := readParams (psetBytes (ctxImage s x) apb)

/-- Sends what the devices share at load, takes the run package and offers the mirror (R76, R363, R364). -/
def ploadShare (c : Nat) (x : Ctx) (m : MdRun) (o : PloadOp) (p : Prob) (own : List (List Nat)) (s : State) : State :=
  let ps := loadParams s x o.apb
  let q := if mirrored s m then packageReads s x (some p) else (true, s)
  if !q.1 then q.2 else
  let s := q.2
  let pkg := if mirrored s m then packageBytes s x (some p) else []
  let s := updMd c (fun m => { m with shareSent := true, package := pkg, timeoutUs := clampTimeout (largestAnneal s x m p ps) m.timeoutUs }) s
  let s := if isSpanned s x then
      (others m).foldl (fun s q => sendRun c q 1 mkTileDigest 0 (shareBody p m.position q own) s) s
    else s
  if mirrored s m then
    let hs := liveHolders s (selfId s)
    hs.zipIdx.foldl (fun s h =>
      sendOffer m.runId h.1 (imageShare s p hs.length h.2).length (if h.2 = 0 then pkg.length else 0) (ckptMax p ps) s) s
  else s

/-- The answer of a mirror holder to an offer. -/
def offerAnswer (s : State) (run h : Nat) : Option Nat :=
  (s.net.inbox.find? (isRunMsg run h mkAnswer 0)).map fun i => leAt i.data 17 1

/-- The positions whose share has not arrived, and whether a holder's answer is missing. -/
def shareMissing (s : State) (x : Ctx) (m : MdRun) : List Nat × Bool :=
  ((if isSpanned s x then (others m).filter fun q => (gotRun s m q mkTileDigest 0).isNone else []),
    mirrored s m && (liveHolders s (selfId s)).any fun h => (offerAnswer s m.runId h).isNone)

/-- The states of every segment: the device's own and those that the shares give. -/
def allSpins (s : State) (x : Ctx) (p : Prob) (own : List (List Nat)) : List (List Nat) :=
  match x.md with
  | some m =>
    if isSpanned s x then
      (List.range p.replicas).map fun r => ((List.range m.devices.length).map fun q =>
        if q = m.position then nth own r [] else nth (shareStates p ((gotRun s m q mkTileDigest 0).getD [])) r []).flatten
    else own
  | none => own

/-- The first failure that the shares show, and whether a holder refused. -/
def sharesBad (s : State) (x : Ctx) (p : Prob) : Option Nat :=
  match x.md with
  | none => none
  | some m =>
    let offs := (readHdr s.mem (canon s p.imageAddr)).offs
    let cmp := if isSpanned s x then
      firstSome ((others m).map fun q => shareBad p offs m.position q ((gotRun s m q mkTileDigest 0).getD [])) else none
    match cmp with
    | some l => some l
    | none => if mirrored s m && (liveHolders s (selfId s)).any fun h => decide (offerAnswer s m.runId h ≠ some 1) then some 0 else none

/-- Consumes the shares and the answers. -/
def dropShares (m : MdRun) (s : State) : State :=
  let s := (others m).foldl (fun s q => dropRun m q mkTileDigest 0 s) s
  updNet (fun n => { n with inbox := n.inbox.filter fun i =>
    !(decide (i.cls = 3) && decide (leAt i.data 0 8 = m.runId) && decide (leAt i.data 8 1 = mkAnswer)) }) s

/-- The sums that every device needs: failures, `w·s` of every row and replica, Σ|w| of every row. -/
def loadSums (p : Prob) (spins : List (List Nat)) (bad : Bool) : List Int :=
  [(b2n bad : Int)] ++ (p.rows.map fun r => sumI (r.entries.map fun e => (e.2.natAbs : Int))) ++
    (spins.map fun st => rowSums p st).flatten

/-- The sums of a load over the devices of a spanned run; of a farmed run only the failures, which every device learns (R75, R520). -/
def loadCombine (c : Nat) (v : List Int) (s : State) : Option (List Int) × State :=
  if ctxIs s c (isFarmed s) then
    let r := combine c addLists (v.take 1) s
    (r.1.map fun w => w ++ v.drop 1, r.2)
  else spanSum c v s

/-- Places the problem and checks it through the audit port: the reads of the check pass (R75, R534). -/
def placeProblem (c : Nat) (p : Prob) (s : State) : State :=
  let s := (homeEngines p).foldl (placeEngine p) s
  let ranges : List (Nat × Nat) := if p.spilled then [(canon s p.imageAddr, p.imageLen)] else
    ((homeEngines p).map fun e => ((homeTiles p e).map fun t => tileRanges s p [] e t.1 t.2).flatten).flatten
  coeffReads c p 3 ranges s

/-- The residuals, fields and bounds from the sums. -/
def formRun (c : Nat) (x : Ctx) (o : PloadOp) (p : Prob) (spins : List (List Nat)) (norm : Nat) (sums : List Int) (s : State) : State :=
  let nr := p.rows.length
  let abs := (sums.drop 1).take nr
  let ps := readParams (psetBytes (ctxImage s x) o.apb)
  let lmax := p.rows.map fun r => if ps.rot.pwEnable = 1 then ps.rot.pwCeil else r.lam
  let sat := (List.range (512 * p.segCount)).any fun i => decide (boundWith p lmax abs i > fieldMax)
  let resid := (List.range p.replicas).map fun r => (List.range nr).map fun k =>
    nth sums (1 + nr + nr * r + k) 0 - (((p.rows[k]?).map (·.t)).getD 0)
  let p := { p with satPossible := sat }
  fieldWrites p (updCtx c (fun x => { x with anneal := some (loadingRun s x o p spins resid norm) }) s)

/-- What a multi-device `PLOAD` waits for: its own share is sent first, then the others' are awaited. -/
def ploadWaits (c : Nat) (x : Ctx) (o : PloadOp) (p : Prob) (spins : List (List Nat)) (s : State) : Option State :=
  match x.md with
  | none => none
  | some m =>
    if !isMulti x then none
    else if !m.shareSent then some (ploadShare c x m o p spins s)
    else if (shareMissing s x m).1.isEmpty && !(shareMissing s x m).2 then none
    else some (waitFor c (shareMissing s x m).1 s)

/-- The image is read through its codes, the problem placed, the run formed. -/
def ploadPlace (c : Nat) (x : Ctx) (o : PloadOp) (p : Prob) (spins : List (List Nat)) (norm : Nat) (sums : List Int)
    (s : State) : State :=
  let k := readCheck 0 p.imageAddr p.imageLen s
  let s := recAdd c 2 k.2.1 k.2.2
  if !k.1.isEmpty then endWith c (engineFault s x 0) s
  else
    let s := placeProblem c p s
    if goesOn s c then formRun c x o p spins norm sums s else s

/-- The shares that the run has taken are dropped. -/
def ploadDrop (x : Ctx) (s : State) : State := match x.md with | some m => dropShares m s | none => s

/-- `PLOAD` with every share at hand: the devices combine their sums, and a bad share fails it on each of them. -/
def ploadGo (c : Nat) (x : Ctx) (o : PloadOp) (p : Prob) (spins : List (List Nat)) (norm : Nat) (bad : Option Nat)
    (r : Option (List Int) × State) : State :=
  match r.1 with
  | none => r.2
  | some sums =>
    if nth sums 0 0 ≠ 0 ∨ bad.isSome then ploadFails c ⟨3, bad.getD 0, none⟩ (ploadDrop x r.2)
    else ploadPlace c x o p spins norm sums (ploadDrop x r.2)

/-- `PLOAD` where it waits for shares, or goes on. -/
def ploadShared (c : Nat) (x : Ctx) (o : PloadOp) (p : Prob) (own : List (List Nat) × Nat) (w : Option State) (s : State) : State :=
  match w with
  | some t => t
  | none =>
    let bad := sharesBad s x p
    let spins := allSpins s x p own.1
    ploadGo c x o p spins own.2 bad (loadCombine c (loadSums p spins bad.isSome) s)

/-- `PLOAD` with the outcome of its checks. -/
def ploadChecked (c : Nat) (x : Ctx) (o : PloadOp) (r : Except Loc Prob) (s : State) : State :=
  match r with
  | .error l => ploadFails c l s
  | .ok p => ploadShared c x o p (initialStates p (drawKey s x)) (ploadWaits c x o p (initialStates p (drawKey s x)).1 s) s

/-- The first part of `PLOAD`: checks, shares, placing, residuals and fields. -/
def ploadBegin (c : Nat) (x : Ctx) (o : PloadOp) (s : State) : State := ploadChecked c x o (ploadCheck s x o) s

/-- The sums that the energies need: saturated fields, K, and per replica the field form and the direct form of the energy. -/
def energySums (a : Anneal) : List Int :=
  let p := a.prob
  let lo := 512 * p.segFirst
  [(b2n (!allFit a.fields) : Int), kPart p a.lam] ++
    ((List.range p.replicas).map fun r => fieldSum p a.lam (nth a.spins r []) (nth a.fields r [])) ++
    ((List.range p.replicas).map fun r =>
      let st := nth a.spins r []
      (if p.segFirst = 0 then 2 * p.c0 else 0) -
        sumI ((List.range (512 * p.segCount)).map fun i => spinAt st (lo + i) * (rowDot (nth p.coup i []) (spinAt st) + 2 * nth p.bias i 0)))

/-- The penalty of a replica. -/
def penaltyOf (lam : List Nat) (res : List Int) : Int :=
  sumI ((List.range lam.length).map fun k => lamAt lam k * nth res k 0 * nth res k 0)

/-- The energies of the initial states: R174, or R41 where a field saturates (R696). -/
def startEnergies (a : Anneal) (v : List Int) : List Int :=
  let r := a.prob.replicas
  (List.range r).map fun i =>
    if nth v 0 0 = 0 then nth v 1 0 - nth v (2 + i) 0 / 2
    else nth v (2 + r + i) 0 / 2 + penaltyOf a.lam (nth a.resid i [])

/-- The record of a replica's current state. -/
def offerOf (a : Anneal) (r : Nat) : TopEntry :=
  ⟨nth a.energy r 0, a.gBase + r, a.sweep, ownState a.prob (nth a.spins r [])⟩

/-- The energies and records of a run at its start; a saturated load stops it (R209, R211, R696). -/
def startRun (v : List Int) (a : Anneal) : Anneal :=
  let sat := decide (nth v 0 0 ≠ 0)
  let a := { a with energy := startEnergies a v,
                    fields := a.fields.map fun f => f.map fun g => g.map fieldClamp }
  let offers := (List.range a.prob.replicas).map (offerOf a)
  { a with best := offers.map (fun t => ⟨t.energy, t.state, t.sweeps⟩), offers := offers,
           stop := if sat then some .saturated else none, satPhase := if sat then 0xFFFFFFFF else 0 }

/-- Puts the offers of a run, or of all devices of a farmed run, into the top-eight list (R211, R220). -/
def enterOffers (all : List TopEntry) (a : Anneal) : Anneal :=
  let r := topOffers a.top (griOrder all)
  let st := statAdd a.stats stTop8 r.2
  { a with top := r.1, stats := st, offers := [] }

/-- Sends the mirror of a run that keeps mirrors, and its start as checkpoint 0: tile t to holder t mod p, every other section and the
package to the first (R363). -/
def sendMirror (c : Nat) (s : State) : State :=
  match ctxOf s c with
  | none => s
  | some x =>
    match x.md, x.anneal with
    | some m, some a =>
      if isMulti x && mirrored s m then
        let hs := liveHolders s (selfId s)
        let r := engReads c 0 [(a.prob.imageAddr, a.prob.imageLen)] s
        if !r.1 then r.2 else
        let s := r.2
        hs.zipIdx.foldl (fun t h =>
          let t := sendPieces m.runId h.1 mkImage 0 (imageShare s a.prob hs.length h.2) t
          let t := if h.2 = 0 then sendPieces m.runId h.1 mkPackage 0 m.package t else t
          sendPieces m.runId h.1 mkCkpt 0 (encCkpt (ckptOf a 0)) t) s
      else s
    | _, _ => s

/-- The end of `PLOAD`: the run begins, or is over where a field saturated. -/
def ploadEnd (c : Nat) (all : List TopEntry) (s : State) : State :=
  let s := updRun c (fun a =>
    let a := enterOffers all a
    { a with snap := a.stats, topKeys := topKeysOf a.top, loading := false, ckpts := [ckptOf a 0], pos := if a.stop.isSome then .over else .gather }) s
  let s := updMd c (fun m => { m with shareSent := false }) (sendMirror c (writeRun c s))
  let s := if ctxIs s c fun x => runStopped x then addCause c ⟨stFieldSaturated, 0xFFFFFFFF, 0⟩ s else s
  collAdvance c s

/-- The second part of `PLOAD`: energies and records. -/
def ploadFinish (c : Nat) (a : Anneal) (s : State) : State :=
  if a.energy.isEmpty then
    let r := spanSum c (energySums a) s
    match r.1 with
    | none => r.2
    | some v => updRun c (startRun v) r.2
  else s

/-- The offers of a run at its start go to every device of a farmed run. -/
def ploadOffers (c : Nat) (s : State) : State :=
  match (ctxOf s c).bind (·.anneal) with
  | none => s
  | some a =>
    if a.loading && !a.energy.isEmpty then
      let r := farmGather c (a.offers.map topInts).flatten s
      match r.1 with
      | none => r.2
      | some v => ploadEnd c (if ctxIs s c (isFarmed s) then intsTops a.prob.segCount v else a.offers) r.2
    else s

/-- A `PLOAD` of this parameter set is under way. -/
def ploadUnderway (x : Ctx) (o : PloadOp) : Bool :=
  match x.anneal with | some a => a.loading && decide (a.apb = o.apb) | none => false

/-- One execution of `PLOAD`. -/
def ploadStep (c : Nat) (o : PloadOp) (x : Ctx) (s : State) : State :=
  let s := if ploadUnderway x o then s else ploadBegin c x o s
  match (ctxOf s c).bind (·.anneal) with
  | some a => if a.loading && goesOn s c then ploadOffers c (ploadFinish c a s) else s
  | none => s

/-- A queued audit holds home regions of an invocation's engines (R404). -/
def auditHolds (s : State) (x : Ctx) : Bool :=
  let es := ctxEngines s x
  let f (j : AuditJob) : Bool := auditQueued j && j.engines.any fun e => es.contains e
  s.audits.any f || (match s.auditRun with | some j => f j | none => false)

/-- PLOAD (R302, R72 to R76): checks and places the canonical problem image, forms the initial states, fields, residuals,
energies and bounds, and the coefficient digest; it waits while a queued audit holds the home regions (R404). -/
def execPload (c : Nat) (o : PloadOp) (s : State) : Host.Outcome State Fault Refusal :=
  actCfe (decide (c < 4096)) (ctxIs s c fun x => collAt s x (.pload o) && !auditHolds s x) s
    (match ctxOf s c with | some x => ploadStep c o x s | none => s)

end Sys2Proof.Machine
end

