-- ==== Sys2Proof/Machine/AnnealOps.lean ====
section
/-!
DEFINITION. The phases, sweep ends and result of an anneal: `GATHER` to `RESULT` (R149 to R189, R200 to R225, R302, R360,
R419, R491).
-/
namespace Sys2Proof.Machine

/-! ## A phase -/

/-- The inverse-temperature word of a replica in the sweep under way (R127, R199). -/
def replicaBeta (a : Anneal) (r : Nat) : Nat :=
  betaWord a.ps.rat a.codes a.budget ((findIdx (fun g => decide (g = a.gBase + r)) a.rungs 0).getD 0) a.sweep

/-- The visits of a phase as they begin (R94, R149, R150). -/
def startVisits (a : Anneal) : List Visit :=
  (phaseSegs a.prob.segCount a.prob.engReq a.hIdx).map fun g =>
    ⟨g, (List.range a.prob.replicas).map fun r =>
      ⟨nth (nth a.spins r []) (a.prob.segFirst + g) 0, nth (nth a.fields r []) g [], 0, false⟩⟩

/-- The outcome of a collective of a run: its effect on the run's record. -/
@[inline] def runAct (c : Nat) (op : EngOp) (s : State) (f : Ctx → Anneal → State → State) : Host.Outcome State Fault Refusal :=
  collAct c op s fun x s => match x.anneal with | some a => f x a s | none => s

/-- A phase begins: the visits start from the run as it stands. -/
def beginPhase (a : Anneal) : Anneal :=
  { a with visits := startVisits a, pos := .relax, marked := false,
           start := ⟨a.fields, a.spins, a.resid, a.energy, a.stats, a.formed⟩ }

/-- The gather of a phase, the run's state having been read: the field stores of the visited segments are read, the data of shared
segments delivered, and the visits begin. -/
def gatherGo (c : Nat) (a : Anneal) (s : State) : State :=
  let p := a.prob
  let segs := phaseSegs p.segCount p.engReq a.hIdx
  let s := fieldReads c p ((segs.map (segEngines p)).flatten) s
  let s := if isShared p then segs.foldl (fun s g => if goesOn s c then gatherSeg c a g s else s) s else s
  if goesOn s c then
    let s := updRun c beginPhase s
    collAdvance c (match runOf s c with | some b => workWrites b s | none => s)
  else s

/-- The gather of a phase. -/
def gatherStep (c : Nat) (a : Anneal) (s : State) : State :=
  let r := runReads c a s
  if r.1 then gatherGo c a r.2 else r.2

/-- GATHER (R153): the fields, row entries and diagonal rows of a shared segment go to its visiting engine, and the visits begin. -/
def execGather (c : Nat) (o : GatherOp) (s : State) : Host.Outcome State Fault Refusal :=
  runAct c (.gather o) s fun _ a s => gatherStep c a s

/-- What the check of one replica's passes makes of its visit: a failure that no recomputation clears, as the operand of a command
names one; exact products never fail (R261). -/
def failsOf (p : Prob) (g : Nat) (fails : List Nat) : List Upset :=
  (fails.zipIdx.filter fun f => decide (f.1 ≠ 0)).map fun f => .permanent (visitEng p g) f.2

/-- What the steps of a phase's visits give: the visits, the counters, a saturated working field, and the failed checks. -/
abbrev VisitsOut := List Visit × List Nat × Bool × List Upset

/-- The relaxation of every visit; RELAX_M_CLAMPS counts the formations that R91 requires, so that whether a tile was reused beyond
them changes only timing (log entry 10). -/
def relaxVisits (a : Anneal) : VisitsOut :=
  let p := a.prob
  a.visits.foldl (fun (acc : VisitsOut) v =>
    if allHeld p v.seg then (acc.1 ++ [v], acc.2)
    else
      let m := effBlock p a.lam v.seg
      let t := relaxTile a.ps.relax m
      let outs := v.reps.zipIdx.map fun x => relaxRep p a.ps.relax m (formTile t.2.1) t.1 a.key v.seg a.n x.2 x.1.mask x.1.h
      let st := statMax acc.2.1 stRelaxShiftMax t.1
      let st := if a.formed.contains (2 * v.seg) then st else statAdd st stRelaxM t.2.2
      (acc.1 ++ [{ v with reps := outs.map (·.rep) }], statAdds st (outs.map (·.events)).flatten, acc.2.2.1 || outs.any (·.sat),
        acc.2.2.2 ++ failsOf p v.seg (outs.map (·.fails)))) ([], a.stats, false, [])

/-- The visits after a step of every visit; `keys` are the tiles whose formation has counted. -/
def setVisits (c : Nat) (r : VisitsOut) (keys : List Nat) (pos : PhaseAt) (s : State) : State :=
  updRun c (fun a => { a with visits := r.1, stats := r.2.1, marked := a.marked || r.2.2.1,
                              formed := a.formed ++ keys.filter (fun k => !a.formed.contains k), pos := pos }) s

/-- Where an engine of an invocation stands in its program. -/
def pcOf (s : State) (c e : Nat) : Nat := (((ctxOf s c).bind (curOf · e)).map (·.pc)).getD 0

/-- What failed checks of engines at vectors lead to, each while the invocation goes on. -/
def checkEach (c : Nat) (recovers : Bool) (us : List (Nat × Nat)) (s : State) : State :=
  us.foldl (fun s u => if goesOn s c then (checkOutcome c u.1 (pcOf s c u.1) u.2 recovers s).2 else s) s

/-- Failed checks of a phase that no recomputation cleared, each while the invocation goes on. -/
def failEach (c : Nat) (us : List (Nat × Nat)) (s : State) : State :=
  us.foldl (fun s u => if goesOn s c then failLater c u.1 (pcOf s c u.1) u.2 s else s) s

/-- What failed checks of an invocation's passes lead to (R29, R110, R264, R265): those that a recomputation clears count; the tiles of the
others fail, in ascending order of their engines. Before Roll Call (`later`) the other engines go on with the phase, and Roll Call waits
for the spares; in step 8 the instruction is redone. True where the results stand, which are the same bit for bit. `known` tells the
engines that make such passes. -/
def passCheck (c : Nat) (known : Nat → Bool) (later : Bool) (us : List Upset) (s : State) : Bool × State :=
  let soft := us.filterMap fun u => match u with | .transient e v => if known e then some (e, v) else none | _ => none
  let hard := us.filterMap fun u => match u with | .permanent e v => if known e then some (e, v) else none | _ => none
  let first := (List.range 32).filterMap fun e => hard.find? fun u => decide (u.1 = e)
  let s := checkEach c true soft s
  let s := if later then failEach c first s else checkEach c false first s
  (goesOn s c && (later || first.isEmpty), s)

/-- The engines that visit a segment in a phase. -/
def visits (a : Anneal) (e : Nat) : Bool := a.visits.any fun v => decide (visitEng a.prob v.seg = e)

/-- The phase as the engines see it whose tiles have not failed in it: the work of the others is abandoned (R26 step 1). -/
def working (s : State) (c : Nat) (a : Anneal) : Anneal :=
  { a with visits := a.visits.filter fun v => !(failingAt s c).contains (visitEng a.prob v.seg) }

/-- The engines that make the visits of a phase. -/
def visitEngines (a : Anneal) : List Nat := a.visits.map fun v => visitEng a.prob v.seg

/-- The relaxation of a phase. -/
def relaxPhase (c : Nat) (a : Anneal) (us : List Upset) (s : State) : State :=
  if a.ps.relax.t = 0 then collAdvance c (updRun c (fun a => { a with pos := .choose }) s)
  else
    let b := working s c a
    let w := phaseReads c b s
    if !w.1 then w.2
    else
      let s := formTiles c b false w.2
      let r := relaxVisits a
      let q := if goesOn s c then accPass c (visitEngines b) (crossLen a.prob) (2048 * a.prob.replicas) s else (false, s)
      if !q.1 then q.2
      else
        let k := passCheck c (visits b) true (us ++ r.2.2.2) q.2
        if k.1 then collAdvance c (setVisits c r ((a.visits.filter fun v => !allHeld a.prob v.seg).map fun v => 2 * v.seg) .choose k.2) else k.2

/-- RELAX (R78 to R106): the relaxation steps of every visit, rounding and the gate. -/
def execRelax (c : Nat) (o : RelaxOp) (us : List Upset) (s : State) : Host.Outcome State Fault Refusal :=
  runAct c (.relax o) s fun _ a s => relaxPhase c a us s

/-- The flip chooser of every visit. -/
def chooseVisits (a : Anneal) : VisitsOut :=
  let p := a.prob
  a.visits.foldl (fun (acc : VisitsOut) v =>
    let m := effBlock p a.lam v.seg
    let ts := chooserTiles m
    let outs := v.reps.zipIdx.map fun x => chooseRep p a.ps.choose m ts a.key v.seg a.n x.2 (replicaBeta a x.2) x.1
    let st := statAdds (statMax acc.2.1 stChooseLimbsMax (limbCount m)) (outs.map (·.2.1)).flatten
    (acc.1 ++ [{ v with reps := outs.map (·.1) }], st, acc.2.2.1 || outs.any (·.2.2.1),
      acc.2.2.2 ++ failsOf p v.seg (outs.map (·.2.2.2)))) ([], a.stats, false, [])

/-- Bytes of the visit slots of a phase's chooser products: one for each limb (R164). -/
def chooseLen (a : Anneal) : Nat :=
  2048 * a.prob.replicas * (a.visits.map fun v => max 1 (limbCount (effBlock a.prob a.lam v.seg))).foldl max 0

/-- The chooser of a phase. -/
def choosePhase (c : Nat) (a : Anneal) (us : List Upset) (s : State) : State :=
  if a.ps.choose.t = 0 then collAdvance c (updRun c (fun a => { a with pos := .rollcall }) s)
  else
    let b := working s c a
    let w := phaseReads c b s
    if !w.1 then w.2
    else
      let s := formTiles c b true w.2
      let r := chooseVisits a
      let q := if goesOn s c then accPass c (visitEngines b) (crossLen a.prob) (chooseLen b) s else (false, s)
      if !q.1 then q.2
      else
        let k := passCheck c (visits b) true (us ++ r.2.2.2) q.2
        if k.1 then collAdvance c (setVisits c r (a.visits.map fun v => 2 * v.seg + 1) .rollcall k.2) else k.2

/-- CHOOSE (R115 to R144): the flip-chooser steps of every visit. -/
def execChoose (c : Nat) (o : ChooseOp) (us : List Upset) (s : State) : Host.Outcome State Fault Refusal :=
  runAct c (.choose o) s fun _ a s => choosePhase c a us s

/-! ## Roll Call -/

/-- A pair whose check failed has been recomputed by both engines and agrees. -/
def pairAgrees (c ei ej : Nat) (s : State) : State :=
  let s := bump (pgEng (tileOf s ej)) 0x050 (bump (pgEng (tileOf s ei)) 0x050 s)
  updRun c (fun a => { a with stats := statAdd a.stats stPairRecomputes 1 }) (recAdd c 0 1 s)

/-- The engines of a pair that a test finds wrong: the first by bit 0, the second by bit 1. -/
def wrongEngines (wrong ei ej : Nat) : List Nat := (if wrong.testBit 0 then [ei] else []) ++ if wrong.testBit 1 then [ej] else []

/-- The audit evaluator computes a pair from the coefficients in bonded memory, through the audit port (R25, R165). -/
def auditPair (c : Nat) (p : Prob) (ts : List (Nat × Nat)) (s : State) : State :=
  ts.foldl (fun s t =>
    let s := if p.spilled then stageTile c p t s else s
    coeffReads c p 3 ((segEngines p t.1).map fun e => tileRanges s p (stagedOf s c) e t.1 t.2).flatten s) s

/-- A failed check of one pair (R165): the pages of both engines record it, with the `ROLLCALL` instruction and the replica; on MAINT the
invocation ends (R265); else a recomputation resolves it, or both record a second failure, the audit evaluator computes the pair, and the
tiles of the engines that it finds wrong fail. -/
def pairCheck (c : Nat) (a : Anneal) (u : PairUpset) (s : State) : State :=
  let seg (i : Nat) : Nat := ((a.visits[i]?).map (·.seg)).getD 0
  let eng (i : Nat) : Nat := visitEng a.prob (seg i)
  let known (i j r : Nat) : Bool := decide (i < j) && decide (j < a.visits.length) && decide (r < a.prob.replicas)
  let note (i j r : Nat) (s : State) : State :=
    [eng i, eng j].foldl (fun s e => noteCheckFail (tileOf s e) e (pcOf s c e) r s) s
  let cause (e : Nat) : Cause := match ctxOf s c with | some x => engineFault s x e | none => ⟨stInternalFault, 0, 0⟩
  match u with
  | .none => s
  | .transient i j r =>
    if !known i j r then s
    else if ctxIs s c onMaint then endWith c (cause (eng i)) (note i j r s)
    else pairAgrees c (eng i) (eng j) (note i j r s)
  | .permanent i j r wrong =>
    let bad := wrongEngines wrong (eng i) (eng j)
    if !known i j r || bad.isEmpty then s
    else if ctxIs s c onMaint then endWith c (cause (bad.headD 0)) (note i j r s)
    else
      let s := auditPair c a.prob [(seg i, a.prob.segFirst + seg j), (seg j, a.prob.segFirst + seg i)] (note i j r (note i j r s))
      updRun c (fun a => { a with stats := statAdd a.stats stPairRecomputes 1 })
        (bad.foldl (fun s e => if goesOn s c then tileFails c e s else s) s)

/-- The pair checks of a phase, each while the invocation goes on. True where the walk proceeds. -/
def pairsCheck (c : Nat) (a : Anneal) (us : List PairUpset) (s : State) : Bool × State :=
  let s := us.foldl (fun s u => if goesOn s c then pairCheck c a u s else s) s
  if !goesOn s c then (false, s)
  else if (failingAt s c).isEmpty then (true, s)
  else (false, replaceTiles c s)

/-- The tile pairs whose cross terms a phase needs. -/
def pairTiles (a : Anneal) : List (Nat × Nat) :=
  (a.visits.map fun v => (a.visits.filter fun w => decide (w.seg ≠ v.seg)).map fun w => (v.seg, a.prob.segFirst + w.seg)).flatten

/-- The walk of a phase: accepted sets, ΔL, counts (R166 to R169). -/
def walkPhase (a : Anneal) : Anneal :=
  let p := a.prob
  let ds := a.visits.map (proposalOf p a.spins)
  let ws := (List.range p.replicas).map fun r => walkRep p a.lam a.ps.rot.test a.key a.n r (replicaBeta a r) ds
  let acc := ws.map (·.1)
  let oks := sumN (acc.map fun l => (l.filter fun b => b).length)
  let empty := sumN (acc.zipIdx.map fun e => ((e.1.zip ds).filter fun x => x.1 && decide (nth x.2.lanes e.2 (0, 0) = (0, 0))).length)
  let all := ds.length * p.replicas
  { a with deltas := ds.zipIdx.map fun d => keepAccepted acc d.2 d.1, accepted := acc, dl := ws.map (·.2.1), redo := [], pos := .fieldup,
           stats := statAdds a.stats [(stProposals, all), (stAccepted, oks), (stRejected, all - oks), (stEmpty, empty),
             (stDraws, sumN (ws.map (·.2.2)))] }

/-- The deltas of the phase's accepted proposals: those that some replica accepted, empty ones too (R168, R170). -/
def ownDeltas (a : Anneal) : List Delta := acceptedOf a.accepted a.deltas

/-- This device's accepted set of the phase. -/
def ownSet (x : Ctx) (a : Anneal) : AccSet := ⟨ctxPosition x, a.n, ownDeltas a, a.dl, false⟩

/-- The engines that make the passes of a phase's cross terms (R163). -/
def crosses (a : Anneal) (e : Nat) : Bool := a.visits.any fun v => (segEngines a.prob v.seg).contains e

/-- The proposals' records go into the exchange window of every engine with home rows (R161). -/
def deliverRecords (a : Anneal) (s : State) : State :=
  let b := deltaBytes (a.visits.map (proposalOf a.prob a.spins))
  (homeEngines a.prob).foldl (fun s e => deliver e b s) s

/-- In spanned Free mode the accepted set is sent at once (R178), and once, though the phase be redone. -/
def sendFree (c : Nat) (x : Ctx) (s : State) : State :=
  match runOf s c, (ctxOf s c).bind (·.md) with
  | some b, some m =>
    if isSpanned s x && flFree x && !m.shareSent then updMd c (fun m => { m with shareSent := true }) (sendAcc c (ownSet x b) s) else s
  | _, _ => s

/-- The Roll Call of a phase whose working data and coefficients have been read. -/
def walkGo (c : Nat) (x : Ctx) (a : Anneal) (s : State) : State := collAdvance c (sendFree c x (updRun c walkPhase (deliverRecords a s)))

/-- The visits of engines whose tiles have been substituted in the phase are redone (R26 step 5, R185): their fields and the data of
shared segments are gathered, their working state stands, and their tiles are formed. -/
def redoVisits (c : Nat) (a : Anneal) (s : State) : State :=
  let p := a.prob
  let b := { a with visits := a.visits.filter fun v => a.redo.contains (visitEng p v.seg) }
  let segs := b.visits.map (·.seg)
  let s := fieldReads c p ((segs.map (segEngines p)).flatten) s
  let s := if isShared p then segs.foldl (fun s g => if goesOn s c then gatherSeg c a g s else s) s else s
  let s := workWrites b s
  let s := if a.ps.relax.t = 0 then s else formTiles c b false s
  if a.ps.choose.t = 0 then s else formTiles c b true s

/-- The engines that compute cross terms at a `ROLLCALL`: all whose tiles have not failed in the phase, or, once these have been
substituted, the adopting ones alone; the others hold theirs (R185). -/
def crossing (s : State) (c : Nat) (a : Anneal) (e : Nat) : Bool :=
  if a.redo.isEmpty then !(failingAt s c).contains e else a.redo.contains e

/-- The cross terms of a phase: the coefficients are read and the passes made (R162, R163). True where they stand. -/
def crossPass (c : Nat) (a : Anneal) (us : List Upset) (s : State) : Bool × State :=
  let p := a.prob
  let own := crossing s c a
  let es := (homeEngines p).filter own
  let s := tableReads c p es (partReads c p ((pairTiles a).map fun t => ((segEngines p t.1).filter own).map fun e => (e, t)).flatten s)
  if !goesOn s c then (false, s)
  else
    let q := accPass c (es.filter (crosses a)) 0 (crossLen p) s
    if q.1 then passCheck c (fun e => own e && crosses a e) true us q.2 else q

/-- Roll Call once the cross terms stand: it waits for the spares of the tiles that failed in the phase; then the pairs are checked, and
the walk runs. -/
def rollcallGo (c : Nat) (x : Ctx) (a : Anneal) (ps : List PairUpset) (s : State) : State :=
  if (failingAt s c).isEmpty then
    let q := pairsCheck c a ps s
    if q.1 then walkGo c x a q.2 else q.2
  else replaceTiles c s

/-- The Roll Call of a phase. -/
def rollcallPhase (c : Nat) (x : Ctx) (a : Anneal) (us : List Upset) (ps : List PairUpset) (s : State) : State :=
  let s := if a.redo.isEmpty then s else redoVisits c a s
  if !goesOn s c then s
  else
    let w := phaseReads c { a with visits := a.visits.filter fun v => crossing s c a (visitEng a.prob v.seg) } s
    if !w.1 then w.2
    else
      let k := crossPass c a us w.2
      if k.1 then rollcallGo c x a ps k.2 else k.2

/-- ROLLCALL (R159 to R169): proposals, cross terms, the checks of their passes and of their pairs, the walk and the acceptance mask. -/
def execRollcall (c : Nat) (o : RollcallOp) (w : WalkUpset) (s : State) : Host.Outcome State Fault Refusal :=
  runAct c (.rollcall o) s fun x a s => rollcallPhase c x a w.passes w.pairs s

/-! ## Propagation and commit -/

/-- The run ends saturated: nothing of the phase is committed, the loops exit (R52, R278). -/
def saturate (c phase : Nat) (s : State) : State :=
  let s := updRun c (fun a => { a with stop := some .saturated, satPhase := phase, pos := .over, visits := [], deltas := [], part := 0 }) s
  exitSweeps c (addCause c ⟨stFieldSaturated, phase % 2 ^ 32, 0⟩ s)

/-- The phase that has been committed last is discarded on every replica, and the run ends saturated (R52, R181). -/
def discardPhase (c phase : Nat) (s : State) : State :=
  saturate c phase (writeRun c (updRun c (fun a =>
    { a with fields := a.start.fields, spins := a.start.spins, resid := a.start.resid, energy := a.start.energy }) s))

/-- The fields of every replica with the increments of accepted deltas. -/
def phaseFields (a : Anneal) (ds : List Delta) : List (List (List Int)) :=
  (List.range a.prob.replicas).map fun r => addIncr a.prob a.lam ds r (nth a.fields r [])

/-- The commit of every replica that is not vetoed (R172, R173, R177). -/
def commitRun (ds : List Delta) (f : List (List (List Int))) (add : Nat → Int) (veto : Nat → Bool) (a : Anneal) : Anneal :=
  let pick {α : Type} (old new : α) (r : Nat) : α := if veto r then old else new
  let rs := List.range a.prob.replicas
  { a with
    fields := rs.map fun r => pick (nth a.fields r []) (nth f r []) r
    spins := rs.map fun r => pick (nth a.spins r []) (applySpins (nth a.spins r []) ds r) r
    resid := rs.map fun r => pick (nth a.resid r []) (applyResid (nth a.resid r []) ds r) r
    energy := rs.map fun r => pick (nth a.energy r 0) (nth a.energy r 0 + add r) r }

/-- The phase boundary (R151, R158). -/
def phaseOver (a : Anneal) : Anneal :=
  let h := phasesPerSweep a.prob.segCount a.prob.engReq
  { a with n := a.n + 1, hIdx := a.hIdx + 1, staged := [], visits := [], deltas := [], accepted := [], dl := [],
           marked := false, pos := if a.hIdx + 1 < h then .gather else .sweepend }

/-- The reads of step 8: every home tile against the accepted segments, the tables and the field stores. -/
def fieldupReads (c : Nat) (a : Anneal) (ds : List Delta) (s : State) : State :=
  let p := a.prob
  let s := tileReads c p ((List.range p.segCount).map fun g => ds.map fun d => (g, d.seg)).flatten s
  fieldReads c p (homeEngines p) (tableReads c p (homeEngines p) s)

/-- What a propagation of deltas puts into the product slots, if it makes passes at all, and into the staging of the increments reads
(R164, R171). -/
def productsStand (c : Nat) (a : Anneal) (ds : List Delta) (s : State) : Bool × State :=
  let q := accPass c (homeEngines a.prob) 0 (if ds.isEmpty then 0 else productLen a.prob) s
  if q.1 then stageIncr c a.prob q.2 else q

/-- The work of a propagation goes on: the invocation does, every pass of it stands, and its products and increments read. A tile that
fails here leaves the records and the accepted sets as they are, and the instruction is redone (R185). -/
def fieldupStands (c : Nat) (a : Anneal) (ds : List Delta) (us : List Upset) (s : State) : Bool × State :=
  if goesOn s c then
    let k := passCheck c (fun e => (homeEngines a.prob).contains e) false us s
    if k.1 then productsStand c a ds k.2 else k
  else (false, s)

/-- The propagation of deltas: its reads, its passes and their checks. -/
def propagate (c : Nat) (a : Anneal) (ds : List Delta) (us : List Upset) (s : State) : Bool × State :=
  fieldupStands c a ds us (fieldupReads c a ds s)

/-- A commit takes place: the field stores, the residuals and the run record are written. -/
def commitPhase (c : Nat) (f : Anneal → Anneal) (s : State) : State :=
  match runOf s c with
  | some a => collAdvance c (writeRun c (fieldWrites a.prob (updRun c (fun a => phaseOver (f a)) s)))
  | none => s

/-- Step 8 and step 10 on a device that exchanges nothing. -/
def fieldupAlone (c : Nat) (a : Anneal) (us : List Upset) (s : State) : State :=
  let ds := ownDeltas a
  let k := propagate c a ds us s
  let s := k.2
  if !k.1 then s
  else
    let f := phaseFields a ds
    if a.marked || !allFit f then saturate c a.n s
    else commitPhase c (commitRun ds f (fun r => nth a.dl r 0) fun _ => false) s

/-- `Y_r` of R176. -/
def excessOf (a : Anneal) (remote : List Delta) (r : Nat) : Int :=
  sumI (a.deltas.map fun d => sumI (remote.map fun b => crossTerm a.prob a.lam d b r))

/-- The cross-device excess enters the statistics (R189, R190). -/
def noteExcess (xs : List Int) (veto : Nat → Bool) (a : Anneal) : Anneal :=
  let rs := List.range xs.length
  { a with
    stats := statAdds a.stats [(stXdevPositive, (xs.filter fun x => decide (x > 0)).length), (stXdevVetoes, (rs.filter veto).length)]
    exSum := rs.map fun r => nth a.exSum r 0 + nth xs r 0
    exMax := rs.map fun r => if a.n = 0 then nth xs r 0 else max (nth a.exMax r 0) (nth xs r 0) }

/-- The fewest sweeps of a Bell release (R491). -/
def minSweeps (x : Ctx) : Nat := min (bkBudgetMin x.regBlock) x.budget

/-- The cut of a run inside its SWEEPS loop (R491, R492): it ends at once, or runs on to its fewest sweeps. -/
def cutRun (c : Nat) (s : State) : State :=
  match ctxOf s c with
  | none => s
  | some x =>
    match x.anneal with
    | none => s
    | some a =>
      if a.stop.isSome || a.loading then s
      else if minSweeps x ≤ a.sweep then
        let s := updRun c (fun a => { a with stop := some .deadline, pos := .over, part := 0, gathered := [] }) s
        exitSweeps c (updCtx c (fun x => { x with sweepLimit := a.sweep }) s)
      else updRun c (fun a => { a with limit := minSweeps x }) s

/-- What a device brings to the combine of a phase (R52, R176): its marks, a cut, and per replica a field that would saturate, `Y_r`,
`ΔL_r`. -/
def phaseInts (a : Anneal) (m : MdRun) (remote : List Delta) (f : List (List (List Int))) : List Int :=
  [(b2n a.marked : Int), (b2n m.cutFlag : Int)] ++ (f.map fun g => (b2n (!repFits g) : Int)) ++
    (List.range a.prob.replicas).map (excessOf a remote) ++ a.dl

/-- Step 10 of a spanned Strict run with the combined values: the veto is decided first; a field that would saturate in a replica that
commits discards the phase on every device (R52, R172, R177). -/
def strictOver (c : Nat) (a : Anneal) (ds : List Delta) (f : List (List (List Int))) (t : List Int) (s : State) : State :=
  let r := a.prob.replicas
  let xs := (List.range r).map fun i => nth t (2 + r + i) 0 / 2
  let veto (i : Nat) : Bool := decide (a.ps.rot.veto = 1) && decide (nth xs i 0 > a.ps.rot.vetoThresh)
  let s := updMd c (fun m => { m with shareSent := false, remote := m.remote.filter fun q => decide (q.phase ≠ a.n) }) s
  if nth t 0 0 ≠ 0 ∨ (List.range r).any (fun i => !veto i && decide (nth t (2 + i) 0 ≠ 0)) = true then saturate c a.n s
  else
    let s := commitPhase c (fun a => noteExcess xs veto (commitRun ds f (fun i => nth t (2 + 2 * r + i) 0 + nth xs i 0) veto a)) s
    if nth t 1 0 ≠ 0 then cutRun c s else s

/-- Step 9 and step 10 of a spanned Strict run (R175 to R177, R352, R502). -/
def fieldupStrict (c : Nat) (x : Ctx) (a : Anneal) (us : List Upset) (s : State) : State :=
  let s := match x.md with
    | some m => if m.shareSent then s else updMd c (fun m => { m with shareSent := true }) (sendAcc c (ownSet x a) s)
    | none => s
  let s := takeAccs c s
  match (ctxOf s c).bind (·.md) with
  | none => s
  | some m =>
    let sets := m.remote.filter fun q => decide (q.phase = a.n)
    let miss := (others m).filter fun p => !sets.any fun q => decide (q.pos = p)
    if !miss.isEmpty then waitFor c miss s
    else
      let remote := (sets.map (·.deltas)).flatten
      let ds := ownDeltas a ++ remote
      let k := propagate c a ds us s
      if !k.1 then k.2
      else
        let f := phaseFields a ds
        let q := combine c addLists (phaseInts a m remote f) k.2
        match q.1 with
        | none => q.2
        | some t => strictOver c a ds f t q.2

/-- Remote sets of Free mode that a commit applies: those that have arrived, in order (R178). -/
def freeSets (m : MdRun) (upTo : Nat → Nat → Bool) : List AccSet := m.remote.filter fun q => upTo q.pos q.phase

/-- The sets of Free mode that a commit or a barrier applies, with this device's own deltas: the run after them, or `none` where the
phase is marked, a field would saturate, or a set is marked, which ends the run (R52, log entry 33). -/
def applyFree (own : List Delta) (dl : List Int) (sets : List AccSet) (a : Anneal) : Option (Anneal → Anneal) :=
  let ds := own ++ (sets.map (·.deltas)).flatten
  let f := phaseFields a ds
  if a.marked || !allFit f || sets.any (·.sat) then none
  else some fun a =>
    let a := commitRun ds f (fun r => nth dl r 0 + sumI (sets.map fun q => nth q.dl r 0)) (fun _ => false) a
    { a with applied := a.applied ++ sets }

/-- The sets that applied phases named by position and number gave, taken back: spins, residuals, energies and fields as without them (R52). -/
def takeBack (marks : List (Nat × Nat)) (a : Anneal) : Anneal :=
  let qs := a.applied.filter fun q => marks.contains (q.pos, q.phase)
  let ds := ((qs.map (·.deltas)).flatten).map undoDelta
  let a := commitRun ds (phaseFields a ds) (fun r => 0 - sumI (qs.map fun q => nth q.dl r 0)) (fun _ => false) a
  { a with applied := a.applied.filter fun q => !marks.contains (q.pos, q.phase) }

/-- The phases that peers' marked sets name are discarded here too, as far as this device has applied their sets (R52). -/
def takeBackRun (c : Nat) (marks : List (Nat × Nat)) (s : State) : State :=
  match runOf s c with
  | none => s
  | some a =>
    if a.applied.any fun q => marks.contains (q.pos, q.phase) then writeRun c (fieldWrites a.prob (updRun c (takeBack marks) s)) else s

/-- The phases that marked sets name. -/
def marksOf (sets : List AccSet) : List (Nat × Nat) := (sets.filter (·.sat)).map fun q => (q.pos, q.phase)

/-- A device whose run saturates in Free mode tells the others by a marked set, unless one of theirs ended it (R52, log entry 33). -/
def tellSaturated (c phase : Nat) (sets : List AccSet) (s : State) : State :=
  match ctxOf s c with
  | some x => if sets.any (·.sat) then s else sendAcc c ⟨ctxPosition x, phase, [], [], true⟩ s
  | none => s

/-- The commit of a spanned Free run (R178). X_r is not formed in Free mode, and its statistics stay 0 (DESIGN CHOICE, log entry 97). -/
def fieldupFree (c : Nat) (a : Anneal) (us : List Upset) (s : State) : State :=
  let s := takeAccs c s
  match (ctxOf s c).bind (·.md) with
  | none => s
  | some m =>
    let sets := freeSets m fun _ _ => true
    let k := propagate c a (ownDeltas a ++ (sets.map (·.deltas)).flatten) us s
    if !k.1 then k.2
    else
      let s := updMd c (fun m => { m with remote := [], shareSent := false }) k.2
      match applyFree (ownDeltas a) a.dl sets a with
      | none => saturate c a.n (takeBackRun c (marksOf sets) (tellSaturated c a.n sets s))
      | some f => commitPhase c f s

/-- The propagation of a phase whose records and residuals have been read. -/
def fieldupGo (c : Nat) (x : Ctx) (a : Anneal) (us : List Upset) (s : State) : State :=
  if isSpanned s x then (if flFree x then fieldupFree c a us s else fieldupStrict c x a us s) else fieldupAlone c a us s

/-- The propagation of a phase: what stands in the exchange windows is read first. -/
def fieldupPhase (c : Nat) (x : Ctx) (a : Anneal) (us : List Upset) (s : State) : State :=
  let w := recordReads c a s
  if !w.1 then w.2
  else
    let r := runReads c a w.2
    if r.1 then fieldupGo c x a us r.2 else r.2

/-- FIELDUP (R170 to R178): accepted deltas are propagated, exchanged across the devices of a spanned run, and committed; a
phase in which a field saturates commits nothing and ends the run (R52). -/
def execFieldup (c : Nat) (r : FieldupRun) (s : State) : Host.Outcome State Fault Refusal :=
  runAct c (.fieldup r.op) s fun x a s => fieldupPhase c x a r.passes s

/-! ## The end of a sweep (R184) -/

/-- The sweep under way ends an exchange epoch. -/
def epochEnd (a : Anneal) : Bool := decide ((a.sweep + 1) % max 1 a.ps.rat.epoch = 0)

/-- Starts the epoch barrier of Free mode (R179, R353). -/
def startBarrier (c : Nat) (a : Anneal) (s : State) : State :=
  match (ctxOf s c).bind (·.md) with
  | none => s
  | some m =>
    let s := (others m).foldl (fun s p => sendCtrl (devAt m p) (ctEpoch m.runId (a.n - 1)) s) s
    waitFor c (others m) (updMd c (fun m => { m with barrier := 1 }) s)

/-- The EPOCH of a peer for the barrier under way, and every set of the epoch up to its phase, has arrived (R179, R353). -/
def epochArrived (m : MdRun) (a : Anneal) (p : Nat) : Bool :=
  let got (n : Nat) : Bool :=
    (m.remote ++ a.applied).any fun q => decide (q.pos = p) && decide (q.phase = n)
  let first := a.n - max 1 a.ps.rat.epoch * phasesPerSweep a.prob.segCount a.prob.engReq
  match m.epochs.find? fun e => decide (e.1 = p) with
  | none => false
  | some e => (List.range (e.2 + 1 - first)).all fun i => got (first + i)

/-- The exact energies of a barrier (R179): K and the field form, with the corrections counted. -/
def exactEnergies (v : List Int) (a : Anneal) : Anneal :=
  let es := (List.range a.prob.replicas).map fun r => nth v 0 0 - nth v (1 + r) 0 / 2
  let n := ((es.zip a.energy).filter fun e => decide (e.1 ≠ e.2)).length
  { a with energy := es, stats := statAdd a.stats stFreeCorrections n, applied := [] }

/-- The end of a run at an epoch barrier whose sets are marked, or whose fields would saturate: the phase that is marked is discarded, the
last one here, or an earlier one whose set was applied (R52; log entry 33). -/
def barrierSaturated (c : Nat) (a : Anneal) (sets : List AccSet) (s : State) : State :=
  let s := tellSaturated c a.n sets s
  let ms := marksOf sets
  if ms.all fun q => decide (q.2 + 1 ≠ a.n) then
    (if ms.isEmpty then discardPhase c (a.n - 1) s else saturate c (a.n - 1) (takeBackRun c ms s))
  else discardPhase c (a.n - 1) s

/-- The work of an epoch barrier: sets up to the named phases are applied, the passes of their propagation being checked as any, then the
energies are combined. A marked set, or a field that would saturate here, ends the run on every device (R52, R179). -/
def barrierStep (c : Nat) (us : List Upset) (s : State) : State :=
  match ctxOf s c with
  | none => s
  | some x =>
    match x.md, x.anneal with
    | some m, some a =>
      let upTo (p n : Nat) : Bool := (m.epochs.find? fun e => decide (e.1 = p)).any fun e => decide (n ≤ e.2)
      let marked := m.remote.filter (·.sat)
      let sets := if marked.isEmpty then freeSets m upTo else marked
      let k := propagate c a (sets.map (·.deltas)).flatten us s
      if !k.1 then k.2 else
      let s := updMd c (fun m => { m with remote := m.remote.filter fun q => !upTo q.pos q.phase }) k.2
      match applyFree [] [] sets a with
      | none => barrierSaturated c a sets s
      | some f =>
        let s := writeRun c (fieldWrites a.prob (updRun c f s))
        match runOf s c with
        | none => s
        | some b =>
          let v := [kPart b.prob b.lam] ++ (List.range b.prob.replicas).map fun r =>
            fieldSum b.prob b.lam (nth b.spins r []) (nth b.fields r [])
          let q := combine c addLists v s
          match q.1 with
          | none => q.2
          | some t => updMd c (fun m => { m with barrier := 2, epochs := m.epochs.filter fun e => decide (a.n ≤ e.2) })
              (updRun c (exactEnergies t) q.2)
    | _, _ => s

/-- A penalty-weight check falls due at this sweep end, or waits for the barrier (R180, R183). In Free mode it is made once at the
barrier, with the residuals there, however many fell due in the epoch (DESIGN CHOICE, log entry 97). -/
def pwCheckDue (free : Bool) (a : Anneal) : Bool :=
  let due := decide (a.ps.rot.pwEnable = 1) && decide ((a.sweep + 1) % max 1 a.ps.rot.pwPeriod = 0)
  if free then epochEnd a && (due || a.pwDue) else due

/-- The rows whose weight changes. -/
def changedRows (lam lam' : List Nat) : List Nat := (List.range lam.length).filter fun k => decide (nth lam k 0 ≠ nth lam' k 0)

/-- The partial `w·s` of changed rows for a state of the owned segments. -/
def changedSums (p : Prob) (rows : List Nat) (st : List Nat) : List Int :=
  let w := widen p st
  rows.map fun k => ((p.rows[k]?).map fun (r : Row) => rowDot r.entries (spinAt w)).getD 0

/-- What a record's energy gains (R181, R212); `sums` holds the whole `w·s` of the changed rows. -/
def recordGain (p : Prob) (lam lam' : List Nat) (rows : List Nat) (sums : List Int) : Int :=
  sumI (rows.zipIdx.map fun k =>
    let r := nth sums k.2 0 - ((p.rows[k.1]?).map fun (r : Row) => r.t).getD 0
    (lamAt lam' k.1 - lamAt lam k.1) * r * r)

/-- The fields after a weight change. -/
def pwFields (a : Anneal) (lam' : List Nat) : List (List (List Int)) :=
  (List.range a.prob.replicas).map fun r => (List.range a.prob.segCount).map fun g => (List.range 512).map fun j =>
    nth (nth (nth a.fields r []) g []) j 0 + pwField a.prob a.lam lam' (nth a.spins r []) (nth a.resid r []) (512 * g + j)

/-- The run with new weights (R181, R182, R212). -/
def pwApply (lam' : List Nat) (n : Nat) (f : List (List (List Int))) (v : List Int) (a : Anneal) : Anneal :=
  let p := a.prob
  let rows := changedRows a.lam lam'
  let w := rows.length
  let gain (i : Nat) : Int := recordGain p a.lam lam' rows ((v.drop (2 + w * i)).take w)
  let nb := a.best.length
  let touched (g : Nat) : Bool := rows.any fun k => (segRows p g).contains k
  { a with lam := lam', fields := f,
           energy := a.energy.zipIdx.map fun e => e.1 + pwEnergy a.lam lam' (nth a.resid e.2 []),
           best := a.best.zipIdx.map fun b => { b.1 with energy := b.1.energy + gain b.2 },
           top := sortBy topLt (a.top.zipIdx.map fun t => { t.1 with energy := t.1.energy + gain (nb + t.2) }),
           offers := a.offers.map fun t => { t with energy := t.energy + recordGain p a.lam lam' rows (changedSums p rows t.state) },
           stats := statAdd a.stats stPwDoublings n, pwDue := false,
           formed := a.formed.filter fun k => !touched (k / 2), kept := a.kept.filter fun k => !touched (k.key / 2) }

/-- The change of the weights: the fields are read, changed and written (R181, R186). -/
def pwChange (c : Nat) (a : Anneal) (w : List Nat × Nat) (s : State) : State :=
  let s := fieldReads c a.prob (homeEngines a.prob) s
  if !goesOn s c then s
  else
    let rows := changedRows a.lam w.1
    let f := pwFields a w.1
    let v := [(b2n (!allFit f) : Int), kPart a.prob w.1] ++ (a.best.map fun b => changedSums a.prob rows b.state).flatten ++
      (a.top.map fun t => changedSums a.prob rows t.state).flatten
    let q := spanSum c v s
    match q.1 with
    | none => q.2
    | some t =>
      if nth t 0 0 ≠ 0 then discardPhase c (a.n - 1) q.2
      else writeRun c (fieldWrites a.prob (updRun c (fun a => { pwApply w.1 w.2 f t a with part := 2 }) q.2))

/-- The penalty-weight check (R180, R181). -/
def pwStep (c : Nat) (a : Anneal) (s : State) : State :=
  let w := pwNew a.ps.rot a.lam a.resid
  if w.2 = 0 then updRun c (fun a => { a with part := 2, pwDue := false }) s else pwChange c a w s

/-- The best-state records at a sweep end (R210): records replaced, offers made. -/
def takeRecords (a : Anneal) : Anneal :=
  let a' := { a with sweep := a.sweep + 1 }
  let new := (List.range a.prob.replicas).filter fun r =>
    match a.best[r]? with | some b => decide (nth a.energy r 0 < b.energy) | none => false
  { a with best := a.best.zipIdx.map fun b => if new.contains b.2 then ⟨nth a.energy b.2 0, (offerOf a' b.2).state, a.sweep + 1⟩ else b.1,
           offers := a.offers ++ new.map (offerOf a'), stats := statAdd a.stats stBest new.length }

/-- The exchange round and the respacing of a sweep end (R201 to R208, R225). -/
def exchangeStep (energy : Nat → Int) (a : Anneal) : Anneal :=
  let rp := a.ps.rat
  let q := a.rounds
  let o := exchangeRound rp a.codes a.budget a.sweep (a.n - 1) q a.key energy a.rungs a.est
  let sp := decide (rp.spaceEnable = 1) && decide (rp.spaceStart ≤ q)
  let rs := if sp then respace rp a.codes o.est else (a.codes, 0)
  let t := tripStep o.rungs a.trips
  { a with rungs := o.rungs, est := o.est, codes := rs.1, rounds := q + 1, trips := t.1,
           stats := statAdds a.stats [(stRounds, 1), (stOffers, (roundPairs q a.rungs.length).length), (stSwaps, o.swaps),
             (stRatDraws, o.draws), (stRespacings, b2n sp), (stStepClamps, rs.2), (stRoundTrips, t.2)] }

/-- The stop tests of a sweep end, in the order of R214; `all`: TARGET and STALL are made too (R216, R220). The sweep limit is tested at
every sweep end (R419; DEDUCED, log entry 97). -/
def stopTest (all : Bool) (a : Anneal) : Option Stop :=
  let rp := a.ps.rat
  if a.sweep = a.budget then some .budget
  else if all && rp.stopFlags.testBit 0 && (match a.top.head? with | some t => decide (t.energy ≤ rp.eTarget) | none => false) then some .target
  else if all && rp.stopFlags.testBit 1 && decide (rp.stallSweeps ≤ a.stall) then some .stall
  else if decide (a.limit ≠ 0) && decide (a.sweep = a.limit) then some .deadline
  else none

/-- A stop reason as the number that a farmed barrier reduces, 0 for none; the first of two in the order of R214; and back. -/
def minStop (a b : List Int) : List Int :=
  let x := nth a 0 0
  let y := nth b 0 0
  [if x = 0 then y else if y = 0 then x else min x y]
def stopInts (o : Option Stop) : List Int := [((o.map stopCode).getD 0 : Nat)]
def stopOf (n : Int) : Option Stop := [Stop.budget, .target, .stall, .saturated, .deadline].find? fun o => decide ((stopCode o : Int) = n)

/-- The offers of a sweep end enter the list: at an epoch's end, or at every sweep end of a run that need not wait for one (R211, R213,
R220). -/
def entersNow (epoch free farmed : Bool) : Bool := epoch || (!free && !farmed)

/-- The Ratline actions of a sweep end up to the stop tests: `epoch`: exchange and offers take place; `free`, `farmed`: the run's kind;
`all`: the offers of every device; `energy`: the energies of the global replicas. The list is compared with that of the sweep end
before (R214). -/
def ratlineStep (epoch free farmed : Bool) (all : List TopEntry) (energy : Nat → Int) (a : Anneal) : Anneal :=
  let a := if entersNow epoch free farmed then enterOffers all a else a
  let a := if epoch then exchangeStep energy a else a
  { a with sweep := a.sweep + 1, stall := if topKeysOf a.top = a.topKeys then a.stall + 1 else 0, topKeys := topKeysOf a.top }

/-- The end of the Ratline actions: they take effect together (R222). -/
def sweepOver (stop : Option Stop) (a : Anneal) : Anneal :=
  { a with stop := stop, snap := a.stats, snapSum := a.exSum, snapMax := a.exMax, hIdx := 0, gathered := [], part := 3 }

/-- The energies and offers that a device brings to a farmed barrier, and those of all devices (R219, R220). -/
def barrierInts (a : Anneal) : List Int := a.energy ++ [(a.offers.length : Int)] ++ (a.offers.map topInts).flatten
def splitBarrier (segs replicas : Nat) : Nat → List Int → List Int × List TopEntry
  | 0, _ => ([], [])
  | d + 1, l =>
    let n := (nth l replicas 0).toNat
    let w := 3 + 4 * segs
    let r := splitBarrier segs replicas d (l.drop (replicas + 1 + n * w))
    (l.take replicas ++ r.1, intsTops segs ((l.drop (replicas + 1)).take (n * w)) ++ r.2)

/-- The Ratline actions of a farmed barrier, with what every device brought: the stop tests are reduced too (R220). -/
def farmedPart (c : Nat) (x : Ctx) (free : Bool) (a : Anneal) (v : List Int) (s : State) : State :=
  let b := splitBarrier a.prob.segCount a.prob.replicas ((x.md.map (·.devices.length)).getD 1) v
  let a := ratlineStep true free true b.2 (fun g => nth b.1 g 0) a
  let r := combine c minStop (stopInts (stopTest true a)) s
  match r.1 with
  | none => r.2
  | some t => updRun c (fun _ => sweepOver (stopOf (nth t 0 0)) a) r.2

/-- The Ratline part of a sweep end. -/
def ratlinePart (c : Nat) (x : Ctx) (a0 : Anneal) (s : State) : State :=
  let free := isMulti x && flFree x
  let farmed := isFarmed s x
  let epoch := epochEnd a0
  let a := if free && !epoch then a0 else takeRecords a0
  if farmed && epoch then
    let q := if a0.gathered.isEmpty then combine c (fun u v => u ++ v) (barrierInts a) s else (some a0.gathered, s)
    match q.1 with
    | none => q.2
    | some v => farmedPart c x free a v (updRun c (fun a => { a with gathered := v }) q.2)
  else
    let b := ratlineStep epoch free farmed a.offers (fun g => nth a.energy (g - a.gBase) 0) a
    updRun c (fun _ => sweepOver (stopTest (entersNow epoch free farmed) b) b) s

/-- A checkpoint falls due at this sweep end: a multiple of CKPT_PHASES has been reached since the last that was taken (R360). -/
def ckptDue (free : Bool) (a : Anneal) : Bool :=
  decide (a.ckptEvery ≠ 0) && decide (a.ckptIdx < a.n / a.ckptEvery) && (!free || decide (a.sweep % max 1 a.ps.rat.epoch = 0))

/-- Takes a checkpoint: it goes into the run-state areas, where two are kept, and to the mirror holders (R361). -/
def takeCkpt (c : Nat) (x : Ctx) (a : Anneal) (s : State) : State :=
  let k := ckptOf a (((a.ckpts.head?).map (·.num)).getD 0 + 1)
  let s := updRun c (fun a => { a with ckpts := (k :: a.ckpts).take 2, ckptIdx := a.n / a.ckptEvery }) s
  let s := writeStream a.prob (ckptOff k.num) (runRec k) s
  match x.md with
  | some m => if isMulti x && mirrored s m then (liveHolders s (selfId s)).foldl (fun s h => sendPieces m.runId h mkCkpt k.num (encCkpt k) s) s else s
  | none => s

/-- The checkpoint, and the end of `SWEEPEND`; a Bell run that the deadline ended records its limit (R492). -/
def ckptPart (c : Nat) (x : Ctx) (a : Anneal) (s : State) : State :=
  let due := ckptDue (isMulti x && flFree x) a
  let busy := match x.md with | some m => ckptInFlight s m | none => false
  if due && busy then s
  else
    let s := if due then takeCkpt c x a s else s
    let s := updRun c (fun a => { a with part := 0, pos := if a.stop.isSome then .over else .gather }) s
    let s := if isBell x && decide (a.stop = some .deadline) then updCtx c (fun x => { x with sweepLimit := a.sweep }) s else s
    collAdvance c s

/-- One part of a sweep end. -/
def sweepPart (c : Nat) (s : State) : State :=
  match ctxOf s c with
  | none => s
  | some x =>
    match x.anneal with
    | none => s
    | some a =>
      let free := isMulti x && flFree x
      if a.stop.isSome && decide (a.part ≠ 3) then s
      else match a.part with
      | 0 =>
        if isSpanned s x && flFree x && epochEnd a then
          match x.md with
          | some m =>
            if m.barrier = 0 then startBarrier c a s
            else if m.barrier = 1 then takeAccs c s
            else updRun c (fun a => { a with part := 1 }) (updMd c (fun m => { m with barrier := 0, waitingOn := [] }) s)
          | none => s
        else updRun c (fun a => { a with part := 1 }) s
      | 1 =>
        if pwCheckDue free a then pwStep c a s
        else
          let due := free && decide (a.ps.rot.pwEnable = 1) && decide ((a.sweep + 1) % max 1 a.ps.rot.pwPeriod = 0)
          updRun c (fun a => { a with part := 2, pwDue := a.pwDue || due }) s
      | 2 => writeRun c (ratlinePart c x a s)
      | _ => ckptPart c x a s

/-- The parts of a sweep end that are left, each only once the one before it is complete. -/
def sweepParts (c from_ : Nat) (s : State) : State :=
  (List.range (4 - from_)).foldl (fun s i =>
    match runOf s c with
    | some b => if b.part = from_ + i then sweepPart c s else s
    | none => s) s

/-- The end of a sweep, the run's state having been read. -/
def sweependPhase (c : Nat) (a : Anneal) (s : State) : State :=
  let r := runReads c a s
  if r.1 then sweepParts c a.part r.2 else r.2

/-- SWEEPEND (R184): the penalty-weight check, the Ratline actions and a due checkpoint, in that order. -/
def execSweepend (c : Nat) (o : SweependOp) (s : State) : Host.Outcome State Fault Refusal :=
  runAct c (.sweepend o) s fun _ a s => sweependPhase c a s

/-! ## The result (R302, R395, R397) -/

/-- A digest as two numbers, and back. -/
def digestInts (b : List Byte) : List Int := [signed 128 (leAt b 0 16), signed 128 (leAt b 16 16)]

/-- Writes the result area of a spanned run, whose digest covers the digests of every position. -/
def resultSpanned (c : Nat) (x : Ctx) (a : Anneal) (da : Nat) (s : State) : State :=
  let q := combine c (fun u v => u ++ v) (digestInts (stateDigest a)) s
  match q.1 with
  | none => q.2
  | some v => collAdvance c (writeResult c (daOf x da)
      (shake256 (2 :: (leBytes 2 (v.length / 2) ++ (v.map fun i => leBytes 16 (unsigned 128 i)).flatten)) 32)
      (updRun c (fun a => { a with gathered := [] }) q.2))

/-- What a device of a spanned Free run tells the others at its end: whether its run is saturated, and the phase. -/
def endInts (a : Anneal) : List Int := [(b2n (decide (a.stop = some .saturated)) : Int), (a.satPhase : Int)]

/-- A peer's run has saturated since the last barrier: its phase is discarded here, and this run ends as saturated too (R52). -/
def endTogether (c : Nat) (v : List Int) (s : State) : State :=
  let ms := (List.range (v.length / 2)).filterMap fun p => if nth v (2 * p) 0 = 0 then none else some (p, (nth v (2 * p + 1) 0).toNat)
  match runOf s c, ms with
  | some a, m :: _ =>
    if a.stop = some .saturated then s
    else addCause c ⟨stFieldSaturated, m.2 % 2 ^ 32, 0⟩
      (updRun c (fun a => { a with stop := some .saturated, satPhase := m.2 }) (takeBackRun c ms s))
  | _, _ => s

/-- The ends of the devices of a spanned Free run, told once. -/
def endsTold (c : Nat) (a : Anneal) (s : State) : Bool × State :=
  if !a.gathered.isEmpty then (true, s)
  else
    let q := combine c (fun u v => u ++ v) (endInts a) s
    match q.1 with
    | none => (false, q.2)
    | some v => (true, updRun c (fun a => { a with gathered := v }) (endTogether c v q.2))

/-- Writes the result area, the records having been read. -/
def resultGo (c : Nat) (x : Ctx) (a : Anneal) (da : Nat) (s : State) : State :=
  if isSpanned s x then
    if flFree x then
      let q := endsTold c a s
      match q.1, runOf q.2 c with
      | true, some b => resultSpanned c x b da q.2
      | _, _ => q.2
    else resultSpanned c x a da s
  else collAdvance c (writeResult c (daOf x da) (stateDigest a) s)

/-- The result of a run. -/
def resultPhase (c : Nat) (x : Ctx) (a : Anneal) (da : Nat) (s : State) : State :=
  let r := runReads c a s
  if r.1 then resultGo c x a da r.2 else r.2

/-- RESULT (R302, R397): writes the result area at DA and forms the final-state digests. -/
def execResult (c : Nat) (o : ResultOp) (s : State) : Host.Outcome State Fault Refusal :=
  runAct c (.result o) s fun x a s => resultPhase c x a o.da s

end Sys2Proof.Machine
end

