-- ==== Sys2Proof/Machine/Entropy.lean ====
section
/-!
DEFINITION. The entropy service: sources, conditioned blocks, the four CTR_DRBG instances (R576 to R586, R659 to R661).
-/
namespace Sys2Proof.Machine

/-! ## Instances: 0 = K, 1 = L, 2 = S, 3 = H -/

def instK : Nat := 0
def instL : Nat := 1
def instS : Nat := 2
def instH : Nat := 3

/-- The states of an instance in ENT_STATE (R659). -/
def drbgUninst : Nat := 0
def drbgReady : Nat := 1
def drbgDue : Nat := 2
def drbgExhausted : Nat := 3

/-- An instance. -/
def drbgOf (s : State) (i : Nat) : Drbg := nth s.ent.insts i drbgReset

/-- Changes the entropy service. -/
def updEnt (f : Entropy → Entropy) (s : State) : State := { s with ent := f s.ent }

/-- Changes an instance. -/
def updDrbg (i : Nat) (f : Drbg → Drbg) (s : State) : State := updEnt (fun e => { e with insts := updAt e.insts i f }) s

/-- An instance can serve a generate request (R582). -/
def canServe (s : State) (i : Nat) : Bool :=
  let d := drbgOf s i
  (decide (d.st = drbgReady) || decide (d.st = drbgDue)) && decide (d.count < 2 ^ 20) && !s.sec.tampered

/-- The personalisation string of an instance (R582): the serial number as 8 little-endian bytes (log entry 23). -/
def drbgPers (i : Nat) : List Byte :=
  ascii "ONK-DRBG-" ++ ascii (match i with | 0 => "K" | 1 => "L" | 2 => "S" | _ => "H") ++ leBytes 8 Config.serial.toNat

/-- One generate request of `n` bytes; after 2²⁰ of them the instance is EXHAUSTED (R582). -/
def drbgTake (i n : Nat) (s : State) : List Byte × State :=
  let d := drbgOf s i
  let (b, k, v) := drbgGenerate d.key d.v n
  (b, updDrbg i (fun d => { d with key := k, v := v, count := d.count + 1,
                                   st := if d.count + 1 < 2 ^ 20 then d.st else drbgExhausted }) s)

/-- An instance waits for conditioned blocks: to be instantiated or to be reseeded (R582, R583). -/
def wantsBlocks (s : State) (i : Nat) : Bool := decide ((drbgOf s i).st ≠ drbgReady) && !s.sec.tampered

/-- The blocks an instance has taken towards its three. -/
def owedTo (s : State) (i : Nat) : List Byte := ((s.ent.owed.find? fun o => decide (o.1 = i)).map (·.2)).getD []

/-- Keeps the blocks an instance has taken. -/
def setOwed (i : Nat) (b : List Byte) (s : State) : State :=
  updEnt (fun e => { e with owed := (i, b) :: e.owed.filter fun o => decide (o.1 ≠ i) }) s

/-- Three blocks instantiate or reseed an instance. -/
def seedDrbg (i : Nat) (b : List Byte) (s : State) : State :=
  let d := drbgOf s i
  let r := if d.st = drbgUninst then drbgInstantiate b (drbgPers i) else drbgReseed d.key d.v b
  bump pgEntropy 0x054 (updDrbg i (fun _ => ⟨r.1, r.2, drbgReady, 0, s.now⟩) (setOwed i [] s))

/-- A block goes to the first waiting instance in the order K, L, S, H; the answer names the instance it completed (R583). -/
def absorbBlock (b : List Byte) (s : State) : Option Nat × State :=
  match (List.range 4).find? (wantsBlocks s) with
  | none => (none, s)
  | some i =>
    let all := owedTo s i ++ b
    if 96 ≤ all.length then (some i, seedDrbg i (all.take 96) s) else (none, setOwed i all s)

/-! ## Sources (R578 to R581) -/

/-- The state of a source: 0 start-up test, 1 HEALTHY, 2 FAILED, 3 RETEST. -/
def sourceSt (s : State) (i : Nat) : Nat := nth s.ent.sources i 0

/-- The service state that the sources give (R581). -/
def serviceOf (src : List Nat) : Nat :=
  match (src.filter fun x => decide (x = 1)).length with
  | 3 => 1
  | 2 => 2
  | _ => 3

/-! ## The test pattern (R578, R586) -/

/-- The LFSR x³² + x²² + x² + x + 1, one bit on; its output is bit 0 (DESIGN CHOICE, log entry 106). -/
def lfsrStep (x : Nat) : Nat := x / 2 + (x ^^^ x / 2 ^^^ x / 4 ^^^ x / 2 ^ 22) % 2 * 2 ^ 31

/-- The repetition count test and the adaptive proportion test of a source on the pattern: the LFSR, the run of equal bits and its bit, the
first bit of the window and how often it came, the samples so far, whether a test has tripped. -/
structure Health where
  lfsr : Nat
  run : Nat
  bit : Bool
  first : Bool
  count : Nat
  pos : Nat
  tripped : Bool
  deriving DecidableEq, Repr

/-- One sample. -/
def healthStep (rct apt : Nat) (h : Health) : Health :=
  let b := h.lfsr.testBit 0
  let run := if h.pos ≠ 0 ∧ b = h.bit then h.run + 1 else 1
  let begins := decide (h.pos % 1024 = 0)
  let first := if begins then b else h.first
  let count := if begins then 1 else if b = h.first then h.count + 1 else h.count
  ⟨lfsrStep h.lfsr, run, b, first, count, h.pos + 1, h.tripped || decide (rct ≤ run) || decide (apt ≤ count)⟩

/-- When the pattern replaced the sources, in BLANK (R586). -/
def patternOn (s : State) : Option Nat := if s.fuses.life = 0 then s.ent.pattern else none

/-- The tests of source `k` trip on the pattern, which began at `t0`, between two times. -/
def patternTrips (s : State) (k t0 t u : Nat) : Bool :=
  let seed := reg s pgEntropy 0x080 / 256 * 256 + 0xA5
  let h := calEntH s.calNow k
  (iter (fun _ h' => healthStep (rctCutoff h) (aptCutoff h) h') ((u - t) / 250)
    ⟨iter (fun _ x => lfsrStep x) ((t - t0) / 250) seed, 0, false, false, 0, 0, false⟩).tripped

/-- A source fails its tests now, as far as the model tells: on the pattern as the pattern decides, from the end of its last start-up
test on. -/
def mayTrip (s : State) (k : Nat) : Bool :=
  match patternOn s with
  | some t0 =>
    let r := nth s.ent.retestAt k 0
    patternTrips s k t0 (max t0 (if r = 0 then 0 else r + 256000)) s.now
  | none => true

/-- A rerun of a source's start-up test can end so: on the pattern as the pattern decides. -/
def mayEnd (s : State) (k : Nat) (pass : Bool) : Bool :=
  let r := nth s.ent.retestAt k 0
  match patternOn s with
  | some t0 => decide (r < t0) || decide (pass = !patternTrips s k t0 r (r + 256000))
  | none => true

/-- A write of TEST_PATTERN: in BLANK the pattern starts, or the sources come back. -/
def patternWrite (v : Nat) (s : State) : State :=
  if s.fuses.life = 0 then
    updEnt (fun e => { e with pattern := if v.testBit 0 then some s.now else none }) (setReg pgEntropy 0x080 (v &&& 0xFFFFFF01) s)
  else s

/-! ## BOOT_ID (R413, R583) -/

/-- Asks instance K for BOOT_ID where it is not drawn and not asked for (R413, R583). -/
def wantBootId (s : State) : State :=
  if s.cert.bootId.isSome || s.ent.reqs.any (fun r => decide (r.purpose = 0)) then s
  else updEnt (fun e => { e with reqs := e.reqs ++ [⟨instK, 0, 0, s.now⟩] }) s

/-- The service state after a change of the sources: SERVICE_FAILED on entering FAILED, and BOOT_ID asked for again at a
return (R583, R661). -/
def settleService (s : State) : State :=
  let new := serviceOf s.ent.sources
  let old := s.ent.service
  let s := updEnt (fun e => { e with service := new }) s
  if new = 3 then (if old = 3 then s else raise pgEntropy 2 s)
  else if old = 3 ∨ old = 0 ∨ (old = 2 ∧ new = 1) then wantBootId s else s

/-- A source fails: it is excluded, counted in its field of SRC_FAILS, which saturates (R648), and tested again in a second (R578,
R579). -/
def failSource (i : Nat) (s : State) : State :=
  let v := field (reg s pgEntropy 0x044) (8 * i) 8
  let s := setField pgEntropy 0x044 (8 * i) 8 (min 255 (v + 1)) s
  let s := if v = 254 then noteSat pgEntropy s else s
  let s := updEnt (fun e => { e with sources := updAt e.sources i fun _ => 2, retestAt := updAt e.retestAt i fun _ => s.now + 1000000000 }) s
  raise pgEntropy 1 s

/-- A failed source whose rerun is under way (R579, R659). -/
def retesting (s : State) (i : Nat) : Bool := decide (sourceSt s i = 2) && decide (nth s.ent.retestAt i 0 ≤ s.now)

/-! ## The H interface (R585, R660) -/

/-- H_STATUS as it reads: NOT_READY in STARTUP, FAILED while the service is FAILED and H has no generate left. -/
def hStatus (s : State) : Nat :=
  let st := reg s pgEntropy 0x050 % 8
  if st = 2 then 2
  else if s.ent.service = 0 then 3
  else if s.sec.tampered || (decide (s.ent.service = 3) && !canServe s instH) then 4
  else st

/-- H takes 256 bits and is READY. -/
def serveH (s : State) : State :=
  let (b, s) := drbgTake instH 32 s
  setReg pgEntropy 0x050 2 (updEnt (fun e => { e with hData := b }) s)

/-- A write of H_REQ with bit 0 set: ignored unless H_STATUS is IDLE; BUSY while H waits for its reseed (log entry 23). -/
def hReqWrite (v : Nat) (s : State) : State :=
  if v.testBit 0 ∧ hStatus s = 0 then (if canServe s instH then serveH s else setReg pgEntropy 0x050 1 s) else s

/-- A read of H_DATA[7] while READY zeroes the words and returns H_STATUS to IDLE. -/
def hDataDone (s : State) : State :=
  if reg s pgEntropy 0x050 % 8 = 2 then setReg pgEntropy 0x050 0 (updEnt (fun e => { e with hData := zeros 32 }) s) else s

/-- The deadline of an internal request: 10 ms (R583). -/
def reqDue (s : State) (r : EntReq) : Bool := decide (r.at_ + 10000000 ≤ s.now)

/-- An internal request fails: INT_FAILS and ENTROPY_FAIL (R584). -/
def reqFails (s : State) : State := raise pgEntropy 0 (bump pgEntropy 0x048 s)

/-- Asks an instance for something; the request waits (R583). -/
def askDrbg (inst purpose ctx : Nat) (s : State) : State :=
  updEnt (fun e => { e with reqs := e.reqs ++ [⟨inst, purpose, ctx, s.now⟩] }) s

end Sys2Proof.Machine
end

