-- ==== Sys2Proof/Machine/Grant.lean ====
section
/-!
DEFINITION. Engines for invocations (R440 to R449): grants, inputs, seeds, the START handshake (R351), switching, aborts at a
switch point, and the flush reads of host signals (R456).
-/
namespace Sys2Proof.Machine

/-! ## Who needs which engines (R442 to R446) -/

/-- Two masks share an engine. -/
def masksMeet (a b : Nat) : Bool := decide (a &&& b ≠ 0)

/-- The engines that an invocation needs, as a mask. -/
def ctxMask (s : State) (x : Ctx) : Nat := imgMask (ctxImage s x)

/-- The running invocations on the engines of a mask. -/
def holders (s : State) (mask : Nat) : List Ctx :=
  s.ctxs.filter fun y => isInvocation y && decide (y.life = .running) && masksMeet mask (ctxMask s y)

/-- A run is between its `PLOAD` and its `RESULT`. -/
def runHolds (x : Ctx) : Bool := match x.anneal with | some a => !a.resultDone | none => false

/-- The home-region ranges that a switched-out invocation holds (R445). -/
def heldRanges (y : Ctx) : List (Nat × Nat) :=
  match y.anneal with
  | none => []
  | some a => ((homeEngines a.prob).map fun e => (annealRanges a.prob e).map fun r => (homeBase e + r.1, r.2)).flatten

/-- The home-region ranges that an instruction writes; a `PLOAD` may write anywhere in the home region of its engine. -/
def homeWrites (e : Nat) (op : EngOp) : List (Nat × Nat) :=
  match op with
  | .move o =>
    if o.dir = 3 then [(homeBase (hregEng e o.hreg) + 64 * o.addr, 64 * (o.len + 1))]
    else if o.dir = 1 then [(64 * o.addr, 64 * (o.len + 1))] else []
  | .pload _ => [(homeBase e, 2 ^ 30)]
  | _ => []

/-- Two ranges share a byte. -/
def rangesTouch (a b : Nat × Nat) : Bool := decide (a.1 < b.1 + b.2) && decide (b.1 < a.1 + a.2)

/-- A home-region range that an invocation writes is held by a switched-out one, from its `PLOAD` to its `RESULT`, or until its queued
audit is over (R404): it is not READY (R445). -/
def homeConflict (s : State) (x : Ctx) : Bool :=
  let img := ctxImage s x
  let ws := ((progEngines img).map fun e => ((engProg img e).map fun i => homeWrites e i.op).flatten).flatten
  s.ctxs.any fun y => decide (y.life = .switchedOut) && (runHolds y || auditPending s y) && (heldRanges y).any fun r => ws.any (rangesTouch r)

/-- An invocation that is READY, and that its device state lets start (R425, R445). -/
def readyNow (s : State) (x : Ctx) : Bool :=
  isInvocation x && decide (x.life = .ready) && ringRuns s x && !homeConflict s x

/-- A ready invocation of a higher ring needs engines of a mask (R427). -/
def higherNeeds (s : State) (ring mask : Nat) : Bool :=
  s.ctxs.any fun y => readyNow s y && decide (y.ring < ring) && masksMeet mask (ctxMask s y)

/-- A held Bell release needs engines of a mask (R486, R487). -/
def releaseNeeds (s : State) (mask : Nat) : Bool :=
  (List.range 2).any fun q => masksMeet mask (partition s q) && (bellOf s q).progs.any fun p => p.held.isSome

/-- The Bell partitions that a mask meets (R477 to R479). -/
def lentFrom (s : State) (mask : Nat) : List Nat := (List.range 2).filter fun q => masksMeet mask (partition s q)

/-- An ordinary invocation runs on engines of a Bell partition: lent work (R446, R478). -/
def isLent (s : State) (x : Ctx) : Bool := !isBell x && !(lentFrom s (ctxMask s x)).isEmpty

/-- The switch slots in use: by switched-out invocations and by lent work (R444, R446). -/
def slotsUsed (s : State) (but : Nat) : Nat :=
  (s.ctxs.filter fun y => decide (y.id ≠ but) && isInvocation y &&
    (decide (y.life = .switchedOut) || (decide (y.life = .running) && isLent s y))).length

/-- A switch slot is free for an invocation. -/
def slotFree (s : State) (c : Nat) : Bool := decide (slotsUsed s c < reg s pgCfe 0x060)

/-- Lent work may be dispatched: LEND is set, a slot is free, the image is a single-device one, and lending to its program has
not stopped (R446, R490). -/
def lendOk (s : State) (x : Ctx) : Bool :=
  (lentFrom s (ctxMask s x)).all fun q => (reg s (pgQue q) 0x104).testBit 1 && slotFree s x.id &&
    decide (imgMode (ctxImage s x) = 0) && !((progOf s x).map (·.noLend)).getD false

/-- The tiles of a mask's engines are due no self-test. -/
def testsOver (s : State) (mask : Nat) : Bool :=
  (List.range 32).all fun e => !mask.testBit e || !s.selftestDue.contains (tileOf s e)

/-- The tiles of a mask's engines are due no self-test and no substitution. -/
def tilesReady (s : State) (mask : Nat) : Bool :=
  testsOver s mask && (List.range 32).all fun e =>
    !mask.testBit e || !((s.substs.any fun u => decide (u.eng = e)) || s.failing.any fun f => decide (f.1 = e))

/-! ## ENGINE_GRANT (R442) -/

/-- An invocation can be granted its engines. -/
def grantable (s : State) (x : Ctx) : Bool :=
  let m := ctxMask s x
  readyNow s x && (holders s m).isEmpty && !higherNeeds s x.ring m && !releaseNeeds s m && tilesReady s m && lendOk s x

/-- The lost engine that an invocation needs, if any (R27). -/
def needsLost (s : State) (x : Ctx) : Option Nat := (ctxEngines s x).find? (engineLost s)

/-- An invocation asks for a certificate that could not be signed or delivered (R416, R570). -/
def certRefused (s : State) (x : Ctx) : Bool := flCert x && (!certPossible s || decide (s.cert.ringSlots = 0))

/-- The device-address ranges of an invocation's image that its queue does not reach (R517). -/
def placesBad (s : State) (x : Ctx) : Option Loc := if onMaint x then none else daCheck (ctxImage s x) (mapOk s .program)

/-- The invocation enters RUNNING, or ends: an engine of it is lost (R27), its certificate could not be signed (R416), or its image
names a range that its queue does not reach (R517). -/
def grant (c : Nat) (s : State) : State :=
  match ctxOf s c with
  | none => s
  | some x =>
    match needsLost s x with
    | some e => endWith c (lostFault (tileOf s e) e x) s
    | none =>
      if certRefused s x then endWith c (badAt (descLoc x).2 (descLoc x).1 0x02) s
      else match placesBad s x with
      | some l => endWith c (invalidAt l) s
      | none => updCtx c (fun x => { x with tSlice := s.now }) (beginWork c .running s)

/-- ENGINE_GRANT (R442): a READY invocation is granted its engines and enters RUNNING. -/
def execEngineGrant (c : Nat) (s : State) : Host.Outcome State Fault Refusal :=
  actCfe (decide (c < 4096)) (ctxIs s c (grantable s)) s (grant c s)

/-! ## The START handshake (R351, R502) -/

/-- The digest of a device list. -/
def devlistDigest (ds : List Nat) : List Byte := shake256 ((ds.map (leBytes 2)).flatten) 32

/-- The START that an invocation sends. -/
def ownStart (s : State) (x : Ctx) (m : MdRun) : StartBody :=
  ⟨m.runId, m.position, ((progOf s x).map (·.digest)).getD [], devlistDigest m.devices, x.budget⟩

/-- Two STARTs agree but for position and budget. -/
def startAgrees (a b : StartBody) : Bool :=
  decide (a.runId = b.runId) && decide (a.program = b.program) && decide (a.devlist = b.devlist)

/-- Every other position has sent START. -/
def allStarted (m : MdRun) : Bool := (others m).all fun p => m.starts.contains p

/-- The engine programs are fed; after a fail-over, the run goes on. -/
def startFeeding (c : Nat) (s : State) : State :=
  updCtx c (fun x => { x with fed := true })
    (updMd c (fun m => { m with waitingOn := [], failover := none, heard := m.heard.map fun _ => s.now }) s)

/-- Feeds the programs once every START has arrived and the inputs are in. -/
def tryStart (c : Nat) (s : State) : State :=
  match ctxOf s c with
  | none => s
  | some x =>
    match x.md with
    | none => s
    | some m => if allStarted m && x.inputsIn && m.startSent then startFeeding c s else s

/-- The governing budget of a release that starts now (R495): it starts as its first engine instruction is fed, or its START is sent
(R486). -/
def governing (s : State) (x : Ctx) : Nat :=
  let nom := x.budgetNom
  let lo := bkBudgetMin x.regBlock
  let delta := max 1 ((nom - lo + 3) / 4)
  let onGrid := decide (s.now ≤ x.tFetch + 20000)
  if !(reg s (pgQue x.ring) 0x104).testBit 0 || decide (nom = lo) then nom
  else if x.before.2 || !onGrid then max lo (x.before.1 - delta) else nom

/-- A budget below the nominal one counts in STEPDOWNS (R495). -/
def setBudget (c b : Nat) (s : State) : State :=
  match ctxOf s c with
  | none => s
  | some x =>
    updCtx c (fun x => { x with budget := b }) (if x.budget = x.budgetNom ∧ b < x.budgetNom then bump (pgQue x.ring) 0x124 s else s)

/-- A Bell release starts: its governing budget is fixed. -/
def fixBudget (c : Nat) (s : State) : State :=
  match ctxOf s c with
  | none => s
  | some x => match x.origin with | .release _ _ => setBudget c (governing s x) s | _ => s

/-- A START of position `p` of a run: a field that differs ends the invocation with `PROGRAM_INVALID` (R351, R693); a Bell
release takes the least governing budget (R502). -/
def takeStart (c p : Nat) (b : StartBody) (s : State) : State :=
  match ctxOf s c with
  | none => s
  | some x =>
    match x.md with
    | none => s
    | some m =>
      if startAgrees (ownStart s x m) b && decide (b.position = p) then
        let s := if isBell x ∧ b.budget < x.budget then setBudget c b.budget s else s
        tryStart c (updMd c (fun m => { m with starts := if m.starts.contains p then m.starts else p :: m.starts, waitingOn := m.waitingOn.filter fun q => decide (q ≠ (0, p)) }) s)
      else endWith c (badAt 0 0 0x08) s

/-- A START from its bytes. -/
def decStart (b : List Byte) : StartBody := ⟨leAt b 1 8, leAt b 9 2, slice b 11 32, slice b 43 32, leAt b 75 4⟩

/-- A START that waits for this device's own invocation; `msg` holds when it came. -/
def isEarlyStart (src : Nat) (i : InMsg) : Bool := decide (i.cls = 0) && decide (i.src = src) && decide (leAt i.data 0 1 = 3)

/-- Keeps a START for later, in place of an earlier one of its sender. -/
def keepStart (src : Nat) (b : StartBody) (s : State) : State :=
  updNet (fun n => { n with inbox := n.inbox.filter (fun i => !isEarlyStart src i) ++ [⟨src, 0, s.now, ctStart b, none⟩] }) s

/-- Takes the STARTs that came before this device's own; one older than the barrier timeout is stale, since its sender has given
the run up, and so is one of another release (log entry 34). -/
def takeEarly (c : Nat) (s : State) : State :=
  match ctxOf s c with
  | none => s
  | some x =>
    match x.md with
    | none => s
    | some m =>
      let keep (i : InMsg) : Bool := (others m).any fun p => isEarlyStart (devAt m p) i
      let got := s.net.inbox.filter keep
      let s := updNet (fun n => { n with inbox := n.inbox.filter fun i => !keep i }) s
      got.foldl (fun s i =>
        let b := decStart i.data
        if i.msg + m.timeoutUs * 1000 < s.now ∨ (isBell x ∧ b.runId ≠ m.runId) then s
        else takeStart c ((posOf m i.src).getD 0) b s) s

/-- Sends START to every other position and waits for theirs. -/
def sendStarts (c : Nat) (s : State) : State :=
  match ctxOf s c with
  | none => s
  | some x =>
    match x.md with
    | none => s
    | some m =>
      let s := (others m).foldl (fun s p => sendCtrl (devAt m p) (ctStart (ownStart s x m)) s) s
      let miss := (others m).filter fun p => !m.starts.contains p
      tryStart c (takeEarly c (updMd c (fun m => { m with startSent := true, waitingOn := miss.map fun p => (0, p), heard := m.heard.map fun _ => s.now }) s))

/-- A flit of an activation frame that this device sends to one of several devices. -/
def isFrameTo (s : State) (ds : List Nat) (f : QFlit) : Bool :=
  decide (f.cls = 2) && decide (f.src = selfId s) && ds.contains f.dst && (decide (f.typ = 1) || decide (f.typ = 2))

/-- Forgets the frames of a run, those of devices that it has lost among them: counters restart from 0, frames under way, delivered frames
and their records are dropped (R335, R355, R365). -/
def clearFrames (m : MdRun) (s : State) : State :=
  let ds := (others m).map (devAt m) ++ (s.net.discard.filter fun e => decide (e.2 = m.runId)).map (·.1)
  let s := { s with links := s.links.map fun k => { k with queue := k.queue.filter fun f => !isFrameTo s ds f } }
  updNet (fun n => { n with
    out := n.out.filter (fun o => !(decide (o.cls = 2) && ds.contains o.dst))
    inbox := n.inbox.filter (fun i => !(decide (i.cls = 2) && ds.contains i.src))
    delivered := n.delivered.filter (fun d => !(decide (d.2.1 = 2) && ds.contains d.1))
    part := n.part.filter (fun q => !(decide (q.cls = 2) && ds.contains q.src))
    nextMsg := n.nextMsg.filter (fun e => !(decide (4096 ≤ e.1) && ds.contains ((e.1 - 4096) / 16))) }) s

/-- The record of the messages that a run has delivered is cleared as it starts again (R365). -/
def clearDelivered (m : MdRun) (s : State) : State :=
  let ds := (others m).map (devAt m)
  updNet (fun n => { n with delivered := n.delivered.filter fun d => !ds.contains d.1 }) s

/-- The multi-device part of an invocation as it starts (R349, R357, R358). -/
def newRun (s : State) (x : Ctx) : MdRun :=
  let img := ctxImage s x
  { runId := dRunId x, position := (selfPosition s img).getD 0, devices := imgDevlist img, mode := imgMode img, free := flFree x,
    timeoutUs := clampTimeout (largestProg img) (reg s pgCfe 0x100), ckptPhases := reg s pgCfe 0x104, startSent := false, starts := [],
    heard := List.replicate (imgDevCount img) s.now, waitingOn := [], remote := [], epochs := [], lastSent := 0,
    combBase := 0, combines := [], ups := [], lastProgress := s.now, lost := none, notices := [], collectFrom := none, failover := none,
    cutFlag := false, late := 0, shareSent := false, barrier := 0, claimed := false, fails := 0, package := [] }

/-- The mirror of a pipelined run goes to the holders as the invocation enters RUNNING: its run package, with the image and the
constants that the image holds, to the first of them (R363). -/
def offerPackage (c : Nat) (s : State) : State :=
  match ctxOf s c with
  | none => s
  | some x =>
    match x.md with
    | none => s
    | some m =>
      if keepsMirrors s m && decide (m.mode = 3) then
        let s := (packageReads s x none).2
        let pkg := packageBytes s x none
        (liveHolders s (selfId s)).zipIdx.foldl (fun s h =>
          let b := if h.2 = 0 then pkg else []
          sendPieces m.runId h.1 mkPackage 0 b (sendOffer m.runId h.1 0 b.length 0 s)) (updMd c (fun m => { m with package := pkg }) s)
      else s

/-- The message numbers between this device and another begin again with a run, in both directions: what was sent of classes 0, 1 and 3
before is forgotten (R335). -/
def renumber (run src : Nat) (s : State) : State :=
  if s.net.fresh.contains (src, run) then s
  else updNet (fun n => { n with
    fresh := (src, run) :: n.fresh
    nextMsg := n.nextMsg.filter (fun e => !(decide (e.1 < 4096) && decide (e.1 / 4 = src)))
    out := n.out.filter (fun o => !(decide (o.dst = src) && decide (o.cls ≠ 2)))
    delivered := n.delivered.filter (fun d => !(decide (d.1 = src) && decide (d.2.1 ≠ 2)))
    part := n.part.filter (fun q => !(decide (q.src = src) && decide (q.cls ≠ 2))) }) s

/-- The message numbers between this device and the others of a run begin again (R335), where no other run is under way with them. -/
def beginNumbers (m : MdRun) (s : State) : State :=
  ((others m).map (devAt m)).foldl (fun s d => if soleRun s m.runId d then renumber m.runId d s else s) s

/-- A multi-device run begins on this device. -/
def startMulti (c : Nat) (s : State) : State :=
  match ctxOf s c with
  | none => s
  | some x =>
    let m := newRun s x
    offerPackage c (sendStarts c (clearFrames m (beginNumbers m (updCtx c (fun x => { x with md := some m }) s))))

/-! ## INPUTS_MOVED (R441, R392) -/

/-- The bytes of an input's source or of its digest, or the cause that ends the invocation: a host read that fails is
`HOST_READ_FAULT`, host-managed data that reads uncorrectably `INTERNAL_FAULT` (R441, R538). -/
def inputGet (x : Ctx) (dev : Bool) (a n i : Nat) (rs : List Cpl) (s : State) : Except Cause (List Byte) × State :=
  if dev then
    let r := devGet x.id a n s
    match r.1 with
    | some b => (.ok b, r.2)
    | none => let f := internalFault r.2; (.error f.1, f.2)
  else
    let r := hostGet a rs n s
    (match r.1 with | some b => .ok b | none => .error ⟨stHostReadFault, i, 0⟩, r.2)

/-- Moves input `i` and compares its digest: its tree digest, or the cause that ends the invocation. -/
def moveInput (x : Ctx) (i : Nat) (e : Input) (rs ds : List Cpl) (s : State) : Except Cause (List Byte × List Byte) × State :=
  let r := inputGet x e.srcDev e.src e.len i rs s
  match r.1 with
  | .error k => (.error k, r.2)
  | .ok b =>
    let s := memWrite e.dst b r.2
    let d := treeDigest b
    if e.digest = 0 then (.ok (b, d), s)
    else
      let q := inputGet x (flArgsDev x) e.digest 32 i ds s
      match q.1 with
      | .error k => (.error k, q.2)
      | .ok w => (if w = d then .ok (b, d) else .error ⟨stDigestMismatch, i, 0⟩, q.2)

/-- Moves the inputs in entry order: their bytes and digests, or the first cause. -/
def moveInputs (x : Ctx) : List (Nat × Input) → List (List Cpl) → List (List Cpl) → State → Except Cause (List (List Byte × List Byte)) × State
  | [], _, _, s => (.ok [], s)
  | (i, e) :: l, rs, ds, s =>
    let r := moveInput x i e (rs.headD []) (ds.headD []) s
    match r.1 with
    | .error k => (.error k, r.2)
    | .ok b =>
      let q := moveInputs x l rs.tail ds.tail r.2
      (match q.1 with | .error k => .error k | .ok bs => .ok (b :: bs), q.2)

/-- Feeds the programs of an invocation whose inputs are in and whose seed is set: cursors at their first instructions, stage
records empty. -/
def feed (c : Nat) (s : State) : State :=
  match ctxOf s c with
  | none => s
  | some x =>
    let img := ctxImage s x
    let s := if x.curs.isEmpty then
        fixBudget c <| updCtx c (fun x => { x with curs := (progEngines img).map (startCur img), stages := List.replicate (imgStages img + 1) stageZero }) s
      else s
    if imgDevCount img ≤ 1 then updCtx c (fun x => { x with fed := true }) s
    else match x.md with
      | none => startMulti c s
      | some m => if allStarted m && m.failover.isNone then updCtx c (fun x => { x with fed := true }) s else s

/-- A fresh seed of 64 bits from instance S (R392). -/
def takeSeed (c : Nat) (s : State) : State :=
  let r := drbgTake instS 8 s
  feed c (updCtx c (fun x => { x with seed := leNat r.1, seeded := true }) r.2)

/-- The seed, then the programs: a fresh seed that S cannot serve now is waited for (R392, R583). -/
def seedAndFeed (c : Nat) (s : State) : State :=
  match ctxOf s c with
  | none => s
  | some x =>
    if flFresh x && !x.seeded then (if canServe s instS then takeSeed c s else askDrbg instS 1 c s) else feed c s

/-- The first input whose digest differs from that of its first move. -/
def movedDiffer (a b : List (List Byte)) : Option Nat := (List.range b.length).find? fun i => decide (nth a i [] ≠ nth b i [])

/-- The inputs are in. A second move that differs ends the invocation: after a fail-over with `INPUT_DIGEST_MISMATCH` (R365),
after a restart with `INTERNAL_FAULT` (R537). -/
def inputsDone (c : Nat) (bs : List (List Byte × List Byte)) (s : State) : State :=
  match ctxOf s c with
  | none => s
  | some x =>
    let ds := bs.map (·.2)
    let again := !x.inputDigest.isEmpty
    match if again then movedDiffer x.inDigests ds else none with
    | some i =>
      if (x.md.bind (·.failover)).isSome then endWith c ⟨stDigestMismatch, i, 0⟩ s
      else let f := internalFault s; endWith c f.1 f.2
    | none =>
      seedAndFeed c (updCtx c (fun x => { x with inputsIn := true, inDigests := ds, inputDigest := treeDigest (bs.map (·.1)).flatten }) s)

/-- Moves the inputs of an invocation; after a restart, a source that no longer has its digest ends it `INTERNAL_FAULT` (R538). -/
def inputsMoved (c : Nat) (rs ds : List (List Cpl)) (s : State) : State :=
  match ctxOf s c with
  | none => s
  | some x =>
    let r := moveInputs x (x.inputs.zipIdx.map fun e => (e.2, e.1)) rs ds s
    match r.1 with
    | .error k =>
      if k.code = stDigestMismatch ∧ !x.inputDigest.isEmpty ∧ (x.md.bind (·.failover)).isNone then
        let f := internalFault r.2
        endWith c f.1 f.2
      else endWith c k r.2
    | .ok bs => inputsDone c bs r.2

/-- INPUTS_MOVED (R441): the inputs have been moved and digested, the fresh seed is taken, and the engine programs are fed; a
multi-device run first exchanges START (R351). -/
def execInputsMoved (c : Nat) (data digests : List (List Cpl)) (s : State) : Host.Outcome State Fault Refusal :=
  actCfe (decide (c < 4096)) (!issueOff s && ctxIs s c fun x => isInvocation x && decide (x.life = .running) && !x.fed && !x.inputsIn) s
    (inputsMoved c data digests s)

/-! ## Switching (R285, R443, R444) -/

/-- The time that an invocation has run since it last started or resumed. -/
def sliceOver (s : State) (x : Ctx) : Bool := decide (x.tSlice + reg s pgCfe 0x05C * 1000000 ≤ s.now)

/-- An invocation must give way: to a READY invocation of a higher ring after its slice, to a held Bell release at once (R443,
R446). -/
def mustYield (s : State) (x : Ctx) : Bool :=
  let m := ctxMask s x
  (higherNeeds s x.ring m && sliceOver s x) || (releaseNeeds s m && !isBell x)

/-- An invocation can be switched out. -/
def switchable (s : State) (x : Ctx) : Bool :=
  isInvocation x && decide (x.life = .running) && !isBell x && decide (imgMode (ctxImage s x) = 0) && !x.abort &&
    mustYield s x && slotFree s x.id && switchPoint s x

/-- Neighbouring and overlapping ranges of an ascending list become one. -/
def joinRanges : List (Nat × Nat) → List (Nat × Nat)
  | [] => []
  | (a, n) :: l =>
    match joinRanges l with
    | [] => [(a, n)]
    | (b, m) :: t => if b ≤ a + n then (a, max (a + n) (b + m) - a) :: t else (a, n) :: (b, m) :: t

/-- Ranges in ascending order, each byte in one of them. -/
def disjoint (l : List (Nat × Nat)) : List (Nat × Nat) := joinRanges (sortBy (fun a b => decide (a.1 < b.1)) (l.filter fun r => decide (0 < r.2)))

/-- The bytes that an operand range covers over all iterations of its loop, of `h` phases or at most `b` sweeps. -/
def spanOfRange (h b : Nat) (x : EngInstr) (ls : List LoopAt) (r : OpRange) : Nat × Nat :=
  let (n, st) := if r.indexed then (idxStep x.idx h b ls).getD (1, 0) else (1, 0)
  let last : Int := (r.addr : Int) + ((n : Int) - 1) * st
  let lo := (min (r.addr : Int) last).toNat
  (lo, (max (r.addr : Int) last).toNat + r.len - lo)

/-- The device-address ranges that an invocation uses: its inputs, what its `MOVE`s name, the problem image, its results and
certificates. -/
def daUses (s : State) (x : Ctx) : List (Nat × Nat) :=
  let img := ctxImage s x
  let move (i : EngInstr) : Option (Nat × Nat) := match i.op with | .move o => daRange (hasAnneal img) (.move o) | _ => none
  (x.inputs.map fun i => (i.dst, i.len)) ++ ((progEngines img).map fun e => (engProg img e).filterMap move).flatten ++
    (match x.anneal with | some a => [(a.prob.imageAddr, a.prob.imageLen)] | none => []) ++ (x.results.map fun r => (r.addr, r.len)) ++
    x.issued.map fun q => (q.place, 512)

/-- The part of a device-address range in an engine's Slate, by its offset there. -/
def slateShare (e : Nat) (r : Nat × Nat) : Nat × Nat :=
  let lo := max r.1 (slateBase e)
  (lo - slateBase e, min (r.1 + r.2) (slateBase e + 2 ^ 25) - lo)

/-- A range in whole blocks of 64 bytes, in which a switch moves it. -/
def inBlocks (r : Nat × Nat) : Nat × Nat := let lo := r.1 / 64 * 64; (lo, if r.2 = 0 then 0 else ceilDiv (r.1 + r.2) 64 * 64 - lo)

/-- The Slate and exchange-window bytes that an invocation uses on an engine: the ranges of its program, what device addresses name of its
Slate, and the tiles that its anneal keeps (R444; DEDUCED, log entry 83). -/
def sramUses (s : State) (x : Ctx) (e : Nat) : List (Nat × Nat) :=
  let prog := (scanLoops (engProg (ctxImage s x) e) 0 []).map fun (_, i, ls) => (slateRanges i.op).map (spanOfRange (runPhases x) x.budget i ls)
  let kept := match x.anneal with
    | some a => (a.kept.filter fun k => decide (visitEng a.prob (k.key / 2) = e) && decide (k.tile = tileOf s e)).map fun k => (0x1000000 + k.off, k.len)
    | none => []
  disjoint ((prog.flatten ++ kept ++ (daUses s x).map (slateShare e)).map inBlocks)

/-- The part of a range of SA bytes in the Slate, and the part in the exchange window. -/
def slatePart (r : Nat × Nat) : Nat × Nat := (r.1, min r.2 (0x2000000 - r.1))
def xwinPart (r : Nat × Nat) : Nat × Nat := (max r.1 0x2000000 - 0x2000000, r.1 + r.2 - max r.1 0x2000000)

/-- The accumulator bytes that an engine's program uses: its slots. -/
def accUses (s : State) (x : Ctx) (e : Nat) : List (Nat × Nat) :=
  disjoint ((engProg (ctxImage s x) e).filterMap fun i =>
    match i.op with
    | .stream o => some (65536 * o.slot, 65536 * slotUnits o.v)
    | .drain o => some (65536 * o.slot, 65536 * slotUnits o.v)
    | .pdrain o => some (65536 * o.slot, 65536 * slotUnits o.v)
    | .preload o => some (65536 * o.slot, 65536 * slotUnits o.v)
    | _ => none)

/-- The field-store bytes of an engine: a word for every replica of each of its home rows. -/
def fieldBytes (x : Ctx) (e : Nat) : List Byte :=
  match x.anneal with
  | none => []
  | some a =>
    if e < eUse a.prob.segCount a.prob.engReq then
      ((List.range (homeCount a.prob e)).map fun i =>
        let v := homeVar a.prob e i
        (a.fields.map fun f => leBytes 8 (unsigned 64 (nth (nth f (v / 512) []) (v % 512) 0))).flatten).flatten
    else []

/-- Where an engine's part of a switch slot stands in the device reserve (R444, R519): the Slate first, the accumulators at 32 MiB, the
field store at 40 MiB (DESIGN CHOICE, log entry 83). -/
def slotBase (s : State) (slot e : Nat) : Nat := usable s - 0xC00000000 + slot * 0x60000000 + e * 0x3000000

/-- The lowest switch slot that no switched-out invocation holds. -/
def freeSlot (s : State) : Nat :=
  ((List.range 16).find? fun k => !(s.ctxs.any fun y => decide (y.life = .switchedOut) && decide (y.swSlot = some k))).getD 0

/-- Moves bytes between canonical places of words read without error; armed masks hit the first words that their controllers write
(R544). -/
def moveCells (src dst n : Nat) (s : State) : State :=
  armRun dst n { s with
    mem := (spRange src n s.mem).foldl (fun m c => spSet zeroByte (c.1 - src + dst) c.2 m) (spClear dst n s.mem)
    marks := spClear dst n s.marks }

/-- The accumulator words of a range as the bytes of a switch slot. -/
def accOut (e a n dst : Nat) (s : State) : State :=
  armRun (dst + a) n { s with
    mem := (spRange (accKey e a) n s.acc).foldl (fun m c => spWrite (leBytes 4 c.2.toNat) (c.1 - accKey e 0 + dst) m) (spClear (dst + a) n s.mem)
    marks := spClear (dst + a) n s.marks }

/-- The accumulator words of a range from the bytes of a switch slot. -/
def accBack (e a n src : Nat) (s : State) : State :=
  armRun (accKey e a) n { s with
    acc := (spRange (src + a) n s.mem).foldl (fun m c =>
      let i := (c.1 - src) / 4 * 4
      spSet zeroWord (accKey e i) (BitVec.ofNat 32 (leNat (spBytes s.mem (src + i) 4))) m) (spClear (accKey e a) n s.acc)
    marks := spClear (accKey e a) n s.marks }

/-- The SRAM ranges that a switch reads on an engine, but for the field store. -/
def spillReads (s : State) (x : Ctx) (e : Nat) : List (Nat × Nat) :=
  let us := sramUses s x e
  (us.map fun r => ((slateBase e + (slatePart r).1, (slatePart r).2))) ++ (us.map fun r => (xwinBase e + (xwinPart r).1, (xwinPart r).2)) ++
    (accUses s x e).map fun r => (accKey e r.1, r.2)

/-- Spills one engine's parts into its part of a switch slot. -/
def spillEngine (x : Ctx) (slot e : Nat) (s : State) : State :=
  let b := slotBase s slot e
  let s := (sramUses s x e).foldl (fun s r => let q := slatePart r; moveCells (slateBase e + q.1) (b + q.1) q.2 s) s
  let s := (accUses s x e).foldl (fun s r => accOut e r.1 r.2 (b + 0x2000000) s) s
  writeCanon (b + 0x2800000) (fieldBytes x e) s

/-- Reads of words that a switch moves: false where one has no good value; then it is recovered, and the switch does not take place. -/
def spillCheck (x : Ctx) (e : Nat) (s : State) : Bool × State :=
  let r := wordReads x.id (spillReads s x e) s
  match r.1 with
  | none => (true, r.2)
  | some w => (false, recoverSram x e w r.2)

/-- The reads of a switch on several engines. -/
def spillChecks (c : Nat) (x : Ctx) (es : List Nat) (s : State) : Bool × State :=
  es.foldl (fun (a : Bool × State) e =>
    if a.1 && (ctxOf a.2 c).any (fun y => decide (y.life = .running)) then spillCheck x e a.2 else (false, a.2)) (true, s)

/-- Spills what an invocation uses in its engines into a switch slot (R444). The slots' formats, the stationary tiles and what it uses
of an exchange window, which R444 does not list, go with its context (log entry 83). -/
def spill (c : Nat) (s : State) : State :=
  match ctxOf s c with
  | none => s
  | some x =>
    let es := ctxEngines s x
    let s := match x.anneal with
      | some a => fieldReads c a.prob (es.filter fun e => decide (e < eUse a.prob.segCount a.prob.engReq)) s
      | none => s
    let r := spillChecks c x es s
    if !r.1 then r.2
    else
      let s := r.2
      let k := freeSlot s
      let x := (ctxOf s c).getD x
      let xw := (es.map fun e => ((sramUses s x e).map fun r => spRange (xwinBase e + (xwinPart r).1) (xwinPart r).2 s.mem).flatten).flatten
      let slots := (es.map fun e => spRange (128 * e) 128 s.slots).flatten
      let parts := (es.map fun e => ((sramUses s x e).map fun r => spRange (slateBase e + (slatePart r).1) (slatePart r).2 s.partials).flatten).flatten
      let tiles := (es.map fun e => spRange e 1 s.tiles).flatten
      let s := es.foldl (fun s e => spillEngine x k e s) s
      updCtx c (fun x => { x with life := .switchedOut, blocked := none, swSlot := some k, spillMem := xw, spillParts := parts, spillSlots := slots, spillTiles := tiles }) s

/-- SWITCH_OUT (R443): an invocation of a lower ring is spilled into a switch slot at its switch point. -/
def execSwitchOut (c : Nat) (s : State) : Host.Outcome State Fault Refusal :=
  actCfe (decide (c < 4096)) (ctxIs s c (switchable s)) s (spill c s)

/-- A switched-out invocation whose engines are free and wanted by none that goes before it. -/
def mayResume (s : State) (x : Ctx) : Bool :=
  let m := ctxMask s x
  decide (x.life = .switchedOut) && !x.abort && (holders s m).isEmpty && !higherNeeds s x.ring m && !releaseNeeds s m && tilesReady s m

/-- Another switched-out invocation on shared engines resumes first: of a higher ring, or an older one (R443). -/
def resumesBefore (s : State) (x : Ctx) : Bool :=
  s.ctxs.any fun y => mayResume s y && decide (y.id ≠ x.id) && masksMeet (ctxMask s x) (ctxMask s y) &&
    (decide (y.ring < x.ring) || (decide (y.ring = x.ring) && decide (y.order < x.order)))

/-- A switched-out invocation can resume. -/
def resumable (s : State) (x : Ctx) : Bool := mayResume s x && !resumesBefore s x

/-- What a resume reads of a switch slot. -/
def slotReadsOf (s : State) (x : Ctx) (k e : Nat) : List (Nat × Nat) :=
  let b := slotBase s k e
  ((sramUses s x e).map fun r => (b + (slatePart r).1, (slatePart r).2)) ++ ((accUses s x e).map fun r => (b + 0x2000000 + r.1, r.2)) ++
    [(b + 0x2800000, (fieldBytes x e).length)]

/-- Fills back one engine's parts from its part of a switch slot; the field store holds the run's fields again. -/
def fillEngine (x : Ctx) (k e : Nat) (s : State) : State :=
  let b := slotBase s k e
  let s := (sramUses s x e).foldl (fun s r => let q := slatePart r
    let s := moveCells (b + q.1) (slateBase e + q.1) q.2 s
    { s with partials := (spRange (slateBase e + q.1) q.2 x.spillParts).foldl (fun m c => spSet noPartial c.1 c.2 m)
               (spClear (slateBase e + q.1) q.2 s.partials) }) s
  let s := (sramUses s x e).foldl (fun s r =>
    let q := xwinPart r
    armRun (xwinBase e + q.1) q.2 { s with
             mem := (spRange (xwinBase e + q.1) q.2 x.spillMem).foldl (fun m c => spSet zeroByte c.1 c.2 m) (spClear (xwinBase e + q.1) q.2 s.mem)
             marks := spClear (xwinBase e + q.1) q.2 s.marks }) s
  let s := (accUses s x e).foldl (fun s r => accBack e r.1 r.2 (b + 0x2000000) s) s
  armRun (fieldKey e 0) (fieldBytes x e).length { s with
    marks := spClear (fieldKey e 0) (fieldBytes x e).length s.marks
    slots := (spRange (128 * e) 128 x.spillSlots).foldl (fun m c => spSet noSlot c.1 c.2 m) (spClear (128 * e) 128 s.slots)
    tiles := (spRange e 1 x.spillTiles).foldl (fun m c => spSet noTile c.1 c.2 m) (spClear e 1 s.tiles) }

/-- The reads of a switch slot: the first engine one of whose words there has no good value. -/
def fillReads (c : Nat) (x : Ctx) (k : Nat) (es : List Nat) (s : State) : Option Nat × State :=
  es.foldl (fun (a : Option Nat × State) e =>
    let q := wordReads c (slotReadsOf a.2 x k e) a.2
    (if a.1.isNone ∧ q.1.isSome then some e else a.1, q.2)) (none, s)

/-- Fills back what a switch spilled; a slot that reads uncorrectably ends the invocation `INTERNAL_FAULT` (R538). -/
def fillBack (c : Nat) (s : State) : State :=
  match ctxOf s c with
  | none => s
  | some x =>
    let es := ctxEngines s x
    let k := x.swSlot.getD 0
    let r := fillReads c x k es s
    match r.1 with
    | some e => endWith c (engineFault r.2 x e) r.2
    | none =>
      updCtx c (fun x => { x with life := .running, tSlice := s.now, swSlot := none, spillMem := [], spillParts := [], spillSlots := [], spillTiles := [] })
        (es.foldl (fun s e => fillEngine x k e s) r.2)

/-- A switched-out invocation resumes, or ends where an engine of it is lost (R27). -/
def resume (c : Nat) (s : State) : State :=
  match ctxOf s c with
  | none => s
  | some x =>
    match needsLost s x with
    | some e => endWith c (lostFault (tileOf s e) e x) s
    | none => fillBack c s

/-- SWITCH_IN (R443): a switched-out invocation resumes and fills back from its switch slot. -/
def execSwitchIn (c : Nat) (s : State) : Host.Outcome State Fault Refusal :=
  actCfe (decide (c < 4096)) (ctxIs s c (resumable s)) s (resume c s)

/-! ## Aborts at a switch point (R447) -/

/-- An aborted invocation that stands where it stops. -/
def abortStops (s : State) (x : Ctx) : Bool :=
  x.abort && (decide (x.life = .switchedOut) || (decide (x.life = .running) && switchPoint s x))

/-- INVOCATION_ABORT_STOP (R447): an aborted invocation stops at its switch point and completes with `ABORTED`. -/
def execInvocationAbortStop (c : Nat) (s : State) : Host.Outcome State Fault Refusal :=
  actCfe (decide (c < 4096)) (ctxIs s c (abortStops s)) s (endWith c ⟨stAborted, 0, 0⟩ s)

/-! ## Host-address signals (R456) -/

/-- The flush read of signal `k` completes, or fails after two re-reads. -/
def signalFlushed (c k : Nat) (rs : List Cpl) (s : State) : State :=
  let at_ := (((ctxOf s c).bind fun x => x.signals[k]?).map (·.addr)).getD 0
  let r := hostTry at_ 3 rs s
  let done (x : Ctx) : Ctx := { x with sigPending := x.sigPending.filter fun i => decide (i ≠ k), sigFault := x.sigFault || r.1.isNone }
  updCtx c done r.2

/-- HOST_SIGNAL_FLUSH_DONE (R456): the flush read of a host-address signal completes; when it and two re-reads fail, the record
sets SIGNAL_FAULT. -/
def execHostSignalFlushDone (c k : Nat) (rs : List Cpl) (s : State) : Host.Outcome State Fault Refusal :=
  actCfe (decide (c < 4096) && decide (k < 4)) (ctxIs s c fun x => x.sigPending.contains k) s (signalFlushed c k rs s)

end Sys2Proof.Machine
end

