-- ==== Sys2Proof/Machine/Queues.lean ====
section
/-!
DEFINITION. Completion queues (R462 to R466), the queue registers that host software writes (R428, R429, R432, R464), and the
changes between SERVICE and MAINTENANCE (R423 to R426).
-/
namespace Sys2Proof.Machine

/-! ## Flush reads and messages (R462 to R464) -/

/-- A failed flush: the written records go to the undelivered buffer and the queue faults. -/
def flushFailed (q : Nat) (s : State) : State := faultQueue q stHostWriteFault (bufferWritten q s)

/-- The last 8 bytes of the last record written, which the flush read reads (R462). -/
def flushAddr (s : State) (q : Nat) : Nat :=
  pageBase s q 0x04C + (cqTail s q + (queueOf s q).written.length - 1) % cqSize s q * 128 + 120

/-- RECORD_FLUSH_DONE (R462, R464): a successful flush read confirms every record written; a failed one faults the queue. -/
def execRecordFlushDone (q : Nat) (rs : List Cpl) (s : State) : Host.Outcome State Fault Refusal :=
  let r := flushTry (flushAddr s q) 3 rs s
  actCfe (decide (q < 6)) (!(queueOf s q).written.isEmpty) s (if r.1 then confirm q r.2 else flushFailed q r.2)

/-- The coalescing time of a ring has passed for its oldest confirmed record. -/
def coalesceDue (s : State) (q : Nat) : Bool :=
  match (queueOf s q).coOldest with
  | some t => decide (t + reg s (pgQue q) 0x058 / 65536 * 1000 ≤ s.now)
  | none => false

/-- MSIX_COALESCE_TIMEOUT (R463): the oldest unsignalled confirmed record reaches the coalescing time. -/
def execMsixCoalesceTimeout (q : Nat) (s : State) : Host.Outcome State Fault Refusal :=
  actCfe (decide (q < 6)) (coalesceDue s q) s
    (msix (reg s (pgQue q) 0x058 % 128) (updQueue q (fun u => { u with coCount := 0, coOldest := none }) s))

/-! ## Register effects -/

/-- TAIL (R429): ignored, with BAD_TAIL, where it covers more than the ring. -/
def tailWrite (q v : Nat) (s : State) : State :=
  if ringSize s q < (v + 2 ^ 32 - qHead s q) % 2 ^ 32 then raise (pgQue q) 0 s else setReg (pgQue q) 0x05C v s

/-- CQ_HEAD (R428, R653): records consumed; a value beyond CQ_TAIL is clamped to CQ_TAIL. -/
def cqHeadWrite (q v : Nat) (s : State) : State :=
  let past := decide ((cqTail s q + 2 ^ 32 - cqHead s q) % 2 ^ 32 < (v + 2 ^ 32 - cqHead s q) % 2 ^ 32)
  pump (setReg (pgQue q) 0x068 (if past then cqTail s q else v) s)

/-- CTRL.ENABLE of a queue (R432): FAULTED stays until a replay. -/
def enableWrite (q : Nat) (b : Bool) (s : State) : State :=
  let s := setBit (pgQue q) oCtrl 0 b s
  if qState s q = 2 then s else setReg (pgQue q) 0x070 (b2n b) s

/-- CTRL.REARM (R464, R466): a FAULTED queue replays its undelivered records, then writes the waiting ones. -/
def rearm (q : Nat) (s : State) : State :=
  if qState s q = 2 then pump (updQueue q (fun u => { u with replaying := true }) s) else s

/-! ## Changes of device state (R425, R426) -/

/-- Sets the state code. -/
def setDevState (n : Nat) (s : State) : State := setReg pgCfe 0x040 n s

/-- The change to MAINTENANCE begins: releases are suspended, and with DRAIN = 1 every entry of BELL0 to LOW is aborted. -/
def beginMaint (drain : Bool) (s : State) : State :=
  let drop (b : Bell) : Bell := { b with progs := b.progs.map fun p => { p with held := none } }
  let s := setDevState 2 { s with stateReq := some (0, drain), bells := s.bells.map drop }
  pump (if drain then abortWhere (fun x => decide (x.ring ≤ 4)) s else s)

/-- A request for SERVICE that is ignored: after a tamper event, in the life-cycle states BLANK and SCRAPPED, and where an LPDDR6
channel has failed training (R516, R549, R558). -/
def serviceBarred (s : State) : Bool :=
  s.sec.tampered || decide (s.fuses.life = 0) || decide (s.fuses.life = 4) || (List.range 4).any fun q => !(reg s (pgLm q) 0x040).testBit 16

/-- Makes a request: it starts a change, or is held during one (R425, R426). A request for SERVICE starts its change at once and is
held there until BOOT_ID has been drawn (R425 S1, R584; log entry 45). -/
def request (service drain : Bool) (s : State) : State :=
  if service && serviceBarred s then s
  else match devState s with
  | 0 =>
    if service then setDevState 3 { s with stateReq := some (1, drain), heldReq := none } else { s with heldReq := none }
  | 1 => if service then s else beginMaint drain s
  | _ => { s with heldReq := some (b2n service, drain) }

/-- A write of STATE_REQ: bit 0 REQ, bit 1 DRAIN. -/
def stateReqWrite (v : Nat) (s : State) : State := request (v.testBit 0) (v.testBit 1) (setReg pgCfe 0x044 (v % 4) s)

/-- Makes the held request, if any. -/
def applyHeld (s : State) : State :=
  match s.heldReq with
  | some r => request (decide (r.1 = 1)) r.2 { s with heldReq := none }
  | none => s

/-- The drain is complete (R425 M3): with DRAIN = 0 no started entry of BELL0 to LOW is left, with DRAIN = 1 none at all. -/
def drained (s : State) : Bool :=
  let drain := match s.stateReq with | some r => r.2 | none => false
  !(s.ctxs.any fun x => decide (x.ring ≤ 4) &&
    (decide (x.life = .running) || decide (x.life = .switchedOut) || decide (x.life = .finishing) ||
      (drain && decide (x.life ≠ .delivering))))

/-- The wait timers of the entries that are kept stand still. -/
def freezeWaits (s : State) : State :=
  { s with ctxs := s.ctxs.map fun x => if x.ring ≤ 4 ∧ (x.life = .fetched ∨ x.life = .waiting) then { x with frozenAt := some s.now } else x }

/-- ENTER_MAINTENANCE (R425 M4): the drain is complete, and the device reads MAINTENANCE. -/
def execEnterMaintenance (s : State) : Host.Outcome State Fault Refusal :=
  actCfe true (decide (devState s = 2) && drained s) s
    (applyHeld (raise pgCfe 0 (freezeWaits (setDevState 0 { s with stateReq := none }))))

/-- A frozen wait timer runs on from its remaining time. -/
def thaw (now : Nat) (x : Ctx) : Ctx :=
  match x.frozenAt with
  | some t => { x with waitStart := now - (t - x.waitStart), frozenAt := none }
  | none => x

/-- A Bell program resumes at the next point of its period grid (R425 S3). -/
def nextGrid (now : Nat) (p : BellProg) : BellProg :=
  let per := max 1 (bkPeriod p.block)
  { p with next := max p.next (ceilDiv (now - p.first) per), held := none }

/-- No command buffer runs. -/
def buffersOver (s : State) : Bool := !(s.ctxs.any fun x => decide (dType x = 3) && decide (x.life = .running))

/-- Fetching resumes, frozen timers run on, Bell programs resume. -/
def enterService (s : State) : State :=
  let go (b : Bell) : Bell := { b with progs := b.progs.map (nextGrid s.now) }
  applyHeld (raise pgCfe 0 (setDevState 1 { s with stateReq := none, ctxs := s.ctxs.map (thaw s.now), bells := s.bells.map go }))

/-- ENTER_SERVICE (R425 S2, S3, R584): once the command buffers in flight have completed and BOOT_ID is drawn, the device reads
SERVICE. -/
def execEnterService (s : State) : Host.Outcome State Fault Refusal :=
  actCfe true (decide (devState s = 3) && buffersOver s && s.cert.bootId.isSome) s (enterService s)

end Sys2Proof.Machine
end

