-- ==== Sys2Proof/Machine/BellOps.lean ====
section
/-!
DEFINITION. Bell registrations and releases (R480 to R495): REGISTER, DEREGISTER, the release grid, starts with their governing
budgets, the cut point, and the stop of lending.
-/
namespace Sys2Proof.Machine

/-! ## REGISTER (R480 to R482, R488) -/

/-- The registration's flags address device memory. -/
def rdDev (x : Ctx) : Bool := flArgsDev x

/-- The ranges that a release relocates, of the instructions that fix them (R485). -/
def relocated (img : List Byte) : List (Nat × Nat) :=
  ((progEngines img).map fun e => (engProg img e).filterMap fun i =>
    match i.op with
    | .result o => daRange (hasAnneal img) (.result o)
    | .audit o => daRange (hasAnneal img) (.audit o)
    | .cert o => daRange (hasAnneal img) (.cert o)
    | _ => none).flatten

/-- A relocated range lies outside the map for some result slot. -/
def slotOutside (s : State) (b img : List Byte) : Bool :=
  (relocated img).any fun r => (List.range (bkSlots b)).any fun j => !mapOk s .program (r.1 + j * bkStride b) r.2

/-- The entries of RELEASE_ARGS that the registration's counts cover. -/
def releaseRanges (x : Ctx) (b : List Byte) : List (Nat × Nat) := entryRanges (bkArgs b) 0 (dNSignal x) (dNInput x)

/-- The first check of a registration that fails, as the location of R693: source and byte. -/
def registerBad (s : State) (x : Ctx) (b img : List Byte) : Option Loc :=
  firstSome ([
    (isRegistered s (dProgram x), (0, 0x01)),
    (decide (bkPeriod b < dDeadline x), (0, 0x18)),
    (decide (bkPeriod b < 100000) || decide (10000000000 < bkPeriod b), (1, 0x00)),
    (decide (bkBudgetMin b = 0) || decide (dBudget x < bkBudgetMin b), (1, 0x10)),
    (decide (bkSlots b = 0) || decide (16 < bkSlots b), (1, 0x20)),
    (decide (leAt b 0x22 6 ≠ 0), (1, 0x22)),
    (decide (bkStride b % 64 ≠ 0), (1, 0x28)),
    (decide (leAt b 0x3C 4 ≠ 0), (1, 0x3C)),
    (decide (bkArgs b % 64 ≠ 0) || (decide (bkArgs b = 0) && decide (dNSignal x + dNInput x ≠ 0)) ||
      (rdDev x && decide (bkArgs b ≠ 0) && (releaseRanges x b).any fun r => !mapOk s (dmaReach x.ring) r.1 r.2), (1, 0x40)),
    (!allZero (slice b 0x48 56), (1, 0x48)),
    (slotOutside s b img, (1, 0)),
    (decide (1 < imgDevCount img) && decide (imgMode img ≠ 1), (2, 0x16)),
    (decide (1 < imgDevCount img) && !flStrict x, (0, 0x02))].map fun (c : Bool × Nat × Nat) =>
      if c.1 then some (⟨c.2.1, c.2.2, none⟩ : Loc) else none)

/-- The release argument block, with its entries checked (R436, R481). -/
def releaseArgs (x : Ctx) (rs : List Cpl) (s : State) : Except Cause (List Signal × List Input) × State :=
  if dNSignal x + dNInput x = 0 then (.ok ([], []), s)
  else
    let r := argBlock x (bkArgs x.regBlock) (releaseRanges x x.regBlock) rs s
    match r.1 with
    | .error k => (.error k, r.2)
    | .ok b =>
      match argsBad r.2 x b 0 (dNSignal x) (dNInput x) with
      | some o => (.error (badAt 0 1 o), r.2)
      | none => (.ok ((List.range (dNSignal x)).map (readSignal b), (List.range (dNInput x)).map (readInput b)), r.2)

/-- Release 0's time (R481). -/
def firstRelease (now : Nat) (b : List Byte) : Nat :=
  if bkFirst b = 0 then ceilDiv (now + 1000000) (max 1 (bkPeriod b)) * bkPeriod b else bkFirst b

/-- A program as it is registered; a FIRST_RELEASE in the past starts with the first release to come (log entry 35). -/
def newProg (s : State) (x : Ctx) (gs : List Signal) (is : List Input) : BellProg :=
  let f := firstRelease s.now x.regBlock
  { prog := dProgram x, desc := x.desc, block := x.regBlock, signals := gs, inputs := is, first := f,
    next := ceilDiv (s.now - f) (max 1 (bkPeriod x.regBlock)), held := none, prevBudget := dBudget x, prevLate := false, meas := [] }

/-- The three refusals (R482). -/
def admissionRefused (s : State) (x : Ctx) (img : List Byte) (p : BellProg) : Bool :=
  let ps := (bellOf s x.ring).progs
  decide (imgMask img &&& partition s x.ring ≠ imgMask img) || decide (16 ≤ ps.length) || (admitTest s x.ring (ps ++ [p])).isNone

/-- Registers a program, or ends the entry with the cause that refuses it. -/
def registerEntry (c : Nat) (rs : List Cpl) (s : State) : State :=
  match ctxOf s c with
  | none => s
  | some x =>
    let s := beginWork c .running s
    let img := ((progAt s (dProgram x)).map (·.image)).getD []
    match registerBad s x x.regBlock img with
    | some l => endWith c (invalidAt l) s
    | none =>
    match daCheck img (mapOk s .program) with
    | some l => endWith c (invalidAt l) s
    | none =>
      let r := releaseArgs x rs s
      match r.1 with
      | .error k => endWith c k r.2
      | .ok g =>
        let s := r.2
        let p := newProg s x g.1 g.2
        if admissionRefused s x img p then endWith c ⟨stAdmissionRefused, 0, 0⟩ (admitRecheck x.ring s)
        else finish c (admitRecheck x.ring (updBell x.ring (fun b => { b with progs := b.progs ++ [p] }) s))

/-- REGISTER (R480, R482): registers a resident program for periodic release, after its checks and the admission test. -/
def execRegister (c : Nat) (rs : List Cpl) (s : State) : Host.Outcome State Fault Refusal :=
  actCfe (decide (c < 4096)) (ctxIs (latchAll s) c (entryRuns s 4)) s (registerEntry c rs (latchAll s))

/-! ## DEREGISTER (R483) -/

/-- Lent work keeps no release from a ring that holds none. -/
def lendEnds (q : Nat) (s : State) : State :=
  if (bellOf s q).progs.any fun p => p.held.isSome then s
  else { s with ctxs := s.ctxs.map fun x => if masksMeet (ctxMask s x) (partition s q) then { x with blocked := none } else x }

/-- Stops further releases; the entry completes once the release that has started and its follow-up have. -/
def deregisterEntry (c : Nat) (s : State) : State :=
  match ctxOf s c with
  | none => s
  | some x =>
    if (bellOf s x.ring).progs.any fun p => decide (p.prog = dProgram x) then
      admitRecheck x.ring (lendEnds x.ring (updBell x.ring (fun b => { b with progs := b.progs.filter fun p => decide (p.prog ≠ dProgram x) })
        (beginWork c .finishing s)))
    else endWith c (badAt 0 0 0x01) (beginWork c .running s)

/-- DEREGISTER (R483): stops further releases of a registered program at once. -/
def execDeregister (c : Nat) (s : State) : Host.Outcome State Fault Refusal :=
  actCfe (decide (c < 4096)) (ctxIs (latchAll s) c (entryRuns s 5)) s (deregisterEntry c (latchAll s))

/-! ## The release grid (R484, R487) -/

/-- The next release time of a program has come. -/
def releaseDue (s : State) (q prog : Nat) : Bool :=
  decide (devState s = 1) && (bellOf s q).progs.any fun p => decide (p.prog = prog) && decide (releaseTime p p.next ≤ s.now)

/-- Lent work that runs on a ring's partition is given LEND_BLOCK_US from a release time to reach a switch point; a later release time
does not put that off (R490). -/
def lendStarts (q t : Nat) (s : State) : State :=
  { s with ctxs := s.ctxs.map fun x =>
      if isInvocation x && !isBell x && decide (x.life = .running) && masksMeet (ctxMask s x) (partition s q) && x.blocked.isNone then
        { x with blocked := some t } else x }

/-- The next release is made and held; a release that is still held is withdrawn. -/
def makeRelease (q prog : Nat) (s : State) : State :=
  let old := (bellOf s q).progs.any fun p => decide (p.prog = prog) && p.held.isSome
  let s := if old then bump (pgQue q) 0x120 s else s
  let s := match (bellOf s q).progs.find? fun p => decide (p.prog = prog) with
    | some p => lendStarts q (releaseTime p p.next) s
    | none => s
  updBellProg q prog (fun p => { p with held := some p.next, next := p.next + 1 }) (bump (pgQue q) 0x114 s)

/-- BELL_RELEASE (R484, R487): the release time of a registered program arrives; a release is made, and one still held is
withdrawn. -/
def execBellRelease (q prog : Nat) (s : State) : Host.Outcome State Fault Refusal :=
  actCfe (decide (q < 2)) (releaseDue s q prog) s (makeRelease q prog s)

/-! ## RELEASE_START (R485 to R487, R495) -/

/-- Of two held releases, the first to start: the earlier deadline, then the lower program index. -/
def startsBefore (a b : BellProg × Nat) : Bool :=
  let d (e : BellProg × Nat) : Nat := releaseTime e.1 e.2 + rdDeadline e.1.desc
  decide (d a < d b) || (decide (d a = d b) && decide (a.1.prog < b.1.prog))

/-- The held release of a ring that starts next. -/
def nextHeld (s : State) (q : Nat) : Option (BellProg × Nat) :=
  ((bellOf s q).progs.filterMap fun p => p.held.map fun j => (p, j)).foldl (fun b e =>
    match b with | none => some e | some f => if startsBefore e f then some e else some f) none

/-- The partition is free, and a context of the ring's reserve. -/
def partitionFree (s : State) (q : Nat) : Bool :=
  decide (devState s = 1) && (bellOf s q).running.isNone && (holders s (partition s q)).isEmpty &&
    testsOver s (partition s q) && decide (contextFor s q = some false)

/-- The descriptor of a release (R484): an invocation with the registration's fields. -/
def releaseDesc (p : BellProg) (j : Nat) : List Byte :=
  let d := p.desc
  let d := splice (splice d 0x00 (leBytes 1 0)) 0x08 (leBytes 8 (leAt d 0x08 8 + j))
  splice (splice d 0x10 (leBytes 8 (leAt d 0x10 8 + j))) 0x28 (leBytes 8 (bkArgs p.block))

/-- The context of a release as it enters RUNNING. -/
def releaseCtx (s : State) (q : Nat) (p : BellProg) (j : Nat) : Ctx :=
  { newCtx s q false 0xFFFF (.release p.prog j) (releaseDesc p j) with
    life := .running, ran := true, argsRead := true, regBlock := p.block, signals := p.signals, inputs := p.inputs
    tFetch := releaseTime p j, tStart := s.now, tSlice := s.now, budget := rdBudget p.desc, budgetNom := rdBudget p.desc
    before := (p.prevBudget, p.prevLate) }

/-- A held release enters RUNNING; one that needs a lost engine, or one whose substitution is not over, ends at once
(R27, R28), and so does one whose certificate could not be signed (R416). -/
def startRelease (q : Nat) (p : BellProg) (j : Nat) (s : State) : State :=
  let x := releaseCtx s q p j
  let s := updBellProg q p.prog (fun g => { g with held := none }) s
  let s := { s with ctxs := s.ctxs ++ [x], order := s.order + 1 }
  let s := updBell q (fun r => { r with running := some x.id }) s
  match needsLost s x with
  | some e => endWith x.id (lostFault (tileOf s e) e x) s
  | none =>
    match (ctxEngines s x).find? fun e => s.substs.any fun u => decide (u.eng = e) with
    | some e => endWith x.id (lostFault (tileOf s e) e x) s
    | none => if certRefused s x then endWith x.id (badAt 0 0 0x02) s else s

/-- RELEASE_START (R485, R486): the held release with the earliest deadline is taken when the partition is free; it starts, and its
governing budget is fixed, as the CFE feeds its first engine instruction (R495). -/
def execReleaseStart (q : Nat) (s : State) : Host.Outcome State Fault Refusal :=
  actCfe (decide (q < 2)) (partitionFree s q && (nextHeld s q).isSome) s
    (match nextHeld s q with | some e => startRelease q e.1 e.2 s | none => s)

/-! ## CUT_POINT (R491, R502) -/

/-- The cut point has passed: now ≥ r + D − (STEPS_TAIL × t + 20 µs), in units of 1/t.2 ns. -/
def cutPassed (s : State) (x : Ctx) : Bool :=
  let t := tCur s
  decide ((releaseDeadline x) * t.2 ≤ s.now * t.2 + bkTail x.regBlock * t.1 + 20000 * t.2)

/-- An invocation's engines stand inside a SWEEPS loop. -/
def inSweeps (x : Ctx) : Bool := x.curs.any fun u => (sweepsExit u.frames).isSome

/-- A release that its cut point concerns. -/
def cutDue (s : State) (x : Ctx) : Bool :=
  isBell x && decide (x.life = .running) && x.fed && inSweeps x && !runStopped x && cutPassed s x

/-- The cut of a release: at once on a single device; in a spanned run the flag joins the next combine of step 9 (R502). -/
def cutNow (c : Nat) (s : State) : State :=
  if ctxIs s c (isSpanned s) then updMd c (fun m => { m with cutFlag := true }) s else cutRun c s

/-- CUT_POINT (R491): the cut point of a release passes inside its SWEEPS loop; the run ends at the deadline, or after its fewest
sweeps. -/
def execCutPoint (c : Nat) (s : State) : Host.Outcome State Fault Refusal :=
  actCfe (decide (c < 4096)) (ctxIs s c (cutDue s)) s (cutNow c s)

/-! ## LEND_BLOCK_EXPIRY (R490) -/

/-- Lent work has reached no switch point within LEND_BLOCK_US of the release time of a held release. -/
def lendExpired (s : State) (q : Nat) (x : Ctx) : Bool :=
  isInvocation x && !isBell x && decide (x.life = .running) && masksMeet (ctxMask s x) (partition s q) &&
    (match x.blocked with | some t => decide (t + reg s (pgQue q) 0x108 * 1000 ≤ s.now) | none => false) &&
    ((bellOf s q).progs.any fun p => p.held.isSome) && !((progOf s x).map (·.noLend)).getD true

/-- Lending to a program stops until it is installed again. -/
def stopLending (x : Ctx) (s : State) : State :=
  { s with progs := s.progs.map fun p => if p.index = dProgram x then { p with noLend := true } else p }

/-- LEND_BLOCK_EXPIRY (R490): lent work reaches no switch point within LEND_BLOCK_US; lending to its program stops. -/
def execLendBlockExpiry (q c : Nat) (s : State) : Host.Outcome State Fault Refusal :=
  actCfe (decide (q < 2) && decide (c < 4096)) (ctxIs s c (lendExpired s q)) s
    (match ctxOf s c with | some x => stopLending x s | none => s)

end Sys2Proof.Machine
end

