-- ==== Sys2Proof/Machine/Audit.lean ====
section
/-!
DEFINITION. The audit evaluator (R399 to R407, R499 to R501) and the signing windows' commands (R411 to R415).
-/
namespace Sys2Proof.Machine

/-! ## Starting (R402) -/

/-- The index of the queued audit that runs next: the highest ring, then the oldest. -/
def nextAudit (l : List AuditJob) : Option AuditJob :=
  (l.filter auditQueued).foldl (fun b j => match b with
    | none => some j
    | some k => if j.ring < k.ring then some j else some k) none

/-- The evaluator takes a queued audit. -/
def auditStart (j : AuditJob) (s : State) : State :=
  { s with auditRun := some j, auditStarted := s.now,
           audits := s.audits.erase j }

/-- AUDIT_START (R402): the evaluator takes the next queued audit in priority order. -/
def execAuditStart (s : State) : Host.Outcome State Fault Refusal :=
  actCfe true (s.auditRun.isNone && (nextAudit s.audits).isSome && !issueOff s) s
    (match nextAudit s.audits with | some j => auditStart j s | none => s)

/-! ## The reads of an audit -/

/-- The invocation of a job, while it has not been delivered. -/
def jobCtx (s : State) (j : AuditJob) : Option Ctx :=
  s.ctxs.find? fun x => decide (x.id = j.ctx) && decide (x.order = j.order) && x.status.isNone

/-- Changes the audit that runs. -/
def updAudit (f : AuditJob → AuditJob) (s : State) : State := { s with auditRun := s.auditRun.map f }

/-- A certificate's recovery count, one more (R410). -/
def certRec (b : List Byte) (i : Nat) : List Byte :=
  splice b (0x1C0 + 4 * i) (leBytes 4 (min (2 ^ 32 - 1) (leAt b (0x1C0 + 4 * i) 4 + 1)))

/-- The audit that runs, as it stands now. -/
def auditNow (j : AuditJob) (s : State) : AuditJob := s.auditRun.getD j

/-- Counts a recovery of the audited invocation: in its certificate once that is made. -/
def jobRec (j : AuditJob) (i : Nat) (s : State) : State :=
  match jobCtx s j with
  | some x => recAdd x.id i 1 s
  | none => updAudit (fun k => { k with cert := certRec k.cert i }) s

/-- The coefficient ranges that an audit reads: tiles, checksum columns, row entries, segment tables. -/
def auditRanges (s : State) (p : Prob) : List (Nat × Nat) :=
  if p.spilled then [(canon s p.imageAddr, p.imageLen)]
  else ((homeEngines p).map fun e =>
    ((homeTiles p e).map fun t => tileRanges s p [] e t.1 t.2).flatten ++
      [(canon s (homeBase e + 0x30800000), (rowArea p e).length), (canon s (homeBase e + 0x39000000), (segArea p e).length)]).flatten

/-- Corrected words read for the audited invocation count, one by one (R410). -/
def jobCorrected (j : AuditJob) (n : Nat) (s : State) : State := (List.range n).foldl (fun s _ => jobRec j 2 s) s

/-- The unit of an uncorrectable word is reloaded; on MAINT none is. -/
def auditReload (j : AuditJob) (w : Nat) (h : Option (Nat × Nat)) (s : State) : Bool × State :=
  match h with
  | some e =>
    if j.mainQ then (false, s)
    else
      let r := reloadUnit j.prob [] e.1 e.2 (jobRec j 3 (bump (ctlOf s w).1 ((ctlOf s w).2.1 + 0x08C) s))
      (r.1, jobCorrected j r.2.1 r.2.2)
  | none => (false, s)

/-- One marked coefficient word read through the audit port: true where it reads or its unit was reloaded (R537, R539). -/
def auditWord (j : AuditJob) (w : Nat) (s : State) : Bool × State :=
  let r := noteRead 3 w s
  match r.1 with
  | .clean => (true, r.2)
  | .corrected _ => (true, jobRec j 2 r.2)
  | _ => auditReload j w (homeAt s w) r.2

/-- Every read of an audit: coefficients through the audit port, then the result area. -/
def auditReads (j : AuditJob) (n : Nat) (s : State) : Bool × State :=
  let ws := ((auditRanges s j.prob).map fun r => markedIn s r.1 r.2).flatten
  let r := ws.foldl (fun (a : Bool × State) w => let q := auditWord j w a.2; (a.1 && q.1, q.2)) (true, s)
  let q := readCheck 3 j.addr n r.2
  (r.1 && q.1.isEmpty, jobCorrected j q.2.1 q.2.2)

/-! ## The evaluation (R399) -/

/-- The top-eight entries of a result area, as it stands in memory (R398). -/
def areaTop (s : State) (addr segs : Nat) : List TopEntry :=
  let h := memRead s addr 256
  let o := leAt h 0x28 8
  (List.range (leAt h 0x07 1)).map fun i =>
    let b := memRead s (addr + o + i * (32 + 64 * segs)) (32 + 64 * segs)
    ⟨signed 128 (leAt b 0 16), leAt b 16 4, leAt b 20 4, (List.range segs).map fun g => leAt b (32 + 64 * g) 64⟩

/-- The bytes that an audit reads of a result area: up to the end of the list. -/
def areaLen (s : State) (addr segs : Nat) : Nat :=
  let h := memRead s addr 256
  max 256 (leAt h 0x28 8 + leAt h 0x07 1 * (32 + 64 * segs))

/-- The recomputed STATE_DIGEST differs from the header's. -/
def digestDiffers (s : State) (addr segs : Nat) : Bool :=
  decide (memRead s (addr + 0x50) 32 ≠ treeDigest (stateWords (((areaTop s addr segs).head?.map (·.state)).getD [])))

/-- A state word as four integers, and back. -/
def maskInts (m : Nat) : List Int := (List.range 4).map fun i => signed 128 (m / 2 ^ (128 * i) % 2 ^ 128)
def intsMask (l : List Int) (o : Nat) : Nat := sumN ((List.range 4).map fun i => unsigned 128 (nth l (o + i) 0) * 2 ^ (128 * i))

/-- What a spanned device gives first, entry by entry: its part of the state, in its place, and its row sums (R405); nothing where it
skips the audit. -/
def partOne (j : AuditJob) (es : List TopEntry) : List Int :=
  let p := j.prob
  if j.mute then [] else
  (es.map fun t =>
    ((List.range j.devices.length).map fun q =>
      if q = j.pos then (t.state.map maskInts).flatten else List.replicate (4 * p.segCount) 0).flatten ++
    rowSums p (widen p t.state)).flatten

/-- The whole state and the row sums of entry `k`, from the combined first part. -/
def entryState (j : AuditJob) (v : List Int) (k : Nat) : List Nat × List Int :=
  let p := j.prob
  let w := p.n / 512
  let o := k * (4 * w + p.rows.length)
  ((List.range w).map fun g => intsMask v (o + 4 * g), (List.range p.rows.length).map fun i => nth v (o + 4 * w + i) 0)

/-- The flip costs of the own flip candidates of a state with its fields (R115, R120). -/
def flipCosts (p : Prob) (st : List Nat) (f : List Int) : List Int :=
  (List.range (512 * p.segCount)).filterMap fun i =>
    let g := i / 512
    if (nth p.held g 0).testBit (i % 512) || (segGroups p g).any (fun l => l.elem (i % 512)) then none
    else some (2 * spinAt st (512 * p.segFirst + i) * nth f i 0)

/-- One-hot groups without exactly one +1, and held lanes that are −1. -/
def onehotBad (p : Prob) (st : List Nat) : Nat :=
  let own (g : Nat) : Nat := nth st (p.segFirst + g) 0
  (p.groups.filter fun x => decide ((x.lanes.filter fun l => (own x.seg).testBit l).length ≠ 1)).length +
    sumN ((List.range p.segCount).map fun g => ((maskLanes (nth p.held g 0)).filter fun l => !(own g).testBit l).length)

/-- The smallest of a list, 0 without one. -/
def minInt (l : List Int) : Int := match l with | [] => 0 | a :: r => r.foldl min a

/-- A device's values of an entry: that it evaluates it, twice its energy contribution, improving flips, one-hot violations, row violations, the largest
residual, and, in its place, whether it has a flip candidate and the least cost. -/
def entryPart (j : AuditJob) (st : List Nat) (sums : List Int) (rowsHere : Bool) : List Int :=
  let p := j.prob
  let res := (List.range p.rows.length).map fun k => nth sums k 0 - ((p.rows[k]?).map (·.t)).getD 0
  let f := (List.range (512 * p.segCount)).map fun i => fieldOf p j.lam st res i
  let segs := (List.range p.segCount).map fun g => (f.drop (512 * g)).take 512
  let cs := flipCosts p st f
  let viol := (res.filter fun r => decide (r ≠ 0)).length
  [1, 2 * kPart p j.lam - fieldSum p j.lam st segs, ((cs.filter fun c => decide (c < 0)).length : Int), (onehotBad p st : Int),
   if rowsHere then (viol : Int) else 0, if rowsHere then ((res.map fun r => r.natAbs).foldl max 0 : Nat) else 0] ++
  ((List.range (max 1 j.devices.length)).map fun q => if q = j.pos then [(b2n (!cs.isEmpty) : Int), minInt cs] else [0, 0]).flatten

/-- How many values an entry has. -/
def partWidth (j : AuditJob) : Nat := 6 + 2 * max 1 j.devices.length

/-- What a device gives of the entries, after whether its digest differs and whether it skips the audit: in a farmed run, those
whose replica it holds. `d` is what the evaluation missed by. -/
def partTwo (j : AuditJob) (es : List TopEntry) (one : List Int) (bad : Bool) (d : Int) : List Int :=
  let p := j.prob
  let own (t : TopEntry) : Bool := decide (j.mode ≠ 2) || (decide (j.gBase ≤ t.gri) && decide (t.gri < j.gBase + p.replicas))
  let one' (k : Nat) (t : TopEntry) : List Nat × List Int :=
    if j.mode = 1 then entryState j one k else (widen p t.state, rowSums p (widen p t.state))
  let v := es.zipIdx.map fun e =>
    if own e.1 then let q := one' e.2 e.1; entryPart j q.1 q.2 (decide (j.mode ≠ 1) || decide (j.pos = 0))
    else List.replicate (partWidth j) 0
  if j.mute then [0, 1] else updAt ([(b2n bad : Int), 0] ++ v.flatten) 3 fun e => e + 2 * d

/-- How many devices skip the audit, and whether entry `k` was evaluated. -/
def auditMutes (v : List Int) : Nat := (nth v 1 0).toNat
def entryDone (j : AuditJob) (v : List Int) (k : Nat) : Bool :=
  decide (nth v (2 + k * partWidth j) 0 = if j.mode = 1 then (j.devices.length : Int) else 1)

/-- The audited values of entry `k`, from the combined second part; the tracked energy where no device evaluated it. -/
def entryVal (j : AuditJob) (es : List TopEntry) (v : List Int) (k : Nat) : AuditVal :=
  let o := 3 + k * partWidth j
  if !entryDone j v k then ⟨nth (es.map (·.energy)) k 0, 0, 0, 0, 0, 0⟩ else
  let ms := (List.range (max 1 j.devices.length)).filterMap fun q => if nth v (o + 5 + 2 * q) 0 = 1 then some (nth v (o + 6 + 2 * q) 0) else none
  ⟨nth v o 0 / 2, (nth v (o + 1) 0).toNat, minInt ms, (nth v (o + 2) 0).toNat, (nth v (o + 3) 0).toNat, (nth v (o + 4) 0).toNat⟩

/-- The audit matches (R400). -/
def auditMatches (j : AuditJob) (es : List TopEntry) (v : List Int) : Bool :=
  decide (nth v 0 0 = 0) && (List.range es.length).all fun k => decide ((entryVal j es v k).energy = nth (es.map (·.energy)) k 0)

/-! ## Combines of an audit over the devices of a run (R405) -/

/-- A message of a run's audit from a position. -/
def audGot (s : State) (j : AuditJob) (p kind num : Nat) : Option (List Byte) :=
  (s.net.inbox.find? (isRunMsg j.runId (nth j.devices p 0xFFFF) kind num)).map fun i => i.data.drop 17

/-- Consumes it. -/
def audDrop (j : AuditJob) (p kind num : Nat) (s : State) : State :=
  updNet (fun n => { n with inbox := n.inbox.filter fun i => !isRunMsg j.runId (nth j.devices p 0xFFFF) kind num i }) s

/-- Sends one. -/
def audSend (j : AuditJob) (p kind num : Nat) (v : List Int) (s : State) : State :=
  sendMsg (nth j.devices p 0xFFFF) 1 0 (runMsg j.runId kind num (encInts v)) s

/-- The result of a combine goes down the tree. -/
def audDown (j : AuditJob) (num : Nat) (r : List Int) (s : State) : State :=
  (treeKids j.devices.length j.pos).reverse.foldl (fun s p => audSend j p mkAudDown num r s) s

/-- One execution of a combine by addition: its result once it is there. -/
def audCombine (j : AuditJob) (num : Nat) (v : List Int) (s : State) : Option (List Int) × State :=
  if j.devices.length ≤ 1 then (some v, s)
  else if j.sent then
    let up := treeParent j.pos
    match audGot s j up mkAudDown num with
    | none => (none, waitAt j.ctx auditKey [up] s)
    | some b => let r := decInts b; (some r, audDown j num r (audDrop j up mkAudDown num s))
  else
    let ks := treeKids j.devices.length j.pos
    let miss := ks.filter fun p => (audGot s j p mkAudUp num).isNone
    if !miss.isEmpty then (none, waitAt j.ctx auditKey miss s)
    else
      let r := ks.foldl (fun a p => addLists a (decInts ((audGot s j p mkAudUp num).getD []))) v
      let s := ks.foldl (fun s p => audDrop j p mkAudUp num s) s
      if j.pos = 0 then (some r, audDown j num r s)
      else
        let up := treeParent j.pos
        (none, waitAt j.ctx auditKey [up] (updAudit (fun k => { k with sent := true }) (audSend j up mkAudUp num r s)))

/-! ## The outcome (R400, R401, R406, R407) -/

/-- Tiles that are to be tested before they are used again. -/
def dueSelftests (es : List Nat) (s : State) : State :=
  { s with selftestDue := es.foldl (fun l e => let p := tileOf s e; if l.contains p then l else l ++ [p]) s.selftestDue }

/-- The engines of a mask. -/
def maskEngines (m : Nat) : List Nat := (List.range 32).filter fun e => m.testBit e

/-- The counters of the AUDIT page (R417): the audits that this device has made, and those that ended SKIPPED. -/
def countAudit (j : AuditJob) (status : Nat) (s : State) : State :=
  if j.mute then s
  else
    let s := bump pgAudit 0x048 s
    if status = 2 then bump pgAudit oErrCe s else if status = 3 then bump pgAudit oErrUe s
    else if status = 5 then bump pgAudit 0x050 s else s

/-- The completion record of a job's invocation is still to be queued. -/
def recordDue (s : State) (j : AuditJob) : Bool := s.ctxs.any fun x => jobOf x j && !x.written

/-- The audit is over with a status: its invocation takes it, or its follow-up is made, after its release's record where that is
still to come (R31). -/
def auditOver (j : AuditJob) (status : Nat) (vals : List AuditVal) (s : State) : State :=
  let s := countAudit j status { s with auditRun := none }
  let s := if status = 2 then dueSelftests j.engines s
    else if status = 3 ∧ j.bell then dueSelftests (maskEngines (partition s j.ring)) s else s
  let r : AuditRes := ⟨status, vals, s.now⟩
  let s := waitAt j.ctx auditKey [] s
  if j.bell then
    if recordDue s j then { s with audits := s.audits ++ [{ j with out := some r }] } else followUp j r s
  else
    match jobCtx s j with
    | none => s
    | some x =>
      let s := setAudit x.id j.addr r s
      let s := if status = 2 then recAdd x.id 8 1 s else if status = 3 then addCause x.id ⟨stAuditFault, 0, 0⟩ s else s
      if decide (x.life = .finishing) && !auditPending s x then finish x.id s else s

/-- A record that the audit needs reads uncorrectably: a Bell audit is skipped (R499), on this device where the run's devices audit
together (R405); another ends its invocation (R538). -/
def auditUnreadable (j : AuditJob) (s : State) : State :=
  if j.bell then
    if j.devices.length ≤ 1 ∨ j.mode = 3 then auditOver j 5 [] s
    else updAudit (fun k => { k with mute := true }) (countAudit j 5 s)
  else
    let s := { s with auditRun := none }
    match jobCtx s j with
    | some x => let f := internalFault s; endWith x.id f.1 f.2
    | none => s

/-- A pass of the evaluation is complete: a match, a second pass, or an outcome; the worst of any device stands, in the order FAULT,
CORRECTED, SKIPPED, MATCH (R405). -/
def passOver (j : AuditJob) (es : List TopEntry) (v : List Int) (s : State) : State :=
  let vals := (List.range es.length).map (entryVal j es v)
  if j.pass = 0 then
    if auditMatches j es v then (if auditMutes v = 0 then auditOver j 1 vals s else auditOver j 5 [] s)
    else
      let s := bump pgAudit 0x04C s
      if j.mainQ then auditOver j 3 vals s
      else updAudit (fun k => { k with pass := 1, stage := 0, sofar := [], first := v, sent := false }) s
  else auditOver j (if v = j.first then 2 else 3) vals s

/-- One step of an audit: a stage of a pass. `d1` and `d2` are what the first and the second evaluation miss entry 0 by. -/
def auditStep (d1 d2 : Int) (s : State) : State :=
  match s.auditRun with
  | none => s
  | some j =>
      let es := areaTop s j.addr j.prob.segCount
      let r := if j.stage = 0 && !j.sent && !j.mute then auditReads j (areaLen s j.addr j.prob.segCount) s else (true, s)
      let j := auditNow j r.2
      if !r.1 then auditUnreadable j r.2
      else if j.mode = 1 ∧ j.stage = 0 then
        let q := audCombine j (4 * j.pass) (partOne j es) r.2
        match q.1 with
        | none => q.2
        | some v => updAudit (fun k => { k with stage := 1, sofar := v, sent := false }) q.2
      else
        let d := if j.pass = 0 then d1 else d2
        let q := audCombine j (4 * j.pass + 1) (partTwo j es j.sofar (digestDiffers s j.addr j.prob.segCount) d) r.2
        match q.1 with
        | none => q.2
        | some v => passOver j es v q.2

/-- The steps of an audit that nothing holds up: two stages of two passes. -/
def auditSteps (d1 d2 : Int) (s : State) : State := iter (fun _ s => auditStep d1 d2 s) 4 s

/-- AUDIT_FINISH (R400): the audit that runs finishes with MATCH, or runs a second time at once and ends CORRECTED or FAULT. In a
spanned or farmed run it goes as far as the other devices' values have come (R405). -/
def execAuditFinish (d1 d2 : Int) (s : State) : Host.Outcome State Fault Refusal :=
  actCfe true s.auditRun.isSome s (auditSteps d1 d2 s)

/-! ## Signing windows (R411 to R415) -/

/-- The open window's time is over and it may close. -/
def windowCloses (s : State) : Bool :=
  (match s.cert.current with | some w => windowDue s w | none => false) && decide (s.cert.closed.length < 4)

/-- WINDOW_TIMEOUT (R411): the open window closes WIN_MS after its first certificate. -/
def execWindowTimeout (s : State) : Host.Outcome State Fault Refusal := actCfe true (windowCloses s) s (closeWindow s)

/-- Closes the open window where it is at a limit. -/
def closePast (s : State) : State :=
  match s.cert.current with
  | some w => if windowFull w || windowDue s w then closeWindow s else s
  | none => s

/-- The oldest closed window is signed: its record waits for a slot of the ring, and the open window may close. -/
def signWindow (s : State) : State :=
  match s.cert.closed with
  | [] => s
  | w :: rest => closePast (updCert (fun u => { u with closed := rest, signed := u.signed ++ [(windowRecord s w, w.certs)] }) s)

/-- The certificates of a closed window are in their final form: their invocations have been delivered (log entry 18). -/
def windowFinal (s : State) (w : Window) : Bool :=
  w.certs.all fun q => match q.ctx with | some c => !(ctxIs s c fun x => x.status.isNone) | none => true

/-- The oldest closed window can be signed: BOOT_ID is drawn and its certificates are final (R412, R413). -/
def signReady (s : State) : Bool :=
  s.cert.bootId.isSome && (match s.cert.closed with | [] => false | w :: _ => windowFinal s w)

/-- WINDOW_SIGNED (R412, R414): the oldest closed window is signed and its record is written to the ring, as soon as the ring has
room; the completion records that wait for it follow (R30). -/
def execWindowSigned (s : State) : Host.Outcome State Fault Refusal :=
  actCfe true (signReady s && !s.sec.tampered) s (signWindow s)

/-- RING_RD (R418): records consumed; a value beyond RING_WR is RING_WR. -/
def ringRdWrite (v : Nat) (s : State) : State :=
  let rd := reg s pgCert 0x054
  let wr := reg s pgCert 0x058
  let v := if (wr + 2 ^ 32 - rd) % 2 ^ 32 < (v + 2 ^ 32 - rd) % 2 ^ 32 then wr else v
  pump (setReg pgCert 0x054 v s)

end Sys2Proof.Machine
end

