-- ==== Sys2Proof/Machine/VectorUnit.lean ====
section
/-!
DEFINITION. The vector class and problem build: VOP, VRED, VNORM, VCVT, VTOPK, PBUILD (R267 to R270, R295 to R300).
-/
namespace Sys2Proof.Machine

/-- The type a code names; FP32 where it names none, which the checks of an image exclude. -/
def tyOfCode (c : Nat) : VTy := (vtyOf c).getD .f32

/-- A `VOP` function reads a second operand. -/
def usesB (f : Nat) : Bool := (decide (0x01 ≤ f) && decide (f ≤ 0x06)) || decide (f = 0x0C)

/-- The element-wise function of a `VOP`; SAT enters the stage flag word (R296). -/
def vopRun (c : Ctx) (u : Cursor) (d : Nat) (o : VopOp) (s : State) : State :=
  let n := 512 * (o.nv + 1)
  let len := vecLen o.ty o.nv
  let b := if usesB o.func then memRead s (sa0 u o.saB) len else []
  let dd := if o.func = 0x04 then memRead s d len else []
  let r := vopBytes (tyOfCode o.ty) o.func o.imm n (memRead s (sa0 u o.saA) len) b dd
  let s := memWrite d r.1 s
  if r.2 then stageFlags c.id u.eng 1 s else s

/-- VOP (R295, R296): an element-wise function of vectors. -/
def execVop (x : EngRef) (o : VopOp) (s : State) : Host.Outcome State Fault Refusal :=
  engAct x (.vop o) s fun c u i s =>
    let len := vecLen o.ty o.nv
    let d := saIx u i o.saD
    let rs := [(sa0 u o.saA, len)] ++ (if usesB o.func then [(sa0 u o.saB, len)] else []) ++
      (if o.func = 0x04 then [(d, len)] else [])
    reading c u rs (vopRun c u d o) s

/-- VRED (R270, R296): a reduction of NV vectors to one value. -/
def execVred (x : EngRef) (o : VredOp) (s : State) : Host.Outcome State Fault Refusal :=
  engAct x (.vred o) s fun c u i s =>
    let len := vecLen o.ty o.nv
    reading c u [(sa0 u o.saA, len)]
      (fun s => memWrite (saIx u i o.saD) (vredBytes (tyOfCode o.ty) o.op (512 * (o.nv + 1)) (memRead s (sa0 u o.saA) len)) s) s

/-- The FP32 codes of `n` elements. -/
def f32Codes (b : List Byte) (n : Nat) : List Nat := (List.range n).map fun i => leAt b (4 * i) 4

/-- VNORM (R269): softmax or normalisation over n contiguous FP32 elements. -/
def execVnorm (x : EngRef) (o : VnormOp) (s : State) : Host.Outcome State Fault Refusal :=
  engAct x (.vnorm o) s fun c u i s =>
    let n := o.n + 1
    reading c u [(sa0 u o.saA, 4 * n)]
      (fun s =>
        let xs := f32Codes (memRead s (sa0 u o.saA) (4 * n)) n
        memWrite (saIx u i o.saD) (((if o.kind = 0 then f32Softmax xs else f32Normalise xs o.eps).map (leBytes 4)).flatten) s) s

/-- The exact values of `n` packed vectors with their MX scales. -/
def vecVals (s : State) (a n : Nat) (f : Fmt) : List (List FVal) :=
  (List.range n).map fun v =>
    let cs := vecCodes s a v f
    if isMx f then
      let sc := memRead s (a + n * vecStride (elemFmt f) + 16 * v) 16
      cs.zipIdx.map fun e =>
        let b := (nth sc (e.2 / 32) 0).toNat
        if b = 255 then .nan else fvScale (decodeElem f e.1) ((b : Int) - 127)
    else cs.map (decodeElem f)

/-- Converts NV vectors; the flags of conversion enter the stage flag word. -/
def vcvtRun (c : Ctx) (u : Cursor) (d : Nat) (o : VcvtOp) (s : State) : State :=
  let k := drawKey s c
  let draw (v j : Nat) : Nat := laneDraw k v o.srTile (drawPhase s c u) (8192 + o.srStream) j
  let r := convVecs (fmtOf o.ofmt) 0 (rndOf o.rnd) draw (vecVals s (sa0 u o.saA) (o.nv + 1) (fmtOf o.ifmt))
  stageFlags c.id u.eng (flagBits r.2) (memWrite d r.1 s)

/-- VCVT (R255 to R258, R298): converts vectors between formats. -/
def execVcvt (x : EngRef) (o : VcvtOp) (s : State) : Host.Outcome State Fault Refusal :=
  engAct x (.vcvt o) s fun c u i s =>
    let f := fmtOf o.ifmt
    reading c u [(sa0 u o.saA, (o.nv + 1) * vecStride (elemFmt f) + mxTail f (o.nv + 1) 0)] (vcvtRun c u (saIx u i o.saD) o) s

/-- VTOPK (R297): merges NR top-k records into one of 16 values and 16 positions. -/
def execVtopk (x : EngRef) (o : VtopkOp) (s : State) : Host.Outcome State Fault Refusal :=
  engAct x (.vtopk o) s fun c u i s =>
    let n := o.nr + 1
    reading c u [(sa0 u o.saA, 128 * n)]
      (fun s =>
        let es := ((List.range n).map fun t => recordEntries (memRead s (sa0 u o.saA + 128 * t) 128) (512 * t)).flatten
        memWrite (saIx u i o.saD) (topMerged (o.k + 1) (topRank Config.vtopkInt (decide (o.mode = 0)) es)) s) s

/-! ## PBUILD -/

/-- The source value of an element. -/
def pbuildSrc (stype c : Nat) : FVal := if stype = 0 then f32 c else fvalOfInt (signed 32 c)

/-- The built terms of a `PBUILD`: value, clamp, NaN (R299, R300). -/
def pbuildTerms (s : State) (c : Ctx) (u : Cursor) (a : Nat) (o : PbuildOp) : List (Int × Bool × Bool) :=
  let k := drawKey s c
  let b := memRead s a (4 * (o.count + 1))
  (List.range (o.count + 1)).map fun i =>
    pbuildElem o.kind (rndOf o.rnd) (laneDraw k (i / 512) o.srTile (microBatch u) (8192 + o.srStream) (i % 512))
      (pbuildSrc o.stype (leAt b (4 * i) 4)) (signed 8 o.scaleE)

/-- Writes the built terms in their kind's layout (R299); bits of a last byte that no term has stay. -/
def pbuildStore (kind d : Nat) (ts : List Int) (s : State) : State :=
  match kind with
  | 0 => memWrite d (ts.map fun t => leBytes 4 (unsigned 32 t)).flatten s
  | 1 => ts.zipIdx.foldl (fun s t => memWrite (d + 16 * t.2) (leBytes 4 (unsigned 32 t.1)) s) s
  | 2 => ts.zipIdx.foldl (fun s t => memWrite (d + 16 * t.2 + 4) (leBytes 2 t.1.toNat) s) s
  | _ =>
    let n := ts.length
    let old := leNat (memRead s d (ceilDiv n 8))
    let new := (ts.map (·.toNat)).foldr (fun b acc => b % 2 + 2 * acc) 0
    memWrite d (leBytes (ceilDiv n 8) (old / 2 ^ n * 2 ^ n + new)) s

/-- The build, its flags and its counts. -/
def pbuildRun (c : Ctx) (u : Cursor) (a : Nat) (o : PbuildOp) (s : State) : State :=
  let ts := pbuildTerms s c u a o
  let clamps := (ts.filter fun t => t.2.1).length
  let nans := (ts.filter fun t => t.2.2).length
  let s := pbuildStore o.kind (sa0 u o.saD) (ts.map (·.1)) s
  let s := stageFlags c.id u.eng ((if clamps = 0 then 0 else 8) + (if nans = 0 then 0 else 16)) s
  stageCount c.id u.eng 6 nans (stageCount c.id u.eng 5 clamps s)

/-- PBUILD (R299, R300): turns COUNT source elements into one kind of problem term. -/
def execPbuild (x : EngRef) (o : PbuildOp) (s : State) : Host.Outcome State Fault Refusal :=
  engAct x (.pbuild o) s fun c u i s =>
    let a := saIx u i o.saA
    reading c u [(a, 4 * (o.count + 1))] (pbuildRun c u a o) s

end Sys2Proof.Machine
end

