-- ==== Sys2Proof/Machine/Collect.lean ====
section
/-!
DEFINITION. Reductions, broadcasts, links of engine programs, `AUDIT` and `CERT` (R282, R303 to R306, R310, R355, R356).
-/
namespace Sys2Proof.Machine

/-! ## Tagged collectives -/

/-- The instruction an engine stands at is a `RED` or a `BCAST` of a tag and scope. -/
def atTagged (s : State) (x : Ctx) (red : Bool) (tag scope e : Nat) : Bool :=
  let op : Option EngOp := (curInstr s x e).map (·.op)
  engIssues s x e && match op with
    | some (.red p) => red && decide (p.tag = tag) && decide (p.scope = scope)
    | some (.bcast p) => !red && decide (p.tag = tag) && decide (p.scope = scope)
    | _ => false

/-- The participants of the tagged collective that an operand names: the group of the lowest engine that stands at it with
every participant (R282). -/
def tagGroup (s : State) (x : Ctx) (op : EngOp) (red : Bool) (tag scope : Nat) : Option (List Nat) :=
  let img := ctxImage s x
  ((progEngines img).filter fun e => engAt s x e op).findSome? fun e =>
    let es := tagEngines img tag scope e
    if es.all (atTagged s x red tag scope) then some es else none

/-- The `RED` that an engine stands at. -/
def redAt (s : State) (x : Ctx) (e : Nat) : Option (RedOp × Cursor × Nat) :=
  match curInstr s x e, curOf x e with
  | some i, some u => (match i.op with | .red o => some (o, u, i.idx) | _ => none)
  | _, _ => none

/-- The `BCAST` that an engine stands at. -/
def bcastAt (s : State) (x : Ctx) (e : Nat) : Option (BcastOp × Cursor × Nat) :=
  match curInstr s x e, curOf x e with
  | some i, some u => (match i.op with | .bcast o => some (o, u, i.idx) | _ => none)
  | _, _ => none

/-- The next instruction for a group. -/
def groupAdvance (c : Nat) (es : List Nat) (s : State) : State := es.foldl (fun s e => advance c e s) s

/-- Reads of several engines, each its own ranges: true where all read. -/
def groupReads (c : Nat) (rs : List (Nat × Nat × Nat)) (s : State) : Bool × State :=
  rs.foldl (fun acc r => if acc.1 then engReads c r.1 [(r.2.1, r.2.2)] acc.2 else acc) (true, s)

/-! ## RED (R303) -/

/-- An element of a vector of a `RED` type: an FP32 code, or a signed integer. -/
def redElem (ty : Nat) (b : List Byte) (i : Nat) : Int :=
  match tyOfCode ty with
  | .f32 => (leAt b (4 * i) 4 : Int)
  | t => signed (8 * vtyBytes t) (leAt b (vtyBytes t * i) (vtyBytes t))

/-- The operation of a `RED` on two elements. -/
def redOp (ty op : Nat) (a b : Int) : Int :=
  match tyOfCode ty with
  | .f32 =>
    let f := match op with | 0 => f32Add | 1 => f32Max | _ => f32Min
    (f a.toNat b.toNat : Int)
  | _ => match op with | 0 => a + b | 1 => max a b | _ => min a b

/-- Element by element. -/
def redVec (ty op : Nat) (a b : List Int) : List Int := (a.zip b).map fun p => redOp ty op p.1 p.2

/-- Folds a nonempty list of vectors in order. -/
def redFold (ty op : Nat) (l : List (List Int)) : List Int :=
  match l with
  | [] => []
  | v :: l => l.foldl (redVec ty op) v

/-- The device's result: each quadrant in ascending engine order, then the quadrants in ascending order. -/
def redDevice (ty op : Nat) (vs : List (Nat × List Int)) : List Int :=
  redFold ty op (((List.range 4).map fun q => redFold ty op ((vs.filter fun v => v.1 / 8 = q).map (·.2))).filter fun v => !v.isEmpty)

/-- An FP32 result: a NaN is the canonical one, that of a single participant too (R229). -/
def redNan (x : Int) : Nat := if 0x7F800000 < x.toNat % 2 ^ 31 then f32NaN else x.toNat

/-- The bytes of a result, clamped to its type, and whether an element was clamped (R296). -/
def redBytes (ty : Nat) (v : List Int) : List Byte × Bool :=
  match tyOfCode ty with
  | .f32 => ((v.map fun x => leBytes 4 (redNan x)).flatten, false)
  | t =>
    let r := v.map (intSat t)
    ((r.map fun x => leBytes (vtyBytes t) x.1).flatten, r.any (·.2))

/-- Every participant receives bytes at its SA_D. -/
def redWrite (c : Nat) (ps : List (Nat × RedOp × Cursor × Nat)) (b : List Byte) (sat : Bool) (s : State) : State :=
  ps.foldl (fun s p =>
    let s := memWrite (sa0 p.2.2.1 p.2.1.saD) b s
    advance c p.1 (if sat then stageFlags c p.1 1 s else s)) s

/-- The operands and the data of the participants of a reduction, as they stand. -/
def redInput (s : State) (ps : List (Nat × RedOp × Cursor × Nat)) : List (List Byte) :=
  ps.map fun p => leBytes 4 p.1 ++ leBytes 4 p.2.1.nv ++ leBytes 4 p.2.1.op ++ leBytes 4 p.2.1.ty ++
    memRead s (saIx p.2.2.1 p.2.2.2 p.2.1.saA) (vecLen p.2.1.ty p.2.1.nv)

/-- An all-reduce over a group. Where the participants' NV, OP or TYPE differ, no rule gives a result: the bytes are free values of
the participants' operands and data (log entry 68). -/
def redGroup (c : Nat) (x : Ctx) (o : RedOp) (es : List Nat) (s : State) : State :=
  let ps := es.filterMap fun e => (redAt s x e).map fun r => (e, r)
  let same := ps.all fun p => decide (p.2.1.nv = o.nv) && decide (p.2.1.op = o.op) && decide (p.2.1.ty = o.ty)
  let len (p : RedOp) : Nat := vecLen p.ty p.nv
  let r := groupReads c (ps.map fun p => (p.1, saIx p.2.2.1 p.2.2.2 p.2.1.saA, len p.2.1)) s
  if !r.1 then r.2
  else if !same then
    ps.foldl (fun s p =>
      advance c p.1 (memWrite (sa0 p.2.2.1 p.2.1.saD) (leBytes (len p.2.1) (Config.redMixed (redInput r.2 ps) p.1)) s)) r.2
  else
    let vs := ps.map fun p =>
      let b := memRead r.2 (saIx p.2.2.1 p.2.2.2 p.2.1.saA) (len o)
      (p.1, (List.range (512 * (o.nv + 1))).map (redElem o.ty b))
    let v := redDevice o.ty o.op vs
    let q := if o.scope = 2 then combineAt c (tagKey o.tag) (redVec o.ty o.op) v r.2 else (some v, r.2)
    match q.1 with
    | none => q.2
    | some v => let b := redBytes o.ty v; redWrite c ps b.1 b.2 q.2

/-- RED (R303): an all-reduce over the participants in the fixed order. -/
def execRed (c : Nat) (o : RedOp) (s : State) : Host.Outcome State Fault Refusal :=
  actCfe (decide (c < 4096)) (ctxIs s c fun x => (tagGroup s x (.red o) true o.tag o.scope).isSome) s
    (match ctxOf s c with
     | some x => (match tagGroup s x (.red o) true o.tag o.scope with | some es => redGroup c x o es s | none => s)
     | none => s)

/-! ## BCAST (R304) -/

def mkBcast : Nat := 9
def mkLen : Nat := 10
def mkLenBad : Nat := 11

/-- A count kept by an engine's cursor, and counting it up. -/
def sentOf (u : Cursor) (k : Nat) : Nat := ((u.sent.find? fun e => decide (e.1 = k)).map (·.2)).getD 0
def countSent (c e k n : Nat) (s : State) : State :=
  updCur c e (fun u => { u with sent := (k, sentOf u k + n) :: u.sent.filter fun x => decide (x.1 ≠ k) }) s

/-- Writes broadcast bytes at the SA of every participant but the root. -/
def bcastWrite (c : Nat) (ps : List (Nat × BcastOp × Cursor × Nat)) (root : Option Nat) (b : List Byte) (s : State) : State :=
  ps.foldl (fun s p =>
    advance c p.1 (if root = some p.1 then s else memWrite (saIx p.2.2.1 p.2.2.2 p.2.1.sa) b s)) s

/-- A broadcast over a group; with SCOPE = run the root's device sends the bytes to every other position. DESIGN CHOICE (log entry 95): with
another SCOPE, RDEV is neither checked nor used. -/
def bcastGroup (c : Nat) (x : Ctx) (o : BcastOp) (es : List Nat) (s : State) : State :=
  let ps := es.filterMap fun e => (bcastAt s x e).map fun r => (e, r)
  let n := 64 * (o.len + 1)
  let e0 := es.headD 0
  let k := 2 ^ 16 + o.tag
  let num := o.tag + 256 * (((curOf x e0).map (sentOf · k)).getD 0)
  let here := decide (o.scope ≠ 2) || (match x.md with | some m => decide (m.position = o.rdev) | none => true)
  if here then
    match ps.find? fun p => decide (p.1 = o.root) with
    | none => groupAdvance c es s
    | some p =>
      let a := saIx p.2.2.1 p.2.2.2 p.2.1.sa
      let r := groupReads c [(p.1, a, n)] s
      if !r.1 then r.2
      else
        let b := memRead r.2 a n
        let s := match x.md with
          | some m => if o.scope = 2 then (others m).foldl (fun s q => sendRun c q 1 mkBcast num b s) r.2 else r.2
          | none => r.2
        bcastWrite c ps (some p.1) b (countSent c e0 k 1 s)
  else
    match x.md with
    | none => s
    | some m =>
      match gotRun s m o.rdev mkBcast num with
      | none => waitAt c (tagKey o.tag) [o.rdev] s
      | some b => bcastWrite c ps none (b.take n) (countSent c e0 k 1 (waitAt c (tagKey o.tag) [] (dropRun m o.rdev mkBcast num s)))

/-- BCAST (R304): copies a range from the root to every other participant. -/
def execBcast (c : Nat) (o : BcastOp) (s : State) : Host.Outcome State Fault Refusal :=
  actCfe (decide (c < 4096)) (ctxIs s c fun x => (tagGroup s x (.bcast o) false o.tag o.scope).isSome) s
    (match ctxOf s c with
     | some x => (match tagGroup s x (.bcast o) false o.tag o.scope with | some es => bcastGroup c x o es s | none => s)
     | none => s)

/-! ## LSEND and LRECV (R305, R306, R355, R356) -/

/-- The keys of the counts of a channel: `LSEND`s, `LRECV`s, frames received, and the frames of the present `LRECV` that are in, as a
mask. -/
def keySend (peer chan : Nat) : Nat := 16 * peer + chan
def keyRecv (peer chan : Nat) : Nat := 2 ^ 14 + 16 * peer + chan
def keyFrames (peer chan : Nat) : Nat := 2 ^ 15 + 16 * peer + chan
def keyPart (peer chan : Nat) : Nat := 2 ^ 15 + 2 ^ 14 + 16 * peer + chan

/-- What all engines of an invocation have counted under a key. -/
def sentAll (x : Ctx) (k : Nat) : Nat := sumN (x.curs.map fun u => sentOf u k)

/-- Cuts bytes into activation frames (R355). -/
def actFrames (b : List Byte) : List (List Byte) :=
  (List.range (ceilDiv b.length 65536)).map fun i => (slice b (65536 * i) 65536 ++ zeros 65536).take 65536

/-- Sends the range at `a` as activation frames, which lock their parts of it (R336); its length goes with it, so that the lengths of a
pair can be compared (R306, log entry 24). -/
def lsendFrames (c : Nat) (x : Ctx) (e : Nat) (o : LsendOp) (a : Nat) (b : List Byte) (s : State) : State :=
  match x.md with
  | none => s
  | some m =>
    let k := keySend o.peer o.chan
    let s := sendRun c o.peer 1 mkLen (o.chan + 16 * sentAll x k) (leBytes 4 b.length) s
    (actFrames b).zipIdx.foldl (fun s f =>
      sendFrom (some (a + 65536 * f.2, min 65536 (b.length - 65536 * f.2))) (devAt m o.peer) 2 o.chan f.1 s) (countSent c e k 1 s)

/-- LSEND (R305, R355): sends a range to a position of the run on a channel. -/
def execLsend (x : EngRef) (o : LsendOp) (s : State) : Host.Outcome State Fault Refusal :=
  engAct x (.lsend o) s fun c u i s =>
    let n := 64 * (o.len + 1)
    let a := saIx u i o.sa
    reading c u [(a, n)] (fun s => lsendFrames c.id c u.eng o a (memRead s a n) s) s

/-- Where a frame of a channel that has arrived stands in the exchange window (R356). -/
def frameOf (s : State) (m : MdRun) (peer chan k : Nat) : Option Nat :=
  (s.net.inbox.find? fun i => decide (i.src = devAt m peer) && decide (i.cls = 2) &&
    decide (i.msg = chan * 2 ^ 28 + k % 2 ^ 28)).bind (·.at_)

/-- Consumes frame `k` of a channel. -/
def dropFrame (m : MdRun) (peer chan k : Nat) (s : State) : State :=
  updNet (fun t => { t with inbox := t.inbox.filter fun i =>
    !(decide (i.src = devAt m peer) && decide (i.cls = 2) && decide (i.msg = chan * 2 ^ 28 + k % 2 ^ 28)) }) s

/-- The lengths of a matched pair differ: this invocation ends, and the peer is told (R306). -/
def lengthsDiffer (c : Nat) (u : Cursor) (o : LrecvOp) (num : Nat) (s : State) : State :=
  endWith c (invalidAt ⟨2, u.pc, some u.eng⟩) (sendRun c o.peer 1 mkLenBad num [] s)

/-- Sets what a cursor has counted under a key. -/
def setSent (c e k v : Nat) (s : State) : State :=
  updCur c e (fun u => { u with sent := (k, v) :: u.sent.filter fun x => decide (x.1 ≠ k) }) s

/-- Frame `j` of an `LRECV` of `n` bytes, where it has arrived: it is read in the exchange window, and what the range takes of it is
written. False where a word of it had no good value, and the engine's work is redone. -/
def takeFrame (c e : Nat) (m : MdRun) (o : LrecvOp) (base a n : Nat) (r : Bool × State) (j : Nat) : Bool × State :=
  let s := r.2
  let done := ((ctxOf s c).bind fun x => curOf x e).map (fun u => sentOf u (keyPart o.peer o.chan)) |>.getD 0
  match if r.1 && !done.testBit j then frameOf s m o.peer o.chan (base + j) else none with
  | none => r
  | some f =>
    let q := engReads c e [(f, 65536)] s
    if !q.1 then q
    else
      let d := (memRead q.2 f 65536).take (n - 65536 * j)
      (true, setSent c e (keyPart o.peer o.chan) (done + 2 ^ j) (memWrite (a + 65536 * j) d (dropFrame m o.peer o.chan (base + j) q.2)))

/-- Takes in the matching frames that have arrived; the instruction is over once every frame has. -/
def lrecvFrames (c : Nat) (x : Ctx) (u : Cursor) (i : Nat) (o : LrecvOp) (s : State) : State :=
  match x.md with
  | none => s
  | some m =>
    let n := 64 * (o.len + 1)
    let num := o.chan + 16 * sentOf u (keyRecv o.peer o.chan)
    let base := sentOf u (keyFrames o.peer o.chan)
    let nf := ceilDiv n 65536
    match gotRun s m o.peer mkLen num with
    | none => s
    | some b =>
      if leAt b 0 4 ≠ n then lengthsDiffer c u o num s
      else
        let r := (List.range nf).foldl (takeFrame c u.eng m o base (saIx u i o.sa) n) (true, s)
        let all := ctxIs r.2 c fun x => ((curOf x u.eng).map fun u => decide (sentOf u (keyPart o.peer o.chan) = 2 ^ nf - 1)).getD false
        if r.1 && all then lrecvOver c u o num nf m r.2 else r.2
where
  /-- Every frame is in: the counts of the channel go on. -/
  lrecvOver (c : Nat) (u : Cursor) (o : LrecvOp) (num nf : Nat) (m : MdRun) (s : State) : State :=
    let s := setSent c u.eng (keyPart o.peer o.chan) 0 (dropRun m o.peer mkLen num s)
    advance c u.eng (countSent c u.eng (keyRecv o.peer o.chan) 1 (countSent c u.eng (keyFrames o.peer o.chan) nf s))

/-- LRECV (R305, R306): receives the matching activation frames from a position of the run. -/
def execLrecv (x : EngRef) (o : LrecvOp) (s : State) : Host.Outcome State Fault Refusal :=
  engAct x (.lrecv o) s fun c u i s => lrecvFrames c.id c u i o s

/-! ## AUDIT and CERT (R310) -/

/-- AUDIT (R310, R402): queues the audit of the result area at DA, where the descriptor asks for one. -/
def execAudit (c : Nat) (o : AuditOp) (s : State) : Host.Outcome State Fault Refusal :=
  collAct c (.audit o) s fun x s => collAdvance c (if flAudit x then queueAudit c (daOf x o.da) s else s)

/-- Issues the certificate: it is written after its result area and joins the open window, but for a Bell release (R310,
R411). -/
def issueCert (c : Nat) (x : Ctx) (da : Nat) (s : State) : State :=
  let (q, s) := nextCertSeq s
  let at_ := certPlace x da
  let s := updCtx c (fun x => { x with certSeq := some q, certAt := at_, issued := x.issued ++ [⟨q, at_, da⟩],
                                       windowWait := x.windowWait + b2n (!isBell x) }) s
  match ctxOf s c with
  | none => s
  | some y =>
    let b := resultCert s (asOf y da) q s.now
    let s := memWrite at_ b s
    if isBell y then s else joinWindow ⟨b, some c, none⟩ s

/-- CERT (R310, R408): assembles and writes the certificate, where the descriptor asks for one; on an ordinary queue it then waits
for a queued audit to finish, and no certificate is issued before BOOT_ID is drawn (R413). With CERT = 0 it has no effect (R434). -/
def execCert (c : Nat) (o : CertOp) (s : State) : Host.Outcome State Fault Refusal :=
  actCfe (decide (c < 4096))
    (ctxIs s c fun x => collAt s x (.cert o) && (!flCert x || ((isBell x || !auditPending s x) && s.cert.bootId.isSome))) s
    (match ctxOf s c with
     | some x => collAdvance c (if flCert x && !s.sec.tampered then issueCert c x (daOf x o.da) s else s)
     | none => s)

end Sys2Proof.Machine
end

