-- ==== Sys2Proof/Machine/Peers.lean ====
section
/-!
DEFINITION. Multi-device runs between devices (R351 to R373): START, PROGRESS, EPOCH, missed peers, claims on a spare, fail-over.
What the control codes do not carry and a device needs travels in messages of the model's own (log entries 24, 36).
-/
namespace Sys2Proof.Machine

/-! ## Peers of a run (R357, R359) -/

/-- A message of position `p` has arrived: its timer restarts. -/
def heardFrom (c p : Nat) (s : State) : State := updMd c (fun m => { m with heard := updAt m.heard p fun _ => s.now }) s

/-- A message of a missed peer is discarded and counted in XDEV_LATE_RECOVERIES, and as a late recovery (R359, R410). -/
def lateMessage (c : Nat) (s : State) : State :=
  updRun c (fun a => { a with stats := statAdd a.stats stXdevLate 1, snap := statAdd a.snap stXdevLate 1 })
    (recAdd c 9 1 (updMd c (fun m => { m with late := m.late + 1 }) s))

/-- The invocation of a run in which a device has been missed or declared lost here (R335, R359). -/
def lateIn (s : State) (run src : Nat) : Option Nat :=
  let gone (x : Ctx) : Bool := x.md.any fun m => decide (m.runId = run) &&
    (m.lost.any (fun p => decide (devAt m p = src)) || s.net.discard.any fun e => decide (e = (src, run)))
  match runCtx s run with
  | some x => if gone x then some x.id else none
  | none => (s.ctxs.find? gone).map (·.id)

/-- Something of position `p` of a run has arrived: late, or the timer restarts and `f` follows. -/
def fromPeer (runId p : Nat) (f : Nat → State → State) (s : State) : State :=
  match runCtx s runId with
  | none => s
  | some x =>
    match x.md with
    | none => s
    | some m =>
      if m.devices.length ≤ p then s
      else if m.lost = some p then lateMessage x.id s
      else f x.id (heardFrom x.id p s)

/-- PROGRESS (R357): the sender's peer timer restarts. -/
def execProgress (runId pos phase : Nat) (s : State) : Host.Outcome State Fault Refusal :=
  actCfe true (decide (phase < 2 ^ 64)) s (fromPeer runId pos (fun _ s => s) s)

/-- An invocation takes part in a run. -/
def inRun (x : Ctx) : Bool := isMulti x && x.status.isNone

/-- Sends PROGRESS to every other position. -/
def sendProgress (c : Nat) (s : State) : State :=
  match ctxOf s c with
  | none => s
  | some x =>
    match x.md with
    | none => s
    | some m =>
      let ph := (x.anneal.map (·.n)).getD 0
      updMd c (fun m => { m with lastProgress := s.now }) ((others m).foldl (fun s p => sendCtrl (devAt m p) (ctProgress m.runId ph) s) s)

/-- PROGRESS_SEND (R357): 500 µs after the last one, the device sends PROGRESS to every position. -/
def execProgressSend (c : Nat) (s : State) : Host.Outcome State Fault Refusal :=
  actCfe (decide (c < 4096)) (ctxIs s c fun x => inRun x && (match x.md with | some m => decide (m.lastProgress + 500000 ≤ s.now) | none => false)) s
    (sendProgress c s)

/-! ## START (R351) -/

/-- The invocation that a START of a device is for: one that waits for it. -/
def startFor (s : State) (src : Nat) (b : StartBody) : Option (Nat × Nat) :=
  s.ctxs.findSome? fun x =>
    match x.md with
    | some m =>
      match posOf m src with
      | some p => if inRun x && m.startSent && !m.starts.contains p && (!isBell x || decide (b.runId = m.runId)) then some (x.id, p) else none
      | none => none
    | none => none

/-- A START has arrived: it is compared, or kept until this device's own run begins; one that comes after its sender has been missed is
discarded and counted (R359). -/
def startArrives (src : Nat) (b : StartBody) (s : State) : State :=
  match startFor s src b with
  | some (c, p) => takeStart c p b (heardFrom c p s)
  | none => match lateIn s b.runId src with
    | some c => lateMessage c s
    | none => keepStart src b s

/-- START (R351): a START handshake message is received and compared; any field that differs ends the invocation with
`PROGRAM_INVALID`. -/
def execStart (src : Nat) (b : StartBody) (s : State) : Host.Outcome State Fault Refusal :=
  actCfe true (decide (src < 512)) s (startArrives src b s)

/-! ## Epoch barriers (R179, R353) -/

/-- EPOCH (R353): the last accepted set that its sender sent before the barrier. -/
def execEpoch (runId pos phase : Nat) (s : State) : Host.Outcome State Fault Refusal :=
  actCfe true (decide (phase < 2 ^ 64)) s
    (fromPeer runId pos (fun c s => updMd c (fun m => { m with epochs := m.epochs ++ [(pos, phase)] }) s) s)

/-- Every set of every peer before the barrier has arrived, or a saturated peer's marked one, after which none follows (R52). -/
def barrierReady (x : Ctx) : Bool :=
  match x.md, x.anneal with
  | some m, some a => decide (m.barrier = 1) && ((m.remote.any fun q => q.sat) || (others m).all (epochArrived m a))
  | _, _ => false

/-- EPOCH_BARRIER_DONE (R179, R353): every peer set before the barrier is applied, and the exact energies are recomputed. -/
def execEpochBarrierDone (r : BarrierRun) (s : State) : Host.Outcome State Fault Refusal :=
  let t := takeAccs r.ctx s
  actCfe (decide (r.ctx < 4096))
    (ctxIs t r.ctx fun x => inRun x && barrierReady x && (ctxEngines t x).all fun e => !(t.substs.any fun u => decide (u.eng = e))) s
    (barrierStep r.ctx r.passes t)

/-! ## Missed peers (R357, R366) -/

/-- The coordinator of the loss of position `d`. -/
def coordinator (d : Nat) : Nat := if d = 0 then 1 else 0

/-- The run is over on this device: position `d` is lost. A Bell release is delivered as it stood (R373, R498). -/
def runLost (c d : Nat) (s : State) : State :=
  let k : Cause := ⟨stPeerLost, d, 0⟩
  match disrupt c k s with
  | some t => t
  | none => endWith c k s

/-- FAILOVER with no spare goes to every surviving position, and to a spare that has been claimed; this device's run ends. -/
def failRun (c d : Nat) (s : State) : State :=
  match (ctxOf s c).bind (·.md) with
  | none => s
  | some m =>
    let s := if m.claimed then sendCtrl (spareFor s (devAt m (m.notices.headD d))) (ctFailover m.runId d 0xFFFF 0) s else s
    runLost c d (((others m).filter fun q => decide (q ≠ d)).foldl (fun s q => sendCtrl (devAt m q) (ctFailover m.runId d 0xFFFF 0) s) s)

/-- A notice of the loss of position `d`, which every position keeps. Its coordinator begins the collection with the first one; notices
that name a position more end the run, at the end of the collection or at once after it (R366). -/
def noticeLost (c d : Nat) (s : State) : State :=
  match (ctxOf s c).bind (·.md) with
  | none => s
  | some m =>
    if m.notices.contains d ∨ m.devices.length ≤ d ∨ m.failover.isSome then s
    else
      let t := updMd c (fun m => { m with
        notices := m.notices ++ [d]
        collectFrom := if m.collectFrom.isNone ∧ m.position = coordinator d then some s.now else m.collectFrom }) s
      if m.claimed then failRun c d t else t

/-- A position is missed: before every START has arrived the run ends; a second loss ends it; else LOST goes out. -/
def peerMissed (c p : Nat) (s : State) : State :=
  match ctxOf s c with
  | none => s
  | some x =>
    match x.md with
    | none => s
    | some m =>
      if !allStarted m || m.failover.isSome then runLost c p (updMd c (fun m => { m with lost := some p }) s)
      else match m.lost with
        | some q => if m.position = coordinator q then failRun c q s else runLost c q s
        | none =>
          let ph := (x.anneal.map (·.n)).getD 0
          let s := updMd c (fun m => { m with lost := some p }) s
          let s := ((others m).filter fun q => decide (q ≠ p)).foldl (fun s q => sendCtrl (devAt m q) (ctLost m.runId p ph) s) s
          if isBell x then runLost c p s
          else noticeLost c p s

/-- The time in ns that a peer's timer may reach: after a fail-over the spare's START is waited for as long as R368 lets the copy and
the installation of the largest mirror take, 22 GiB (DEDUCED, log entry 36). -/
def peerLimit (m : MdRun) (p : Nat) : Nat :=
  m.timeoutUs * 1000 + (match m.failover with | some (d, _, _) => if d = p then 343000000 else 0 | none => 0)

/-- A peer's timer has reached the barrier timeout while the device waits for it, or it is unreachable. -/
def peerDue (s : State) (p : Nat) (x : Ctx) : Bool :=
  match x.md with
  | some m => inRun x && decide (p < m.devices.length) && decide (p ≠ m.position) && decide (m.lost ≠ some p) &&
      ((m.waitingOn.any (fun e => decide (e.2 = p)) && decide (nth m.heard p 0 + peerLimit m p ≤ s.now)) ||
        s.net.unreachable.contains (devAt m p))
  | none => false

/-- PEER_TIMER_EXPIRE (R357): a peer is missed. -/
def execPeerTimerExpire (c p : Nat) (s : State) : Host.Outcome State Fault Refusal :=
  actCfe (decide (c < 4096)) (ctxIs s c (peerDue s p)) s (peerMissed c p s)

/-- LOST (R366): a notice of position `src` that it misses `lostPos`, for the coordinator to collect. -/
def execLost (runId src lostPos phase : Nat) (s : State) : Host.Outcome State Fault Refusal :=
  actCfe true (decide (phase < 2 ^ 64)) s
    (fromPeer runId src (fun c s => noticeLost c lostPos s) s)

/-! ## Claims (R367) -/

/-- The collection is over: two losses, or no claim to make, end the run; else CLAIM goes to the spare, and the holders say
which checkpoints they hold. DEDUCED (log entry 87): no claim is made for a Bell release, whose queue no spare serves (R367, R371). -/
def collectEnd (c : Nat) (s : State) : State :=
  match ctxOf s c with
  | none => s
  | some x =>
    match x.md with
    | none => s
    | some m =>
      match m.notices with
      | [d] =>
        let dev := devAt m d
        let sp := spareFor s dev
        if sp = 0xFFFF ∨ x.ring = 5 ∨ isBell x ∨ m.ckptPhases = 0 then failRun c d s
        else
          let s := updMd c (fun m => { m with collectFrom := none, claimed := true }) (sendCtrl sp (ctClaim m.runId d x.ring dev) s)
          (liveHolders s dev).foldl (fun s h => sendMsg h 3 0 (runMsg m.runId mkQuery dev []) s) s
      | l => failRun c (l.headD 0) s

/-- LOST_COLLECT_END (R366): the coordinator's 100 µs are over. -/
def execLostCollectEnd (c : Nat) (s : State) : Host.Outcome State Fault Refusal :=
  actCfe (decide (c < 4096))
    (ctxIs s c fun x => inRun x && (match x.md with
      | some m => m.failover.isNone && (match m.collectFrom with | some t => decide (t + 100000 ≤ s.now) | none => false)
      | none => false)) s (collectEnd c s)

/-- A claim no longer counts: FAILOVER has not named it within the barrier timeout after its probe, so its run is over (DEDUCED, log
entry 36). -/
def claimStale (s : State) (k : Claim) : Bool := k.ckpt.isNone && decide (k.probedAt + reg s pgCfe 0x100 * 1000 ≤ s.now)

/-- A spare holds no invocation, and has served no fail-over (R367, R372). -/
def spareIdle (s : State) : Bool := !s.net.spareUsed && s.net.claim.all (claimStale s) && !(s.ctxs.any fun x => isInvocation x)

/-- The claim has failed: its sender learns it. -/
def claimFails (src runId d : Nat) (s : State) : State := sendCtrl src (ctFailover runId d 0xFFFF 0) (updNet (fun n => { n with claim := none }) s)

/-- A spare takes a claim and probes the lost device over its bypass link, or refuses it. -/
def claimArrives (src dev runId d q : Nat) (s : State) : State :=
  if !spareIdle s || decide (q = 5) then sendCtrl src (ctFailover runId d 0xFFFF 0) s
  else
    let l := (findIdx (fun m => decide (m = dev)) (blockOf dev) 0).getD 0
    sendHop l (ctProbe runId) (updNet (fun n => { n with claim := some ⟨runId, d, q, dev, s.now, src, false, none, 0, none, 0, [], []⟩ }) s)

/-- CLAIM (R367): a spare receives CLAIM and probes the lost device. -/
def execClaim (src dev runId lostPos queue : Nat) (s : State) : Host.Outcome State Fault Refusal :=
  actCfe true (decide (s.sysmap.role = 1)) s (claimArrives src dev runId lostPos queue s)

/-- The device still holds a run, or answers as if it did after an abort (R367, R448). -/
def holdsRun (s : State) (runId : Nat) : Bool :=
  (runCtx s runId).isSome || s.net.aborted.any fun a => decide (a.1 = runId) && decide (s.now < a.2)

/-- PROBE (R367): answered with the in-run flag. -/
def execProbe (link runId : Nat) (s : State) : Host.Outcome State Fault Refusal :=
  actCfe (decide (link < 16)) (linkUp s link) s (sendHop link (ctProbeReply runId (holdsRun s runId)) s)

/-- A claim that waits for a run. -/
def claimOf (s : State) (runId : Nat) : Option Claim :=
  match s.net.claim with | some k => if k.runId = runId then some k else none | none => none

/-- A claim is open: no outcome yet. -/
def claimOpen (s : State) (runId : Nat) : Bool := match claimOf s runId with | some k => !k.won | none => false

/-- A reply to a probe: with the flag set, within 100 µs of the probe, the claim fails. -/
def probeReplied (runId : Nat) (inRun : Bool) (s : State) : State :=
  match claimOf s runId with
  | some k => if inRun ∧ s.now ≤ k.probedAt + 100000 then claimFails k.from_ runId k.lostPos s else s
  | none => s

/-- PROBE_REPLY (R367): the in-run flag fails the claim. -/
def execProbeReply (runId : Nat) (inRun : Bool) (s : State) : Host.Outcome State Fault Refusal :=
  actCfe true (claimOpen s runId) s (probeReplied runId inRun s)

/-- The claim has succeeded: the coordinator learns it. -/
def claimWon (runId : Nat) (s : State) : State :=
  match claimOf s runId with
  | none => s
  | some k =>
    sendCtrl k.from_ (ctFailover runId k.lostPos (selfId s) 0)
      (updNet (fun n => { n with claim := some { k with won := true } }) s)

/-- PROBE_TIMEOUT (R367): no in-run reply within 100 µs, and the claim proceeds. -/
def execProbeTimeout (runId : Nat) (s : State) : Host.Outcome State Fault Refusal :=
  actCfe true (claimOpen s runId && (match claimOf s runId with | some k => decide (k.probedAt + 100000 ≤ s.now) | none => false)) s
    (claimWon runId s)

/-! ## FAILOVER (R368, R369) -/

/-- Drops what has arrived of a run. -/
def dropRunMsgs (runId : Nat) (s : State) : State :=
  updNet (fun n => { n with inbox := n.inbox.filter fun i => !((decide (i.cls = 1)) && decide (leAt i.data 0 8 = runId)) }) s

/-- The Slate, exchange-window and accumulator contents that an invocation has on an engine are discarded (R365): they read as after
reset (DESIGN CHOICE, log entry 36). -/
def clearEngine (x : Ctx) (s : State) (e : Nat) : State :=
  let us := sramUses s x e
  let rs := (us.map fun r => (slateBase e + (slatePart r).1, (slatePart r).2)) ++ us.map fun r => (xwinBase e + (xwinPart r).1, (xwinPart r).2)
  let clear (r : Nat × Nat) (s : State) : State :=
    { s with mem := spClear r.1 r.2 s.mem, marks := spClear r.1 r.2 s.marks, partials := spClear r.1 r.2 s.partials }
  let clearAcc (r : Nat × Nat) (s : State) : State :=
    { s with acc := spClear (accKey e r.1) r.2 s.acc, marks := spClear (accKey e r.1) r.2 s.marks }
  let s := (accUses s x e).foldl (fun s r => clearAcc r s) (rs.foldl (fun s r => clear r s) s)
  { s with slots := spClear (128 * e) 128 s.slots, tiles := spClear e 1 s.tiles }

/-- A pipelined run of a surviving device goes back to its first instruction, with nothing of the first attempt (R365). -/
def startAgain (c : Nat) (x : Ctx) (s : State) : State := (ctxEngines s x).foldl (clearEngine x) (restart c s)

/-- A surviving device takes a fail-over: position `d` is the spare from now on, flits of the lost device are discarded, and the
run waits for the restore. A pipelined run starts again from its first instruction. -/
def takeFailover (c d sp k : Nat) (s : State) : State :=
  match ctxOf s c with
  | none => s
  | some x =>
    match x.md with
    | none => s
    | some m =>
      let old := devAt m d
      let s := updMd c (fun m => { m with devices := updAt m.devices d (fun _ => sp), failover := some (d, sp, k), lost := none, notices := [], starts := [],
                                          startSent := false, remote := [], epochs := [], ups := [], combines := [], combBase := 2 ^ 32 * (d + 1), shareSent := false,
                                          barrier := 0, waitingOn := [], collectFrom := some s.now, claimed := false,
                                          fails := m.fails + 1 }) s
      let s := updNet (fun n => { n with discard := (old, m.runId) :: n.discard, spares := (sp, old) :: n.spares }) (dropRunMsgs m.runId s)
      let s := recAdd c 7 1 s
      if m.mode = 3 then startAgain c x s else s

/-- A FAILOVER at a device of the run: with no spare, or at the lost device itself, the run is over (R366, R369). -/
def failoverArrives (c d sp k : Nat) (s : State) : State :=
  if sp = 0xFFFF ∨ (ctxIs s c fun x => decide (ctxPosition x = d)) then runLost c d s else takeFailover c d sp k s

/-- The answer of a holder: which checkpoints of the lost device it holds whole, 0 for the start of the run. -/
def haveOf (s : State) (runId h dev : Nat) : Option (List Nat) :=
  (s.net.inbox.find? fun i => decide (i.src = h) && decide (i.cls = 3) && decide (leAt i.data 0 8 = runId) &&
    decide (leAt i.data 8 1 = mkHave) && decide (leAt i.data 9 8 = dev)).map fun i => (decNats (i.data.drop 17)).1

/-- The spare's answer to CLAIM has come. -/
def claimAnswered (s : State) (sp runId : Nat) : Bool :=
  s.net.inbox.any fun i => decide (i.src = sp) && decide (i.cls = 0) && decide (leAt i.data 0 1 = 9) && decide (leAt i.data 1 8 = runId)

/-- The latest checkpoint that every holder of the lost device holds whole. -/
def commonCkpt (hs : List (List Nat)) : Option Nat :=
  match hs with
  | [] => none
  | h :: t => (h.filter fun k => t.all fun l => l.contains k).foldl (fun b k => match b with | none => some k | some j => some (max j k)) none

/-- Once the spare and every holder have answered, FAILOVER goes to every position; the spare also gets the run's devices. -/
def tryFailover (c : Nat) (s : State) : State :=
  match ctxOf s c with
  | none => s
  | some x =>
    match x.md with
    | none => s
    | some m =>
      match m.notices, m.collectFrom with
      | [d], none =>
        let dev := devAt m d
        let sp := spareFor s dev
        let hs := (liveHolders s dev).map fun h => haveOf s m.runId h dev
        if !m.claimed || !claimAnswered s sp m.runId || hs.any (·.isNone) || m.failover.isSome then s
        else match commonCkpt (hs.map fun h => h.getD []) with
          | none => failRun c d (sendCtrl sp (ctFailover m.runId d 0xFFFF 0) s)
          | some k =>
            let k := if m.mode = 3 then 0 else k
            let s := (others m).foldl (fun s q => sendCtrl (devAt m q) (ctFailover m.runId d sp k) s) s
            let s := sendMsg sp 3 0 (runMsg m.runId mkDevices d (encNats ((m.fails + 1) :: m.devices))) s
            failoverArrives c d sp k (sendCtrl sp (ctFailover m.runId d sp k) s)
      | _, _ => s

/-- The coordinator of a loss receives the spare's answer. -/
def claimAnswer (c src runId d sp : Nat) (s : State) : State :=
  if sp = 0xFFFF then failRun c d s
  else tryFailover c (updNet (fun n => { n with inbox := n.inbox ++ [⟨src, 0, 0, ctFailover runId d sp 0, none⟩] }) s)

/-- The spare learns the checkpoint, discards what the lost device still sends, and asks the holders for the mirror; without a spare in
the notice, its claim is over. -/
def spareFailover (runId sp k : Nat) (s : State) : State :=
  match claimOf s runId with
  | none => s
  | some q =>
    if sp ≠ selfId s then updNet (fun n => { n with claim := none }) s
    else
      let s := updNet (fun n => { n with claim := some { q with ckpt := some k, failAt := s.now }, discard := (q.dev, runId) :: n.discard }) s
      (holdersOf s q.dev).foldl (fun s h => sendMsg h 3 0 (runMsg runId mkFetch q.dev (leBytes 4 k)) s) s

/-- A FAILOVER notice from `src`; a spare that gives up after it has been named ends the run. -/
def failoverNotice (src runId d sp k : Nat) (s : State) : State :=
  if s.sysmap.role = 1 ∧ (claimOf s runId).isSome then spareFailover runId sp k s
  else match runCtx s runId with
    | none => s
    | some x =>
      match x.md with
      | none => s
      | some m =>
        if m.failover.isSome then (if sp = 0xFFFF ∧ m.failover.any fun f => decide (f.2.1 = src) then runLost x.id d s else s)
        else if m.position = coordinator d ∧ src = spareFor s (devAt m d) then claimAnswer x.id src runId d sp s
        else failoverArrives x.id d sp k s

/-- FAILOVER (R368, R369): the lost position is rerouted to the spare, and the copy and the restore begin. -/
def execFailover (src runId lostPos spare ckpt : Nat) (s : State) : Host.Outcome State Fault Refusal :=
  actCfe true (decide (lostPos < 512)) s (failoverNotice src runId lostPos spare ckpt s)

/-! ## Mirror traffic (R363, R368, R372) -/

/-- The parts of a mirror that a spare copies: kind, place in the mirror area, length. -/
def mirrorParts (m : Mirror) (k : Nat) : List (Nat × Nat × Nat) :=
  [(mkImage, mirrorImg m, m.imgLen), (mkPackage, mirrorPkg m, m.pkgLen)] ++
    (m.ckpts.filter fun e => decide (e.1 = k)).map fun e => (mkCkpt, mirrorCk m k, e.2.1)

/-- Sends a part of a mirror to a spare as pieces. -/
def sendPart (dst runId : Nat) (s : State) (q : Nat × Nat × Nat) : State :=
  let b := spBytes s.mem q.2.1 q.2.2
  (List.range (ceilDiv b.length pieceLen)).foldl (fun s i =>
    sendMsg dst 3 0 (runMsg runId mkShare 0 (leBytes 1 q.1 ++ leBytes 8 (i * pieceLen) ++ leBytes 8 b.length ++
      (b.drop (i * pieceLen)).take pieceLen)) s) s

/-- A holder sends what it holds of a device's run, image share, package and checkpoint `k`; at the end how many pieces that was, and
whether every word of it had a good value. -/
def sendShare (dst dev runId k : Nat) (s : State) : State :=
  match mirrorOf s dev runId with
  | none => sendMsg dst 3 0 (runMsg runId mkFetchDone dev (leBytes 4 0 ++ leBytes 1 0)) s
  | some m =>
    let ps := mirrorParts m k
    let r := wordReads 0xFFFF (ps.map fun q => q.2) s
    let n := sumN (ps.map fun q => ceilDiv q.2.2 pieceLen)
    sendMsg dst 3 0 (runMsg runId mkFetchDone dev (leBytes 4 n ++ leBytes 1 (b2n r.1.isNone))) (ps.foldl (sendPart dst runId) r.2)

/-- A checkpoint has come whole. -/
def ckptWhole (e : Nat × Nat × Nat) : Bool := decide (e.2.1 = e.2.2)

/-- The checkpoints of a device's run that are held here whole, 0 for the start of a pipelined run, which has no others; none while what
is held of the device is rebuilt (R372). -/
def heldCkpts (s : State) (dev runId : Nat) : List Nat :=
  match mirrorOf s dev runId with
  | none => []
  | some m =>
    if (s.net.rebuilding.all fun e => decide (e.1 ≠ dev)) ∧ m.gotImg = m.imgLen ∧ m.gotPkg = m.pkgLen then (m.ckpts.filter ckptWhole).map (·.1) ++ (if m.ckLen = 0 then [0] else []) else []

/-- A piece that a spare has asked for, or a holder's last word. -/
def sparePiece (i : InMsg) (s : State) : State :=
  let kind := leAt i.data 8 1
  let b := i.data.drop 17
  let upd (f : Claim → Claim) : State := updNet (fun n => { n with claim := n.claim.map f }) s
  if kind = mkShare then upd fun k => { k with pieces := k.pieces ++ [⟨i.src, leAt b 0 1, leAt b 1 8, leAt b 9 8, b.drop 17⟩] }
  else if kind = mkFetchDone then upd fun k => { k with done := (i.src, leAt b 0 4, decide (leAt b 4 1 = 1)) :: k.done }
  else if kind = mkDevices then
    let l := (decNats b).1
    upd fun k => { k with fails := l.headD 0, devices := some l.tail }
  else s

/-- An invocation whose mirror this device keeps at its holders. -/
def mirrorKept (s : State) (x : Ctx) : Bool := isMulti x && x.status.isNone && x.md.any (keepsMirrors s)

/-- This device's own copies of what a holder is to hold of a run go to it (again) (R372, R537); while `PLOAD` is under way, it sends the
rest itself. -/
def sendMirrorTo (c h : Nat) (s : State) : State :=
  match ctxOf s c with
  | none => s
  | some x =>
    match x.md with
    | none => s
    | some m =>
      let hs := liveHolders s (selfId s)
      match findIdx (fun g => decide (g = h)) hs 0 with
      | none => s
      | some i =>
        let pkg := if i = 0 then m.package else []
        match x.anneal with
        | none => sendPieces m.runId h mkPackage 0 pkg (sendOffer m.runId h 0 pkg.length 0 s)
        | some a =>
          let r := engReads c 0 [(a.prob.imageAddr, a.prob.imageLen)] s
          if !r.1 then r.2
          else
            let img := imageShare r.2 a.prob hs.length i
            let s := sendOffer m.runId h img.length pkg.length (ckptMax a.prob a.ps) r.2
            if a.loading then s
            else
              let s := sendPieces m.runId h mkPackage 0 pkg (sendPieces m.runId h mkImage 0 img s)
              a.ckpts.foldl (fun s k => sendPieces m.runId h mkCkpt k.num (encCkpt k) s) s

/-- A holder asks for what it holds of this device: a spare that stands in for device `old` for every run, and learns which runs those are;
another holder for one run. -/
def sendAgain (src run old : Nat) (all : Bool) (s : State) : State :=
  let s := if all && !(s.net.spares.any fun e => decide (e.1 = src)) then updNet (fun n => { n with spares := (src, old) :: n.spares }) s else s
  let xs := s.ctxs.filter fun x => mirrorKept s x && (all || x.md.any fun m => decide (m.runId = run))
  let s := xs.foldl (fun s x => sendMirrorTo x.id src s) s
  if all then sendMsg src 3 0 (runMsg run mkAgain old (leBytes 1 1 ++ encNats (xs.filterMap fun x => x.md.map (·.runId)))) s else s

/-- A delivered class-3 message: a query or a fetch for a mirror held here, what a spare waits for, or a part of a mirror; true
where it was one. -/
def bulkMessage (i : InMsg) (s : State) : Bool × State :=
  let run := leAt i.data 0 8
  let kind := leAt i.data 8 1
  let num := leAt i.data 9 8
  if kind = mkQuery then (true, sendMsg i.src 3 0 (runMsg run mkHave num (encNats (heldCkpts s num run))) s)
  else if kind = mkFetch then (true, sendShare i.src num run (leAt i.data 17 4) s)
  else if kind = mkAgain ∧ leAt i.data 17 1 = 0 then (true, sendAgain i.src run num (decide (leAt i.data 18 1 = 1)) s)
  else if kind = mkAgain then
    (true, updNet (fun n => { n with rebuilding := n.rebuilding.map fun e => if e.1 = i.src then (e.1, some (decNats (i.data.drop 18)).1) else e }) s)
  else if kind = mkShare ∨ kind = mkFetchDone ∨ kind = mkDevices then (true, if (claimOf s run).any (·.won) then sparePiece i s else s)
  else mirrorMessage i s

/-! ## The spare's run (R364, R368 steps 6 to 8, R371) -/

/-- What a holder has sent of a kind, put together. -/
def gotPart (k : Claim) (h kind : Nat) : List Byte :=
  ((sortBy (fun (a b : Piece) => decide (a.off < b.off)) (k.pieces.filter fun p => decide (p.holder = h) && decide (p.kind = kind))).map (·.data)).flatten

/-- What the first holder that has it has sent of a kind. -/
def firstPart (s : State) (k : Claim) (kind : Nat) : List Byte :=
  (((holdersOf s k.dev).map fun h => gotPart k h kind).find? fun b => !b.isEmpty).getD []

/-- The run package of a claim's mirror. -/
def claimPackage (s : State) (k : Claim) : Package := decPackage (firstPart s k mkPackage)

/-- Every piece of the mirror is there, and the spare knows the run's devices. -/
def copyWhole (s : State) (k : Claim) : Bool :=
  k.devices.isSome && (holdersOf s k.dev).all fun h =>
    k.done.any fun d => decide (d.1 = h) && decide (d.2.1 = (k.pieces.filter fun p => decide (p.holder = h)).length)

/-- Every word that the holders read had a good value, and the package is among it. -/
def copyGood (s : State) (k : Claim) : Bool := k.done.all (fun d => d.2.2) && !(firstPart s k mkPackage).isEmpty

/-- The lowest free resident index. -/
def freeProgram (s : State) : Option Nat := (List.range 256).find? fun i => (progAt s i).isNone

/-- The spare's device address map holds what the package places, where the lost device's invocation reached it (R364, R517). -/
def mapHolds (s : State) (p : Package) : Bool := p.ranges.all fun r => decide (r.2.1 = 0) || mapOk s .dma r.1 r.2.1

/-- The context of the lost position's invocation on the spare. -/
def spareCtx (s : State) (k : Claim) (p : Package) (idx : Nat) : Ctx :=
  let d := splice p.desc 0x01 (leBytes 1 idx)
  let x := newCtx s k.queue true 0xFFFF (.spare k.lostPos) d
  let ds := k.devices.getD []
  let md : MdRun := { newRun s x with runId := k.runId, position := k.lostPos, devices := updAt ds k.lostPos (fun _ => selfId s),
                                      mode := imgMode p.image, timeoutUs := p.timeoutUs, ckptPhases := p.ckptPhases,
                                      heard := List.replicate ds.length s.now, failover := some (k.lostPos, selfId s, k.ckpt.getD 0),
                                      combBase := 2 ^ 32 * (k.lostPos + 1), fails := k.fails, package := firstPart s k mkPackage }
  { x with
    life := .running, ran := true, argsRead := true, signals := (List.range (dNSignal x)).map (readSignal p.args)
    inputs := (List.range (dNInput x)).map (readInput p.args), tStart := s.now, tSlice := s.now, seed := p.seed, seeded := true
    inputsIn := true, inputDigest := p.digest, inDigests := p.inDigests, budget := p.budget, budgetNom := p.budget, recs := updAt x.recs 7 fun _ => k.fails
    curs := if imgMode p.image = 3 then (progEngines p.image).map (startCur p.image) else p.curs, stages := List.replicate (imgStages p.image + 1) stageZero, md := some md }

/-- The `PLOAD` that the engines of an invocation stand at: of the stage whose anneal the mirror is of. -/
def ploadAt (s : State) (x : Ctx) : Option PloadOp :=
  (mainEngines (ctxImage s x)).findSome? fun e => match (curInstr s x e).map (fun (i : EngInstr) => i.op) with | some (.pload o) => some o | _ => none

/-- The spare's run stands as its checkpoint says: the problem is placed, the replicas restored. -/
def spareRun (c : Nat) (x : Ctx) (o : PloadOp) (k : Ckpt) (q : Prob) (s : State) : State :=
  restoreRun c k (updCtx c (fun x' => { x' with anneal := some { loadingRun s x o q k.spins k.resid 0 with ckpts := [k] } })
    ((homeEngines q).foldl (placeEngine q) s))

/-- The image of the mirror is written where the program has it. -/
def spareImage (k : Claim) (o : PloadOp) (s : State) : State :=
  memWrite (64 * o.da) (imageOf ((holdersOf s k.dev).map fun h => gotPart k h mkImage)) s

/-- The spare's run from the problem that its image loads; `none` on a mismatch. -/
def spareLoaded (c : Nat) (k : Claim) (p : Package) (x : Ctx) (o : PloadOp) (r : Except Loc Prob) (s : State) : Option State :=
  match r with
  | .error _ => none
  | .ok q =>
    let b := firstPart s k mkCkpt
    if q.digest ≠ p.coeff ∨ b.isEmpty then none
    else some (spareRun c x o (decCkpt b) { q with satPossible := decide (nth (decCkpt b).stats stSatPossible 0 = 1) } s)

/-- The mirror's image is written and its problem loaded. -/
def spareTake (c : Nat) (k : Claim) (p : Package) (o : PloadOp) (s : State) : Option State :=
  match ctxOf s c with
  | none => none
  | some x => spareLoaded c k p x o (ploadCheck s x o) s

/-- Loads the problem of a spanned or farmed run as `PLOAD` does and restores the checkpoint; `none` on a mismatch. -/
def spareLoad (c : Nat) (k : Claim) (p : Package) (s : State) : Option State :=
  match (ctxOf s c).bind (ploadAt s) with
  | none => none
  | some o => spareTake c k p o (spareImage k o s)

/-- The spare cannot take the position: every device of the run completes with `PEER_LOST`. -/
def spareRefuses (k : Claim) (s : State) : State :=
  let s := updNet (fun n => { n with claim := none }) s
  let ds := k.devices.getD []
  ((List.range ds.length).filter fun q => decide (q ≠ k.lostPos)).foldl (fun s q =>
    sendCtrl (nth ds q 0xFFFF) (ctFailover k.runId k.lostPos 0xFFFF 0) s) s

/-- The mirrors that the lost device held for its neighbours are to be rebuilt, from their own copies (R372). -/
def startRebuild (k : Claim) (s : State) : State :=
  (holdersOf s k.dev).foldl (fun s n => askAgain n k.runId k.dev true s)
    (updNet (fun n => { n with claim := none, spareUsed := true, rebuilding := (holdersOf s k.dev).map fun d => (d, none) }) s)

/-- The spare of a pipelined run has no record of delivered messages of it (R365). -/
def spareCleared (c : Nat) (s : State) : State :=
  match (ctxOf s c).bind (·.md) with
  | some m => if m.mode = 3 then clearDelivered m (clearFrames m s) else s
  | none => s

/-- The spare installs the package, loads the problem, restores the checkpoint, and sends START. -/
def spareInstall (c : Nat) (k : Claim) (s : State) : State :=
  let p := claimPackage s k
  match freeProgram s with
  | none => spareRefuses k s
  | some i =>
    if !copyGood s k || !mapHolds s p || decide (treeDigest p.image ≠ p.program) then spareRefuses k s
    else
      let ms := masterPlaces s p.image
      let s1 := placeConstants p.image ms { s with progs := s.progs ++ [⟨i, p.image, treeDigest p.image, false, ms⟩] }
      let s1 := placeRanges p.ranges s1
      let s1 := { s1 with ctxs := s1.ctxs ++ [spareCtx s1 k p i], order := s1.order + 1 }
      let r := if imgMode p.image = 3 then some s1 else spareLoad c k p s1
      match r with
      | none => spareRefuses k s
      | some t => sendStarts c (spareCleared c (startRebuild k t))

/-- A surviving device restores the checkpoint and sends START; in a pipelined run 1 ms after FAILOVER, with its inputs moved again and
its record of delivered messages cleared (R365). -/
def survivorRestore (c : Nat) (s : State) : State :=
  match (ctxOf s c).bind (·.md) with
  | none => s
  | some m =>
    match m.failover with
    | none => s
    | some (d, _, k) =>
      if m.mode = 3 then sendStarts c (clearDelivered m (clearFrames m s))
      else match ((ctxOf s c).bind (·.anneal)).bind fun a => a.ckpts.find? fun e => decide (e.num = k) with
        | none => runLost c d s
        | some q => sendStarts c (restoreRun c q s)

/-- A surviving device may restore. -/
def restoreDue (s : State) (x : Ctx) : Bool :=
  match x.md with
  | some m => inRun x && m.failover.isSome && !m.startSent &&
      (decide (m.mode ≠ 3) || (x.inputsIn && decide (m.collectFrom.getD 0 + 1000000 ≤ s.now)))
  | none => false

/-- In a pipelined run 1 ms has passed since FAILOVER reached the spare (R365). -/
def spareWaited (s : State) (k : Claim) : Bool := decide (imgMode (claimPackage s k).image ≠ 3) || decide (k.failAt + 1000000 ≤ s.now)

/-- A spare may install: its claim has been named in FAILOVER, the copy is whole, and `c` is the context it takes. -/
def installDue (s : State) (c : Nat) : Bool :=
  match s.net.claim with
  | some k => k.ckpt.isSome && copyWhole s k && spareWaited s k && decide (c = freeId s) && (contextFor s k.queue).isSome
  | none => false

/-- FAILOVER_COPY_DONE (R368): the spare has copied the mirror, installed the run package and restored the checkpoint; a surviving
device has restored it. START follows. -/
def execFailoverCopyDone (c : Nat) (s : State) : Host.Outcome State Fault Refusal :=
  actCfe (decide (c < 4096)) (installDue s c || ctxIs s c (restoreDue s)) s
    (if installDue s c then (match s.net.claim with | some k => spareInstall c k s | none => s) else survivorRestore c s)

/-- A mirror is whole. -/
def mirrorWhole (m : Mirror) : Bool :=
  decide (m.gotImg = m.imgLen) && decide (m.gotPkg = m.pkgLen) && m.ckpts.all ckptWhole && (decide (m.ckLen = 0) || !m.ckpts.isEmpty)

/-- The mirrors that a neighbour has sent to a spare are whole (R372). -/
def rebuildDue (s : State) (dev : Nat) : Bool :=
  s.net.rebuilding.any fun e => decide (e.1 = dev) && e.2.any fun rs => rs.all fun run => (mirrorOf s dev run).any mirrorWhole

/-- The rebuild of a neighbour's mirrors is over. -/
def rebuildOver (dev : Nat) (s : State) : State :=
  updNet (fun n => { n with rebuilding := n.rebuilding.filter fun e => decide (e.1 ≠ dev) }) s

/-- MIRROR_REBUILD_DONE (R372): the background rebuild of a neighbour's mirror completes. -/
def execMirrorRebuildDone (dev : Nat) (s : State) : Host.Outcome State Fault Refusal :=
  actCfe true (rebuildDue s dev) s (rebuildOver dev s)

end Sys2Proof.Machine
end

