-- ==== Sys2Proof/Machine/Flits.lean ====
section
/-!
DEFINITION. The link layer of Reltan (R329 to R337, R343, R375 to R377): sending and receiving flits, replay, training, link-down,
delivery of messages and their acknowledgement. The readings are in log entry 37.
-/
namespace Sys2Proof.Machine

/-! ## What a run counts (R410) -/

/-- Counts a recovery in every multi-device run that a device takes part in. -/
def recRuns (dst i : Nat) (s : State) : State :=
  (s.ctxs.filter fun x => inRun x && (match x.md with | some m => m.devices.contains dst | none => false)).foldl
    (fun s x => recAdd x.id i 1 s) s

/-- Counts a recovery once in every run that one of several devices takes part in. -/
def recRunsOf (ds : List Nat) (i : Nat) (s : State) : State :=
  (s.ctxs.filter fun x => inRun x && (match x.md with | some m => ds.any m.devices.contains | none => false)).foldl
    (fun s x => recAdd x.id i 1 s) s

/-! ## Sending (R326 to R329, R337) -/

/-- A flit of hop scope (R338). -/
def isHop (f : QFlit) : Bool := decide (f.typ = 3) && [1, 7, 8, 11].contains (leAt f.data 0 1)

/-- The credit counter of a class and a virtual lane. -/
def crdIx (cls vl : Nat) : Nat := 2 * cls + vl % 2

/-- The first waiting flit of a class that has a credit; in VERIFY only plain flits are sent. -/
def firstOf (k : Link) (c : Nat) : Option Nat :=
  findIdx (fun f => decide (f.cls = c) && decide (0 < nth k.credits (crdIx f.cls f.vl) 0) && (decide (k.st = 3) || isPlain f)) k.queue 0

/-- How many others may go before a class-3 flit that waits: 15, and one less where a REKEY is to follow (R337, R376). -/
def bulkTurn (k : Link) : Nat := if 2 ^ 32 ≤ k.txCount + 1 then 14 else 15

/-- The flit that a link sends next: classes in the order 0 to 3, class 3 first once 15 others have gone before it (R337). -/
def nextFlit (k : Link) : Option Nat :=
  if 2048 ≤ k.replay.length then none
  else (if bulkTurn k ≤ k.sinceBulk then [3, 0, 1, 2] else [0, 1, 2, 3]).findSome? (firstOf k)

/-- An IDLE flit, which carries ACK, NAK and credits only (R328). -/
def idleFlit (s : State) (l : Nat) : QFlit := ⟨0, 0, 0, false, reg s (pgLink l) 0x048 % 512, selfId s, 0, 0, [], none⟩

/-- The class and lane whose credits go back next, and how many (at most 127). -/
def credBack (k : Link) : Nat × Nat :=
  match findIdx (fun n => decide (0 < n)) k.freed 0 with
  | some i => (i, min 127 (nth k.freed i 0))
  | none => (0, 0)

/-- A flit joins the stream of a link; where 5,140 bits are there, the next codeword leaves on the lanes (R324). -/
def packFlit (l : Nat) (b : List Byte) (s : State) : State :=
  let bits := (linkOf s l).txBits ++ byteBits b
  if 5140 ≤ bits.length then
    updLink l (fun k => { k with txBits := bits.drop 5140 }) (emit (.codeword l (toLanes (rsEncode (bitSymbols (bits.take 5140))))) s)
  else updLink l (fun k => { k with txBits := bits }) s

/-- Sends a flit over a link, with the acknowledgement, NAK and credits that it owes. -/
def transmit (l : Nat) (f : QFlit) (seq : Nat) (s : State) : State :=
  let k := linkOf s l
  let c := credBack k
  let b := flitBytes s l f seq ((k.rxSeq + 4095) % 4096) k.nak (c.1 / 2) (c.1 % 2) c.2
  updLink l (fun k => { k with nak := false, rxCount := 0, rxFirst := none, freed := updAt k.freed c.1 (fun n => n - c.2), txCount := k.txCount + 1 })
    (packFlit l b (emit (.flit l b) s))

/-- The last flit of a message of this device has left: its 300 µs begin (R336). -/
def noteLast (f : QFlit) (s : State) : State :=
  if f.src = selfId s ∧ 2 ≤ f.typ then
    updNet (fun n => { n with out := n.out.map fun o =>
      if o.dst = f.dst ∧ o.cls = f.cls ∧ o.msg = f.msg then { o with sentAt := s.now } else o }) s
  else s

/-- Sends a flit under the next sequence number and keeps it for replay; the flit counter starts at 0 after the announcement of the
initial epoch (R574). -/
def sendNew (l : Nat) (f : QFlit) (s : State) : State :=
  let k := linkOf s l
  let first := isPlain f && decide (leAt f.data 0 1 = 11)
  noteLast f (updLink l (fun k => { k with
    txCount := if first then 0 else k.txCount, txSeq := (k.txSeq + 1) % 4096, credits := updAt k.credits (crdIx f.cls f.vl) (fun n => n - 1),
    replay := k.replay ++ [⟨k.txSeq, { f with inp := none }, s.now, s.now, 0⟩] }) (transmit l f k.txSeq s))

/-- A REKEY may be sent: a sequenced flit needs room in the replay buffer and a credit (R329, R337). Until then IDLE flits go on under
the counter, which has 64 bits (log entry 37). -/
def rekeyNow (k : Link) : Bool := decide (k.replay.length < 2048) && decide (0 < nth k.credits (crdIx 0 0) 0)

/-- At 2³² flits the sender sends REKEY and goes on with the key of the next epoch (R376). -/
def sendRekey (l : Nat) (s : State) : State :=
  let k := linkOf s l
  let f : QFlit := ⟨3, 0, 0, false, reg s (pgLink l) 0x048 % 512, selfId s, 1, 0, ctRekey ((k.txEpoch + 1) % 2 ^ 32), none⟩
  let wait := k.queue.any fun f => decide (f.cls = 3)
  updLink l (fun k => { k with txEpoch := (k.txEpoch + 1) % 2 ^ 32, txCount := 0, sinceBulk := if wait then k.sinceBulk + 1 else 0 }) (sendNew l f s)

/-- A transaction on a link's page, or a group that it belongs to, waits for the replay buffer: no new flit is taken (R645, R647). -/
def linkQuiet (s : State) (l : Nat) : Bool :=
  let t := txnOf s (pgLink l)
  decide (t.st = .pending) || (decide (t.st = .grouped) && decide (s.group.st = .pending))

/-- What a link sends now. -/
def sendNext (l : Nat) (s : State) : State :=
  let k := linkOf s l
  if linkQuiet s l then (if k.st = 3 then transmit l (idleFlit s l) 0 s else s)
  else if cipherOn s l ∧ 2 ^ 32 ≤ k.txCount then (if rekeyNow k then sendRekey l s else transmit l (idleFlit s l) 0 s)
  else match nextFlit k with
    | none => if k.st = 3 then transmit l (idleFlit s l) 0 s else s
    | some i =>
      let f := nth k.queue i (idleFlit s l)
      let wait := (k.queue.eraseIdx i).any fun f => decide (f.cls = 3)
      sendNew l f (freeBuf f.inp (updLink l (fun k => { k with
        queue := k.queue.eraseIdx i, sinceBulk := if f.cls = 3 then 0 else if wait then k.sinceBulk + 1 else 0 }) s))

/-- Replays everything that is not acknowledged (R330). -/
def resendAll (l : Nat) (s : State) : State :=
  (linkOf s l).replay.foldl (fun s e =>
    recRuns e.q.dst 5 (bump (pgLink l) 0x068 (updLink l (fun k => { k with
      replay := k.replay.map fun r => if r.seq = e.seq then { r with sentAt := s.now, tries := r.tries + 1 } else r })
      (transmit l e.q e.seq s)))) s

/-! ## Link-down (R330, R333) -/

/-- The flits of a queue that came in over a link no longer take its buffers. -/
def unbuffer (l : Nat) (k : Link) : Link :=
  let f (q : QFlit) : QFlit := if q.inp.map (·.1) = some l then { q with inp := none } else q
  { k with queue := k.queue.map f }

/-- A link with nothing in flight, in a state with a cause; flits that wait in its input stay there. -/
def linkFresh (k : Link) (st cause downAt now : Nat) : Link :=
  { linkReset with st := st, cause := cause, peerLink := k.peerLink, since := now, downAt := downAt,
                   held := k.held.map fun f => { f with inp := none } }

/-- A link leaves for a state: its replay buffer and its queue go by other routes (R333). -/
def linkLeaves (l st cause downAt : Nat) (s : State) : State :=
  let k := linkOf s l
  let fs := (k.replay.map (·.q) ++ k.queue).filter fun f => !isHop f
  let s := updLink l (fun k => linkFresh k st cause downAt s.now) { s with links := s.links.map (unbuffer l) }
  let fs := fs.map fun f => if f.inp.map (·.1) = some l then { f with inp := none } else f
  let s := fs.foldl (fun s f => routeFlit f (outVia l) s) s
  if k.st = 3 ∧ !fs.isEmpty then recRunsOf (fs.map (·.dst)) 6 s else s

/-- A link goes down: counted, rerouted, and trained again in 100 ms (R332). -/
def linkDown (l cause : Nat) (s : State) : State :=
  bump (pgLink l) oErrUe (bump (pgLink l) 0x06C (linkLeaves l 0 cause (s.now + 100000000) s))

/-- A flit that is not acknowledged was first sent 20 µs ago. -/
def replayOld (s : State) (l : Nat) : Bool := linkUp s l && (linkOf s l).replay.any fun e => decide (e.firstAt + 20000 ≤ s.now)

/-- The oldest unacknowledged flit of a link has waited 2.2 µs, or was first sent 20 µs ago. -/
def replayDue (s : State) (l : Nat) : Bool := replayOld s l || (linkOf s l).replay.any fun e => decide (e.sentAt + 2200 ≤ s.now)

/-- A link that is UP: eight retransmissions have failed, or 20 µs have passed since the first transmission. -/
def replayOut (s : State) (l : Nat) : Bool :=
  replayOld s l || (linkUp s l && (linkOf s l).replay.any fun e => decide (8 ≤ e.tries) && decide (e.sentAt + 2200 ≤ s.now))

/-- A NAK: a replay from the named flit, unless a flit has been sent eight times again, whose 2.2 µs then run on, or is 20 µs old. -/
def nakArrives (l : Nat) (s : State) : State :=
  if replayOld s l then linkDown l 5 s
  else if (linkOf s l).replay.any fun e => decide (8 ≤ e.tries) then s
  else resendAll l s

/-- REPLAY_TIMEOUT (R330): the unacknowledged flits are replayed, or the link goes down. -/
def execReplayTimeout (l : Nat) (s : State) : Host.Outcome State Fault Refusal :=
  act (decide (l < 16)) (replayDue s l) s (if replayOut s l then linkDown l 5 s else resendAll l s)

/-- LANE_LOCK_LOSS (R330): the link goes down at once. -/
def execLaneLockLoss (l : Nat) (s : State) : Host.Outcome State Fault Refusal :=
  act (decide (l < 16)) (decide ((linkOf s l).st = 2) || decide ((linkOf s l).st = 3)) s (linkDown l 0 s)

/-! ## Training (R332, R343, R377, R379) -/

/-- LINK_CFG.ENABLE and CIPHER in force. -/
def linkEnabled (s : State) (l : Nat) : Bool := (reg s (pgLink l) 0x040).testBit 0
def linkCipher (s : State) (l : Nat) : Bool := (reg s (pgLink l) 0x040).testBit 1

/-- A cipher-flagged link of a device without a link key (R377). -/
def lacksKey (s : State) (l : Nat) : Bool := linkCipher s l && s.sec.linkKey.isNone

/-- Puts a link in FAILED with a cause. -/
def linkFails (l cause : Nat) (s : State) : State := updLink l (fun k => linkFresh k 4 cause 0 s.now) s

/-- The initial epoch of a link's transmit direction (R574). -/
def setEpoch (l : Nat) (b : List Byte) (s : State) : State := updLink l (fun k => { k with txEpoch := leNat b }) s

/-- Draws the initial epoch of a cipher-flagged link from instance L, or asks for it. -/
def drawEpoch (l : Nat) (s : State) : State :=
  if canServe s instL then let (b, s) := drbgTake instL 4 s; setEpoch l b s else askDrbg instL 4 l s

/-- Training begins. -/
def beginTraining (l : Nat) (s : State) : State :=
  let s := updLink l (fun k => linkFresh k 1 0 0 s.now) s
  if linkCipher s l then drawEpoch l s else s

/-- LINK_TRAIN_START (R332): an enabled DOWN link begins training; a cipher-flagged one draws its epoch (R574), and without a key
it fails (R377). -/
def execLinkTrainStart (l : Nat) (s : State) : Host.Outcome State Fault Refusal :=
  act (decide (l < 16)) (decide ((linkOf s l).st = 0) && linkEnabled s l && decide ((linkOf s l).downAt ≤ s.now)) s
    (if lacksKey s l then linkFails l 4 s else beginTraining l s)

/-- The initial epoch of a link is still awaited. -/
def epochWaits (s : State) (l : Nat) : Bool := s.ent.reqs.any fun r => decide (r.purpose = 4) && decide (r.ctx = l)

/-- In VERIFY the initial epoch is announced, then DISCOVER goes out. -/
def beginVerify (l : Nat) (s : State) : State :=
  let s := updLink l (fun k => { k with st := 2, since := s.now }) s
  sendHop l (ctDiscover s l) (if linkCipher s l then sendHop l (ctRekey (linkOf s l).txEpoch) s else s)

/-- LINK_TRAIN_LOCK (R332): training locks, and the link enters VERIFY. -/
def execLinkTrainLock (l : Nat) (s : State) : Host.Outcome State Fault Refusal :=
  act (decide (l < 16)) (decide ((linkOf s l).st = 1) && !epochWaits s l) s (beginVerify l s)

/-- 1 ms of VERIFY is over without a matching DISCOVER: the link is FAILED (R332). Which cause it then reads no rule says: a free value
of the causes of R380 (log entry 37). -/
def verifyFails (l : Nat) (s : State) : State := let (n, s) := freshNat s; linkFails l (n % 7) s

/-- LINK_TRAIN_FAIL (R332): training fails, within its 20 ms, and the link goes DOWN; or 1 ms of VERIFY is over. -/
def execLinkTrainFail (l : Nat) (s : State) : Host.Outcome State Fault Refusal :=
  let k := linkOf s l
  act (decide (l < 16)) (decide (k.st = 1) || (decide (k.st = 2) && decide (k.since + 1000000 ≤ s.now))) s
    (if k.st = 1 then updLink l (fun k => linkFresh k 0 2 (s.now + 100000000) s.now) s else verifyFails l s)

/-- The system map's entry of a link: peer, peer's link, flags. -/
def mapLink (s : State) (l : Nat) : Nat × Nat × Nat := nth s.sysmap.links l (0xFFFF, 0, 0)

/-- Why a peer's DISCOVER fails a link: 3 MISWIRED, 4 CIPHER; 0 where it matches (R343, R377). -/
def discoverFails (s : State) (l : Nat) (b : DiscoverBody) : Nat :=
  let e := mapLink s l
  if b.id ≠ e.1 ∨ b.link ≠ e.2.1 ∨ b.dims ≠ s.sysmap.dims then 3
  else if b.cipher ≠ linkCipher s l || lacksKey s l then 4
  else if b.sysFlags ≠ s.sysmap.flags then 3
  else 0

/-- A link is UP; what it still has to be acknowledged starts its times again. -/
def linkUpNow (now : Nat) (k : Link) : Link :=
  { k with st := 3, cause := 0, since := now, replay := k.replay.map fun e => { e with sentAt := now, firstAt := now, tries := 0 } }

/-- A DISCOVER flit has arrived: the registers take what it says, and the link is UP or FAILED. -/
def discoverArrives (l : Nat) (b : DiscoverBody) (s : State) : State :=
  let e := discoverFails s l b
  let s := setWide (pgLink l) 0x050 b.serial (setReg (pgLink l) 0x048 b.id (updLink l (fun k => { k with peerLink := b.link % 16 }) s))
  if e ≠ 0 then linkFails l e s
  else updNet (fun n => { n with unreachable := [] }) (updLink l (linkUpNow s.now) s)

/-- DISCOVER (R343): checked against the system map. -/
def execDiscover (l : Nat) (b : DiscoverBody) (s : State) : Host.Outcome State Fault Refusal :=
  act (decide (l < 16)) (decide ((linkOf s l).st = 2)) s (discoverArrives l b s)

/-- The body of a DISCOVER flit. -/
def decDiscover (d : List Byte) : DiscoverBody :=
  { id := leAt d 1 2, serial := leAt d 3 8, link := leAt d 11 1, role := leAt d 12 1,
    dims := [leAt d 13 1, leAt d 14 1, leAt d 15 1], cipher := decide (leAt d 16 1 = 1), sysFlags := leAt d 17 1 }

/-- REKEY has arrived: the receive direction goes on with the key of the next epoch. -/
def rekeyArrives (l e : Nat) (s : State) : State := updLink l (fun k => { k with rxEpoch := e, rxCount64 := 0 }) s

/-- A REKEY that the link takes: the peer's initial epoch in VERIFY (R574), the next epoch when UP (R376). -/
def rekeyDue (s : State) (l e : Nat) : Bool :=
  (decide ((linkOf s l).st = 2) && decide (e < 2 ^ 32)) || (linkUp s l && decide (e = ((linkOf s l).rxEpoch + 1) % 2 ^ 32))

/-- REKEY (R376): the receive direction switches to the next epoch key. -/
def execRekey (l e : Nat) (s : State) : Host.Outcome State Fault Refusal :=
  act (decide (l < 16)) (rekeyDue s l e) s (rekeyArrives l e s)

/-! ## Acknowledged messages (R336) -/

/-- The runs whose timer a message of a device restarts that names none. -/
def frameHeard (src : Nat) (s : State) : State :=
  (s.ctxs.filter inRun).foldl (fun s x =>
    match x.md.bind fun m => posOf m src with
    | some p => heardFrom x.id p s
    | none => s) s

/-- A MSG_ACK from `src` ends the wait of a message. -/
def msgAcked (src cls msg : Nat) (s : State) : State :=
  updNet (fun n => { n with out := n.out.filter fun o => !(decide (o.dst = src) && decide (o.cls = cls) && decide (o.msg = msg)) }) s

/-- A MSG_ACK has arrived: the message's source range is released, and the peer's timer restarts (R336, R357). -/
def ackArrives (src cls msg : Nat) (s : State) : State := frameHeard src (msgAcked src cls msg s)

/-- MSG_ACK (R336): the message's source range is released. -/
def execMsgAck (src cls msg : Nat) (s : State) : Host.Outcome State Fault Refusal :=
  actCfe true (decide (src < 512)) s (ackArrives src cls msg s)

/-- A flit of a message still waits for a link. -/
def flitWaits (s : State) (o : OutMsg) : Bool :=
  s.links.any fun k => k.queue.any fun f =>
    decide (f.src = selfId s) && decide (f.dst = o.dst) && decide (f.cls = o.cls) && decide (f.msg = o.msg) && decide (0 < f.typ) &&
      !(decide (f.typ = 3) && decide (leAt f.data 0 1 = 2))

/-- The message of this device that waits for a MSG_ACK. -/
def outOf (s : State) (dst cls msg : Nat) : Option OutMsg :=
  s.net.out.find? fun o => decide (o.dst = dst) && decide (o.cls = cls) && decide (o.msg = msg)

/-- No MSG_ACK within 300 µs of the message's last flit. -/
def ackLate (s : State) (o : OutMsg) : Bool := !flitWaits s o && decide (o.sentAt + 300000 ≤ s.now)

/-- A claim that does not reach the spare ends the run (R367). -/
def claimUnsent (o : OutMsg) (s : State) : State :=
  if o.cls = 0 ∧ leAt o.data 0 1 = 6 then
    match runCtx s (leAt o.data 1 8) with
    | some x => failRun x.id (leAt o.data 9 2) s
    | none => s
  else s

/-- The message is sent again as a whole, or its destination is unreachable. -/
def resendMsg (o : OutMsg) (s : State) : State :=
  if o.tries < 4 then
    let s := updNet (fun n => { n with out := n.out.map fun q => if q = o then { q with tries := q.tries + 1, sentAt := s.now } else q }) s
    let fs := if o.cls = 0 then [ctrlFlit s o.dst o.msg o.data] else msgFlits s o.dst o.cls o.msg o.data
    recRuns o.dst 6 (fs.foldl (fun s f => routeFlit f none s) s)
  else
    let s := msgAcked o.dst o.cls o.msg s
    let s := if s.net.unreachable.contains o.dst then s else updNet (fun n => { n with unreachable := n.unreachable ++ [o.dst] }) s
    claimUnsent o s

/-- MSG_ACK_TIMEOUT (R336): no MSG_ACK within 300 µs. -/
def execMsgAckTimeout (dst cls msg : Nat) (s : State) : Host.Outcome State Fault Refusal :=
  match outOf s dst cls msg with
  | some o => actCfe true (ackLate s o) s (resendMsg o s)
  | none => .next s

/-! ## Delivery (R333 to R336, R357, R359) -/

/-- The position of a device in a run that this device takes part in. -/
def posIn (s : State) (runId src : Nat) : Option Nat := ((runCtx s runId).bind (·.md)).bind fun m => posOf m src

/-- A message of a run in which its source has been declared lost is discarded (R335). -/
def isDiscarded (s : State) (src runId : Nat) : Bool := s.net.discard.any fun e => decide (e.1 = src) && decide (e.2 = runId)

/-- A frame whose source its run has missed is discarded and counted (R359). -/
def frameLate (s : State) (src : Nat) : Option Nat :=
  (s.ctxs.find? fun x => inRun x && (match x.md with | some m => (match m.lost with | some p => decide (devAt m p = src) | none => false) | none => false)).map (·.id)

/-- A delivered message waits for its consumer. -/
def keepMsg (i : InMsg) (s : State) : State := updNet (fun n => { n with inbox := n.inbox ++ [i] }) s

/-- The peer of a frame pair has found that the lengths differ: this invocation ends too; where in its program, the spec does not
say (R306, log entry 28). -/
def peerLength (c : Nat) (s : State) : State :=
  let (n, s) := freshNat s
  endWith c (invalidAt ⟨2, n, none⟩) s

/-- A message of a run that reaches its invocation; the answer to an offer counts while `PLOAD` waits for it. -/
def runMessage (c : Nat) (i : InMsg) (s : State) : State :=
  let kind := leAt i.data 8 1
  if kind = mkLenBad then peerLength c s
  else if kind = mkAnswer ∧ !(ctxIs s c fun x => x.md.any fun m => m.shareSent) then s
  else if kind = mkHave then tryFailover c (keepMsg i s)
  else keepMsg i s

/-- A whole message reaches its consumer; an activation frame its place in the exchange window. -/
def deliverMsg (i : InMsg) (s : State) : State :=
  let run := leAt i.data 0 8
  let bulk (s : State) : Bool × State := if i.cls = 3 then bulkMessage i s else (false, s)
  if i.cls = 2 then
    match frameLate s i.src, i.at_ with
    | some c, _ => lateMessage c s
    | none, some a => keepMsg { i with data := [] } (memWrite a i.data (frameHeard i.src s))
    | none, none => frameHeard i.src s
  else match lateIn s run i.src with
  | some c => lateMessage c s
  | none =>
  if isDiscarded s i.src run then s
  else match posIn s run i.src with
    | some p => fromPeer run p (fun c s => if (bulk s).1 then (bulk s).2 else runMessage c i s) s
    | none =>
      if (bulk s).1 then (bulk s).2
      else match runCtx s run with
        | some x => runMessage x.id i s
        | none => keepMsg i s

/-- A message that has been delivered already. -/
def isDelivered (s : State) (src cls msg : Nat) : Bool :=
  s.net.delivered.any fun d => decide (d.1 = src) && decide (d.2.1 = cls) && decide (d.2.2 = msg)

/-- Records a delivery and acknowledges it. -/
def noteDelivered (src cls msg : Nat) (s : State) : State :=
  sendAck src cls msg (updNet (fun n => { n with delivered := (src, cls, msg) :: n.delivered }) s)

/-- A message being put together. -/
def partOf (s : State) (f : QFlit) : PartMsg :=
  (s.net.part.find? fun p => decide (p.src = f.src) && decide (p.cls = f.cls) && decide (p.msg = f.msg)).getD ⟨f.src, f.cls, f.msg, [], none, none⟩

/-- The message with a fragment more; a duplicate changes nothing. -/
def addFrag (p : PartMsg) (f : QFlit) : PartMsg :=
  { p with frags := (if p.frags.any fun g => decide (g.1 = f.off) then p.frags else p.frags ++ [(f.off, f.data)]),
           last := if f.typ = 2 then some f.off else p.last }

/-- The bytes of a whole message. -/
def wholeMsg (p : PartMsg) : Option (List Byte) :=
  match p.last with
  | none => none
  | some n =>
    let fs := (List.range (n + 1)).map fun i => (p.frags.find? fun g => decide (g.1 = i)).map (·.2)
    if fs.any (·.isNone) then none else some (fs.map fun f => f.getD []).flatten

/-- The invocation of this device that takes part in a run with another and whose programs receive frames of it: a pipelined one, or another
whose image has link instructions (R305). -/
def frameCtx (s : State) (src : Nat) : Option Ctx :=
  s.ctxs.find? fun x => inRun x && x.md.any fun m => match posOf m src with
    | some p => decide (m.mode = 3) || (progEngines (ctxImage s x)).any fun e => (engProg (ctxImage s x) e).any fun i =>
        match i.op with | .lrecv o => decide (o.peer = p) | _ => false
    | none => false

/-- The engine whose program receives a frame's channel (R356). -/
def frameEngine (s : State) (f : QFlit) : Option Nat :=
  (frameCtx s f.src).bind fun x =>
    let p := (x.md.bind fun m => posOf m f.src).getD 0
    let img := ctxImage s x
    (progEngines img).find? fun e => (engProg img e).any fun i =>
      match i.op with | .lrecv o => decide (o.peer = p) && decide (o.chan = f.msg / 2 ^ 28) | _ => false

/-- A free place for a frame in the exchange window of an engine: 16 of 64 KiB each. -/
def framePlace (s : State) (e : Nat) : Option Nat :=
  ((List.range 16).map fun k => xwinBase e + 65536 * k).find? fun a =>
    !(s.net.part.any fun p => decide (p.at_ = some a)) && !(s.net.inbox.any fun i => decide (i.at_ = some a))

/-- A frame of a device that is in no run of this one any more: its run has lost it, or is over (R335). -/
def frameDropped (s : State) (f : QFlit) : Bool :=
  decide (f.cls = 2) && (s.net.discard.any fun e => decide (e.1 = f.src)) && (frameCtx s f.src).isNone

/-- Flits of the same message have come. -/
def partBegun (s : State) (f : QFlit) : Bool :=
  s.net.part.any fun p => decide (p.src = f.src) && decide (p.cls = f.cls) && decide (p.msg = f.msg)

/-- A flit of a frame for which the exchange window has no room waits in the link's input (R356). -/
def flitHeld (s : State) (f : QFlit) : Bool :=
  decide (f.cls = 2) && !isDelivered s f.src f.cls f.msg && !frameDropped s f && !partBegun s f &&
    (match frameEngine s f with | some e => (framePlace s e).isNone | none => false)

/-- A frame of a device that has been lost here counts once, with its last flit (R359). -/
def frameCounted (f : QFlit) (s : State) : State :=
  if f.typ = 2 then
    match s.ctxs.find? fun x => x.md.any fun m => s.net.discard.any fun e => decide (e = (f.src, m.runId)) with
    | some x => lateMessage x.id s
    | none => s
  else s

/-- A DATA or DATA_LAST flit for this device. A frame takes its place in the exchange window with its first flit; one that no
instruction receives is put together and dropped (DESIGN CHOICE, log entry 37). -/
def dataArrives (f : QFlit) (s : State) : State :=
  if frameDropped s f then frameCounted f s
  else if isDelivered s f.src f.cls f.msg then frameHeard f.src (if f.typ = 2 then sendAck f.src f.cls f.msg s else s)
  else
    let q := partOf s f
    let q := if f.cls = 2 ∧ !partBegun s f then { q with at_ := (frameEngine s f).bind (framePlace s) } else q
    let p := addFrag q f
    let s := updNet (fun n => { n with part := n.part.filter fun q => !(decide (q.src = f.src) && decide (q.cls = f.cls) && decide (q.msg = f.msg)) }) s
    match wholeMsg p with
    | none => updNet (fun n => { n with part := n.part ++ [p] }) s
    | some b => deliverMsg ⟨f.src, f.cls, f.msg, b, p.at_⟩ (noteDelivered f.src f.cls f.msg s)

/-- A routed control message reaches its meaning (R338). -/
def ctrlMessage (src : Nat) (d : List Byte) (s : State) : State :=
  let run := leAt d 1 8
  let peer (f : Nat → Nat → State → State) : State :=
    match posIn s run src with
    | some p => fromPeer run p (fun c s => f c p s) s
    | none => s
  match (if leAt d 0 1 = 3 then none else lateIn s run src) with
  | some c => lateMessage c s
  | none =>
  if isDiscarded s src run then s
  else match leAt d 0 1 with
    | 3 => startArrives src (decStart d) s
    | 4 => peer fun _ _ s => s
    | 5 => peer fun c _ s => noticeLost c (leAt d 9 2) s
    | 6 => if s.sysmap.role = 1 then claimArrives src (leAt d 12 2) run (leAt d 9 2) (leAt d 11 1) s else s
    | 9 => failoverNotice src run (leAt d 9 2) (leAt d 11 2) (leAt d 13 4) (frameHeard src s)
    | 10 => peer fun c p s => updMd c (fun m => { m with epochs := m.epochs ++ [(p, leAt d 9 8)] }) s
    | _ => s

/-- A START of a run that its sender's message numbers have not begun again with here: one of a number that has been delivered, or one
where no other run is under way with the sender (R335). -/
def startsNumbers (s : State) (f : QFlit) : Bool :=
  let run := leAt f.data 1 8
  decide (leAt f.data 0 1 = 3) && !s.net.fresh.contains (f.src, run) && (isDelivered s f.src 0 f.msg || soleRun s run f.src)

/-- A routed control flit for this device. -/
def ctrlArrives (f : QFlit) (s : State) : State :=
  if leAt f.data 0 1 = 2 then ackArrives f.src (leAt f.data 1 1) (leAt f.data 2 4) s
  else
    let s := if startsNumbers s f then renumber (leAt f.data 1 8) f.src s else s
    if isDelivered s f.src 0 f.msg then frameHeard f.src (sendAck f.src 0 f.msg s)
    else ctrlMessage f.src f.data (noteDelivered f.src 0 f.msg s)

/-- A hop-scope control flit. -/
def hopArrives (l : Nat) (d : List Byte) (s : State) : State :=
  match leAt d 0 1 with
  | 1 => if (linkOf s l).st = 2 then discoverArrives l (decDiscover d) s else s
  | 7 => if linkUp s l then sendHop l (ctProbeReply (leAt d 1 8) (holdsRun s (leAt d 1 8))) s else s
  | 8 => if claimOpen s (leAt d 1 8) then probeReplied (leAt d 1 8) (decide (leAt d 9 1 = 1)) s else s
  | _ => if rekeyDue s l (leAt d 1 4) then rekeyArrives l (leAt d 1 4) s else s

/-- A data flit for this device is taken in, or waits in the link's input. -/
def takeData (l : Nat) (f : QFlit) (s : State) : State :=
  if flitHeld s f then updLink l (fun k => { k with held := k.held ++ [f] }) s else freeBuf f.inp (dataArrives f s)

/-- The flits that wait in a link's input are tried again. -/
def takeHeld (l : Nat) (s : State) : State :=
  let fs := (linkOf s l).held
  fs.foldl (fun s f => takeData l f s) (updLink l (fun k => { k with held := [] }) s)

/-- An accepted flit takes a buffer of its input (R337): of this hop or for this device it is taken in and gives the buffer back; on its
way it keeps it until it leaves. -/
def flitAccepted (l : Nat) (f0 : QFlit) (s : State) : State :=
  let f := { f0 with inp := some (l, crdIx f0.cls f0.vl) }
  if isHop f then freeBuf f.inp (hopArrives l f.data s)
  else if !linkUp s l then freeBuf f.inp s
  else if f.dst = selfId s then (if f.typ = 3 then freeBuf f.inp (ctrlArrives f s) else takeData l f s)
  else routeFlit f (inVia l) s

/-- FLIT_SEND (R326 to R329, R337): a link in VERIFY or UP sends its next flit; a link that is UP sends IDLE without one. -/
def execFlitSend (l : Nat) (s : State) : Host.Outcome State Fault Refusal :=
  act (decide (l < 16)) (decide ((linkOf s l).st = 2) || decide ((linkOf s l).st = 3)) s (sendNext l (takeHeld l s))

/-! ## Receiving (R325, R328 to R330, R375, R377) -/

/-- A field of the header of a flit. -/
def hd (b : List Byte) (lo w : Nat) : Nat := field (leAt b 0 16) lo w

/-- A flit that fails: NAK, and everything is discarded until the replay arrives. -/
def flitFailed (l : Nat) (s : State) : State := updLink l (fun k => { k with nak := true, discarding := true }) s

/-- A TYPE or a bit that R326 reserves. -/
def flitReserved (b : List Byte) : Bool := decide (3 < hd b 0 4) || decide (hd b 61 3 ≠ 0) || decide (hd b 124 4 ≠ 0)

/-- The payload bytes of a flit; `none` where the tag of a link with its cipher on does not match. -/
def flitPayload (s : State) (l : Nat) (b : List Byte) : Option (List Byte) :=
  if cipherOn s l then
    let k := linkOf s l
    gcmDecrypt (linkKeyOf s k.rxEpoch) (flitIv (reg s (pgLink l) 0x048) k.peerLink (k.rxCount64 - 1)) (b.take 16) (slice b 16 224) (slice b 240 8)
  else some (slice b 16 232)

/-- The flit that the bytes spell, with its valid payload bytes. -/
def flitOf (b p : List Byte) : QFlit :=
  ⟨hd b 0 4, hd b 4 2, hd b 58 1, decide (hd b 60 1 = 1), hd b 40 9, hd b 49 9, hd b 64 32, hd b 96 20, p.take (hd b 116 8 + 1), none⟩

/-- An acknowledgement up to `a` frees the replay buffer; a flit that a retransmission recovered counts in ERR_CNT_CE (R378). -/
def takeAck (l a : Nat) (s : State) : State :=
  let got (e : SentFlit) : Bool := decide ((a + 4096 - e.seq) % 4096 < 2048)
  let n := ((linkOf s l).replay.filter fun e => got e && decide (0 < e.tries)).length
  bumpN (pgLink l) oErrCe n (updLink l (fun k => { k with replay := k.replay.filter fun e => !got e }) s)

/-- Returned credits. -/
def takeCredits (l i n : Nat) (s : State) : State := updLink l (fun k => { k with credits := updAt k.credits i (· + n) }) s

/-- A flit with a sequence number: the expected one is accepted; an older one has been accepted before; a later one means a loss. -/
def takeSeq (l seq : Nat) (f : QFlit) (s : State) : State :=
  let k := linkOf s l
  if seq = k.rxSeq then
    flitAccepted l f (updLink l (fun k => { k with
      rxSeq := (k.rxSeq + 1) % 4096, discarding := false, rxCount := k.rxCount + 1, rxFirst := some (k.rxFirst.getD s.now) }) s)
  else if (k.rxSeq + 4096 - seq) % 4096 ≤ 2048 then updLink l (fun k => { k with rxCount := k.rxCount + 1, rxFirst := some (k.rxFirst.getD s.now) }) s
  else if k.discarding then s
  else flitFailed l s

/-- A flit arrives whose codewords were corrected. -/
def flitArrives (l : Nat) (b : List Byte) (s : State) : State :=
  if leAt b 248 8 ≠ crc64 (b.take 248) ∨ flitReserved b then flitFailed l (bump (pgLink l) 0x060 s)
  else match flitPayload s l b with
    | none => flitFailed l (bump (pgLink l) 0x064 s)
    | some p =>
      let s := takeCredits l (crdIx (hd b 6 2) (hd b 59 1)) (hd b 33 7) (takeAck l (hd b 20 12) s)
      let s := if hd b 32 1 = 1 then nakArrives l s else s
      if hd b 0 4 = 0 then s else takeSeq l (hd b 8 12) (flitOf b p) s

/-- The receive counter moves on with every flit; the flit's own counter value is the one before (R375). -/
def countRx (l : Nat) (s : State) : State := updLink l (fun k => { k with rxCount64 := k.rxCount64 + 1 }) s

/-- An acknowledgement is due: 64 accepted flits, or the first of them 100 ns ago (R329). -/
def ackOwed (s : State) (l : Nat) : Bool :=
  let k := linkOf s l
  linkUp s l && (decide (64 ≤ k.rxCount) || k.rxFirst.any fun t => decide (t + 100 ≤ s.now))

/-- An acknowledgement that is due goes out in an IDLE flit. -/
def ackNow (l : Nat) (s : State) : State := if ackOwed s l then transmit l (idleFlit s l) 0 s else s

/-- What the arrival of a flit does; `none` where it has a bit in a codeword that could not be corrected: it fails as for its CRC (R325). -/
def receive (l : Nat) (b : Option (List Byte)) (s : State) : State :=
  let s := takeHeld l (countRx l s)
  ackNow l (match b with | some b => flitArrives l b s | none => flitFailed l (bump (pgLink l) 0x060 s))

/-- A codeword is decoded and counted (R324, R378), and its message bits join the link's stream. -/
def takeCodeword (l : Nat) (ls : List (List Nat)) (s : State) : State :=
  let r := codewordBits ls
  let s := updLink l (fun k => { k with rxBits := k.rxBits ++ r.1 }) s
  match r.2 with
  | none => bump (pgLink l) 0x05C s
  | some fixed => if fixed then bump (pgLink l) 0x058 s else s

/-- The next flit of a link's stream is taken. -/
def takeFlit (l : Nat) (s : State) : State :=
  let bits := (linkOf s l).rxBits
  receive l (flitOfBits (bits.take 2048)) (updLink l (fun k => { k with rxBits := bits.drop 2048 }) s)

/-- A codeword comes where the stream has no whole flit, and only there. -/
def codewordDue (s : State) (l : Nat) (came : Bool) (ls : List (List Nat)) : Bool :=
  decide (came = decide ((linkOf s l).rxBits.length < 2048)) && (!came || lanesOk ls)

/-- FLIT_RECEIVE (R329): a flit is received, checked and accepted or NAKed, and its acknowledgement and credits are taken. `came`: a
codeword has come, with its lanes, since the flit does not stand whole in the ones before (R324). -/
def execFlitReceive (l : Nat) (came : Bool) (ls : List (List Nat)) (s : State) : Host.Outcome State Fault Refusal :=
  actCfe (decide (l < 16)) (codewordDue s l came ls && (decide ((linkOf s l).st = 2) || decide ((linkOf s l).st = 3))) s
    (takeFlit l (if came then takeCodeword l ls s else s))

end Sys2Proof.Machine
end

