-- ==== Sys2Proof/Machine/Resets.lean ====
section
/-!
DEFINITION. Resets, power-up, recovery from them and what boot sets (R541, R549 to R564, R571, R590, R591, R612 to R626, R670).
-/
namespace Sys2Proof.Machine

/-! ## Cold reset (R591, R612) -/

/-- The tile mapping of R18. -/
def tilesFresh : List TileSt := (List.range 36).map tileReset

/-- Everything but fuses, flash and pins is lost; the phase is as given. -/
def coldReset (ph : BootPhase) (s : State) : State :=
  { State.reset with
    pending := s.pending, free := s.free, out := s.out, regs := [], fuses := s.fuses, flash := s.flash,
    sec := ⟨false, none, none, none, none, none⟩,
    ent := ⟨0, [0, 0, 0], [0, 0, 0], [], List.replicate 4 drbgReset, [], zeros 32, [], none⟩, sensors := s.sensors,
    power := { State.reset.power with alert := s.power.alert }, calNow := [], pcieUp := false, i3c := ⟨none, 0, 0⟩,
    boot := ⟨ph, s.boot.porst, s.boot.perst, s.boot.pwrgd, s.boot.railsBad, s.boot.mode, 0, 0, none, false, 0, []⟩ }

/-- The device after power-up with a rail outside its tolerance or with PORST_N low: held in reset. -/
def holdReset (s : State) : State := coldReset .held s

/-! ## Firmware slots (R561, R562) -/

/-- The KEY_INDEX, the SVN and the BODY_LEN of an image. -/
def fwKey (b : List Byte) : Nat := leAt b 6 1
def fwSvn (b : List Byte) : Nat := leAt b 8 4
def fwLen (b : List Byte) : Nat := leAt b 0x10 8

/-- An image from byte 0 to the end of its body (R563). -/
def fwImage (b : List Byte) : List Byte := b.take (0x8000 + fwLen b)

/-- The checks of R561 on an image; the bytes between the signature and the body, which R560 calls zero, count among its reserved fields
(DEDUCED, log entry 6). -/
def imageOk (s : State) (b : List Byte) : Bool :=
  let pk := slice b 0x18 64
  decide (leAt b 0 4 = 0x4657494D) && decide (leAt b 4 2 = 1) && decide (fwKey b ≤ 3) && decide (leAt b 7 1 = 0) && decide (fwSvn b ≤ 32) &&
    decide (leAt b 0xC 4 = 0) && allZero (slice b 0x78 8) && decide (1 ≤ fwLen b) && decide (fwLen b ≤ 16777216) &&
    decide (0x8000 + fwLen b ≤ b.length) && allZero (slice b 0x74E0 0xB20) &&
    !(nth s.fuses.revoked (fwKey b) true) && decide (shake256 pk 32 = Config.fusedDigest (fwKey b)) && decide (s.fuses.svnMin ≤ fwSvn b) &&
    slhVerify slh256s pk (b.take 0x80) (slice b 0x80 29792) && decide (treeDigest (slice b 0x8000 (fwLen b)) = slice b 0x58 32)

/-- The slot that boots: the valid one with the higher SVN, slot A when they are equal. -/
def bootSlot (s : State) : Option Nat :=
  match imageOk s s.flash.slotA, imageOk s s.flash.slotB with
  | true, true => if fwSvn s.flash.slotA < fwSvn s.flash.slotB then some 1 else some 0
  | true, false => some 0
  | false, true => some 1
  | false, false => none

/-- A booted slot: in recovery (2) the image is in slot A. -/
def slotOf (s : State) (n : Nat) : List Byte := if n = 1 then s.flash.slotB else s.flash.slotA

/-- The life-cycle groups from `lo` up to `hi` with all their fuses blown (R550). -/
def blowGroups (lo hi : Nat) (f : Fuses) : Fuses :=
  { f with groups := f.groups.zipIdx.map fun g => if lo ≤ g.2 ∧ g.2 < hi then max 8 g.1 else g.1 }

/-- One above the highest blown group. -/
def topBlown (f : Fuses) : Nat :=
  f.groups.zipIdx.foldl (fun m g => if 5 ≤ g.1 then g.2 + 1 else m) 0

/-- The boot ROM completes a transition that left a blown group above the leading run (R550). -/
def completeLife (s : State) : State := { s with fuses := blowGroups s.fuses.life (topBlown s.fuses) s.fuses }

/-- A step of the boot ROM fails: KAT_STATUS says which, and the ROM halts (R564). -/
def romHalts (kat : Nat) (s : State) : State := setReg pgSec 0x070 kat { s with boot := { s.boot with phase := .halted } }

/-- Steps 4 and 5 of R564: recovery is entered under R619, else the slot boots. -/
def verifySlots (s : State) : State :=
  match bootSlot s with
  | some n => if s.boot.mode = 1 then { s with boot := { s.boot with phase := .recovery } } else { s with boot := { s.boot with slot := n } }
  | none => { s with boot := { s.boot with phase := .recovery } }

/-- The power-up sequence begins (R564): a Locker that does not wipe halts the ROM before the fuses are read; an interrupted life-cycle
transition is completed (R550), known-answer tests that fail halt the ROM, and the slots are verified. -/
def startUp (kat : Nat) (s : State) : State :=
  let s := coldReset .starting s
  if kat.testBit 4 then romHalts 16 s
  else if kat % 16 ≠ 0 then romHalts (kat % 16) (completeLife s)
  else verifySlots (completeLife s)

/-- The causes of an internal cold reset are gone. -/
def powerGood (s : State) : Bool := s.boot.pwrgd && s.boot.railsBad.isEmpty

/-- PORST_N_ASSERT (R612): a cold reset. -/
def execPorstNAssert (s : State) : Host.Outcome State Fault Refusal :=
  act true s.boot.porst s (holdReset { s with boot := { s.boot with porst := false } })

/-- BOOT_MODE as sampled (R616): 2 is honoured in BLANK only, and 3 reads as 0. -/
def sampledMode (s : State) (m : Nat) : Nat := if m % 4 = 1 then 1 else if m % 4 = 2 ∧ s.fuses.life = 0 then 2 else 0

/-- PORST_N_RISE (R616, R617): BOOT_MODE is sampled, and with good power the sequence starts at P1. -/
def execPorstNRise (m kat : Nat) (s : State) : Host.Outcome State Fault Refusal :=
  let s1 := { s with boot := { s.boot with porst := true, mode := sampledMode s m } }
  act true (!s.boot.porst) s (if powerGood s then startUp kat s1 else s1)

/-- The nominal voltage in mV and the static tolerance in percent of a rail but VCORE (R589). -/
def railNominal (rail : Nat) : Nat × Nat :=
  match rail with
  | 1 => (1050, 3) | 2 => (1800, 5) | 3 => (750, 3) | 4 => (1200, 3) | 5 => (500, 3) | _ => (1800, 5)

/-- The monitored targets of VCORE: the request, or every value of a change in progress while its window stays (R591). -/
def vTargets (s : State) : Nat × Nat := if s.now < s.power.vuntil then (s.power.vlo, s.power.vhi) else (s.power.vreq, s.power.vreq)

/-- A voltage is within the static tolerance of its rail: VCORE ±10 mV about its monitored targets. -/
def railWithin (s : State) (r : RailMeas) : Bool :=
  if r.rail = 0 then decide ((vTargets s).1 ≤ r.mv + 10) && decide (r.mv ≤ (vTargets s).2 + 10)
  else
    let n := railNominal r.rail
    decide (n.1 * (100 - n.2) ≤ 100 * r.mv) && decide (100 * r.mv ≤ n.1 * (100 + n.2))

/-- A rail is bad: an internal cold reset begins. -/
def railBad (rail : Nat) (s : State) : State :=
  let s1 := { s with boot := { s.boot with railsBad := rail :: s.boot.railsBad.filter fun r => decide (r ≠ rail) } }
  if s.boot.porst then holdReset s1 else s1

/-- RAIL_FAULT (R591): a rail monitor has measured a voltage for more than 10 µs; outside the static tolerance it begins an internal cold
reset. -/
def execRailFault (r : RailMeas) (s : State) : Host.Outcome State Fault Refusal :=
  act (decide (r.rail < 7)) (!railWithin s r) s (railBad r.rail s)

/-- PWRGD_LOW (R591): an internal cold reset is held. -/
def execPwrgdLow (s : State) : Host.Outcome State Fault Refusal :=
  let s1 := { s with boot := { s.boot with pwrgd := false } }
  act true s.boot.pwrgd s (if s.boot.porst then holdReset s1 else s1)

/-- INTERNAL_RESET_RELEASE (R591): power is good again, and the sequence starts at P1 where PORST_N is high. -/
def execInternalResetRelease (kat : Nat) (s : State) : Host.Outcome State Fault Refusal :=
  let s1 := { s with boot := { s.boot with pwrgd := true, railsBad := [] } }
  act true (!powerGood s) s (if s.boot.porst then startUp kat s1 else s1)

/-! ## What boot sets (R541, R564, R617) -/

/-- Retires a tile at boot: its engine goes to the quadrant's spare, or has no tile (R27). -/
def bootRetire (p cause : Nat) (s : State) : State :=
  let t := nth s.tileSt p ⟨.retired, 0, false, 0⟩
  let up (p : Nat) (f : TileSt → TileSt) (s : State) : State := { s with tileSt := updAt s.tileSt p f }
  match t.role with
  | .active =>
    let s := setReg (pgEng p) 0x048 cause s
    match (List.range 36).find? fun q => decide (q / 9 = p / 9) && decide ((nth s.tileSt q ⟨.retired, 0, false, 0⟩).role = .spare) with
    | some q => up q (fun u => { u with role := .active, eng := t.eng }) (up p (fun u => { u with role := .retired }) s)
    | none => up p (fun u => { u with role := .retired, lost := true }) s
  | .spare => setReg (pgEng p) 0x048 cause (up p (fun u => { u with role := .unusable }) s)
  | _ => s

/-- A column of a tile's array is remapped; with no spare left the tile is retired, which the repair log gets an entry of, where it has
none (R542, R543). -/
def bootColumn (p : Nat) (s : State) : State :=
  let t := nth s.tileSt p ⟨.retired, 0, false, 0⟩
  let noted := s.flash.repair.any fun r => decide (r.kind = 2) && decide (r.index = p)
  if t.cols < 15 then { s with tileSt := updAt s.tileSt p fun u => { u with cols := u.cols + 1 } }
  else if (t.role = .active ∨ t.role = .spare) ∧ !noted then bootRetire p 3 { s with repairQueue := s.repairQueue ++ [⟨2, p, 0, t.eng⟩] }
  else bootRetire p 3 s

/-- The repair log in order: retired tiles (kind 2) and remapped columns (kind 3); the memories' entries change no result. -/
def applyRepair (s : State) : State :=
  s.flash.repair.foldl (fun s r => if r.kind = 2 then bootRetire r.index 4 s else if r.kind = 3 then bootColumn r.index s else s) s

/-- The factory fuse map's columns, the repair log, then what the boot self-test finds; a retirement it makes is logged (R542). -/
def bootTiles (f : BootFacts) (s : State) : State :=
  let s := { s with tileSt := s.tileSt.zipIdx.map fun t => { t.1 with cols := min 15 (nth f.sparesUsed t.2 0) } }
  (f.tilesBad.filter fun p => decide (p < 36)).foldl (fun s p =>
    let t := nth s.tileSt p ⟨.retired, 0, false, 0⟩
    if t.role = .active ∨ t.role = .spare then
      bootRetire p 3 { s with repairQueue := s.repairQueue ++ [⟨2, p, 0, t.eng⟩] } else s) (applyRepair s)

/-- The active position's identifier in a dimension's neighbour direction. -/
def neighbour (m : SysMap) (d step : Nat) : Nat :=
  let k := max 1 (nth m.dims d 1)
  let a := m.selfId / 8 ^ d % 8
  m.selfId - a * 8 ^ d + (a + step) % k * 8 ^ d

/-- Whether an identifier is an active position (R339). -/
def isPosition (m : SysMap) (id : Nat) : Bool := decide (id < 512) && (List.range 3).all fun d => decide (id / 8 ^ d % 8 < nth m.dims d 1)

/-- The peer that R340 and R341 give a link of an active device or a spare; `none`: the link is unused. A spare is no position (R339). -/
def wiredPeer (m : SysMap) (l : Nat) : Option Nat :=
  if m.role = 1 then none
  else if l < 12 then
    let k := nth m.dims (l / 4) 1
    if k ≤ 1 then none else some (neighbour m (l / 4) (if l / 2 % 2 = 0 then 1 else k - 1))
  else if l < 15 then (if nth m.dims (l - 12) 1 = 8 then some (neighbour m (l - 12) 4) else none)
  else if isPosition m m.spareId || decide (512 ≤ m.spareId) then none else some m.spareId

/-- The block-local index of an identifier (R341). -/
def blockIndex (id : Nat) : Nat := id % 2 + 2 * (id / 8 % 2) + 4 * (id / 64 % 2)

/-- The link numbers that the peer of a link may have (R340, R341): on a dimension the links of the opposite direction, on one of size 2,
where both directions reach the same neighbour, all four; the express link of the dimension; the spare's link of the block-local index. -/
def wiredLink (m : SysMap) (l n : Nat) : Bool :=
  if l < 12 then decide (n / 4 = l / 4) && (decide (nth m.dims (l / 4) 1 = 2) || decide (n / 2 % 2 ≠ l / 2 % 2))
  else if l < 15 then decide (n = l)
  else decide (n = blockIndex m.selfId)

/-- A cabled link is wired as R340 and R341 say. -/
def linkWired (m : SysMap) (l : Nat) : Bool :=
  let e := nth m.links l (0xFFFF, 0, 0)
  if !e.2.2.testBit 0 then true
  else if m.role = 1 then decide (l < 8) && decide (e.2.1 = 15) && isPosition m e.1 && decide (blockIndex e.1 = l)
  else if m.role = 2 then false
  else match wiredPeer m l with
    | some p => decide (e.1 = p) && wiredLink m l e.2.1
    | none => false

/-- The cabled links of a spare reach members of one block (R341). -/
def oneBlock (m : SysMap) : Bool :=
  let ps := (m.links.filter fun e => e.2.2.testBit 0).map (·.1)
  ps.all fun p => decide ((blockOf p).headD 0 = (blockOf (ps.headD 0)).headD 0)

/-- A map that names a spare has every dimension 1 or even (R341). -/
def sparesFit (m : SysMap) : Bool := (decide (m.role ≠ 1) && decide (m.spareId = 0xFFFF)) || m.dims.all fun k => decide (k = 1) || decide (k % 2 = 0)

/-- The checks of R343 on the map. -/
def mapValid (m : SysMap) : Bool :=
  m.valid && decide (m.role ≤ 2) && m.dims.all (fun k => decide (1 ≤ k) && decide (k ≤ 8)) && sparesFit m &&
    (decide (m.role ≠ 0) || isPosition m m.selfId) &&
    (decide (m.role ≠ 1) || (!isPosition m m.selfId && decide (m.selfId < 512) && oneBlock m)) &&
    (List.range 16).all (linkWired m) &&
    (m.flags.testBit 0 || !(m.links.any fun e => e.2.2.testBit 1))

/-- The map is read from the flash; on one that fails the device operates standalone (R342, R343). -/
def bootMap (s : State) : State :=
  let m := decMap s.flash.sysmap
  { s with sysmap := if mapValid m then m else { mapStandalone with valid := false } }

/-- P7: LINK_CFG is set from the map, or every link is FAILED. EXPRESS is set on cabled express links (DESIGN CHOICE, log entry 37). -/
def bootLinks (s : State) : State :=
  let m := s.sysmap
  if m.valid then
    (List.range 16).foldl (fun s l =>
      let f := (nth m.links l (0xFFFF, 0, 0)).2.2
      setReg (pgLink l) 0x040 (b2n (f.testBit 0) + 2 * b2n (f.testBit 1) + 4 * b2n (f.testBit 0 && decide (12 ≤ l) && decide (l < 15))) s) s
  else { s with links := s.links.map fun k => { k with st := 4, cause := 6 } }

/-- P4, P5: the calibration record is read and checked (R622); its values or the defaults are in force. -/
def bootCal (f : BootFacts) (s : State) : State :=
  let b := calFlash s.flash.cal
  let e := if f.calReadError then 1 else calCause b
  let s := { s with calNow := if e = 0 then b else [] }
  let s := setReg pgCal 0x044 (if e = 0 then leAt b 0x10 4 else 0)
    (setReg pgCal 0x040 (if e = 0 then 1 + 16 * leAt b 6 1 else 2 * e + 0x0502 * 65536) s)
  let n := if e = 0 then 0 else 4
  { s with
    margins := (List.range 36).map fun p => ⟨calMargin s.calNow p, calMargin s.calNow p, true, 0, 15⟩
    power := { s.power with level := n, issueLevel := n } }

/-- P6: the LPDDR6 channels have trained; the memories are in use. -/
def bootMem (f : BootFacts) (s : State) : State :=
  let s := { s with boot := { s.boot with usableGib := 14 * f.density } }
  let s := (List.range 4).foldl (fun s q =>
    let ok := (List.range 4).all fun i => nth f.channelsTrained (4 * q + i) false
    setReg (pgBm q) 0x040 0x10009 (setReg (pgLm q) 0x040 (14 * f.density / 4 + 65536 * b2n ok) s)) s
  (List.range 36).foldl (fun s p => setReg (pgEng p) 0x400 0x10000 s) s

/-! ## Provisioned keys (R571) -/

/-- The additional data of an entry's encryption. -/
def keyAad (slot gen : Nat) : List Byte := leBytes 8 Config.serial.toNat ++ leBytes 1 slot ++ leBytes 4 gen

/-- An entry of a slot: MAGIC and SLOT match. -/
def keyEntry (slot : Nat) (b : List Byte) : Bool := decide (leAt b 0 4 = 0x59504B57) && decide (leAt b 4 1 = slot)

/-- The generation of an entry. -/
def keyGen (b : List Byte) : Nat := leAt b 20 4

/-- The key that an entry unwraps to; `none` where it fails authentication. -/
def keyOpen (kek : List Byte) (slot : Nat) (b : List Byte) : Option (List Byte) :=
  gcmDecrypt kek (slice b 8 12) (keyAad slot (keyGen b)) (slice b 24 32) (slice b 56 16)

/-- The 128 bytes of an entry. -/
def keyWrap (kek iv key : List Byte) (slot gen : Nat) : List Byte :=
  let e := gcmEncrypt kek iv (keyAad slot gen) key
  (leBytes 4 0x59504B57 ++ leBytes 1 slot ++ zeros 3 ++ iv ++ leBytes 4 gen ++ e.1 ++ e.2 ++ zeros 128).take 128

/-- The two entries of a slot, by copy. -/
def keyCopies (s : State) (slot : Nat) : List (List Byte) := [nth s.flash.keys (2 * slot) [], nth s.flash.keys (2 * slot + 1) []]

/-- The valid entry of a slot with the higher GEN, unwrapped. -/
def unwrapSlot (s : State) (kek : List Byte) (slot : Nat) : Option (List Byte) :=
  let es := ((keyCopies s slot).filter (keyEntry slot)).filterMap fun b => (keyOpen kek slot b).map fun k => (keyGen b, k)
  (es.foldl (fun (m : Option (Nat × List Byte)) e => match m with | some x => if x.1 < e.1 then some e else m | none => some e) none).map (·.2)

/-- An entry of a slot fails authentication. -/
def unwrapFails (s : State) (kek : List Byte) (slot : Nat) : Bool :=
  (keyCopies s slot).any fun b => keyEntry slot b && (keyOpen kek slot b).isNone

/-- Steps 6 and 7 of R564: keys are derived and unwrapped, unless a tamper event has happened (R558). -/
def bootKeys (s : State) : State :=
  if s.sec.tampered then s
  else
    let kek := kekOf s.fuses.life
    let s := { s with sec := ⟨false, identityKey s.fuses.life, resultKey s.fuses.life, kek, none, none⟩ }
    match kek with
    | none => s
    | some k =>
      let s := { s with sec := { s.sec with linkKey := unwrapSlot s k 0, imageKey := unwrapSlot s k 1 } }
      setReg pgKey 0x040 (32 * b2n (unwrapFails s k 0) + 64 * b2n (unwrapFails s k 1)) s

/-- The firmware is ready in MAINTENANCE. -/
def bootReady (f : BootFacts) (s : State) : State :=
  let fw := slotOf s s.boot.slot
  let s := bootKeys (bootLinks (bootMap (bootTiles f (bootMem f (bootCal f s)))))
  let s := setReg pgSec 0x060 (fwSvn fw) (setReg pgSec 0x05C (s.boot.slot + 4 * fwKey fw) s)
  let s := setReg pgBoot 0x050 ((s.now - s.boot.startAt) / 1000) s
  let s := { s with boot := { s.boot with phase := .running, fwDigest := treeDigest (fwImage fw) } }
  wantBootId s

/-- What boot can find: sixteen channels of a density that R512 allows. -/
def factsOk (f : BootFacts) : Bool := decide (f.channelsTrained.length = 16) && [8, 16, 32].contains f.density

/-- BOOT_COMPLETE (R617 P8): the firmware is ready. -/
def execBootComplete (f : BootFacts) (s : State) : Host.Outcome State Fault Refusal :=
  act true (decide (s.boot.phase = .starting) && factsOk f) s (bootReady f s)

/-! ## Recovery (R561, R619) -/

/-- Slot A takes an image, and the sequence goes on with it as slot 2. -/
def bootInstalled (b : List Byte) (s : State) : State :=
  let s := coldReset .starting { s with flash := { s.flash with slotA := b } }
  setReg pgBoot 0x04C 2 { s with boot := { s.boot with slot := 2 } }

/-- Slot A does not read back: it holds no image, and the device stays in recovery with FLASH_FAULT (R619, R620). -/
def installFails (s : State) : State := setReg pgBoot 0x04C 4 { s with flash := { s.flash with slotA := [] } }

/-- An accepted image is written to slot A; whether the flash takes it is a free value (log entry 49). -/
def installImage (b : List Byte) (s : State) : State :=
  let r := freshNat (emit (.flashWrite 0) s)
  if r.1 % 2 = 0 then bootInstalled (fwImage b) r.2 else installFails r.2

/-- A write of RECOVERY_CMD: ignored outside recovery; the image stands in the Slate of tile 0. -/
def recoveryWrite (v : Nat) (s : State) : State :=
  if v.testBit 0 ∧ s.boot.phase = .recovery then
    let b := spBytes s.mem (slateBase 0) (reg s pgBoot 0x044)
    if imageOk s b then installImage b s else setReg pgBoot 0x04C 3 s
  else s

/-! ## Warm reset and Function Level Reset (R612, R613, R615) -/

/-- The pages whose blocks a warm reset resets (log entry 39). -/
def warmPage (page : Nat) : Bool :=
  match tyOf page with
  | .txn | .cfe | .que | .sync | .dma | .digest | .audit | .cert | .eng | .quad | .link | .pcie | .debug | .trace | .test => true
  | _ => false

/-- The registers of an ENG page that tell of repair, which is kept. -/
def repairReg (off : Nat) : Bool := decide (off = 0x048) || decide (off = 0x058) || decide (off = 0x400)

/-- A register that a warm reset keeps: of a page that is not reset, or of repair; every OWNER is released (R636). -/
def warmKeeps (k : Nat) : Bool :=
  decide (k % 0x1000 ≠ oOwner) && (!warmPage (k / 0x1000) || (decide (tyOf (k / 0x1000) = .eng) && repairReg (k % 0x1000)))

/-- An open or pending transaction is discarded with LAST = ABORTED (R644). -/
def dropTxn (t : Txn) : Txn := if t.st = .idle then t else { t with st := .idle, staged := [], last := 2 }

/-- The byte is host-managed LPDDR6, which is kept; SRAM, bonded memory and the device reserve are zeroed. -/
def warmMem (s : State) (a : Nat) : Bool := decide (a < usable s - 0xC00000000)

/-- What a warm reset or an FLR leaves. DESIGN CHOICE (log entry 39): self-tests that are due, substitutions under way and tiles that have
failed in a phase are engine state, and go. -/
def warmBase (s : State) : State :=
  { s with
    regs := s.regs.filter fun e => warmKeeps e.1
    wide := s.wide.filter fun e => warmKeeps e.1
    txns := s.txns.map fun e => (e.1, dropTxn e.2)
    group := State.reset.group, mem := s.mem.filter fun e => warmMem s e.1, acc := [], slots := [], partials := [], tiles := []
    marks := s.marks.filter fun e => warmMem s e.1
    logs := s.logs.zipIdx.map fun l => if l.2 < 8 then l.1 else []
    margins := s.margins.map (inForce s), substs := [], failing := [], selftestDue := [], queues := List.replicate 6 queueReset, undelivered := [], ctxs := [], progs := [], sems := []
    stateReq := none, heldReq := none, stallSince := none, bells := List.replicate 2 ⟨[], none⟩, audits := [], auditRun := none
    cert := { State.reset.cert with seq := s.cert.seq, windowNo := s.cert.windowNo, bootId := s.cert.bootId }
    net := State.reset.net
    ent := { s.ent with reqs := s.ent.reqs.filter fun r => decide (r.purpose = 0) || decide (r.purpose = 2) } }

/-- A link after a warm reset: DOWN, but for one that is FAILED, which only a soft reset of its page or a cold reset lets leave (R332). -/
def warmLink (k : Link) : Link := if k.st = 4 then { linkReset with st := 4, cause := k.cause } else linkReset

/-- A warm reset (`warm`) or an FLR begins: links come up again from the map (R374), and the sequence ends within 250 ms. -/
def warmReset (warm : Bool) (s : State) : State :=
  let s := warmBase s
  bootLinks { s with links := s.links.map warmLink, boot := { s.boot with warm := some (warm, s.now + 250000000), d3hot := false } }

/-- The PCIe link is down: LINK_INFO reads 0. -/
def pcieDown (s : State) : State := setReg pgPcie 0x040 0 { s with pcieUp := false }

/-- A warm-ranked reset: before P8 it resets the PCIe controller only (R618), within a warm reset it is absorbed (R615). -/
def warmRanked (s : State) : State :=
  let s := pcieDown s
  match s.boot.phase, s.boot.warm with
  | .running, some (true, _) => s
  | .running, _ => warmReset true s
  | _, _ => { s with regs := s.regs.filter fun e => decide (e.1 / 0x1000 ≠ pgPcie) }

/-- PERST_N_ASSERT (R612, R618): a warm reset. -/
def execPerstNAssert (s : State) : Host.Outcome State Fault Refusal :=
  act true (s.boot.perst && decide (s.boot.phase ≠ .held)) s (warmRanked { s with boot := { s.boot with perst := false } })

/-- PERST_N_RISE (R618): PCIe link training starts. -/
def execPerstNRise (s : State) : Host.Outcome State Fault Refusal :=
  act true (!s.boot.perst) s { s with boot := { s.boot with perst := true } }

/-- PCIE_HOT_RESET (R612): a hot reset or a link-down. -/
def execPcieHotReset (s : State) : Host.Outcome State Fault Refusal := act true s.pcieUp s (warmRanked s)

/-- Configuration requests are served: the link is up and no reset runs (R613, R618). -/
def configServed (s : State) : Bool := s.pcieUp && decide (s.boot.phase = .running) && s.boot.warm.isNone

/-- FLR (R612): the Function Level Reset. -/
def execFlr (s : State) : Host.Outcome State Fault Refusal := act true (configServed s && !s.boot.d3hot) s (warmReset false s)

/-- D3HOT_ENTRY (R670): the internal reset of an FLR, and only configuration requests are answered. -/
def execD3hotEntry (s : State) : Host.Outcome State Fault Refusal :=
  let t := warmReset false s
  act true (configServed s && !s.boot.d3hot) s { t with boot := { t.boot with d3hot := true } }

/-- RETURN_TO_D0 (R670): memory requests are answered again. -/
def execReturnToD0 (s : State) : Host.Outcome State Fault Refusal :=
  act true (s.boot.d3hot && s.pcieUp) s { s with boot := { s.boot with d3hot := false } }

/-- WARM_RESET_COMPLETE (R613): configuration requests stop receiving Request Retry Status. -/
def execWarmResetComplete (s : State) : Host.Outcome State Fault Refusal :=
  act true s.boot.warm.isSome s { s with boot := { s.boot with warm := none } }

/-- PCIE_LINK_TRAINED (R674, R675): LINK_INFO, and DOWNTRAINED below 64 GT/s or ×16. -/
def linkTrained (speed width : Nat) (flit : Bool) (s : State) : State :=
  let s := setReg pgPcie 0x040 (speed % 8 + 16 * (width % 32) + 512 * b2n flit) { s with pcieUp := true }
  if speed < 6 ∨ width < 16 then raise pgPcie 2 s else s

/-- PCIE_LINK_TRAINED (R674): a training of the PCIe link ends. -/
def execPcieLinkTrained (speed width : Nat) (flit : Bool) (s : State) : Host.Outcome State Fault Refusal :=
  act true (!s.pcieUp && s.boot.perst && decide (s.boot.phase ≠ .held) && decide (1 ≤ speed) && decide (speed ≤ 6) && decide (1 ≤ width) &&
    decide (width ≤ 16)) s (linkTrained speed width flit s)

end Sys2Proof.Machine
end

