-- ==== Sys2Proof/Machine/Security.lean ====
section
/-!
DEFINITION. Life-cycle, tamper, key revocation, provisioned keys and attestation (R549 to R575, R587, R588).
-/
namespace Sys2Proof.Machine

/-! ## Reads by the key block -/

/-- Bytes of device memory that the key block reads; `none` where the range is not in the map that programs reach, or a word of it
reads uncorrectably (log entry 41). -/
def keyBytes (a n : Nat) (s : State) : Option (List Byte) × State :=
  if mapOk s .program a n then
    let r := readCheck 0 a n s
    (if r.1.isEmpty then some (memRead r.2.2 a n) else none, r.2.2)
  else (none, s)

/-! ## The life-cycle (R549 to R553, R557) -/

/-- A Locker wipe (R557): the keys and the states of the DRBG instances that the Locker holds (R559). -/
def wipe (s : State) : State :=
  updEnt (fun e => { e with insts := List.replicate 4 drbgReset, owed := [] }) { s with sec := ⟨s.sec.tampered, none, none, none, none, none⟩ }

/-- The device runs in MAINTENANCE. -/
def maintNow (s : State) : Bool := alive s && inMaintenance s

/-- The transitions that host software requests (R551). -/
def lcAllowed (m n : Nat) : Bool :=
  (decide (m = 1) && decide (n = 2)) || ((decide (m = 1) || decide (m = 2)) && decide (n = 3)) ||
    (decide (1 ≤ m) && decide (m ≤ 3) && decide (n = 4))

/-- An RMA token (R553). -/
def tokenOk (s : State) (b : List Byte) : Bool :=
  let k := leAt b 4 1
  let pk := slice b 16 64
  decide (leAt b 0 4 = 0x544B4D52) && decide (k ≤ 3) && allZero (slice b 5 3) && decide (leAt b 8 8 = Config.serial.toNat) &&
    !(nth s.fuses.revoked k true) && decide (shake256 pk 32 = Config.fusedDigest k) &&
    slhVerify slh256s pk (b.take 16) (slice b 80 29792)

/-- The outcome of a token's verification: one that cannot be read is not valid. -/
def tokenRead (s : State) (r : Option (List Byte) × State) : Bool × State :=
  (match r.1 with | some b => tokenOk s b | none => false, r.2)

/-- The token at LC_TOKEN is verified, where the target needs one. -/
def lcToken (n : Nat) (s : State) : Bool × State :=
  if n = 3 then tokenRead s (keyBytes (regPair s pgSec 0x048) 29872 s) else (true, s)

/-- Steps 4 and 5 of R552: wipe, cold reset, whose known-answer tests end as a free value says (log entry 50). -/
def lcReset (s : State) : State := let r := freshNat (wipe s); startUp (r.1 % 32) r.2

/-- The lowest group of a transition does not read as blown: some of its fuses may have been, the groups above stay blown, and
LC_STATUS reads FUSE_FAULT (R552). -/
def lcFault (m n k : Nat) (s : State) : State :=
  let f := blowGroups (m + 1) n s.fuses
  setReg pgSec 0x050 5 { s with fuses := { f with groups := updAt f.groups m fun g => max g (k % 5) } }

/-- Steps 3 to 5 of R552: the groups are blown; whether the last one reads back is a free value (log entry 49). -/
def lcMove (n : Nat) (s : State) : State :=
  let m := s.fuses.life
  let r := freshNat s
  if r.1 % 2 = 0 then lcReset { r.2 with fuses := blowGroups m n r.2.fuses } else lcFault m n (r.1 / 2) r.2

/-- A write of LC_REQ (R552). -/
def lcReq (v : Nat) (s : State) : State :=
  let n := v % 8
  let s := setReg pgSec 0x044 n s
  if !lcAllowed s.fuses.life n then setReg pgSec 0x050 2 s
  else if !maintNow s || !s.ctxs.isEmpty then setReg pgSec 0x050 3 s
  else
    let r := lcToken n s
    if r.1 then lcMove n r.2 else setReg pgSec 0x050 4 r.2

/-- LC_PROVISION (R551): the factory test port moves BLANK to PROVISIONED; the Locker is wiped (R557). -/
def execLcProvision (s : State) : Host.Outcome State Fault Refusal :=
  act true (decide (s.fuses.life = 0) && decide (s.boot.phase ≠ .held)) s (wipe { s with fuses := blowGroups 0 1 s.fuses })

/-! ## Tamper (R554 to R558) -/

/-- Steps 1 and 2 of R556: the Locker, the keys and the DRBG instances are cleared; links with cipher fail. -/
def tamperClear (s : State) : State :=
  let s := wipe { s with sec := { s.sec with tampered := true } }
  (List.range 16).foldl (fun s l =>
    let k := linkOf s l
    if linkCipher s l ∧ (k.st = 1 ∨ k.st = 2 ∨ k.st = 3) then linkLeaves l 4 4 0 s else s) s

/-- The certificates that no signature covers yet. -/
def unsignedCerts (s : State) : List CertW :=
  (s.cert.closed.map (·.certs)).flatten ++ (match s.cert.current with | some w => w.certs | none => []) ++ s.cert.overflow

/-- The record of a certificate that is discarded: FLAGS bit 1 clear and no window. -/
def dropCert (w : CertW) (x : Ctx) : Ctx :=
  { x with certSeq := none, window := none, windowWait := x.windowWait - 1, issued := x.issued.filter fun q => decide (q.seq ≠ leAt w.bytes 0x018 8) }

/-- A follow-up record without a certificate. -/
def bareFollow (b : List Byte) : List Byte := splice b 0x1B (leBytes 1 (leAt b 0x1B 1 / 4 * 4 + leAt b 0x1B 1 % 2))

/-- Step 3 of R556: windows that are not signed are discarded; their records are written without a certificate. -/
def discardWindows (s : State) : State :=
  let cs := unsignedCerts s
  let s := cs.foldl (fun s c => match c.ctx with | some i => updCtx i (dropCert c) s | none => s) s
  let bare := cs.map fun c => { c with follow := c.follow.map fun f => (f.1, bareFollow f.2) }
  let f (j : AuditJob) : AuditJob := { j with certSeq := none }
  queueFollows bare (2 ^ 64 - 1) { s with
    cert := { s.cert with current := none, closed := [], overflow := [] }, audits := s.audits.map f, auditRun := s.auditRun.map f }

/-- The change to MAINTENANCE with DRAIN = 1: from SERVICE it begins, one under way becomes that, and one to SERVICE is followed by it; the
entries of BELL0 to LOW end in every state. -/
def tamperDrain (s : State) : State :=
  let stop (s : State) : State := abortWhere (fun x => decide (x.ring ≤ 4)) s
  match devState s with
  | 1 => request false true s
  | 2 => stop { s with stateReq := some (0, true) }
  | 3 => stop { s with heldReq := some (0, true) }
  | _ => stop s

/-- Steps 4 and 5 of R556: MAINTENANCE with DRAIN = 1, no Bell registration, the event and its message. -/
def tamperStop (s : State) : State :=
  raiseSend pgSec 0 (pump (tamperDrain { s with bells := s.bells.map fun b => { b with progs := [] } }))

/-- A tamper source is masked (R555). -/
def tamperMasked (s : State) (src : Nat) : Bool := decide (s.fuses.life = 0) && (reg s pgSec 0x058).testBit src

/-- TAMPER_CAUSE takes a source; where it is not masked, the sequence of R556 runs. -/
def tamper (src : Nat) (s : State) : State :=
  let s := setBit pgSec 0x054 src true s
  if tamperMasked s src then s else tamperStop (discardWindows (tamperClear s))

/-- TAMPER_DETECT (R554 to R556): a tamper source trips. -/
def execTamperDetect (src : Nat) (s : State) : Host.Outcome State Fault Refusal :=
  act (decide (src < 6)) (decide (s.boot.phase ≠ .held)) s (tamper src s)

/-! ## Keys of the firmware (R565, R566) -/

/-- The slot that was booted. -/
def bootedSlot (s : State) : List Byte := slotOf s s.boot.slot

/-- The conditions of R565. -/
def mayRevoke (s : State) (k : Nat) : Bool :=
  maintNow s && decide (fwKey (bootedSlot s) ≠ k) && (List.range 4).any fun i => decide (i ≠ k) && !(nth s.fuses.revoked i true)

/-- A write of REVOKE (R565, R587). -/
def revokeWrite (v : Nat) (s : State) : State :=
  if v.testBit 31 then
    (if mayRevoke s (v % 4) then { s with fuses := { s.fuses with revoked := updAt s.fuses.revoked (v % 4) fun _ => true } }
      else raise pgSec 1 s)
  else s

/-- A write of SVN_COMMIT (R566): the minimum rises to the booted firmware's SVN. -/
def svnWrite (v : Nat) (s : State) : State :=
  if v.testBit 0 ∧ alive s then { s with fuses := { s.fuses with svnMin := max s.fuses.svnMin (fwSvn (bootedSlot s)) } } else s

/-! ## Provisioned keys (R571 to R573) -/

/-- The generation of a valid entry of a slot. -/
def validGen (kek : List Byte) (slot : Nat) (b : List Byte) : Option Nat :=
  if keyEntry slot b && (keyOpen kek slot b).isSome then some (keyGen b) else none

/-- The copy that is written, and its GEN. -/
def provTarget (s : State) (kek : List Byte) (slot : Nat) : Nat × Nat :=
  match validGen kek slot (nth s.flash.keys (2 * slot) []), validGen kek slot (nth s.flash.keys (2 * slot + 1) []) with
  | some a, some b => if a < b then (0, b + 1) else (1, a + 1)
  | some a, none => (1, a + 1)
  | none, some b => (0, b + 1)
  | none, none => (0, 1)

/-- The Locker takes a key of a slot. -/
def loadKey (slot : Nat) (k : List Byte) (s : State) : State :=
  { s with sec := if slot = 0 then { s.sec with linkKey := some k } else { s.sec with imageKey := some k } }

/-- The entry reads back: the source bytes are zeroed, the key is loaded. -/
def keyWritten (slot i : Nat) (e k : List Byte) (s : State) : State :=
  let s := { s with flash := { s.flash with keys := updAt s.flash.keys i fun _ => e } }
  setReg pgKey 0x050 2 (loadKey slot k (memWrite (regPair s pgKey 0x048) (zeros 32) s))

/-- The entry does not read back: it is none, the other copy stays in force, and PROV_STATUS reads FLASH_FAULT. -/
def keyNotWritten (i : Nat) (s : State) : State :=
  setReg pgKey 0x050 5 { s with flash := { s.flash with keys := updAt s.flash.keys i fun _ => [] } }

/-- The entry is written; whether the flash takes it is a free value (log entry 49). -/
def writeKey (slot : Nat) (kek k : List Byte) (s : State) : State :=
  let (iv, s) := drbgTake instK 12 s
  let t := provTarget s kek slot
  let e := keyWrap kek iv k slot (t.2 % 2 ^ 32)
  let r := freshNat (emit (.flashWrite 1) s)
  if r.1 % 2 = 0 then keyWritten slot (2 * slot + t.1) e k r.2 else keyNotWritten (2 * slot + t.1) r.2

/-- PROV_STATUS where the spec states none: the key cannot be read (log entry 41). -/
def provOpen (s : State) : State := let (n, s) := freshNat s; setReg pgKey 0x050 (n % 6) s

/-- Provisioning with what was read of the key. -/
def provisionWith (slot : Nat) (r : Option (List Byte) × State) : State :=
  match r.1, r.2.sec.kek with
  | some k, some kek => writeKey slot kek k r.2
  | _, _ => provOpen r.2

/-- Provisioning once instance K serves. -/
def provision (slot : Nat) (s : State) : State := provisionWith slot (keyBytes (regPair s pgKey 0x048) 32 s)

/-- A write of PROV_CTRL (R572): ignored while BUSY. -/
def provWrite (v : Nat) (s : State) : State :=
  if reg s pgKey 0x050 = 1 then s
  else if s.fuses.life ≠ 1 ∨ !maintNow s then setReg pgKey 0x050 3 s
  else if canServe s instK then provision (v % 2) s
  else askDrbg instK 2 (v % 2) (setReg pgKey 0x050 1 s)

/-! ## Attestation (R575) -/

/-- A public key of 64 bytes; zero without one. -/
def pubOf (seed : Option (List Byte)) : List Byte := (seed.map slhPublic).getD (zeros 64)

/-- The REV fuses as bits. -/
def revBits (s : State) : Nat := sumN (s.fuses.revoked.zipIdx.map fun r => b2n r.1 * 2 ^ r.2)

/-- The nonce. -/
def attNonce (s : State) : List Byte := ((List.range 8).map fun i => leBytes 4 (reg s pgKey (0x080 + 4 * i))).flatten

/-- The 256-byte body. -/
def attBody (s : State) : List Byte :=
  leBytes 4 0x54535441 ++ leBytes 2 1 ++ leBytes 1 s.fuses.life ++ leBytes 1 s.boot.slot ++ leBytes 8 Config.serial.toNat ++
    leBytes 8 (s.cert.bootId.getD 0) ++ leBytes 8 s.now ++ attNonce s ++ (s.boot.fwDigest ++ zeros 32).take 32 ++
    pubOf s.sec.idSeed ++ pubOf s.sec.resSeed ++ leBytes 4 (fwSvn (bootedSlot s)) ++ leBytes 1 (fwKey (bootedSlot s)) ++ leBytes 1 (revBits s) ++
    leBytes 2 (b2n s.calNow.isEmpty + 2 * b2n s.sec.linkKey.isSome + 4 * b2n s.sec.imageKey.isSome + 8 * b2n (decide (2 ≤ s.ent.service))) ++
    leBytes 4 s.fuses.svnMin ++ zeros 20

/-- The evidence: the body and its signature. -/
def evidence (s : State) (seed : List Byte) : List Byte :=
  let b := attBody s
  b ++ slhSign seed b

/-- A write of ATT_CMD, `reply` telling how the buffer's write ends; bits [5:0] of ATT_DST are ignored (log entry 41). -/
def attWrite (v : Nat) (reply : Cpl) (s : State) : State :=
  if v.testBit 0 then
    match s.sec.idSeed with
    | none => setReg pgKey 0x060 3 s
    | some k =>
      let s := emit (.hostWrite (regPair s pgKey 0x058 / 64 * 64) (evidence s k)) s
      setReg pgKey 0x060 (if (cplData reply).isSome then 2 else 4) (noteCpl reply s)
  else s

end Sys2Proof.Machine
end

