-- ==== Sys2Proof/Machine/EntropyOps.lean ====
section
/-!
DEFINITION. The entropy service at work: start-up tests, failures and retests of the sources, conditioned blocks, reseeds, the
requests that wait for an instance (R413, R576 to R586).
-/
namespace Sys2Proof.Machine

/-! ## Sources (R578 to R581) -/

/-- The sources are powered: the ROM has started their tests. -/
def entropyOn (s : State) : Bool :=
  decide (s.boot.phase = .starting) || decide (s.boot.phase = .running) || decide (s.boot.phase = .recovery)

/-- A source is HEALTHY from now on. -/
def healSource (i : Nat) (s : State) : State := updEnt (fun e => { e with sources := updAt e.sources i fun _ => 1 }) s

/-- The outcome of a start-up test of a source. -/
def testSource (s : State) (i : Nat) (pass : Bool) : State := if pass then healSource i s else failSource i s

/-- START_UP_TESTS_END (R579, R581): the sources become HEALTHY or FAILED, and the service leaves STARTUP. -/
def execStartUpTestsEnd (ring arbiter thermal : Bool) (s : State) : Host.Outcome State Fault Refusal :=
  act true (entropyOn s && decide (s.ent.service = 0)) s
    (settleService (testSource (testSource (testSource s 0 ring) 1 arbiter) 2 thermal))

/-- ENTROPY_TEST_TRIP (R578): a healthy source fails and is excluded. -/
def execEntropyTestTrip (k : Nat) (s : State) : Host.Outcome State Fault Refusal :=
  act (decide (k < 3)) (decide (s.ent.service ≠ 0) && decide (sourceSt s k = 1) && mayTrip s k) s (settleService (failSource k s))

/-- A failed rerun: the next one begins a second after it (log entry 23). -/
def retestAgain (k : Nat) (s : State) : State :=
  updEnt (fun e => { e with retestAt := updAt e.retestAt k fun t => t + 1000000000 }) s

/-- A rerun of the start-up test has taken its 256 µs. -/
def retestOver (s : State) (k : Nat) : Bool := decide (sourceSt s k = 2) && decide (nth s.ent.retestAt k 0 + 256000 ≤ s.now)

/-- SOURCE_RETEST (R579): the rerun of a failed source's start-up test ends, and the source rejoins when it passed. -/
def execSourceRetest (k : Nat) (pass : Bool) (s : State) : Host.Outcome State Fault Refusal :=
  act (decide (k < 3)) (retestOver s k && mayEnd s k pass) s
    (if pass then settleService (healSource k s) else retestAgain k s)

/-! ## Requests that wait (R583, R584) -/

/-- A request still has its client: an invocation without its seed, an unfinished provisioning, a link in TRAINING. -/
def reqLive (s : State) (r : EntReq) : Bool :=
  match r.purpose with
  | 0 => s.cert.bootId.isNone
  | 1 => ctxIs s r.ctx fun x => decide (x.life = .running) && !x.seeded && x.inputsIn
  | 2 => decide (reg s pgKey 0x050 = 1)
  | _ => decide ((linkOf s r.ctx).st = 1)

/-- Draws the initial epoch of a link. -/
def epochDrawn (l : Nat) (s : State) : State := let (b, s) := drbgTake instL 4 s; setEpoch l b s

/-- Serves a request of an instance that can serve; BOOT_ID has a command of its own. -/
def serveReq (s : State) (r : EntReq) : State :=
  if reqLive s r && canServe s r.inst then
    match r.purpose with
    | 1 => takeSeed r.ctx s
    | 2 => provision r.ctx s
    | 4 => epochDrawn r.ctx s
    | _ => s
  else s

/-- Serves the requests that wait for an instance, in their order. -/
def serveWaiting (i : Nat) (s : State) : State :=
  let mine (r : EntReq) : Bool := decide (r.inst = i) && decide (r.purpose ≠ 0)
  let rs := s.ent.reqs.filter mine
  let s := updEnt (fun e => { e with reqs := e.reqs.filter fun r => !mine r }) s
  let s := rs.foldl serveReq s
  if i = instH ∧ reg s pgEntropy 0x050 % 8 = 1 then serveH s else s

/-! ## Conditioned blocks (R577, R580, R583) -/

/-- A block equal to the one before it fails every source (R580). -/
def repeatedBlock (s : State) : State :=
  settleService ((List.range 3).foldl (fun s i => if sourceSt s i = 1 then failSource i s else s) s)

/-- A block goes to a waiting instance, which serves what waits for it once it is seeded. -/
def giveBlock (b : List Byte) (s : State) : State :=
  let s := updEnt (fun e => { e with prev := b }) s
  let r := absorbBlock b s
  match r.1 with
  | some i => pump (serveWaiting i r.2)
  | none => r.2

/-- CONDITIONED_BLOCK (R577, R580, R583): a 256-bit block is ready. -/
def execConditionedBlock (b : List Byte) (s : State) : Host.Outcome State Fault Refusal :=
  act true (decide (b.length = 32) && (decide (s.ent.service = 1) || decide (s.ent.service = 2))) s
    (if b = s.ent.prev then repeatedBlock s else giveBlock b s)

/-- An instance has served 2¹⁶ requests or is 60 s old. -/
def reseedDue (s : State) (i : Nat) : Bool :=
  let d := drbgOf s i
  decide (d.st = drbgReady) && (decide (2 ^ 16 ≤ d.count) || decide (d.seededAt + 60000000000 ≤ s.now))

/-- DRBG_RESEED_DUE (R582): the reseed of an instance falls due. -/
def execDrbgReseedDue (i : Nat) (s : State) : Host.Outcome State Fault Refusal :=
  act (decide (i < 4)) (reseedDue s i) s (updDrbg i (fun d => { d with st := drbgDue }) s)

/-- What a failed request does to its client. -/
def reqClient (r : EntReq) (s : State) : State :=
  match r.purpose with
  | 1 => endWith r.ctx ⟨stSeedUnavailable, 0, 0⟩ s
  | 2 => setReg pgKey 0x050 4 s
  | 4 => updLink r.ctx (fun k => linkFresh k 0 2 (s.now + 100000000) s.now) s
  | _ => s

/-- A request has waited its 10 ms; one without a client is dropped. -/
def reqTimeout (k : Nat) (r : EntReq) (s : State) : State :=
  let live := reqLive s r
  let s := updEnt (fun e => { e with reqs := e.reqs.eraseIdx k }) s
  if live then pump (reqClient r (reqFails s)) else s

/-- ENTROPY_REQUEST_TIMEOUT (R583, R584, R572, R574): the `k`-th waiting request, past its 10 ms, fails. -/
def execEntropyRequestTimeout (k : Nat) (s : State) : Host.Outcome State Fault Refusal :=
  match s.ent.reqs[k]? with
  | none => .next s
  | some r => act true (reqDue s r && !canServe s r.inst) s (reqTimeout k r s)

/-- BOOT_ID is asked for, not drawn, and K serves. -/
def bootIdReady (s : State) : Bool :=
  s.cert.bootId.isNone && s.ent.reqs.any (fun r => decide (r.purpose = 0)) && canServe s instK

/-- The certificates that waited for BOOT_ID take it (R413). -/
def stampBootId (b : List Byte) (u : CertUnit) : CertUnit :=
  let f (cs : List CertW) : List CertW := cs.map fun c => { c with bytes := splice c.bytes 0x1F0 b }
  let g (w : Window) : Window := { w with certs := f w.certs }
  { u with bootId := some (leNat b), current := u.current.map g, closed := u.closed.map g, overflow := f u.overflow }

/-- BOOT_ID is drawn: certificates can be issued and signed, and a change to SERVICE that waited for it can end (R584). -/
def drawBootId (s : State) : State :=
  let (b, s) := drbgTake instK 8 s
  let s := updEnt (fun e => { e with reqs := e.reqs.filter fun r => decide (r.purpose ≠ 0) }) s
  pump (updCert (stampBootId b) s)

/-- BOOT_ID_DRAW (R413, R583, R584). -/
def execBootIdDraw (s : State) : Host.Outcome State Fault Refusal := act true (bootIdReady s) s (drawBootId s)

end Sys2Proof.Machine
end

