-- ==== Sys2Proof/Machine/Power.lean ====
section
/-!
DEFINITION. The reef controller, VCORE requests, margin codes (R592 to R602, R657, R658), and the trace of their changes (R40).
-/
namespace Sys2Proof.Machine

/-! ## VCORE (R597, R600, R601) -/

/-- Changes what the reef controller holds. -/
def updPower (f : Power → Power) (s : State) : State := { s with power := f s.power }

/-- The records of the trace stream: 0 a level, 1 a request, 2 a tile's margin code, 3 a scrubber's period (R40). -/
def traceNote (kind v : Nat) (s : State) : State := emit (.trace kind v) s

/-- REEF_CTRL.ADAPT. -/
def reefAdapt (s : State) : Bool := (reg s pgPower 0x040).testBit 0

/-- V_spd in mV. -/
def vSpeed (s : State) : Int := if reefAdapt s then s.power.vspd else 750

/-- V_req in mV; a value half-way between two steps is rounded up (DESIGN CHOICE, log entry 42). -/
def vReq (s : State) : Nat :=
  if s.thermTripped then reg s pgPower 0x050
  else
    let v : Int := (vSpeed s - 15 * s.power.level) * 1000 + reg s pgPower 0x06C * calRll s.calNow
    ((clampI v (reg s pgPower 0x050 * 1000) (reg s pgPower 0x054 * 1000)).toNat + 2500) / 5000 * 5

/-- The window takes in a new request, and stays for 10 µs per 5 mV and 20 µs; changes that overlap, and repeats of a request that has failed,
widen one window (DEDUCED, log entry 107). -/
def widenWindow (v : Nat) (s : State) : State :=
  let w := if s.power.avsOut then (min s.power.vlo s.power.vreq, max s.power.vhi s.power.vreq) else vTargets s
  let lo := min w.1 v
  let hi := max w.2 v
  updPower (fun p => { p with vlo := lo, vhi := hi, vuntil := max p.vuntil (s.now + 2000 * max (v - lo) (hi - v) + 20000) }) s

/-- Requests VCORE over AVSBus. -/
def sendAvs (s : State) : State :=
  let v := vReq s
  emit (.avsRequest v) (setReg pgPower 0x064 v (updPower (fun p => { p with vreq := v, avsOut := true, lastAvs := s.now }) (widenWindow v s)))

/-- Requests VCORE where the request changes. -/
def followVreq (s : State) : State := if vReq s = s.power.vreq then s else traceNote 1 (vReq s) (sendAvs s)

/-! ## The level (R598 to R600) -/

/-- The floor on the level in force. -/
def reefFloor (s : State) : Nat := max (reg s pgPower 0x044 % 8) (if s.calNow.isEmpty then 4 else 0)

/-- The issue limit changes. -/
def setIssue (n : Nat) (s : State) : State := updPower (fun p => { p with issueLevel := n, pendingLimit := none, ackedAt := none }) (noteOp s)

/-- The issue limit of a level that rises; after a fall that is not acknowledged yet it may stand higher, and then waits. -/
def riseIssue (n : Nat) (s : State) : State :=
  let s := settleIssue s
  if s.power.issueLevel ≤ n then setIssue n s else updPower (fun p => { p with pendingLimit := some n }) s

/-- OVERRIDE becomes 1 (R35). -/
def setOverride (s : State) : State :=
  if (reg s pgPower 0x060).testBit 0 then s else raise pgPower 0 (setBit pgPower 0x060 0 true s)

/-- The level rises: the issue limit first, then the lower VCORE. -/
def levelUp (n : Nat) (s : State) : State :=
  if n ≤ s.power.level then s
  else followVreq (riseIssue n (traceNote 0 n (bump pgPower 0x074 (updPower (fun p => { p with level := n }) s))))

/-- A trigger raises the level by `k`; a raise above REEF_MAX overrides it (R35, R599). -/
def triggerRaise (k : Nat) (s : State) : State :=
  let n := min 7 (s.power.level + k)
  levelUp n (if reg s pgPower 0x048 % 8 < n then setOverride s else s)

/-- The level falls to `n`: the higher VCORE first; the issue limit follows its acknowledgement. -/
def fallTo (n : Nat) (s : State) : State :=
  let s := settleIssue s
  traceNote 1 (vReq (updPower (fun p => { p with level := n }) s))
    (sendAvs (traceNote 0 n (updPower (fun p => { p with level := n, pendingLimit := some n, ackedAt := none, clearSince := s.now }) s)))

/-- The level falls by one. -/
def levelDown (s : State) : State := fallTo (s.power.level - 1) s

/-- Some trigger is active; a failed AVSBus request counts as a Regulator trigger (R658). -/
def anyTrigger (s : State) : Bool := !s.power.triggers.isEmpty || s.power.avsFailed

/-- A committed REEF_MAX below the level clamps the level to it, though not below the floor, and not while a trigger demands more
(R34, R35; DEDUCED, log entry 100). -/
def clampLevel (s : State) : State :=
  let n := max (reefFloor s) (reg s pgPower 0x048 % 8)
  if n < s.power.level ∧ !anyTrigger s then fallTo n s else s

/-! ## Triggers: 0 Power, 1 Power surge, 2 Thermal, 3 Regulator, 4 Margin -/

/-- A trigger is active from now on, or again. -/
def setTrigger (k : Nat) (s : State) : State :=
  updPower (fun p => { p with triggers := (k, s.now) :: p.triggers.filter fun t => decide (t.1 ≠ k) }) s

/-- A trigger that raises at once. -/
def raiseNow (k by_ : Nat) (s : State) : State := triggerRaise by_ (setTrigger k s)

/-- The hottest sensor, in 1/16 °C, and its index. -/
def hottest (s : State) : Int × Nat :=
  s.sensors.zipIdx.foldl (fun (a : Int × Nat) (e : Int × Nat) => if e.2 = 0 ∨ a.1 < e.1 then e else a) (0, 0)

/-- The clear condition of an active trigger. -/
def triggerClears (s : State) (p1ms : Nat) (t : Nat × Nat) : Bool :=
  match t.1 with
  | 0 | 1 => decide (100 * p1ms ≤ 95 * reg s pgPower 0x04C)
  | 2 => decide ((hottest s).1 ≤ ((reg s pgTherm 0x04C : Int) - 3) * 16)
  | 3 => !s.power.alert && decide (s.power.alertAt + 1000000 ≤ s.now)
  | _ => decide (t.2 + 10000000 ≤ s.now)

/-- The triggers whose clear conditions hold are cleared. -/
def clearTriggers (p1ms : Nat) (s : State) : State :=
  let before := anyTrigger s
  let s := updPower (fun p => { p with triggers := p.triggers.filter fun t => !triggerClears s p1ms t }) s
  if before && !anyTrigger s then updPower (fun p => { p with clearSince := s.now }) s else s

/-- The level falls after 1 ms without a trigger, down to its floor. -/
def reefFall (s : State) : State :=
  if !anyTrigger s && decide (s.power.clearSince + 1000000 ≤ s.now) && decide (reefFloor s < s.power.level) then levelDown s else s

/-- Package power: VCORE × I and the record's estimate of the other rails (R601). -/
def packageW (s : State) (core : Nat) : Nat := core + calOther s.calNow

/-- ALERT_N as an evaluation samples it (R598): low raises as the Regulator trigger where that is not active yet; its clear condition counts
from the first sample that is high. -/
def holdAlert (low : Bool) (s : State) : State :=
  if low then
    let s := updPower (fun p => { p with alert := true }) s
    if s.power.triggers.any fun t => decide (t.1 = 3) then s else raiseNow 3 2 (raise pgPower 2 s)
  else if s.power.alert then updPower (fun p => { p with alert := false, alertAt := s.now }) s
  else s

/-- One evaluation: telemetry, clear conditions, raise conditions, the fall, the floor, the request. -/
def reefEval (m : ReefMeas) (s : State) : State :=
  let s := setReg pgPower 0x070 (packageW s m.core100us) (setReg pgPower 0x06C m.icoreA (setReg pgPower 0x068 m.vcoreMv s))
  let s := updPower (fun p => { p with lastEval := s.now, vspd := if reefAdapt s then p.vspd else 750 }) s
  let s := clearTriggers (packageW s m.core1ms) (holdAlert m.alertLow s)
  let s := if reg s pgPower 0x04C < packageW s m.core100us then raiseNow 0 1 s else s
  let s := if ((reg s pgTherm 0x04C : Nat) : Int) * 16 ≤ (hottest s).1 then raiseNow 2 1 s else s
  followVreq (levelUp (reefFloor s) (reefFall s))

/-! ## AVSBus (R600, R658) -/

/-- The request is acknowledged: an issue limit that waits for it follows in 10 µs. -/
def ackAvs (s : State) : State :=
  let was := s.power.avsFailed
  let s := updPower (fun p => { p with avsOut := false, avsFailed := false }) s
  let s := if was && s.power.triggers.isEmpty then updPower (fun p => { p with clearSince := s.now }) s else s
  if s.power.pendingLimit.isSome ∧ s.power.ackedAt.isNone then updPower (fun p => { p with ackedAt := some s.now }) s else s

/-- AVS_ACK (R600): the regulator acknowledges the request; the issue limit that waits for it changes 10 µs later. -/
def execAvsAck (s : State) : Host.Outcome State Fault Refusal := act true (alive s && s.power.avsOut) s (ackAvs s)

/-- A request has failed: it is counted, and raises as a Regulator trigger when the failure is new. -/
def avsFails (s : State) : State :=
  let was := s.power.avsFailed
  let s := raise pgPower 1 (bump pgPower 0x078 s)
  let s := updPower (fun p => { p with avsFailed := true }) s
  if was then s else triggerRaise 2 s

/-- AVS_RETRY (R658): the failed request is repeated every 100 µs; `ok` tells whether the repeat succeeds. -/
def execAvsRetry (ok : Bool) (s : State) : Host.Outcome State Fault Refusal :=
  let t := sendAvs (avsFails s)
  act true (alive s && s.power.avsOut && decide (s.power.lastAvs + 100000 ≤ s.now)) s (if ok then ackAvs t else t)

/-- ALERT_N is low; once the firmware runs, that raises. -/
def alertFalls (s : State) : State :=
  let s := updPower (fun p => { p with alert := true }) s
  if alive s then raiseNow 3 2 (raise pgPower 2 s) else s

/-- ALERT_N_FALL (R598): the Regulator trigger raises the level by two at once. -/
def execAlertNFall (s : State) : Host.Outcome State Fault Refusal := act true true s (alertFalls s)

/-- POWER_SURGE (R598): the level rises by two at once. -/
def execPowerSurge (s : State) : Host.Outcome State Fault Refusal := act true (alive s) s (raiseNow 1 2 s)

/-- One evaluation of the speed voltage (R597): RATE_MIN follows the measured rate. -/
def speedEval (rate : Nat) (s : State) : State :=
  let s := setReg pgSpeed 0x054 (min rate 65535) (noteOp s)
  let t := reg s pgPower 0x058
  let r := min rate 65535
  let step (v : Int) : Int := if r < t then v + 5 else if 102 * t < 100 * r then v - 5 else v
  let s := updPower (fun p => { p with lastSpd := s.now, vspd := if reefAdapt s && !anyTrigger s then step p.vspd else p.vspd }) s
  followVreq s

/-- VSPD_EVALUATION (R597): every 10 ms. -/
def execVspdEvaluation (rateMin : Nat) (s : State) : Host.Outcome State Fault Refusal :=
  act true (alive s && decide (s.power.lastSpd + 10000000 ≤ s.now)) s (speedEval rateMin s)

/-! ## Margin codes (R592, R593, R595) -/

/-- A tile's margin. -/
def marginOf (s : State) (p : Nat) : Margin := nth s.margins p ⟨0, 0, true, 0, 15⟩

/-- A tile's code changes. -/
def setCode (p c : Nat) (s : State) : State :=
  if (marginOf s p).code = c then s else traceNote 2 (16 * p + c) { s with margins := updAt s.margins p fun m => { m with code := c } }

/-- A tile takes committed values: ADAPT, MARGIN_MIN, MARGIN_MAX (R595). -/
def takeBounds (b : Bool × Nat × Nat) (p : Nat) (s : State) : State :=
  let s := { s with margins := updAt s.margins p fun m => { m with adapt := b.1, lo := b.2.1, hi := b.2.2 } }
  setCode p (boundCode (marginOf s p)) s

/-- The values in force act on every tile. -/
def boundCodes (s : State) : State :=
  (List.range 36).foldl (fun s p => takeBounds ((reg s pgSpeed 0x040).testBit 0, reg s pgSpeed 0x044 % 16, reg s pgSpeed 0x048 % 16) p s) s

/-- A lane fires: the code rises, or the Margin trigger raises the level. -/
def canaryFires (p : Nat) (s : State) : State :=
  let m := marginOf s p
  let s := bump pgSpeed 0x058 s
  if m.code < codeMax m then setCode p (m.code + 1) s else raiseNow 4 1 s

/-- CANARY_FIRE (R593, R598). -/
def execCanaryFire (p : Nat) (s : State) : Host.Outcome State Fault Refusal := act (decide (p < 36)) (alive s) s (canaryFires p s)

/-- MARGIN_DECAY (R593): 2³⁰ handshake steps without a firing. -/
def execMarginDecay (p : Nat) (s : State) : Host.Outcome State Fault Refusal :=
  let m := marginOf s p
  act (decide (p < 36)) (alive s && m.adapt && decide (codeFloor m < m.code)) s (setCode p (m.code - 1) s)

/-! ## Sensors (R603 to R605) -/

/-- A hold begins at 105 °C and ends at 100 °C. -/
def holdIssue (s : State) : State :=
  let h := (hottest s).1
  if s.issueHold then { s with issueHold := decide (1600 < h) }
  else if 1680 ≤ h then bump pgTherm 0x050 { s with issueHold := true }
  else s

/-- The sensors read; the trims of the record in force are added. -/
def sampleSensors (ts : List Int) (s : State) : State :=
  let read (e : Int × Nat) : Int := clampI (e.1 + calTrim s.calNow e.2) (-32768) 32767
  holdIssue { s with sensors := ts.zipIdx.map read }

/-- All issue stops: THERMTRIP_N is low until a cold reset, and VCORE_MIN is requested. -/
def tripNow (s : State) : State := followVreq (emit (.thermtrip true) { s with thermTripped := true })

/-- THERMTRIP (R605): a sensor reaches 115 °C. -/
def execThermtrip (k : Nat) (s : State) : Host.Outcome State Fault Refusal :=
  act (decide (k < 41)) (decide (s.boot.phase ≠ .held) && !s.thermTripped) s (tripNow s)

end Sys2Proof.Machine
end

