-- ==== Sys2Proof/Machine/TimeOps.lean ====
section
/-!
DEFINITION. The time base: PPS, PTM, steps of the counter and what moves with it (R503 to R505, R608).
-/
namespace Sys2Proof.Machine

/-! ## RATE (R503, R504) -/

/-- The device trims RATE itself: a free value within its clamp. -/
def trimRate (s : State) : State :=
  let (n, s) := freshNat s
  setReg pgTime 0x050 (unsigned 32 ((n % 4294969 : Nat) - (2147484 : Int))) s

/-- SYNC_CTRL bits. -/
def syncCtrl (s : State) (i : Nat) : Bool := (reg s pgTime 0x054).testBit i

/-- SYNC_STATUS bits. -/
def syncStatus (s : State) (i : Nat) : Bool := (reg s pgTime 0x068).testBit i

/-- The counter is within 100 ns of a multiple of 10⁹. -/
def nearSecond (t : Nat) : Bool := decide (t % 1000000000 ≤ 100) || decide (999999900 ≤ t % 1000000000)

/-- An edge: the latch, PPS present, PPS locked, the discipline. -/
def ppsEdge (s : State) : State :=
  let s := if syncCtrl s 0 then setWide pgTime 0x058 s.now s else s
  let s := setBit pgTime 0x068 1 (nearSecond s.now) (setBit pgTime 0x068 0 true { s with ppsLast := some s.now })
  if syncCtrl s 1 then trimRate s else s

/-- PPS_IN_EDGE (R503, R504): a rising edge of PPS_IN. -/
def execPpsInEdge (s : State) : Host.Outcome State Fault Refusal := act true (alive s) s (ppsEdge s)

/-- 1.5 s have passed since the last edge. -/
def ppsLost (s : State) : Bool := match s.ppsLast with | some t => decide (t + 1500000000 ≤ s.now) | none => false

/-- PPS_LOSS (R504): PPS present clears, and with it PPS locked. -/
def execPpsLoss (s : State) : Host.Outcome State Fault Refusal :=
  act true (ppsLost s) s (setBit pgTime 0x068 1 false (setBit pgTime 0x068 0 false { s with ppsLast := none }))

/-- PPS discipline governs. -/
def ppsGoverns (s : State) : Bool := syncCtrl s 1 && syncStatus s 0

/-- An exchange: PTM_OFFSET, PTM valid, and with tracking RATE unless PPS discipline governs. -/
def ptmDone (t : Nat) (s : State) : State :=
  let s := setWide pgTime 0x060 (unsigned 64 ((t : Int) - s.now)) (setBit pgTime 0x068 2 true { s with ptmLast := s.now })
  if syncCtrl s 3 && !ppsGoverns s then trimRate s else s

/-- PTM_EXCHANGE (R504): every 10 ms, with PTM requester set. -/
def execPtmExchange (t : Nat) (s : State) : Host.Outcome State Fault Refusal :=
  act true (alive s && s.pcieUp && syncCtrl s 2 && decide (s.ptmLast + 10000000 ≤ s.now)) s (ptmDone t s)

/-- TIMECLK_LOSS (R608): the PLLs are in holdover. -/
def execTimeclkLoss (s : State) : Host.Outcome State Fault Refusal :=
  act true (decide (s.boot.phase ≠ .held) && !(reg s pgDev oStatus).testBit 0) s (raise pgDev 1 (setBit pgDev oStatus 0 true s))

/-- TIMECLK_RELOCK (R608): the PLLs have relocked. -/
def execTimeclkRelock (s : State) : Host.Outcome State Fault Refusal :=
  act true (reg s pgDev oStatus |>.testBit 0) s (setBit pgDev oStatus 0 false s)

/-! ## Steps of the counter (R503, R505) -/

/-- A time that moves with the counter. -/
def shiftT (d : Int) (t : Nat) : Nat := ((t : Int) + d).toNat

/-- The times of a link from which intervals are measured. -/
def shiftLink (d : Int) (k : Link) : Link :=
  { k with since := shiftT d k.since, downAt := shiftT d k.downAt, rxFirst := k.rxFirst.map (shiftT d),
           replay := k.replay.map fun e => { e with sentAt := shiftT d e.sentAt, firstAt := shiftT d e.firstAt } }

/-- Those of a context; its recorded times and its release time stay. -/
def shiftCtx (d : Int) (x : Ctx) : Ctx :=
  { x with waitStart := shiftT d x.waitStart, waits := x.waits.map (fun w => { w with polledAt := w.polledAt.map (shiftT d) }), frozenAt := x.frozenAt.map (shiftT d), tSlice := shiftT d x.tSlice, blocked := x.blocked.map (shiftT d),
           curs := x.curs.map fun u => { u with swaitEnd := u.swaitEnd.map (shiftT d) },
           md := x.md.map fun m => { m with lastProgress := shiftT d m.lastProgress, heard := m.heard.map (shiftT d),
                                            collectFrom := m.collectFrom.map (shiftT d) } }

/-- Those of the reef controller. -/
def shiftPower (d : Int) (p : Power) : Power :=
  { p with triggers := p.triggers.map fun t => (t.1, shiftT d t.2), clearSince := shiftT d p.clearSince, lastEval := shiftT d p.lastEval,
           lastAvs := shiftT d p.lastAvs, lastSpd := shiftT d p.lastSpd, ackedAt := p.ackedAt.map (shiftT d), alertAt := shiftT d p.alertAt,
           vuntil := shiftT d p.vuntil, hist := p.hist.map fun h => (shiftT d h.1, h.2) }

/-- Those of the entropy service. -/
def shiftEnt (d : Int) (e : Entropy) : Entropy :=
  { e with retestAt := e.retestAt.map (shiftT d), insts := e.insts.map fun i => { i with seededAt := shiftT d i.seededAt },
           reqs := e.reqs.map fun r => { r with at_ := shiftT d r.at_ }, pattern := e.pattern.map (shiftT d) }

/-- Those of messages, claims and aborted runs. -/
def shiftNet (d : Int) (n : Net) : Net :=
  { n with out := n.out.map fun o => { o with sentAt := shiftT d o.sentAt }, aborted := n.aborted.map fun a => (a.1, shiftT d a.2),
           claim := n.claim.map fun c => { c with probedAt := shiftT d c.probedAt, failAt := shiftT d c.failAt },
           inbox := n.inbox.map fun i => if isEarlyStart i.src i then { i with msg := shiftT d i.msg } else i }

/-- Every time from which the device measures an interval moves with the counter: no timer notices a step (DESIGN CHOICE, log
entry 43). -/
def shiftTimes (d : Int) (s : State) : State :=
  { s with
    ctxs := s.ctxs.map (shiftCtx d), links := s.links.map (shiftLink d), power := shiftPower d s.power, ent := shiftEnt d s.ent
    net := shiftNet d s.net, queues := s.queues.map fun q => { q with coOldest := q.coOldest.map (shiftT d) }
    stallSince := s.stallSince.map (shiftT d), auditStarted := shiftT d s.auditStarted
    cert := { s.cert with current := s.cert.current.map fun w => { w with opened := shiftT d w.opened } }
    substs := s.substs.map fun u => { u with started := shiftT d u.started }
    scrubs := s.scrubs.map fun c => { c with nextAt := shiftT d c.nextAt }
    boot := { s.boot with startAt := shiftT d s.boot.startAt, warm := s.boot.warm.map fun w => (w.1, shiftT d w.2) }
    txns := s.txns.map fun t => (t.1, { t.2 with began := shiftT d t.2.began })
    group := { s.group with began := shiftT d s.group.began, committed := shiftT d s.group.committed }
    ppsLast := s.ppsLast.map (shiftT d), ptmLast := shiftT d s.ptmLast }

/-- How many releases of a program a new time has passed: those up to the first grid point after it. -/
def releasesPassed (now : Nat) (p : BellProg) : Nat :=
  if releaseTime p p.next ≤ now then (now - releaseTime p p.next) / max 1 (bkPeriod p.block) + 1 else 0

/-- The releases that a forward step passes are withdrawn, and with them one that is still held (R487, R505). -/
def withdrawPassed (s : State) (q : Nat) : State :=
  (bellOf s q).progs.foldl (fun s p =>
    let k := releasesPassed s.now p
    if k = 0 then s
    else bumpN (pgQue q) 0x120 (k + b2n p.held.isSome) (updBellProg q p.prog (fun g => { g with next := g.next + k, held := none }) s)) s

/-- A committed step is added to the counter once. -/
def stepTime64 (d : Int) (s : State) : State :=
  let s := setRegPair pgTime 0x048 0 s
  let s := shiftTimes d { s with now := (((s.now : Int) + d) % 2 ^ 64).toNat }
  if devState s = 1 then withdrawPassed (withdrawPassed s 0) 1 else s

end Sys2Proof.Machine
end

