-- ==== Sys2Proof/Machine/Scrub.lean ====
section
/-!
DEFINITION. The scrubbers (R530 to R533, R540, R542). Scrubber 4t + m reads memory m (Slate, exchange window, accumulator, field
store) of tile t, scrubber 144 + q bonded die q, scrubber 148 + q LPDDR6 controller q.
-/
namespace Sys2Proof.Machine

/-! ## What a scrubber reads -/

/-- The base of a scrubber's registers in the SCRUB page. -/
def scrubGroup (k : Nat) : Nat := if k < 144 then 0x040 else if k < 148 then 0x060 else 0x080

/-- The words of a scrubber's memory. -/
def scrubWords (s : State) (k : Nat) : Nat :=
  if k < 144 then (match k % 4 with | 0 => 4194304 | 1 => 131072 | _ => 1048576)
  else if k < 148 then 9 * 2 ^ 25 else usable s / 128

/-- The address of a scrubber's word; `none` for the SRAM of a tile that hosts no engine, which holds nothing. -/
def scrubAddr (s : State) (k i : Nat) : Option Nat :=
  if k < 144 then
    let t := nth s.tileSt (k / 4) ⟨.retired, 0, false, 0⟩
    if t.role = .active then
      some (match k % 4 with
        | 0 => slateBase t.eng + 8 * i
        | 1 => xwinBase t.eng + 8 * i
        | 2 => accKey t.eng (8 * i)
        | _ => fieldKey t.eng i)
    else none
  else if k < 148 then some (physBase (9 * (k - 144)) + 32 * i)
  else
    let j := i / 112
    some (3584 * (j / 4 * 16 + 4 * (k - 148) + j % 4) + 32 * (i % 112))

/-- A scrubber. -/
def scrubOf (s : State) (k : Nat) : Scrub := nth s.scrubs k ⟨0, 0, 0, 0, 0, true, 0, 0⟩

/-- Changes a scrubber. -/
def updScrub (k : Nat) (f : Scrub → Scrub) (s : State) : State := { s with scrubs := updAt s.scrubs k f }

/-! ## Periods (R532, R533) -/

/-- Sets a scrubber's period; a change is traced, and PERIOD_CUR follows. -/
def setPeriod (k p : Nat) (s : State) : State :=
  let g := scrubGroup k
  let s := if (scrubOf s k).period = p then s else traceNote 3 (k * 2 ^ 20 + p) (updScrub k (fun c => { c with period := p }) s)
  let ps := (s.scrubs.zipIdx.filter fun c => decide (scrubGroup c.2 = g)).map (·.1.period)
  setReg pgScrub (g + 0x10) (ps.foldl min (ps.headD 0)) s

/-- A pass begins: committed values take effect (R533), and the next pass is one period away. -/
def beginPass (k : Nat) (s : State) : State :=
  let g := scrubGroup k
  let lo := reg s pgScrub (g + 8)
  let hi := reg s pgScrub (g + 0xC)
  let adapt := (reg s pgScrub g).testBit 1
  let p := if adapt then clampN (scrubOf s k).period lo hi else reg s pgScrub (g + 4)
  updScrub k (fun c => { c with nextAt := s.now + p * 1000000000, passCe := 0, adapt := adapt, lo := lo, hi := hi }) (setPeriod k p s)

/-- The period after a completed pass, and the clean passes in a row. -/
def nextPeriod (c : Scrub) : Nat × Nat :=
  if 8 ≤ c.passCe then (c.period / 2, 0)
  else if c.passCe = 0 then (if c.cleanPasses = 3 then (2 * c.period, 0) else (c.period, c.cleanPasses + 1))
  else (c.period, 0)

/-- A pass ends; its period adapts by the values that it began with. -/
def endPass (k : Nat) (s : State) : State :=
  let g := scrubGroup k
  let c := scrubOf s k
  let s := setReg pgScrub (g + 0x18) 0 (bump pgScrub (g + 0x14) s)
  let s := bumpN pgScrub (g + 0x18) c.passCe s
  let n := nextPeriod c
  let s := updScrub k (fun c => { c with pos := 0, cleanPasses := n.2 }) s
  if c.adapt then setPeriod k (clampN n.1 c.lo c.hi) s else s

/-! ## Findings (R531, R537, R540, R542) -/

/-- A repair-log entry of a word: 0 corrected by three passes, 1 a test pattern that did not read back. -/
def repairWord (kind w : Nat) (s : State) : State :=
  let idx := if isSram w then tileOf s (sramEng w) else if 0x018000000000 ≤ w then (w - 0x018000000000) / 2 ^ 30 else lmChannel w
  { s with repairQueue := s.repairQueue ++ [⟨kind, idx, w, if isSram w then sramEng w else 0⟩] }

/-- Follows the passes in which a word was CORRECTED at the same position: the third is logged. -/
def noteHit (w : Nat) (pos : Option Nat) (s : State) : State :=
  let old := (pos.bind fun p => (s.scrubHits.find? fun h => decide (h.1 = 1024 * w + p)).map (·.2)).getD 0
  let rest := s.scrubHits.filter fun h => decide (h.1 / 1024 ≠ w)
  match pos with
  | none => { s with scrubHits := rest }
  | some p =>
    let s := { s with scrubHits := (1024 * w + p, old + 1) :: rest }
    if old = 2 then repairWord 0 w s else s

/-- An offset of a home region holds residuals or the run record. -/
def runOff (off : Nat) : Bool :=
  (decide (0x31000000 ≤ off) && decide (off < 0x39000000)) || (decide (runRecOff ≤ off) && decide (off < 0x3B700000))

/-- Recovers an uncorrectable word that an invocation holds. -/
def scrubRecover (x : Ctx) (e w : Nat) (s : State) : State :=
  if isSram w then (if x.life = .running then recoverSram x e w s else s)
  else if (constAt s x w).isSome then recoverWord x.id e w s
  else
    match x.anneal, homeAt s w with
    | some a, some (_, off) =>
      if !annealUses a.prob e off then s
      else if coeffOff a.prob e off then recoverCoeff x.id a.prob w s
      else if runOff off then recoverRun x.id w s
      else s
    | _, _ => s

/-- The invocations that hold a word. -/
def wordUsers (s : State) (w : Nat) : List (Ctx × Nat) :=
  if isSram w then (usersOf s (sramEng w)).map fun x => (x, sramEng w)
  else match homeAt s w with
    | some (e, _) => (usersOf s e).map fun x => (x, e)
    | none => []

/-- The repair log has, or is to get, the entry of a word that no test pattern holds in. -/
def repairNoted (s : State) (w : Nat) : Bool := (s.flash.repair ++ s.repairQueue).any fun r => decide (r.kind = 1) && decide (r.loc = w)

/-- A test pattern is written to a poisoned word and read back; whether it holds, only the memory knows (a free value). The word stays
poisoned (R542; log entry 38). -/
def testPattern (w : Nat) (s : State) : State :=
  if repairNoted s w then s
  else
    let (n, s) := freshNat s
    if n % 2 = 1 then repairWord 1 w s else s

/-- An uncorrectable word is poisoned and tested; what an invocation holds is recovered at once, and what is held for a neighbour is asked
for again (R531, R537). -/
def scrubBad (w : Nat) (s : State) : State :=
  let s := testPattern w (poisonWord w s)
  (wordUsers s w).foldl (fun s x => scrubRecover x.1 x.2 w s) (rebuildMirror w s)

/-- A word of a scrubber is read. -/
def scrubWord (k w : Nat) (s : State) : State :=
  if markOf s w = noMark w then noteHit w none s
  else
    let r := noteRead 1 w s
    match r.1 with
    | .corrected p => noteHit w (some p) (wroteWord w (updScrub k (fun c => { c with passCe := c.passCe + 1 }) r.2))
    | .multi => scrubBad w (noteHit w none r.2)
    | .address => scrubBad w (noteHit w none r.2)
    | .poison => testPattern w (noteHit w none r.2)
    | .clean => noteHit w none r.2

/-- A scrubber may read its next word: a pass under way goes on, and one begins when its period has come, where its group is enabled. -/
def scrubMay (s : State) (k : Nat) : Bool :=
  alive s && (decide ((scrubOf s k).pos ≠ 0) ||
    ((reg s pgScrub (scrubGroup k)).testBit 0 && decide ((scrubOf s k).nextAt ≤ s.now)))

/-- The next word of a scrubber. -/
def scrubNext (k : Nat) (s : State) : State :=
  let i := (scrubOf s k).pos
  let s := if i = 0 then beginPass k s else s
  let s := match scrubAddr s k i with | some w => scrubWord k w s | none => s
  if scrubWords s k ≤ i + 1 then endPass k s else updScrub k (fun c => { c with pos := i + 1 }) s

/-- SCRUB_READ (R530 to R532): a scrubber reads the next word of its memory. -/
def execScrubRead (k : Nat) (s : State) : Host.Outcome State Fault Refusal :=
  actCfe (decide (k < 152)) (scrubMay s k) s (scrubNext k s)

end Sys2Proof.Machine
end

