-- ==== Sys2Proof/Machine/Txns.lean ====
section
/-!
DEFINITION. Transactions on a page and on a group of pages (R433, R478, R639 to R647). Only staged registers are applied (log entry 40).
-/
namespace Sys2Proof.Machine

/-! ## Outcomes of a transaction, as TXN_STATUS.LAST codes them (R639) -/

def lastCommitted : Nat := 1
def lastAborted : Nat := 2
def lastExpired : Nat := 3
def lastBusy : Nat := 4
def lastConflict : Nat := 5
def lastSafeTimeout : Nat := 6

/-- Changes the transaction of a page. -/
def updTxn (page : Nat) (f : Txn → Txn) (s : State) : State := setTxn page (f (txnOf s page)) s

/-- A command or a write that the page turns away (R640, R642). -/
def txnBusy (page : Nat) (s : State) : State := updTxn page (fun t => { t with last := lastBusy }) s

/-- The transaction of a page ends without being applied. -/
def endTxn (last : Nat) (t : Txn) : Txn := { t with st := .idle, staged := [], last := last }

/-- A page whose registers may be staged. -/
def txnPage (page : Nat) : Bool := match pageAt page with | some t => hasTxn t.1 | none => false

/-! ## Safe points (R645) -/

/-- A staged register. -/
def staged (t : Txn) (off : Nat) : Bool := t.staged.any fun e => decide (e.1 = off)

/-- The ring's geometry: base and size of the ring, base and size of the completion queue. -/
def geometry (off : Nat) : Bool := decide (0x040 ≤ off) && decide (off ≤ 0x054)

/-- A queue is DISABLED and holds no context. -/
def queueIdle (s : State) (q : Nat) : Bool := decide (qState s q = 0) && !s.ctxs.any fun x => decide (x.ring = q)

/-- The safe point of a QUE page (R433). -/
def queSafe (s : State) (q : Nat) (t : Txn) : Bool :=
  !(t.staged.any fun e => geometry e.1) || queueIdle s q ||
    (decide (qState s q = 2) && !(t.staged.any fun e => geometry e.1 && decide (e.1 < 0x04C)))

/-- A tile stands at a phase boundary or, outside an ANNEAL stage, between two instructions. -/
def tileSafe (s : State) (p : Nat) : Bool :=
  let t := nth s.tileSt p ⟨.retired, 0, false, 0⟩
  decide (t.role ≠ .active) || s.ctxs.all fun x =>
    decide (x.life ≠ .running) || atBoundary x || x.curs.all fun u => decide (u.eng ≠ t.eng) || !inAnnealStage (ctxImage s x) u

/-- The staged value of a register, else its value in force. -/
def stagedOr (s : State) (page : Nat) (t : Txn) (off : Nat) : Nat :=
  match t.staged.find? fun e => decide (e.1 = off) with
  | some e => e.2.toNat
  | none => reg s page off

/-- The values that a transaction on SPEED commits: ADAPT, MARGIN_MIN, MARGIN_MAX. -/
def speedVals (s : State) (t : Txn) : Bool × Nat × Nat :=
  ((stagedOr s pgSpeed t 0x040).testBit 0, stagedOr s pgSpeed t 0x044 % 16, stagedOr s pgSpeed t 0x048 % 16)

/-- A tile has taken values. -/
def tileHas (s : State) (b : Bool × Nat × Nat) (p : Nat) : Bool := decide (((marginOf s p).adapt, (marginOf s p).lo, (marginOf s p).hi) = b)

/-- Every tile that stands at its safe point takes what a transaction on SPEED commits (R595). -/
def tilesTake (t : Txn) (s : State) : State :=
  ((List.range 36).filter (tileSafe s)).foldl (fun u p => takeBounds (speedVals s t) p u) s

/-- A page stands at its safe point; SPEED, once every tile has had its own. -/
def safePoint (s : State) (page : Nat) (t : Txn) : Bool :=
  match tyOf page with
  | .eng => tileSafe s (instOf page)
  | .que => queSafe s (instOf page) t
  | .cfe => !staged t 0x060 || !s.ctxs.any fun x => decide (x.life = .switchedOut)
  | .link => (linkOf s (instOf page)).replay.isEmpty
  | .speed => (List.range 36).all fun p => tileSafe s p || tileHas s (speedVals s t) p
  | .power => decide (s.power.lastEval + 100000 ≤ s.now)
  | _ => true

/-- A page that applies at once where it stands at its safe point; another has a point to wait for. -/
def atOnce (page : Nat) : Bool :=
  match tyOf page with
  | .audit | .cert | .scrub | .time | .pcie | .que => true
  | _ => false

/-! ## Applying (R643) -/

/-- A BELL_PARTITION that the ring cannot take (R478). -/
def partRejects (s : State) (q v : Nat) : Bool :=
  !(bellOf s q).progs.isEmpty || decide (v &&& reg s (pgQue (1 - q)) 0x100 ≠ 0)

/-- A value that the page's rules reject is left out by itself (R643). -/
def rejected (s : State) (page : Nat) (t : Txn) (off : Nat) : Bool :=
  decide (tyOf page = .que) && decide (off = 0x100) && staged t off && partRejects s (instOf page) (stagedOr s page t off)

/-- Every register takes its shadow, clamped with the values of the same transaction. -/
def applyRegs (page : Nat) (t : Txn) (s0 : State) : State :=
  (clampOrder (tyOf page) (instOf page)).foldl (fun s off =>
    let v := if rejected s0 page t off then reg s0 page off else stagedOr s0 page t off
    setReg page off (rwtClamp (tyOf page) off v (reg s page)) s) s0

/-- PART_REJECT follows a commit that stages BELL_PARTITION. -/
def notePart (page : Nat) (rej : Bool) (s : State) : State :=
  let was := (reg s page 0x10C).testBit 9
  let s := setBit page 0x10C 9 rej s
  if rej && !was then raise page 3 s else s

/-- New ring geometry: the counts return to 0; in FAULTED those of the completion queue only (R433). -/
def resetCounts (page : Nat) (s : State) : State :=
  let q := instOf page
  let s' := setReg page 0x064 0 (setReg page 0x068 0 s)
  if qState s q = 2 then s' else setReg page 0x05C 0 (setReg page 0x060 0 s')

/-- What a committed transaction on a QUE page does beyond its registers. -/
def queHook (page : Nat) (t : Txn) (rej : Bool) (s : State) : State :=
  let s := if t.staged.any fun e => geometry e.1 then resetCounts page s else s
  pump (if staged t 0x100 then notePart page rej s else s)

/-- A committed LINK_CFG: a link is held DOWN, or trains; a changed CIPHER trains it again (log entry 37). -/
def linkHook (l old : Nat) (s : State) : State :=
  let new := reg s (pgLink l) 0x040
  let k := linkOf s l
  if k.st = 4 then s
  else if !new.testBit 0 then linkLeaves l 0 1 0 s
  else if !old.testBit 0 then updLink l (fun k => linkFresh k 0 0 s.now s.now) s
  else if old.testBit 1 ≠ new.testBit 1 then linkLeaves l 0 0 s.now s
  else s

/-- What follows from the values of a page. -/
def applyHook (page : Nat) (t : Txn) (s0 s : State) : State :=
  match tyOf page with
  | .que => queHook page t (rejected s0 page t 0x100) s
  | .link => linkHook (instOf page) (reg s0 page 0x040) s
  | .time => if staged t 0x048 || staged t 0x04C then stepTime64 (signed 64 (regPair s page 0x048)) s else s
  | .speed => boundCodes s
  | .power => clampLevel s
  | .cert => pump (if staged t 0x048 || staged t 0x04C || staged t 0x050 then updCert (fun u => { u with ringDirty := true }) s else s)
  | .cfe => pump s
  | _ => s

/-- A page applies its shadows at once and returns to IDLE. -/
def applyTxn (page : Nat) (s : State) : State :=
  let t := txnOf s page
  let s := applyHook page t s (applyRegs page t s)
  updTxn page (fun t => { endTxn lastCommitted t with applied := (t.applied + 1) % 65536 }) s

/-- A pending transaction that needs not wait is applied. -/
def settleTxn (page : Nat) (s : State) : State :=
  let t := txnOf s page
  if t.st = .pending ∧ atOnce page ∧ safePoint s page t then applyTxn page s else s

/-- A pending transaction is applied; on SPEED by each tile at its own safe point, and by the page with the last of them. -/
def pendingSafe (page : Nat) (t : Txn) (s : State) : State :=
  if tyOf page = .speed then
    let s := tilesTake t s
    if safePoint s page t then applyTxn page s else s
  else applyTxn page s

/-- A page at its safe point: its own transaction is applied, a member of a pending group holds (R640, R647). -/
def reachSafe (page : Nat) (s : State) : State :=
  let t := txnOf s page
  if t.st = .pending then pendingSafe page t s
  else if t.st = .grouped ∧ s.group.st = .pending ∧ !s.group.arrived.contains page then
    { s with group := { s.group with arrived := s.group.arrived ++ [page] } }
  else s

/-- A page waits for its safe point and stands at it. -/
def safeDue (s : State) (page : Nat) : Bool :=
  let t := txnOf s page
  (decide (t.st = .pending) ||
    (decide (t.st = .grouped) && decide (s.group.st = .pending) && !s.group.arrived.contains page)) &&
    (safePoint s page t || (decide (tyOf page = .speed) && decide (t.st = .pending) &&
      (List.range 36).any fun p => tileSafe s p && !tileHas s (speedVals s t) p))

/-- TXN_APPLY (R640, R645, R647): a page with a pending transaction, or a member of a pending group, reaches its safe point. -/
def execTxnApply (page : Nat) (s : State) : Host.Outcome State Fault Refusal :=
  actCfe (decide (page < 0x74)) (safeDue s page) s (reachSafe page s)

/-! ## Commands to a page (R640) -/

/-- BEGIN. -/
def txnBegin (a : Agent) (page : Nat) (s : State) : State :=
  if (txnOf s page).st = .idle then updTxn page (fun t => { t with st := .open_, agent := a, began := s.now, staged := [] }) s
  else txnBusy page s

/-- COMMIT. -/
def txnCommit (a : Agent) (page : Nat) (s : State) : State :=
  let t := txnOf s page
  if t.st = .open_ ∧ t.agent = a then settleTxn page (updTxn page (fun t => { t with st := .pending }) s) else txnBusy page s

/-- A transaction on SPEED that ends unapplied: the tiles that had taken its values go back to those in force (R644). -/
def giveBack (page : Nat) (s : State) : State :=
  if tyOf page = .speed ∧ (txnOf s page).st = .pending then { s with margins := s.margins.map (inForce s) } else s

/-- ABORT. -/
def txnAbort (a : Agent) (page : Nat) (s : State) : State :=
  let t := txnOf s page
  if (t.st = .open_ ∨ t.st = .pending) ∧ t.agent = a then updTxn page (endTxn lastAborted) (giveBack page s) else txnBusy page s

/-- A command in TXN_CTRL; a page without RWT registers ignores it (R645). -/
def txnCommand (a : Agent) (page cmd : Nat) (s : State) : State :=
  if !txnPage page then s
  else match cmd % 4 with
    | 1 => txnBegin a page s
    | 2 => txnCommit a page s
    | 3 => txnAbort a page s
    | _ => s

/-! ## Writes to RWT registers (R642) -/

/-- A transaction of a page is open to a writer. -/
def openTo (s : State) (a : Agent) (t : Txn) : Bool :=
  (decide (t.st = .open_) && decide (t.agent = a)) ||
    (decide (t.st = .grouped) && decide (s.group.st = .open_) && decide (s.group.agent = a))

/-- Stages a value. -/
def stage (page off v : Nat) (s : State) : State :=
  updTxn page (fun t => { t with staged := spPut off (BitVec.ofNat 32 v) t.staged }) s

/-- A write to an RWT register: staged, a transaction of its own, or ignored as BUSY. -/
def rwtPut (a : Agent) (page off v : Nat) (s : State) : State :=
  let t := txnOf s page
  if t.st = .idle then
    settleTxn page (stage page off v (updTxn page (fun t => { t with st := .pending, agent := a, began := s.now, staged := [] }) s))
  else if openTo s a t then stage page off v s
  else txnBusy page s

/-! ## Expiry (R641) -/

/-- TMO_MS and HOLD_MAX_MS in ns. -/
def txnTmo (s : State) : Nat := reg s pgTxn 0x058 * 1000000
def holdMax (s : State) : Nat := reg s pgTxn 0x05C * 1000000

/-- Ends the transactions of the members, and the group. -/
def endGroup (last : Nat) (s : State) : State :=
  let s := s.group.members.foldl (fun s p => updTxn p (endTxn last) s) s
  { s with group := { s.group with st := .idle, members := [], arrived := [], last := last } }

/-- An open transaction, or the open group under the TXN page's index, has lasted TMO_MS. -/
def txnDue (s : State) (page : Nat) : Bool :=
  if page = pgTxn then decide (s.group.st = .open_) && decide (s.group.began + txnTmo s ≤ s.now)
  else decide ((txnOf s page).st = .open_) && decide ((txnOf s page).began + txnTmo s ≤ s.now)

/-- TXN_EXPIRE (R641, R647): an open transaction is discarded; page 1 names the group. -/
def execTxnExpire (page : Nat) (s : State) : Host.Outcome State Fault Refusal :=
  act (decide (page < 0x74)) (txnDue s page) s (if page = pgTxn then endGroup lastExpired s else updTxn page (endTxn lastExpired) s)

/-! ## Groups (R646, R647) -/

/-- The pages that GROUP names. -/
def groupPages (s : State) : List Nat := (List.range 128).filter fun p => (reg s pgTxn (0x040 + 4 * (p / 32))).testBit (p % 32)

/-- Changes the group. -/
def updGroup (f : TxnGroup → TxnGroup) (s : State) : State := { s with group := f s.group }

/-- A GRP_CMD write that the group turns away. -/
def grpBusy (s : State) : State := updGroup (fun g => { g with last := lastBusy }) s

/-- BEGIN of a group: a conflicting member names itself, else every member is GROUPED. -/
def grpBegin (a : Agent) (s : State) : State :=
  if s.group.st ≠ .idle then grpBusy s
  else
    let ps := groupPages s
    match ps.find? fun p => !txnPage p || decide ((txnOf s p).st ≠ .idle) with
    | some p => updGroup (fun g => { g with last := lastConflict, lastPage := p }) s
    | none =>
      let s := ps.foldl (fun s p => updTxn p (fun t => { t with st := .grouped, agent := a, began := s.now, staged := [] }) s) s
      updGroup (fun g => { g with st := .open_, agent := a, members := ps, began := s.now, arrived := [] }) s

/-- The members that need no safe point arrive at once. -/
def arriveNow (s : State) : State :=
  updGroup (fun g => { g with arrived := g.members.filter fun p => atOnce p && safePoint s p (txnOf s p) }) s

/-- COMMIT of a group. -/
def grpCommit (a : Agent) (s : State) : State :=
  if s.group.st = .open_ ∧ s.group.agent = a then
    arriveNow (updGroup (fun g => { g with st := .pending, committed := s.now }) s)
  else grpBusy s

/-- ABORT of a group. -/
def grpAbort (a : Agent) (s : State) : State :=
  if s.group.st ≠ .idle ∧ s.group.agent = a then endGroup lastAborted s else grpBusy s

/-- A write of GRP_CMD. -/
def grpCommand (a : Agent) (v : Nat) (s : State) : State :=
  match v % 4 with
  | 1 => grpBegin a s
  | 2 => grpCommit a s
  | 3 => grpAbort a s
  | _ => s

/-- The members that have not arrived. -/
def notArrived (s : State) : List Nat := s.group.members.filter fun p => !s.group.arrived.contains p

/-- Every member applies, and the group with them. -/
def grpApply (s : State) : State :=
  let s := s.group.members.foldl (fun s p => applyTxn p s) s
  bump pgTxn 0x060 (updGroup (fun g => { g with st := .idle, members := [], arrived := [], last := lastCommitted }) s)

/-- GRP_APPLY (R647): the last member reaches its safe point, and every member applies. -/
def execGrpApply (s : State) : Host.Outcome State Fault Refusal :=
  actCfe true (decide (s.group.st = .pending) && (notArrived s).all fun p => safePoint s p (txnOf s p)) s (grpApply s)

/-- GRP_SAFE_TIMEOUT (R647): the group is discarded, and LAST names the first member that has not arrived. -/
def execGrpSafeTimeout (s : State) : Host.Outcome State Fault Refusal :=
  act true (decide (s.group.st = .pending) && decide (s.group.committed + holdMax s ≤ s.now) && !(notArrived s).isEmpty) s
    (updGroup (fun g => { g with lastPage := (notArrived s).headD 0 }) (endGroup lastSafeTimeout s))

/-! ## The evaluations that are safe points (R598, R603, R645) -/

/-- An evaluation of POWER or THERM, a safe point of its page. -/
def atSafe (page : Nat) (s : State) : State := if safeDue s page then reachSafe page s else s

/-- REEF_EVALUATION (R598, R599): every 100 µs, with the averages of power and the telemetry. -/
def execReefEvaluation (m : ReefMeas) (s : State) : Host.Outcome State Fault Refusal :=
  act true (alive s && decide (s.power.lastEval + 100000 ≤ s.now)) s (reefEval m (atSafe pgPower s))

/-- SENSOR_SAMPLE (R603, R604): the 41 sensors, as they read before their trims. -/
def execSensorSample (ts : List Int) (s : State) : Host.Outcome State Fault Refusal :=
  act true (alive s && decide (ts.length = 41)) s (sampleSensors ts (atSafe pgTherm s))

end Sys2Proof.Machine
end

