-- ==== Sys2Proof/Machine/Pages.lean ====
section
/-!
DEFINITION. What the registers of BAR 0 read (R627 to R633, R639, and the page tables).
-/
namespace Sys2Proof.Machine

/-! ## Which pages are presented (R564, R613, R618, R619, R670, R676) -/

/-- A page that is presented: every one while the device runs, DEV, SEC and BOOT in recovery, DEV and SEC where the ROM has
halted. -/
def shown (s : State) (page : Nat) : Bool :=
  match s.boot.phase with
  | .running => true
  | .recovery => decide (page = pgDev) || decide (page = pgSec) || decide (page = pgBoot)
  | .halted => decide (page = pgDev) || decide (page = pgSec)
  | _ => false

/-- Memory requests over PCIe are answered. -/
def pcieServes (s : State) : Bool :=
  s.pcieUp && s.boot.warm.isNone && !s.boot.d3hot &&
    (decide (s.boot.phase = .running) || decide (s.boot.phase = .recovery) || decide (s.boot.phase = .halted))

/-- Register accesses of an agent are answered. -/
def serves (s : State) (a : Agent) : Bool :=
  match a with
  | .pcie => pcieServes s
  | .i3c => alive s

/-! ## Values that are not stored -/

/-- TXN_STATUS (R639). -/
def txnStatus (s : State) (page : Nat) : Nat :=
  let t := txnOf s page
  let st := match t.st with | .idle => 0 | .open_ => 1 | .pending => 2 | .grouped => 3
  st + t.last * 16 + min 255 t.staged.length * 256 + t.applied * 65536

/-- CTRL as it reads (R379, R630, R653). -/
def ctrlVal (s : State) (page : Nat) : Nat :=
  let v := reg s page oCtrl
  match tyOf page with
  | .link => v / 2 * 2 + b2n (linkEnabled s (instOf page))
  | .que => v + 256 * b2n (queueOf s (instOf page)).replaying
  | _ => v

/-- EVT_PAGES (R651). -/
def evtPages (s : State) (w : Nat) : Nat := sumN ((List.range 32).map fun i => b2n (pageRaised s (32 * w + i)) * 2 ^ i)

/-- GRP_STATUS (R646). -/
def grpStatus (s : State) : Nat :=
  (match s.group.st with | .open_ => 1 | .pending => 2 | _ => 0) + s.group.last * 16 + s.group.lastPage * 65536

/-- TILE_STATE (R655). -/
def tileState (s : State) (p : Nat) : Nat :=
  let t := nth s.tileSt p ⟨.retired, 0, false, 0⟩
  (match t.role with | .active => 0 | .spare => 1 | .retired => 2 | .unusable => 3) + t.eng * 256 + b2n (!tileIdle s p) * 65536 +
    b2n t.lost * 131072

/-- The registers of R547 that are not stored, by their offset in a BM or LM page; `log` is the controller's log. -/
def memReg (s : State) (page base log o : Nat) : Nat :=
  let l := nth s.logs log []
  let e := nth l (reg s page (base + 0x04C) % 32) []
  match o with
  | 0x044 => l.length + (reg s page (base + 0x044)) / 2 ^ 31 * 2 ^ 31
  | 0x050 => leAt e 0 4
  | 0x054 => leAt e 4 4
  | 0x058 => leAt e 8 4
  | 0x05C => leAt e 12 4
  | _ => reg s page (base + o)

/-- REEF_STATE (R657). -/
def reefState (s : State) : Nat :=
  let on (k : Nat) : Nat := b2n ((s.power.triggers.any fun t => decide (t.1 = k)) || (decide (k = 3) && s.power.avsFailed)) * 2 ^ (11 + k)
  s.power.level + reefFloor s * 256 + sumN ((List.range 5).map on)

/-- The code of a sensor reading: i16. -/
def sensorCode (v : Int) : Nat := unsigned 16 v

/-- ENT_STATE (R659). -/
def entState (s : State) : Nat :=
  s.ent.service + sumN ((List.range 3).map fun i => (if retesting s i then 3 else sourceSt s i) * 2 ^ (4 + 2 * i)) +
    sumN ((List.range 4).map fun i => (drbgOf s i).st * 2 ^ (16 + 2 * i))

/-- RCT_CUTOFF (R578, R659). -/
def rctReg (s : State) : Nat := sumN ((List.range 3).map fun i => rctCutoff (calEntH s.calNow i) * 2 ^ (9 * i))

/-- KEY_STATE (R588). -/
def keyState (s : State) : Nat :=
  b2n s.sec.idSeed.isSome + 2 * b2n s.sec.resSeed.isSome + 4 * b2n s.sec.kek.isSome + 8 * b2n s.sec.linkKey.isSome +
    16 * b2n s.sec.imageKey.isSome + field (reg s pgKey 0x040) 5 2 * 32

/-- BOOT_STATUS (R620). -/
def bootStatus (s : State) : Nat :=
  s.boot.slot + 4 * b2n (decide (s.boot.phase = .recovery)) + 8 * b2n (alive s) + 16 * s.boot.mode

/-- A word of a byte string. -/
def wordOf (b : List Byte) (i : Nat) : Nat := leAt b (4 * i) 4

/-- A register of the CFE and QUE pages. -/
def liveQue (s : State) (page o : Nat) : Nat :=
  let q := instOf page
  match o with
  | 0x074 => (s.ctxs.filter fun x => decide (x.ring = q)).length
  | 0x078 => (s.undelivered.filter fun u => decide (u.ring = q)).length
  | 0x10C => if q < 2 then reg s page o / 32 * 32 + min 16 (bellOf s q).progs.length else reg s page o
  | _ => reg s page o

/-- A register of the ENTROPY page. -/
def liveEntropy (s : State) (o : Nat) : Nat :=
  match o with
  | 0x040 => entState s
  | 0x050 => hStatus s
  | 0x058 => rctReg s
  | 0x080 => if s.fuses.life = 0 then reg s pgEntropy o else 0
  | 0x084 => aptCutoff (calEntH s.calNow 0)
  | 0x088 => aptCutoff (calEntH s.calNow 1)
  | 0x08C => aptCutoff (calEntH s.calNow 2)
  | _ => if 0x060 ≤ o ∧ o < 0x080 then (if hStatus s = 2 then wordOf s.ent.hData ((o - 0x060) / 4) else 0) else reg s pgEntropy o

/-- A register of the KEY page. -/
def liveKey (s : State) (o : Nat) : Nat :=
  if o = 0x040 then keyState s
  else if 0x0A0 ≤ o ∧ o < 0x0E0 then wordOf (pubOf s.sec.idSeed) ((o - 0x0A0) / 4)
  else if 0x0E0 ≤ o ∧ o < 0x120 then wordOf (pubOf s.sec.resSeed) ((o - 0x0E0) / 4)
  else reg s pgKey o

/-- A register of the SEC page. -/
def liveSec (s : State) (o : Nat) : Nat :=
  match o with
  | 0x040 => s.fuses.life
  | 0x058 => if s.fuses.life = 0 then reg s pgSec o else 0
  | 0x05C => reg s pgSec o + 16 * revBits s
  | 0x064 => s.fuses.svnMin
  | _ => reg s pgSec o

/-- A register of a page's own map that is not one of a latched pair. -/
def liveOwn (s : State) (page o : Nat) : Nat :=
  let i := instOf page
  match tyOf page with
  | .dev => if 0x050 ≤ o ∧ o ≤ 0x05C then evtPages s ((o - 0x050) / 4) else reg s page o
  | .txn => if o = 0x054 then grpStatus s else reg s page o
  | .cfe => (match o with | 0x058 => wMin s / 1000 | 0x068 => s.ctxs.length | 0x06C => s.undelivered.length | _ => reg s page o)
  | .que => liveQue s page o
  | .sync => if o = 0x060 then hostWaits s else reg s page o
  | .audit => if o = 0x044 then min 64 (s.audits.filter fun j => j.out.isNone && !j.mute).length else reg s page o
  | .cert => if o = 0x05C then b2n (ringPending s) else reg s page o
  | .eng => (match o with
      | 0x040 => tileState s i
      | 0x054 => (nth s.tileSt i ⟨.retired, 0, false, 0⟩).cols
      | _ => if 0x400 ≤ o then memReg s page 0x3C0 (8 + i) (o - 0x3C0) else reg s page o)
  | .bm => memReg s page 0 i o
  | .lm => memReg s page 0 (4 + i) o
  | .link => if o = 0x044 then (linkOf s i).st + 8 * (linkOf s i).cause + 256 * (linkOf s i).peerLink else reg s page o
  | .power => if o = 0x05C then reefState s else reg s page o
  | .therm => (match o with
      | 0x040 => sensorCode (hottest s).1 + (hottest s).2 * 65536
      | 0x048 => sensorCode (nth s.sensors (reg s page 0x044 % 64) 0)
      | 0x054 => b2n s.thermTripped
      | _ => reg s page o)
  | .sec => liveSec s o
  | .key => liveKey s o
  | .entropy => liveEntropy s o
  | .boot => if o = 0x040 then bootStatus s else reg s page o
  | _ => reg s page o

/-- A register as it reads, but for latched pairs, free values and side effects. -/
def liveReg (s : State) (page o : Nat) : Nat :=
  if o = oCtrl then ctrlVal s page
  else if o = oTxnStatus then txnStatus s page
  else if o < 0x040 then reg s page o
  else liveOwn s page o

/-! ## Reads (R628, R631, R633) -/

/-- The read-only _LO registers. -/
def roPair (t : PageTy) (o : Nat) : Bool :=
  match t with
  | .dev => decide (o = 0x044)
  | .sync => decide (o = 0x048)
  | .cert => decide (o = 0x060) || decide (o = 0x068) || decide (o = 0x070)
  | .eng => decide (o = 0x068)
  | .link => decide (o = 0x050)
  | .time => decide (o = 0x040) || decide (o = 0x058) || decide (o = 0x060)
  | _ => false

/-- The 64-bit value of a read-only pair. -/
def pairVal (s : State) (page o : Nat) : Nat :=
  match tyOf page with
  | .dev => Config.serial.toNat
  | .sync => semOf s (reg s pgSync 0x040 % 16384)
  | .cert => (match o with | 0x060 => s.cert.windowNo | 0x068 => s.cert.seq | _ => s.cert.bootId.getD 0)
  | .time => if o = 0x040 then s.now else wideOf s page o
  | _ => wideOf s page o

/-- SHADOW_VIEW shows a staged value (R631, R639). -/
def shadowVal (s : State) (page o : Nat) : Option Nat :=
  let t := txnOf s page
  if (reg s page oTxnCtrl).testBit 8 ∧ t.st ≠ .idle ∧ staged t o then some (stagedOr s page t o) else none

/-- A register of a diagnostic page above its header: a free value; zero in DEBUG and TEST where access is withheld (R549, R628). -/
def diagRead (t : PageTy) (s : State) : Nat × State :=
  if (t = .debug ∨ t = .test) ∧ (s.fuses.life = 2 ∨ s.fuses.life = 4) then (0, s)
  else let (n, s) := freshNat s; (n % 2 ^ 32, s)

/-- TILE_INFO (R595): the tile's rate over the last 1 ms is a free value. -/
def tileInfo (s : State) : Nat :=
  let p := reg s pgSpeed 0x04C
  (marginOf s p).code + 16 * (marginOf s p).floor + Config.tileRate p s.now % 65536 * 65536

/-- A read of a register by an agent: its value and what the read does. -/
def barRead (off : Nat) (s : State) : Nat × State :=
  let page := off / 0x1000
  let o := off % 0x1000
  match pageAt page with
  | none => (0, s)
  | some (t, _) =>
    if !shown s page then (0, s)
    else if isDiag t ∧ 0x040 ≤ o then diagRead t s
    else if roPair t o then let v := pairVal s page o; (v % 2 ^ 32, setReg page (o + 4) (v / 2 ^ 32) s)
    else if t = .speed ∧ o = 0x050 then (tileInfo s, s)
    else if t = .entropy ∧ o = 0x07C then (liveReg s page o, hDataDone s)
    else match shadowVal s page o with
      | some v => (v, s)
      | none => (liveReg s page o, s)

end Sys2Proof.Machine
end

