-- ==== Sys2Proof/Machine/Flags.lean ====
section
/-!
DEFINITION. Event flags and counters as host software writes them (R629, R637, R638, R648, R649).
-/
namespace Sys2Proof.Machine

/-- The defined events of a page. -/
def pageEvents (page : Nat) : Nat := match pageAt page with | some (t, i) => evtMask t i | none => 0

/-- A W1C write of EVT_STATUS; `recur` are the events that occur in the same cycle, whose bits stay or become set (R638). -/
def evtClear (page mask recur : Nat) (s : State) : State :=
  let st := reg s page oEvtStatus
  let again := recur &&& pageEvents page
  let s := setReg page oEvtStatus (st - (st &&& mask) + (st &&& mask &&& again)) s
  raiseMask page again s

/-- A write of EVT_FORCE: bits of EVT_STATUS as if their events had occurred. -/
def evtForce (page mask : Nat) (s : State) : State := raiseMask page (mask &&& pageEvents page) s

/-- A write of EVT_ENABLE; a page whose enabled events become nonzero sends its message (R637). -/
def evtEnable (page v : Nat) (s : State) : State :=
  eventMessage page (pageRaised s page) (setReg page oEvtEnable (v &&& pageEvents page) s)

/-- CNT_CLEAR (R649, R651): every saturating counter of the page and STATUS.CNT_SAT; in DEV also bit 31 of CNT_SAT_PAGE. -/
def cntClear (page : Nat) (s : State) : State :=
  let s := (satCounters (tyOf page)).foldl (fun s o => setReg page o 0 s) s
  let s := setBit page oStatus 31 false s
  if page = pgDev then setBit pgDev 0x060 31 false s else s

end Sys2Proof.Machine
end

