-- ==== Sys2Proof/Machine/Operands.lean ====
section
/-!
DEFINITION. The operands of register commands: the agent, the page lock, the offset (R632, R635, R636).
-/
namespace Sys2Proof.Machine

/-- The page and the register of a BAR 0 offset. -/
def pageOf (off : Nat) : Nat := off / 0x1000
def regOf (off : Nat) : Nat := off % 0x1000

/-- An offset that R632 accepts for 4 bytes. -/
def offsetOk (off : Nat) : Bool := decide (off % 4 = 0) && decide (off < 2 ^ 26)

/-- The code of an agent in OWNER. -/
def agentCode (a : Agent) : Nat := match a with | .pcie => 0 | .i3c => 1

/-- A page is locked to the other agent (R635). -/
def lockedOut (s : State) (a : Agent) (page : Nat) : Bool :=
  let v := reg s page oOwner
  v.testBit 31 && decide (field v 30 1 ≠ agentCode a)

/-- A write that the lock rejects is counted. -/
def lockReject (s : State) : State := raise pgDev 4 (bump pgDev 0x064 s)

/-- A write of OWNER by an agent that the lock admits. -/
def ownerWrite (a : Agent) (page v : Nat) (s : State) : State :=
  setReg page oOwner (if v.testBit 31 then 2 ^ 31 + agentCode a * 2 ^ 30 + v % 65536 else v % 65536) s

/-- A write to a page: ignored where the page is not presented or absent, rejected where it is locked to the other agent. -/
def guarded (a : Agent) (page : Nat) (f : State → State) (s : State) : State :=
  if (pageAt page).isNone || !shown s page then s
  else if lockedOut s a page then lockReject s
  else f s

/-- An access that R632 rejects. -/
def badAccess (s : State) : State := raise pgDev 3 (bump pgDev 0x068 s)

/-- A completion that a write carries no operand for: a free choice (R575). -/
def cplFree (s : State) : Cpl × State :=
  let (n, s) := freshNat s
  (match n % 4 with | 0 => .ok | 1 => .ur | 2 => .ca | _ => .timeout, s)

end Sys2Proof.Machine
end

