-- ==== Sys2Proof/Machine/Writes.lean ====
section
/-!
DEFINITION. What writes of registers do (R418, R428 to R432, R447, R450, R535, R544, R552 to R588, R614, R624 to R631, R642).
-/
namespace Sys2Proof.Machine

/-! ## Page soft reset (R614) -/

/-- The queue or link of a page returns to its reset state. -/
def softBlock (page : Nat) (s : State) : State :=
  let i := instOf page
  match tyOf page with
  | .que => { s with queues := updAt s.queues i fun _ => queueReset, bells := updAt s.bells i fun _ => ⟨[], none⟩ }
  | .link => updLink i (fun k => { k with peerLink := 0 }) (linkLeaves i 0 0 0 s)
  | .scrub => { s with scrubs := State.reset.scrubs, scrubHits := [] }
  | _ => s

/-- The registers of a page return to their reset values; its lock stays (log entry 39). -/
def softRegs (page : Nat) (s : State) : State :=
  let keep (e : Nat) : Bool := decide (e / 0x1000 ≠ page) || decide (e = rk page oOwner)
  { s with regs := s.regs.filter fun e => keep e.1, wide := s.wide.filter fun e => keep e.1 }

/-- Its transaction: an open or pending one is ABORTED (R644); a member stays in its group. -/
def softTxn (page : Nat) (s : State) : State :=
  let t := txnOf s page
  match t.st with
  | .grouped => s
  | .idle => setTxn page (txnIdle page) s
  | _ => setTxn page { txnIdle page with last := lastAborted } s

/-- A page stands where a soft reset may act: a QUE page DISABLED and holding no context, a LINK page with an empty replay buffer. -/
def softSafe (s : State) (page : Nat) : Bool :=
  match tyOf page with
  | .que => queueIdle s (instOf page)
  | .link => (linkOf s (instOf page)).replay.isEmpty
  | _ => true

/-- A soft reset is requested and may act. -/
def softDue (s : State) (page : Nat) : Bool :=
  hasSoftReset (tyOf page) && (pageAt page).isSome && (reg s page oCtrl).testBit 1 && softSafe s page

/-- SOFT_RESET_APPLY (R614): the block reaches its safe point and returns to its reset state. -/
def execSoftResetApply (page : Nat) (s : State) : Host.Outcome State Fault Refusal :=
  act (decide (page < 0x74)) (softDue s page) s (softTxn page (softRegs page (softBlock page s)))

/-! ## CTRL (R630, R653) -/

/-- CTRL of a queue: ENABLE and REARM. -/
def queCtrl (q v : Nat) (s : State) : State :=
  let s := if v.testBit 0 = qEnabled s q then s else enableWrite q (v.testBit 0) s
  if v.testBit 8 then rearm q s else s

/-- A write of CTRL. -/
def ctrlWrite (page v : Nat) (s : State) : State :=
  let s := match tyOf page with | .que => queCtrl (instOf page) v s | _ => s
  let s := if v.testBit 2 then cntClear page s else s
  if v.testBit 1 && hasSoftReset (tyOf page) then setBit page oCtrl 1 true s else s

/-! ## The calibration record (R624, R625) -/

/-- The commands are accepted. -/
def calAccepts (s : State) : Bool :=
  maintNow s && decide (1 ≤ s.fuses.life) && decide (s.fuses.life ≤ 3) && !s.sec.tampered

/-- The buffer. -/
def calSrc (s : State) : Nat := regPair s pgCal 0x048 / 64 * 64

/-- CAL_RESULT. -/
def calResult (v : Nat) (s : State) : State := setReg pgCal 0x054 v s

/-- The record replaces the one in flash; where it does not read back, which is a free value, no record is there (log entry 49). -/
def calProgram (b : List Byte) (s : State) : State :=
  let r := freshNat (emit (.flashWrite 2) s)
  if r.1 % 2 = 0 then calResult 2 { r.2 with flash := { r.2.flash with cal := b } }
  else calResult 5 { r.2 with flash := { r.2.flash with cal := [] } }

/-- Stores the record that was read, where it is valid. -/
def calStoreWith (r : Option (List Byte) × State) : State :=
  match r.1 with
  | some b => if calCause b = 0 then calProgram b r.2 else calResult 4 r.2
  | none => calResult 4 r.2

/-- WRITE: a valid record replaces the one in flash. -/
def calStore (s : State) : State := calStoreWith (keyBytes (calSrc s) 65536 s)

/-- A record is copied to the buffer; where the buffer is outside the map, CAL_RESULT is a free value (log entry 41). -/
def calOut (b : List Byte) (s : State) : State :=
  if mapOk s .program (calSrc s) 65536 then calResult 2 (memWrite (calSrc s) b s)
  else let (n, s) := freshNat s; calResult (n % 6) s

/-- CAPTURE: the record in force, or one of the defaults, with the training results. -/
def calCaptured (s : State) (lm links : List Byte) : List Byte :=
  if s.calNow.isEmpty then calMake 1 1 calDefaults lm links
  else calMake 1 ((leAt s.calNow 0x10 4 + 1) % 2 ^ 32) (slice s.calNow 0x20 0x3E0) lm links

/-- A command of CAL_CMD, `lm` and `links` being the training results. -/
def calCommand (cmd : Nat) (lm links : List Byte) (s : State) : State :=
  if cmd % 4 = 0 then s
  else if !calAccepts s then calResult 3 s
  else match cmd % 4 with
    | 1 => calStore s
    | 2 => calOut (calFlash s.flash.cal) s
    | _ => calOut (calCaptured s lm links) s

/-- A command of CAL_CMD by a plain register write: the training results are free values. -/
def calWrite (v : Nat) (s : State) : State :=
  let (a, s) := freshNat s
  let (b, s) := freshNat s
  calCommand v (leBytes 8192 a) (leBytes 16384 b) s

/-! ## Registers with an action -/

/-- A write to the SYNC page restarts the stall detector's timer (R459). -/
def syncTouch (s : State) : State := trackStall { s with stallSince := none }

/-- SEM_OP (R450, R454). -/
def semOpWrite (v : Nat) (s : State) : State :=
  let d := regPair s pgSync 0x050
  syncTouch (pump (semDo (v.testBit 16) (v % 16384) d s))

/-- LOG_CTRL.CLEAR of a controller (R535). -/
def logClear (page base log : Nat) (s : State) : State :=
  setBit page (base + 0x044) 31 false { s with logs := updAt s.logs log fun _ => [] }

/-- INJ_CTRL (R544, R547): ARM, and in ENG pages TARGET. -/
def injCtrl (page base v : Nat) (s : State) : State := setReg page (base + 0x088) (if base = 0 then v % 2 else v &&& 0xD) s

/-- The log of a page's controller. -/
def logOf (page : Nat) : Nat :=
  match tyOf page with
  | .bm => instOf page
  | .lm => 4 + instOf page
  | _ => 8 + instOf page

/-- A write to a register of the memory controllers. -/
def memPageWrite (page base o v : Nat) (s : State) : Option State :=
  if o = base + 0x048 then some (if v.testBit 0 then logClear page base (logOf page) s else s)
  else if o = base + 0x088 then some (injCtrl page base v s)
  else none

/-- ATT_CMD by a plain register write: how the buffer's write ends is a free choice. -/
def attPlain (v : Nat) (s : State) : State := let (r, s) := cplFree s; attWrite v r s

/-- A register whose write starts an action, as its page states it; `none` elsewhere. -/
def actionWrite (a : Agent) (t : PageTy) (page o v : Nat) (s : State) : Option State :=
  match t with
  | .txn => if o = 0x050 then some (grpCommand a v s) else none
  | .cfe => if o = 0x044 then some (stateReqWrite v s) else if o = 0x048 then some (abortWrite v s) else none
  | .que => if o = 0x05C then some (tailWrite (instOf page) v s) else if o = 0x068 then some (cqHeadWrite (instOf page) v s) else none
  | .sync => if o = 0x058 then some (semOpWrite v s) else none
  | .cert => if o = 0x054 then some (ringRdWrite v s) else none
  | .eng => memPageWrite page 0x3C0 o v s
  | .bm => memPageWrite page 0 o v s
  | .lm => memPageWrite page 0 o v s
  | .power => if o = 0x060 then some (setReg page o (reg s page o - (reg s page o &&& v)) s) else none
  | .cal => if o = 0x050 then some (calWrite v s) else none
  | .sec =>
    if o = 0x044 then some (lcReq v s)
    else if o = 0x058 then some (if s.fuses.life = 0 then setReg page o (v % 64) s else s)
    else if o = 0x068 then some (revokeWrite v s)
    else if o = 0x06C then some (svnWrite v s)
    else none
  | .key => if o = 0x044 then some (provWrite v s) else if o = 0x054 then some (attPlain v s) else none
  | .entropy =>
    if o = 0x04C then some (hReqWrite v s)
    else if o = 0x080 then some (patternWrite v s)
    else none
  | .boot => if o = 0x048 then some (recoveryWrite v s) else none
  | _ => none

/-- A plain RW register takes its implemented bits, clamped; GROUP is ignored while the group is not idle (R646). -/
def plainWrite (t : PageTy) (page o v : Nat) (s : State) : State :=
  match rwMask t (instOf page) o with
  | none => s
  | some m =>
    if t = .txn ∧ o < 0x050 ∧ s.group.st ≠ .idle then s
    else
      setReg page o (rwClamp t o (v &&& m)) s

/-- A register above the header. -/
def ownWrite (a : Agent) (t : PageTy) (page o v : Nat) (s : State) : State :=
  if isDiag t then s
  else match rwtMask t (instOf page) o with
    | some m => rwtPut a page o (v &&& m) s
    | none =>
      match actionWrite a t page o v s with
      | some s' => s'
      | none => plainWrite t page o v s

/-- TXN_CTRL: SHADOW_VIEW and a command (R639). -/
def txnCtrl (a : Agent) (page v : Nat) (s : State) : State :=
  if txnPage page then txnCommand a page (v % 4) (setBit page oTxnCtrl 8 (v.testBit 8) s) else s

/-- A register of the common header. -/
def headWrite (a : Agent) (page o v : Nat) (s : State) : State :=
  if o = oCtrl then ctrlWrite page v s
  else if o = oEvtStatus then evtClear page v 0 s
  else if o = oEvtEnable then evtEnable page v s
  else if o = oEvtForce then evtForce page v s
  else if o = oTxnCtrl then txnCtrl a page v s
  else if o = oOwner then ownerWrite a page v s
  else s

/-- Any write of the SYNC page by host software restarts the stall detector's timer (R458). -/
def touched (a : Agent) (page : Nat) (s : State) : State := if tyOf page = .sync ∧ a = .pcie then syncTouch s else s

/-- A write of a register by an agent. -/
def barWrite (a : Agent) (off v : Nat) (s : State) : State :=
  let page := pageOf off
  let o := regOf off
  touched a page (guarded a page (fun s => if o < 0x040 then headWrite a page o v s else ownWrite a (tyOf page) page o v s) s)

end Sys2Proof.Machine
end

