-- ==== Sys2Proof/Machine/PageOps.lean ====
section
/-!
DEFINITION. The commands that are accesses of registers: each is the write or the read of its register by an agent, or what a
page does with it (R428 to R432, R447, R450, R535, R544, R552 to R588, R614, R624 to R649).
-/
namespace Sys2Proof.Machine

/-- A write of a register, where the agent's accesses are answered. -/
def writeBy (unit : Bool) (a : Agent) (page o v : Nat) (s : State) : Host.Outcome State Fault Refusal :=
  act unit (serves s a) s (barWrite a (rk page o) v s)

/-- A write whose effect carries operands of its own. -/
def guardBy (unit : Bool) (a : Agent) (page : Nat) (f : State → State) (s : State) : Host.Outcome State Fault Refusal :=
  act unit (serves s a) s (touched a page (guarded a page f s))

/-! ## Queues (R428, R429, R432, R464) -/

/-- QUE_TAIL_WRITE (R429). -/
def execQueTailWrite (a : Agent) (q v : Nat) (s : State) : Host.Outcome State Fault Refusal := writeBy (decide (q < 6)) a (pgQue q) 0x05C v s

/-- CQ_HEAD_WRITE (R428). -/
def execCqHeadWrite (a : Agent) (q v : Nat) (s : State) : Host.Outcome State Fault Refusal := writeBy (decide (q < 6)) a (pgQue q) 0x068 v s

/-- QUE_ENABLE (R432). -/
def execQueEnable (a : Agent) (q : Nat) (s : State) : Host.Outcome State Fault Refusal := writeBy (decide (q < 6)) a (pgQue q) oCtrl 1 s

/-- QUE_DISABLE (R432). -/
def execQueDisable (a : Agent) (q : Nat) (s : State) : Host.Outcome State Fault Refusal := writeBy (decide (q < 6)) a (pgQue q) oCtrl 0 s

/-- The value of CTRL that keeps ENABLE and adds an action bit. -/
def ctrlWith (s : State) (page bit : Nat) : Nat := reg s page oCtrl % 2 + bit

/-- QUE_REARM (R464). -/
def execQueRearm (a : Agent) (q : Nat) (s : State) : Host.Outcome State Fault Refusal :=
  writeBy (decide (q < 6)) a (pgQue q) oCtrl (ctrlWith s (pgQue q) 256) s

/-! ## The CFE and the semaphores (R425, R447, R450) -/

/-- STATE_REQ_MAINT_FINISH (R425): REQ = 0, DRAIN = 0. -/
def execStateReqMaintFinish (a : Agent) (s : State) : Host.Outcome State Fault Refusal := writeBy true a pgCfe 0x044 0 s

/-- STATE_REQ_MAINT_ABORT (R425): REQ = 0, DRAIN = 1. -/
def execStateReqMaintAbort (a : Agent) (s : State) : Host.Outcome State Fault Refusal := writeBy true a pgCfe 0x044 2 s

/-- STATE_REQ_SERVICE (R425): REQ = 1. -/
def execStateReqService (a : Agent) (s : State) : Host.Outcome State Fault Refusal := writeBy true a pgCfe 0x044 1 s

/-- ABORT_TAG (R447): the entries of a ring that carry ABORT_TAG. -/
def execAbortTag (a : Agent) (q : Nat) (s : State) : Host.Outcome State Fault Refusal := writeBy (decide (q < 6)) a pgCfe 0x048 q s

/-- ABORT_ALL (R447): every entry of a ring. -/
def execAbortAll (a : Agent) (q : Nat) (s : State) : Host.Outcome State Fault Refusal := writeBy (decide (q < 6)) a pgCfe 0x048 (q + 8) s

/-- SEM_OP_ADD (R450): adds SEM_DATA. -/
def execSemOpAdd (a : Agent) (n : Nat) (s : State) : Host.Outcome State Fault Refusal := writeBy (decide (n < 16384)) a pgSync 0x058 n s

/-- SEM_OP_SET (R450): sets SEM_DATA. -/
def execSemOpSet (a : Agent) (n : Nat) (s : State) : Host.Outcome State Fault Refusal :=
  writeBy (decide (n < 16384)) a pgSync 0x058 (n + 65536) s

/-- CERT_RING_RD_WRITE (R418). -/
def execCertRingRdWrite (a : Agent) (v : Nat) (s : State) : Host.Outcome State Fault Refusal := writeBy true a pgCert 0x054 v s

/-! ## Memory controllers (R535, R544) -/

/-- A page with the registers of R547, and the offset they add. -/
def memPage (page : Nat) : Option Nat := match pageAt page with | some t => memBase t.1 | none => none

/-- LOG_CLEAR (R535). -/
def execLogClear (a : Agent) (page : Nat) (s : State) : Host.Outcome State Fault Refusal :=
  writeBy (memPage page).isSome a page ((memPage page).getD 0 + 0x048) 1 s

/-- INJ_ARM (R544): a write of INJ_CTRL. -/
def execInjArm (a : Agent) (page v : Nat) (s : State) : Host.Outcome State Fault Refusal :=
  writeBy (memPage page).isSome a page ((memPage page).getD 0 + 0x088) v s

/-! ## Security (R552, R565, R566, R572, R575, R585) -/

/-- LC_REQ_DEPLOYED (R552). -/
def execLcReqDeployed (a : Agent) (s : State) : Host.Outcome State Fault Refusal := writeBy true a pgSec 0x044 2 s

/-- LC_REQ_RMA (R552, R553). -/
def execLcReqRma (a : Agent) (s : State) : Host.Outcome State Fault Refusal := writeBy true a pgSec 0x044 3 s

/-- LC_REQ_SCRAPPED (R552). -/
def execLcReqScrapped (a : Agent) (s : State) : Host.Outcome State Fault Refusal := writeBy true a pgSec 0x044 4 s

/-- REVOKE (R565). -/
def execRevoke (a : Agent) (k : Nat) (s : State) : Host.Outcome State Fault Refusal :=
  writeBy (decide (k < 4)) a pgSec 0x068 (2 ^ 31 + k) s

/-- SVN_COMMIT (R566). -/
def execSvnCommit (a : Agent) (s : State) : Host.Outcome State Fault Refusal := writeBy true a pgSec 0x06C 1 s

/-- KEY_PROVISION (R572). -/
def execKeyProvision (a : Agent) (slot : Nat) (s : State) : Host.Outcome State Fault Refusal :=
  writeBy (decide (slot < 2)) a pgKey 0x044 slot s

/-- ATTESTATION (R575): `reply` tells how the write of the buffer ends. -/
def execAttestation (a : Agent) (reply : Cpl) (s : State) : Host.Outcome State Fault Refusal := guardBy true a pgKey (attWrite 1 reply) s

/-- H_REQ (R585). -/
def execHReq (a : Agent) (s : State) : Host.Outcome State Fault Refusal := writeBy true a pgEntropy 0x04C 1 s

/-- A read of a register, delivered to its agent. -/
def readBy (a : Agent) (off : Nat) (s : State) : State :=
  let r := barRead off s
  emit (.barData a r.1) r.2

/-- H_DATA_LAST_READ (R585): a read of H_DATA[7]. -/
def execHDataLastRead (a : Agent) (s : State) : Host.Outcome State Fault Refusal :=
  act true (serves s a) s (readBy a (rk pgEntropy 0x07C) s)

/-! ## Recovery and calibration (R619, R624) -/

/-- RECOVERY_CMD (R619). -/
def execRecoveryCmd (a : Agent) (s : State) : Host.Outcome State Fault Refusal := writeBy true a pgBoot 0x048 1 s

/-- CAL_WRITE (R624). -/
def execCalWrite (a : Agent) (s : State) : Host.Outcome State Fault Refusal := guardBy true a pgCal (calCommand 1 [] []) s

/-- CAL_READ (R624). -/
def execCalRead (a : Agent) (s : State) : Host.Outcome State Fault Refusal := guardBy true a pgCal (calCommand 2 [] []) s

/-- CAL_CAPTURE (R624), with the current training results. -/
def execCalCapture (a : Agent) (lm links : List Byte) (s : State) : Host.Outcome State Fault Refusal :=
  guardBy true a pgCal (calCommand 3 lm links) s

/-! ## Transactions (R639 to R647) -/

/-- A page that holds RWT registers exists. -/
def pageExists (page : Nat) : Bool := (pageAt page).isSome

/-- The value of TXN_CTRL that keeps SHADOW_VIEW and gives a command. -/
def txnCtrlWith (s : State) (page cmd : Nat) : Nat := reg s page oTxnCtrl / 256 % 2 * 256 + cmd

/-- TXN_BEGIN (R640). -/
def execTxnBegin (a : Agent) (page : Nat) (s : State) : Host.Outcome State Fault Refusal :=
  writeBy (pageExists page) a page oTxnCtrl (txnCtrlWith s page 1) s

/-- TXN_COMMIT (R640). -/
def execTxnCommit (a : Agent) (page : Nat) (s : State) : Host.Outcome State Fault Refusal :=
  writeBy (pageExists page) a page oTxnCtrl (txnCtrlWith s page 2) s

/-- TXN_ABORT (R640). -/
def execTxnAbort (a : Agent) (page : Nat) (s : State) : Host.Outcome State Fault Refusal :=
  writeBy (pageExists page) a page oTxnCtrl (txnCtrlWith s page 3) s

/-- The offset of an RWT register. -/
def rwtOffset (off : Nat) : Bool :=
  match pageAt (pageOf off) with
  | some (t, i) => (rwtMask t i (regOf off)).isSome
  | none => false

/-- RWT_WRITE (R642). -/
def execRwtWrite (a : Agent) (off v : Nat) (s : State) : Host.Outcome State Fault Refusal :=
  act true (serves s a && rwtOffset off) s (barWrite a off v s)

/-- GRP_BEGIN (R647). -/
def execGrpBegin (a : Agent) (s : State) : Host.Outcome State Fault Refusal := writeBy true a pgTxn 0x050 1 s

/-- GRP_COMMIT (R647). -/
def execGrpCommit (a : Agent) (s : State) : Host.Outcome State Fault Refusal := writeBy true a pgTxn 0x050 2 s

/-- GRP_ABORT (R647). -/
def execGrpAbort (a : Agent) (s : State) : Host.Outcome State Fault Refusal := writeBy true a pgTxn 0x050 3 s

/-! ## Locks, events, counters, soft reset (R614, R629, R635, R638, R649) -/

/-- OWNER_LOCK (R635). -/
def execOwnerLock (a : Agent) (page id : Nat) (s : State) : Host.Outcome State Fault Refusal :=
  writeBy (pageExists page) a page oOwner (2 ^ 31 + id % 65536) s

/-- OWNER_RELEASE (R635). -/
def execOwnerRelease (a : Agent) (page id : Nat) (s : State) : Host.Outcome State Fault Refusal :=
  writeBy (pageExists page) a page oOwner (id % 65536) s

/-- EVT_CLEAR (R638): `recur` are the events that occur in the same cycle. -/
def execEvtClear (a : Agent) (page mask recur : Nat) (s : State) : Host.Outcome State Fault Refusal :=
  guardBy (pageExists page) a page (evtClear page mask recur) s

/-- EVT_FORCE (R629). -/
def execEvtForce (a : Agent) (page mask : Nat) (s : State) : Host.Outcome State Fault Refusal :=
  writeBy (pageExists page) a page oEvtForce mask s

/-- CNT_CLEAR (R649). -/
def execCntClear (a : Agent) (page : Nat) (s : State) : Host.Outcome State Fault Refusal :=
  writeBy (pageExists page) a page oCtrl (ctrlWith s page 4) s

/-- SOFT_RST (R614). -/
def execSoftRst (a : Agent) (page : Nat) (s : State) : Host.Outcome State Fault Refusal :=
  writeBy (pageExists page) a page oCtrl (ctrlWith s page 2) s

/-! ## Any register (R631 to R633) -/

/-- READ_LO_LATCH (R633): a read of a register; of a read-only _LO register it latches the upper half. -/
def execReadLoLatch (a : Agent) (off : Nat) (s : State) : Host.Outcome State Fault Refusal :=
  act true (serves s a) s (if offsetOk off then readBy a off s else badAccess (emit (.barData a (2 ^ 32 - 1)) s))

/-- REGISTER_WRITE (R631, R632): a write of any register. -/
def execRegisterWrite (a : Agent) (off v : Nat) (s : State) : Host.Outcome State Fault Refusal :=
  act true (serves s a) s (if offsetOk off then barWrite a off v s else badAccess s)

/-- BAD_ACCESS (R632): an access of another length or alignment over PCIe; a read completes with every data bit 1. -/
def execBadAccess (read : Bool) (s : State) : Host.Outcome State Fault Refusal :=
  act true (pcieServes s) s (badAccess (if read then emit (.barData .pcie (2 ^ 32 - 1)) s else s))

end Sys2Proof.Machine
end

