-- ==== Sys2Proof/Machine/HostBus.lean ====
section
/-!
DEFINITION. BAR 2, the I3C port and the errors of the PCIe link (R619, R665 to R678).
-/
namespace Sys2Proof.Machine

/-! ## BAR 2 (R517, R619, R666, R667) -/

/-- The device address of a BAR 2 offset. -/
def bar2Addr (s : State) (o : Nat) : Nat :=
  reg s pgPcie 0x048 / 2 ^ 30 * 2 ^ 30 + reg s pgPcie 0x04C % 65536 * 2 ^ 32 + o

/-- BAR 2 as the map names it in the device state in force. -/
def bar2Reach (s : State) : Reach := if inMaintenance s then .bar2Maint else .bar2

/-- A rejected access is counted. -/
def bar2Reject (s : State) : State := raise pgPcie 1 (bump pgPcie 0x050 s)

/-- Every data bit is 1. -/
def allOnes (n : Nat) : List Byte := List.replicate n 0xFF

/-- A read of device memory; an uncorrectable word poisons the completion. -/
def bar2Get (a n : Nat) (s : State) : State :=
  let r := readCheck 0 a n s
  if r.1.isEmpty then emit (.bar2Data false (memRead r.2.2 a n)) r.2.2 else emit (.bar2Data true (allOnes n)) r.2.2

/-- The part of a range of BAR 2 that lies within the 32 MiB of recovery. -/
def recoveryPart (o n : Nat) : Nat := min n (0x2000000 - o)

/-- A read in recovery: the Slate of tile 0, zeros beyond it. -/
def recoveryGet (o n : Nat) (s : State) : State :=
  let k := recoveryPart o n
  let r := readCheck 0 (slateBase 0 + o) k s
  if r.1.isEmpty then emit (.bar2Data false (memRead r.2.2 (slateBase 0 + o) k ++ zeros (n - k))) r.2.2
  else emit (.bar2Data true (allOnes n)) r.2.2

/-- A BAR 2 read. -/
def bar2Read (o n : Nat) (s : State) : State :=
  if s.boot.phase = .recovery then recoveryGet o n s
  else if mapOk s (bar2Reach s) (bar2Addr s o) n then bar2Get (bar2Addr s o) n s
  else bar2Reject (emit (.bar2Data false (allOnes n)) s)

/-- Memory requests reach BAR 2, which has the size of R665: `n` bytes at an offset lie in it. -/
def bar2Serves (o n : Nat) (s : State) : Bool := pcieServes s && decide (s.boot.phase ≠ .halted) && decide (o + n ≤ s.pciCfg.bar2Gib * 2 ^ 30)

/-- BAR2_READ (R666, R667, R619): a read of `n` bytes. -/
def execBar2Read (o n : Nat) (s : State) : Host.Outcome State Fault Refusal :=
  act true (bar2Serves o n s && decide (1 ≤ n)) s (bar2Read o n s)

/-- The enabled bytes of a write with their canonical addresses. -/
def enabledBytes (s : State) (a : Nat) (d : List (Option Byte)) : List (Nat × Byte) :=
  d.zipIdx.filterMap fun e => e.1.map fun b => (canon s (a + e.2), b)

/-- The words that a list of bytes touches. -/
def wordsOf (bs : List (Nat × Byte)) : List Nat :=
  bs.foldl (fun l b => if l.contains (wordAt b.1) then l else l ++ [wordAt b.1]) []

/-- Puts single bytes. -/
def putBytes (bs : List (Nat × Byte)) (m : Sparse Byte) : Sparse Byte := bs.foldl (fun m b => spSet zeroByte b.1 b.2 m) m

/-- Writes some bytes of a word: all of them, or a read-modify-write (R527, R528). -/
def writeSome (bs : List (Nat × Byte)) (s : State) (w : Nat) : State :=
  let mine := bs.filter fun b => decide (wordAt b.1 = w)
  let s := noteWritten w (wordLen w) s
  if mine.length = wordLen w then wroteWord w { s with mem := putBytes mine s.mem }
  else
    let k := ctlOf s w
    let r := if markOf s w = noMark w then (RdClass.clean, s) else noteRead 2 w s
    let s := bump k.1 (k.2.1 + 0x09C) r.2
    match r.1 with
    | .clean => wroteWord w { s with mem := putBytes mine s.mem }
    | .corrected _ => wroteWord w { s with mem := putBytes mine s.mem }
    | _ => poisonWord w { s with mem := putBytes mine (spWrite (zeros (wordLen w)) w s.mem) }

/-- A write of device memory, byte by enabled byte. -/
def bar2Put (a : Nat) (d : List (Option Byte)) (s : State) : State :=
  let bs := enabledBytes s a d
  (wordsOf bs).foldl (writeSome bs) s

/-- A BAR 2 write. -/
def bar2Write (o : Nat) (d : List (Option Byte)) (s : State) : State :=
  if s.boot.phase = .recovery then bar2Put (slateBase 0 + o) (d.take (recoveryPart o d.length)) s
  else if mapOk s (bar2Reach s) (bar2Addr s o) d.length then bar2Put (bar2Addr s o) d s
  else bar2Reject s

/-- BAR2_WRITE (R666, R667, R619): a write with byte enables. -/
def execBar2Write (o : Nat) (d : List (Option Byte)) (s : State) : Host.Outcome State Fault Refusal :=
  act true (bar2Serves o d.length s && decide (1 ≤ d.length)) s (bar2Write o d s)

/-! ## I3C (R676 to R678) -/

/-- The port answers: from step P5 on (log entry 44: here from P8), once it has an address. -/
def i3cAnswers (s : State) : Bool := alive s && s.i3c.addr.isSome

/-- The reply of the next private read. -/
def i3cReply (data status : Nat) (s : State) : State := { s with i3c := { s.i3c with data := data, status := status } }

/-- I3C_ENTDAA (R676): the device takes a dynamic address. -/
def execI3cEntdaa (addr : Nat) (s : State) : Host.Outcome State Fault Refusal :=
  act true (alive s && s.i3c.addr.isNone) s { s with i3c := { s.i3c with addr := some addr } }

/-- A write request: 1 where R632 rejects it, 2 where R635 does. -/
def i3cWrite (off v : Nat) (s : State) : State :=
  if !offsetOk off then i3cReply 0 1 (badAccess s)
  else
    let st := if (pageAt (pageOf off)).isSome && lockedOut s .i3c (pageOf off) then 2 else 0
    let t := barWrite .i3c off v s
    if alive t then i3cReply 0 st t else t

/-- I3C_WRITE_REQUEST (R677): the write takes effect, and its status waits for the private read. -/
def execI3cWriteRequest (off v : Nat) (s : State) : Host.Outcome State Fault Refusal := act true (i3cAnswers s) s (i3cWrite off v s)

/-- A read request. -/
def i3cRead (off : Nat) (s : State) : State :=
  if !offsetOk off then i3cReply (2 ^ 32 - 1) 1 (badAccess s)
  else let r := barRead off s; i3cReply r.1 0 r.2

/-- I3C_READ_REQUEST (R677): the value waits for the private read. -/
def execI3cReadRequest (off : Nat) (s : State) : Host.Outcome State Fault Refusal := act true (i3cAnswers s) s (i3cRead off s)

/-- I3C_PRIVATE_READ (R677): data and status of the last request. -/
def execI3cPrivateRead (s : State) : Host.Outcome State Fault Refusal :=
  act true (i3cAnswers s) s (emit (.i3cReply s.i3c.data s.i3c.status) s)

/-! ## Errors of the PCIe link (R671 to R673) -/

/-- The link is up and its controller is out of reset. -/
def pcieLive (s : State) : Bool := s.pcieUp && decide (s.boot.phase ≠ .held)

/-- CPL_TIMEOUT (R671, R672): a request of the device reaches T_CPL. -/
def execCplTimeout (s : State) : Host.Outcome State Fault Refusal := act true (alive s) s (noteCpl .timeout s)

/-- PCIE_FLIT_REPLAY (R672). -/
def execPcieFlitReplay (s : State) : Host.Outcome State Fault Refusal :=
  act true (pcieLive s) s (bump pgPcie oErrCe (bump pgPcie 0x060 s))

/-- MALFORMED_TLP (R673): an uncorrectable fatal AER error. -/
def execMalformedTlp (s : State) : Host.Outcome State Fault Refusal :=
  act true (pcieLive s) s (emit .aerFatal (bump pgPcie oErrUe s))

end Sys2Proof.Machine
end

