-- ==== Sys2Proof/Machine/Dispatch.lean ====
section
/-!
DEFINITION. One arm per command, each a direct call of its meaning.
-/
namespace Sys2Proof.Machine

def exec (i : Instr) (s : State) : Host.Outcome State Fault Refusal :=
  match i with
  | .nop x => Sys2Proof.Machine.execNop x s
  | .halt x => Sys2Proof.Machine.execHalt x s
  | .loop x o => Sys2Proof.Machine.execLoop x o s
  | .stage x o => Sys2Proof.Machine.execStage x o s
  | .tstamp x o => Sys2Proof.Machine.execTstamp x o s
  | .move x o => Sys2Proof.Machine.execMove x o s
  | .fill x o => Sys2Proof.Machine.execFill x o s
  | .sld x o => Sys2Proof.Machine.execSld x o s
  | .stream x o u => Sys2Proof.Machine.execStream x o u s
  | .drain x o => Sys2Proof.Machine.execDrain x o s
  | .pdrain x o => Sys2Proof.Machine.execPdrain x o s
  | .preload x o => Sys2Proof.Machine.execPreload x o s
  | .vop x o => Sys2Proof.Machine.execVop x o s
  | .vred x o => Sys2Proof.Machine.execVred x o s
  | .vnorm x o => Sys2Proof.Machine.execVnorm x o s
  | .vcvt x o => Sys2Proof.Machine.execVcvt x o s
  | .vtopk x o => Sys2Proof.Machine.execVtopk x o s
  | .pbuild x o => Sys2Proof.Machine.execPbuild x o s
  | .pload c o => Sys2Proof.Machine.execPload c o s
  | .gather c o => Sys2Proof.Machine.execGather c o s
  | .relax c o us => Sys2Proof.Machine.execRelax c o us s
  | .choose c o us => Sys2Proof.Machine.execChoose c o us s
  | .rollcall c o w => Sys2Proof.Machine.execRollcall c o w s
  | .fieldup c r => Sys2Proof.Machine.execFieldup c r s
  | .sweepend c o => Sys2Proof.Machine.execSweepend c o s
  | .result c o => Sys2Proof.Machine.execResult c o s
  | .red c o => Sys2Proof.Machine.execRed c o s
  | .bcast c o => Sys2Proof.Machine.execBcast c o s
  | .lsend x o => Sys2Proof.Machine.execLsend x o s
  | .lrecv x o => Sys2Proof.Machine.execLrecv x o s
  | .swait x o => Sys2Proof.Machine.execSwait x o s
  | .swaitTimeout x => Sys2Proof.Machine.execSwaitTimeout x s
  | .ssignal x o => Sys2Proof.Machine.execSsignal x o s
  | .audit c o => Sys2Proof.Machine.execAudit c o s
  | .digestStart x o => Sys2Proof.Machine.execDigestStart x o s
  | .digestAbsorb x o => Sys2Proof.Machine.execDigestAbsorb x o s
  | .digestFinal x o => Sys2Proof.Machine.execDigestFinal x o s
  | .digestCompare x o => Sys2Proof.Machine.execDigestCompare x o s
  | .cert c o => Sys2Proof.Machine.execCert c o s
  | .tileSubstitutionDone eng => Sys2Proof.Machine.execTileSubstitutionDone eng s
  | .repairLogWrite => Sys2Proof.Machine.execRepairLogWrite s
  | .tileSelftest tile faulty => Sys2Proof.Machine.execTileSelftest tile faulty s
  | .descriptorFetch rs => Sys2Proof.Machine.execDescriptorFetch rs s
  | .invoke c => Sys2Proof.Machine.execInvoke c s
  | .install c rs => Sys2Proof.Machine.execInstall c rs s
  | .remove c => Sys2Proof.Machine.execRemove c s
  | .removeComplete c => Sys2Proof.Machine.execRemoveComplete c s
  | .cmdbuf c rs => Sys2Proof.Machine.execCmdbuf c rs s
  | .cmdbufEntryStart c n => Sys2Proof.Machine.execCmdbufEntryStart c n s
  | .selftest c faulty => Sys2Proof.Machine.execSelftest c faulty s
  | .join c => Sys2Proof.Machine.execJoin c s
  | .enterWaiting c => Sys2Proof.Machine.execEnterWaiting c s
  | .argumentBlockRead c rs => Sys2Proof.Machine.execArgumentBlockRead c rs s
  | .waitTimeout c => Sys2Proof.Machine.execWaitTimeout c s
  | .hostWaitPoll c w rs => Sys2Proof.Machine.execHostWaitPoll c w rs s
  | .engineGrant c => Sys2Proof.Machine.execEngineGrant c s
  | .inputsMoved c data digests => Sys2Proof.Machine.execInputsMoved c data digests s
  | .switchOut c => Sys2Proof.Machine.execSwitchOut c s
  | .switchIn c => Sys2Proof.Machine.execSwitchIn c s
  | .invocationAbortStop c => Sys2Proof.Machine.execInvocationAbortStop c s
  | .hostSignalFlushDone c k rs => Sys2Proof.Machine.execHostSignalFlushDone c k rs s
  | .recordFlushDone q rs => Sys2Proof.Machine.execRecordFlushDone q rs s
  | .msixCoalesceTimeout q => Sys2Proof.Machine.execMsixCoalesceTimeout q s
  | .stallDetectorFire => Sys2Proof.Machine.execStallDetectorFire s
  | .queTailWrite a q value => Sys2Proof.Machine.execQueTailWrite a q value s
  | .cqHeadWrite a q value => Sys2Proof.Machine.execCqHeadWrite a q value s
  | .queEnable a q => Sys2Proof.Machine.execQueEnable a q s
  | .queDisable a q => Sys2Proof.Machine.execQueDisable a q s
  | .queRearm a q => Sys2Proof.Machine.execQueRearm a q s
  | .stateReqMaintFinish a => Sys2Proof.Machine.execStateReqMaintFinish a s
  | .stateReqMaintAbort a => Sys2Proof.Machine.execStateReqMaintAbort a s
  | .stateReqService a => Sys2Proof.Machine.execStateReqService a s
  | .enterMaintenance => Sys2Proof.Machine.execEnterMaintenance s
  | .enterService => Sys2Proof.Machine.execEnterService s
  | .abortTag a q => Sys2Proof.Machine.execAbortTag a q s
  | .abortAll a q => Sys2Proof.Machine.execAbortAll a q s
  | .semOpAdd a sem => Sys2Proof.Machine.execSemOpAdd a sem s
  | .semOpSet a sem => Sys2Proof.Machine.execSemOpSet a sem s
  | .register c rs => Sys2Proof.Machine.execRegister c rs s
  | .deregister c => Sys2Proof.Machine.execDeregister c s
  | .bellRelease ring prog => Sys2Proof.Machine.execBellRelease ring prog s
  | .releaseStart ring => Sys2Proof.Machine.execReleaseStart ring s
  | .cutPoint c => Sys2Proof.Machine.execCutPoint c s
  | .lendBlockExpiry ring c => Sys2Proof.Machine.execLendBlockExpiry ring c s
  | .auditStart => Sys2Proof.Machine.execAuditStart s
  | .auditFinish d1 d2 => Sys2Proof.Machine.execAuditFinish d1 d2 s
  | .windowTimeout => Sys2Proof.Machine.execWindowTimeout s
  | .windowSigned => Sys2Proof.Machine.execWindowSigned s
  | .certRingRdWrite a value => Sys2Proof.Machine.execCertRingRdWrite a value s
  | .flitSend link => Sys2Proof.Machine.execFlitSend link s
  | .flitReceive link came lanes => Sys2Proof.Machine.execFlitReceive link came lanes s
  | .replayTimeout link => Sys2Proof.Machine.execReplayTimeout link s
  | .laneLockLoss link => Sys2Proof.Machine.execLaneLockLoss link s
  | .linkTrainStart link => Sys2Proof.Machine.execLinkTrainStart link s
  | .linkTrainLock link => Sys2Proof.Machine.execLinkTrainLock link s
  | .linkTrainFail link => Sys2Proof.Machine.execLinkTrainFail link s
  | .msgAckTimeout dst cls msg => Sys2Proof.Machine.execMsgAckTimeout dst cls msg s
  | .discover link b => Sys2Proof.Machine.execDiscover link b s
  | .msgAck src cls msg => Sys2Proof.Machine.execMsgAck src cls msg s
  | .start src b => Sys2Proof.Machine.execStart src b s
  | .progress runId pos phase => Sys2Proof.Machine.execProgress runId pos phase s
  | .progressSend c => Sys2Proof.Machine.execProgressSend c s
  | .lost runId src lostPos phase => Sys2Proof.Machine.execLost runId src lostPos phase s
  | .lostCollectEnd c => Sys2Proof.Machine.execLostCollectEnd c s
  | .claim src dev runId lostPos queue => Sys2Proof.Machine.execClaim src dev runId lostPos queue s
  | .probe link runId => Sys2Proof.Machine.execProbe link runId s
  | .probeReply runId inRun => Sys2Proof.Machine.execProbeReply runId inRun s
  | .probeTimeout runId => Sys2Proof.Machine.execProbeTimeout runId s
  | .failover src runId lostPos spare ckpt => Sys2Proof.Machine.execFailover src runId lostPos spare ckpt s
  | .failoverCopyDone c => Sys2Proof.Machine.execFailoverCopyDone c s
  | .epoch runId pos phase => Sys2Proof.Machine.execEpoch runId pos phase s
  | .epochBarrierDone r => Sys2Proof.Machine.execEpochBarrierDone r s
  | .rekey link epoch => Sys2Proof.Machine.execRekey link epoch s
  | .peerTimerExpire c pos => Sys2Proof.Machine.execPeerTimerExpire c pos s
  | .mirrorRebuildDone dev => Sys2Proof.Machine.execMirrorRebuildDone dev s
  | .scrubRead k => Sys2Proof.Machine.execScrubRead k s
  | .logClear a page => Sys2Proof.Machine.execLogClear a page s
  | .injArm a page value => Sys2Proof.Machine.execInjArm a page value s
  | .lcReqDeployed a => Sys2Proof.Machine.execLcReqDeployed a s
  | .lcReqRma a => Sys2Proof.Machine.execLcReqRma a s
  | .lcReqScrapped a => Sys2Proof.Machine.execLcReqScrapped a s
  | .lcProvision => Sys2Proof.Machine.execLcProvision s
  | .tamperDetect src => Sys2Proof.Machine.execTamperDetect src s
  | .revoke a key => Sys2Proof.Machine.execRevoke a key s
  | .svnCommit a => Sys2Proof.Machine.execSvnCommit a s
  | .keyProvision a slot => Sys2Proof.Machine.execKeyProvision a slot s
  | .attestation a reply => Sys2Proof.Machine.execAttestation a reply s
  | .hReq a => Sys2Proof.Machine.execHReq a s
  | .hDataLastRead a => Sys2Proof.Machine.execHDataLastRead a s
  | .entropyTestTrip src => Sys2Proof.Machine.execEntropyTestTrip src s
  | .sourceRetest src pass => Sys2Proof.Machine.execSourceRetest src pass s
  | .conditionedBlock block => Sys2Proof.Machine.execConditionedBlock block s
  | .drbgReseedDue inst => Sys2Proof.Machine.execDrbgReseedDue inst s
  | .entropyRequestTimeout k => Sys2Proof.Machine.execEntropyRequestTimeout k s
  | .bootIdDraw => Sys2Proof.Machine.execBootIdDraw s
  | .reefEvaluation m => Sys2Proof.Machine.execReefEvaluation m s
  | .alertNFall => Sys2Proof.Machine.execAlertNFall s
  | .vspdEvaluation rateMin => Sys2Proof.Machine.execVspdEvaluation rateMin s
  | .avsAck => Sys2Proof.Machine.execAvsAck s
  | .avsRetry ok => Sys2Proof.Machine.execAvsRetry ok s
  | .canaryFire tile => Sys2Proof.Machine.execCanaryFire tile s
  | .marginDecay tile => Sys2Proof.Machine.execMarginDecay tile s
  | .sensorSample temps => Sys2Proof.Machine.execSensorSample temps s
  | .thermtrip sensor => Sys2Proof.Machine.execThermtrip sensor s
  | .railFault r => Sys2Proof.Machine.execRailFault r s
  | .pwrgdLow => Sys2Proof.Machine.execPwrgdLow s
  | .porstNAssert => Sys2Proof.Machine.execPorstNAssert s
  | .porstNRise m kat => Sys2Proof.Machine.execPorstNRise m kat s
  | .bootComplete f => Sys2Proof.Machine.execBootComplete f s
  | .perstNAssert => Sys2Proof.Machine.execPerstNAssert s
  | .perstNRise => Sys2Proof.Machine.execPerstNRise s
  | .pcieHotReset => Sys2Proof.Machine.execPcieHotReset s
  | .flr => Sys2Proof.Machine.execFlr s
  | .d3hotEntry => Sys2Proof.Machine.execD3hotEntry s
  | .recoveryCmd a => Sys2Proof.Machine.execRecoveryCmd a s
  | .calWrite a => Sys2Proof.Machine.execCalWrite a s
  | .calRead a => Sys2Proof.Machine.execCalRead a s
  | .calCapture a lm links => Sys2Proof.Machine.execCalCapture a lm links s
  | .ppsInEdge => Sys2Proof.Machine.execPpsInEdge s
  | .ppsLoss => Sys2Proof.Machine.execPpsLoss s
  | .ptmExchange hostTime => Sys2Proof.Machine.execPtmExchange hostTime s
  | .timeclkLoss => Sys2Proof.Machine.execTimeclkLoss s
  | .timeclkRelock => Sys2Proof.Machine.execTimeclkRelock s
  | .cplTimeout => Sys2Proof.Machine.execCplTimeout s
  | .bar2Read offset len => Sys2Proof.Machine.execBar2Read offset len s
  | .bar2Write offset data => Sys2Proof.Machine.execBar2Write offset data s
  | .i3cEntdaa addr => Sys2Proof.Machine.execI3cEntdaa addr s
  | .i3cWriteRequest offset value => Sys2Proof.Machine.execI3cWriteRequest offset value s
  | .i3cReadRequest offset => Sys2Proof.Machine.execI3cReadRequest offset s
  | .i3cPrivateRead => Sys2Proof.Machine.execI3cPrivateRead s
  | .txnBegin a page => Sys2Proof.Machine.execTxnBegin a page s
  | .txnCommit a page => Sys2Proof.Machine.execTxnCommit a page s
  | .txnAbort a page => Sys2Proof.Machine.execTxnAbort a page s
  | .rwtWrite a offset value => Sys2Proof.Machine.execRwtWrite a offset value s
  | .txnApply page => Sys2Proof.Machine.execTxnApply page s
  | .txnExpire page => Sys2Proof.Machine.execTxnExpire page s
  | .grpBegin a => Sys2Proof.Machine.execGrpBegin a s
  | .grpCommit a => Sys2Proof.Machine.execGrpCommit a s
  | .grpAbort a => Sys2Proof.Machine.execGrpAbort a s
  | .grpApply => Sys2Proof.Machine.execGrpApply s
  | .grpSafeTimeout => Sys2Proof.Machine.execGrpSafeTimeout s
  | .ownerLock a page id => Sys2Proof.Machine.execOwnerLock a page id s
  | .ownerRelease a page id => Sys2Proof.Machine.execOwnerRelease a page id s
  | .evtClear a page mask recur => Sys2Proof.Machine.execEvtClear a page mask recur s
  | .evtForce a page mask => Sys2Proof.Machine.execEvtForce a page mask s
  | .cntClear a page => Sys2Proof.Machine.execCntClear a page s
  | .softRst a page => Sys2Proof.Machine.execSoftRst a page s
  | .softResetApply page => Sys2Proof.Machine.execSoftResetApply page s
  | .readLoLatch a offset => Sys2Proof.Machine.execReadLoLatch a offset s
  | .registerWrite a offset value => Sys2Proof.Machine.execRegisterWrite a offset value s
  | .internalResetRelease kat => Sys2Proof.Machine.execInternalResetRelease kat s
  | .returnToD0 => Sys2Proof.Machine.execReturnToD0 s
  | .warmResetComplete => Sys2Proof.Machine.execWarmResetComplete s
  | .pcieLinkTrained speed width flit => Sys2Proof.Machine.execPcieLinkTrained speed width flit s
  | .powerSurge => Sys2Proof.Machine.execPowerSurge s
  | .startUpTestsEnd ring arbiter thermal => Sys2Proof.Machine.execStartUpTestsEnd ring arbiter thermal s
  | .pcieFlitReplay => Sys2Proof.Machine.execPcieFlitReplay s
  | .malformedTlp => Sys2Proof.Machine.execMalformedTlp s
  | .badAccess read => Sys2Proof.Machine.execBadAccess read s

end Sys2Proof.Machine
end

