-- ==== Sys2Proof/Safety.lean ====
section
/-!
DEFINITION. What counts as a safe state and a safe run, and the conditions under which a command has its own effect, in the
terms that the statements use.
-/
namespace Sys2Proof.Machine

/-! ## Safe states -/

/-- Device memory has its canonical form: addresses rise strictly, and no entry equals what an unlisted byte reads as. -/
def Memory.wf (m : List Host.Cell) : Bool := spWf zeroByte m

/-- The fuses hold what R549, R550 and R565 allow: four life-cycle groups of eight fuses, four REV fuses, and a key that is not revoked. -/
def fusesLegal (f : Fuses) : Bool :=
  decide (f.groups.length = 4) && f.groups.all (fun g => decide (g ≤ 8)) && decide (f.revoked.length = 4) && f.revoked.any fun r => !r

/-- What no command undoes: a blown life-cycle fuse stays blown and the life-cycle state never goes back, SVN_MIN never falls, a revoked
key stays revoked (R549, R550, R565, R566). -/
def fusesGrow (f g : Fuses) : Prop :=
  (∀ i, nth f.groups i 0 ≤ nth g.groups i 0) ∧ f.life ≤ g.life ∧ f.svnMin ≤ g.svnMin ∧ ∀ k, nth f.revoked k false = true → nth g.revoked k false = true

/-- Nothing completes by itself: no record waits to be queued, no command buffer is over, no DEREGISTER is finishing, no signed record
waits for the ring. -/
def calm (s : State) : Bool :=
  (s.ctxs.all fun x => !recordReady x && !bufferOver x && !(decide (dType x = 5) && decide (x.life = .finishing))) &&
    s.cert.signed.isEmpty

/-- No word of memory holds an error, and no mask is armed. -/
def cleanMem (s : State) : Prop := s.marks = [] ∧ ∀ w, injApplies s w = false

/-! ## When a command has its own effect -/

/-- An engine of an invocation stands at an instruction and may issue it (R273). -/
def standsAt (s : State) (x : EngRef) (op : EngOp) (c : Ctx) (u : Cursor) : Prop :=
  x.ok = true ∧ ctxOf s x.ctx = some c ∧ curOf c x.eng = some u ∧ engAt s c x.eng op = true

/-- Every participant of an invocation stands at a collective (R282). -/
def allStandAt (s : State) (c : Nat) (op : EngOp) (x : Ctx) : Prop := c < 4096 ∧ ctxOf s c = some x ∧ collAt s x op = true

/-- The same, in an invocation with a loaded problem. -/
def annealsAt (s : State) (c : Nat) (op : EngOp) (x : Ctx) (a : Anneal) : Prop := allStandAt s c op x ∧ x.anneal = some a

/-- A context exists and meets a condition. -/
def ctxMeets (s : State) (c : Nat) (p : Ctx → Bool) (x : Ctx) : Prop := c < 4096 ∧ ctxOf s c = some x ∧ p x = true

/-- A register access of an agent is answered, at a page that it sees and that no other owner locks (R633, R634). -/
def accepts (s : State) (a : Agent) (page : Nat) : Prop :=
  serves s a = true ∧ (pageAt page).isSome = true ∧ shown s page = true ∧ lockedOut s a page = false

end Sys2Proof.Machine
end

