-- ==== Sys2Proof/Certificates/Slice0/Obligations.lean ====
section
/-!
DEFINITION. The statements for the provers. A command's own effect is `exec c s = .next …` under conditions on the state and the
operands alone; `pump` is what follows at once from a command of the command front end.
-/
open Sys2Proof Sys2Proof.Machine

/-! ## The machine -/

/-- A step takes the command at the front of the queue: it is `exec` of that command on the state with the queue's rest. -/
def Obligations.StepRunsFront : Prop :=
  ∀ (c : Instr) (rest : List Instr) (s : State),
    step { s with pending := c :: rest } = exec c { s with pending := rest }

/-- On an empty queue one nanosecond passes, which is the model's choice (log entry 2): with RATE = 0 the time base rises by one, and
nothing else of the state changes. -/
def Obligations.IdleStepTicks : Prop :=
  ∀ s : State, s.pending = [] → reg s pgTime 0x050 = 0 → 0 ≤ s.nowFrac → s.nowFrac < 2 ^ 32 →
    step s = .next { s with now := (s.now + 1) % 2 ^ 64 }

/-- No command touches the queue behind it. -/
def Obligations.ExecKeepsQueue : Prop :=
  ∀ (c : Instr) (s t : State), exec c s = .next t → t.pending = s.pending

/-- Every command of the device completes: no refusal, and no fault where the unit named exists. -/
def Obligations.EveryCommandRuns : Prop :=
  ∀ (c : Instr) (s : State), c.wf = true → ∃ t, exec c s = .next t

/-- The one stop of the model (log entry 1): a command that names a unit the device does not have. Nothing is refused. -/
def Obligations.OnlyAbsentUnitsStop : Prop :=
  ∀ (c : Instr) (s : State), (∀ r, exec c s ≠ .refused r) ∧ ∀ f, exec c s = .fault f → f = .noSuchUnit

/-- Device memory keeps its canonical form over every step, from any state that has it. -/
def Obligations.StepKeepsMemoryWf : Prop :=
  ∀ s t : State, Memory.wf s.mem = true → step s = .next t → Memory.wf t.mem = true

/-- The fuses stay legal over every step, and burning is one-way: no life-cycle fuse is unblown and the life-cycle state never goes
back, SVN_MIN never falls, a revoked key stays revoked. -/
def Obligations.StepKeepsFuses : Prop :=
  ∀ s t : State, fusesLegal s.fuses = true → step s = .next t → fusesLegal t.fuses = true ∧ fusesGrow s.fuses t.fuses

/-- The invariants hold at reset. -/
def Obligations.ResetMeetsInvariants : Prop :=
  Memory.wf State.reset.mem = true ∧ fusesLegal State.reset.fuses = true ∧ calm State.reset = true ∧ cleanMem State.reset

/-- After a cold reset, a warm reset or a Function Level Reset, the device is in MAINTENANCE. Every ring is disabled and empty, every
semaphore is 0, no resident program is installed, no Bell program is registered and the undelivered buffer is empty. -/
def Obligations.ResetState : Prop :=
  ∀ (s t : State) (ph : BootPhase) (warm : Bool), t = State.reset ∨ t = coldReset ph s ∨ t = warmReset warm s →
    devState t = 0 ∧ (∀ q, q < 6 → qEnabled t q = false ∧ qState t q = 0 ∧ qHead t q = 0 ∧ qTail t q = 0) ∧
    (∀ n, semOf t n = 0) ∧ t.progs = [] ∧ (∀ b ∈ t.bells, b.progs = []) ∧ t.undelivered = []

/-! ## Stores and registers -/

/-- A stored register reads back in its 32 bits, and every other register reads as before. -/
def Obligations.RegisterReadsBack : Prop :=
  ∀ (s : State) (page off page' off' v : Nat),
    reg (setReg page off v s) page off = v % 2 ^ 32 ∧
    (rk page' off' ≠ rk page off → reg (setReg page off v s) page' off' = reg s page' off')

/-- Bytes read from a store in canonical form are its cells, in address order. -/
def Obligations.BytesAreCells : Prop :=
  ∀ (m : Sparse Byte) (a n : Nat), spWf zeroByte m = true →
    spBytes m a n = (List.range n).map fun i => spGet zeroByte (a + i) m

/-- A write of device memory that lies in one piece of the address map, where no word holds an error and no mask is armed: the bytes are
in memory, every other byte reads as before, and no byte outside memory's cells moves. -/
def Obligations.MemoryWriteStores : Prop :=
  ∀ (a k : Nat) (bs : List Byte) (s : State), cleanMem s → pieces s 34 a bs.length = [(k, bs.length)] →
    ∀ b, spGet zeroByte b (memWrite a bs s).mem = if k ≤ b ∧ b < k + bs.length then nth bs (b - k) 0 else spGet zeroByte b s.mem

/-- Where nothing completes by itself, what follows a command leaves memory, semaphores, tiles, accumulators and programs as they are.
-/
def Obligations.CalmPumpKeeps : Prop :=
  ∀ s : State, calm s = true →
    (pump s).mem = s.mem ∧ (pump s).sems = s.sems ∧ (pump s).tiles = s.tiles ∧ (pump s).acc = s.acc ∧ (pump s).progs = s.progs ∧
    (pump s).now = s.now

/-- An event bit is set and stays; the message of FAULT_VEC goes out when the page's enabled events went from none to some. -/
def Obligations.RaiseSetsTheBit : Prop :=
  ∀ (s : State) (page bit : Nat), bit < 32 →
    (reg (raise page bit s) page oEvtStatus).testBit bit = true ∧
    (pageRaised s page = false → (reg s page oEvtEnable).testBit bit = true →
      (raise page bit s).out = .msix (reg s pgCfe 0x064 % 128) :: s.out) ∧
    (pageRaised s page = true → (raise page bit s).out = s.out)

/-- A counter counts up, and stays at 2³² − 1. -/
def Obligations.CounterSaturates : Prop :=
  ∀ (s : State) (page off n : Nat),
    page ≠ pgDev → off ≠ oStatus →
    reg (bumpN page off n s) page off = min (2 ^ 32 - 1) (reg s page off + n)

/-! ## Engine programs -/

/-- The cursor that stood at an instruction moves to the next one, closing the loops that end there; every other cursor, and everything
outside the invocation's context, stays. -/
def Obligations.AdvanceMovesOneCursor : Prop :=
  ∀ (s : State) (c e : Nat) (x : Ctx) (u : Cursor), ctxOf s c = some x → curOf x e = some u →
    let r := closeLoops (runStopped x) (runPhases x) u.frames (u.pc + 1)
    (ctxOf (advance c e s) c).bind (curOf · e) = some { u with frames := r.1, pc := r.2 } ∧
    (∀ e', e' ≠ e → (ctxOf (advance c e s) c).bind (curOf · e') = curOf x e') ∧
    (∀ c', c' ≠ c → ctxOf (advance c e s) c' = ctxOf s c') ∧
    { advance c e s with ctxs := s.ctxs } = s

/-- At the end of a body, a COUNTED loop runs it again until it has run COUNT times, a PHASES loop until it has run H times, a SWEEPS
loop until the run stops; then the instruction after the body follows, which may end an outer body too. -/
def Obligations.LoopRepeatsItsBody : Prop :=
  ∀ (stopped : Bool) (h i : Nat) (l : LoopAt) (fs : List Frame),
    let again := (⟨l, i + 1⟩ :: fs, l.start + 1)
    let after := closeLoops stopped h fs l.stop
    (∀ pc, pc < l.stop → closeLoops stopped h (⟨l, i⟩ :: fs) pc = (⟨l, i⟩ :: fs, pc)) ∧
    (l.mode = 0 → closeLoops stopped h (⟨l, i⟩ :: fs) l.stop = if i + 1 < l.count then again else after) ∧
    (l.mode = 1 → closeLoops stopped h (⟨l, i⟩ :: fs) l.stop = if i + 1 < h then again else after) ∧
    (l.mode = 2 → closeLoops stopped h (⟨l, i⟩ :: fs) l.stop = if stopped then after else again)

/-- NOP, LOOP, STAGE and HALT at the instruction where the engine stands. HALT ends the engine's program; when every program has
executed it, the engine work of the invocation ends. The ends of a MOVE: DIR 0 is device address to Slate, 1 Slate to device address, 2
home address to Slate, 3 Slate to home address, 4 Slate to Slate. TSTAMP writes the 64-bit time base, FILL its 32-bit pattern over its
whole length, each at the address of its indexed SA; the partial sums that a FILL covers are no longer partial sums; MOVE copies its
whole length from its source to its destination, the source read first, with the kinds of the partial sums among it, and absorbs the
bytes into its digest context where it names one. -/
def Obligations.ControlAndMovesRun : Prop :=
  ((∀ (s : State) (x : EngRef) (c : Ctx) (u : Cursor),
    (standsAt s x .nop c u → exec (.nop x) s = .next (pump (advance c.id u.eng s))) ∧
    (∀ o, standsAt s x (.loop o) c u → ¬(o.mode = 2 ∧ runStopped c = true) →
      exec (.loop x o) s = .next (pump
        (updCur c.id u.eng (fun v => { v with frames := ⟨loopAt v.pc o, 0⟩ :: v.frames, pc := v.pc + 1 }) s))) ∧
    (∀ o, standsAt s x (.stage o) c u →
      exec (.stage x o) s = .next (pump
        (advance c.id u.eng (updCur c.id u.eng (fun v => { v with stage := stageIndex (ctxImage s c) o.stageId }) s)))) ∧
    (standsAt s x .halt c u →
      let t := updCur c.id u.eng (fun v => { v with halted := true }) s
      exec (.halt x) s = .next (pump (if c.curs.all (fun v => v.halted || decide (v.eng = u.eng)) then engineWorkDone c.id t else t)))) ∧
  (∀ (u : Cursor) (i sa len hreg ctx addr : Nat),
    let h := homeBase (hregEng u.eng hreg) + 64 * addr
    moveEnds u i ⟨sa, len, 0, hreg, ctx, addr⟩ = (64 * addr, saIx u i sa) ∧
    moveEnds u i ⟨sa, len, 1, hreg, ctx, addr⟩ = (saIx u i sa, 64 * addr) ∧
    moveEnds u i ⟨sa, len, 2, hreg, ctx, addr⟩ = (h, saIx u i sa) ∧
    moveEnds u i ⟨sa, len, 3, hreg, ctx, addr⟩ = (saIx u i sa, h) ∧
    moveEnds u i ⟨sa, len, 4, hreg, ctx, addr⟩ = (saIx u i sa, sa0 u addr))) ∧
  (∀ (s : State) (x : EngRef) (c : Ctx) (u : Cursor),
    (∀ o, standsAt s x (.tstamp o) c u →
      exec (.tstamp x o) s = .next (pump (advance c.id u.eng (memWrite (saIx u (curIdx s c x.eng) o.sa) (leBytes 8 s.now) s)))) ∧
    (∀ o, standsAt s x (.fill o) c u →
      let d := saIx u (curIdx s c x.eng) o.sa
      let t := memWrite d (List.replicate (16 * (o.len + 1)) (leBytes 4 o.pattern)).flatten s
      exec (.fill x o) s = .next (pump (advance c.id u.eng { t with partials := spClear d (64 * (o.len + 1)) t.partials }))) ∧
    (∀ o r, standsAt s x (.move o) c u →
      let e := moveEnds u (curIdx s c x.eng) o
      let n := 64 * (o.len + 1)
      engReads c.id u.eng [(e.1, n)] s = (true, r) →
        exec (.move x o) s = .next (pump (advance c.id u.eng
          (absorb c.id u.eng o.ctx (memRead r e.1 n) (moveTags e.1 e.2 n (memWrite e.2 (memRead r e.1 n) r)))))))

/-- ADD leaves the sum, or 2⁶⁴ − 1 where the sum is above it; SET leaves any value; no other semaphore changes. -/
def Obligations.SemaphoreOperations : Prop :=
  ∀ (s : State) (n v m : Nat), v < 2 ^ 64 →
    semOf (semDo true n v s) n = v ∧
    semOf (semDo false n v s) n = min (2 ^ 64 - 1) (semOf s n + v) ∧
    ∀ b, m ≠ n → semOf (semDo b n v s) m = semOf s m

/-- SWAIT completes when the semaphore's value is at least THRESH, else it starts its timeout once and waits; on expiry the invocation
ends with WAIT_TIMEOUT; SSIGNAL changes its semaphore by ADD or SET and goes on. SEM_OP by host software: ADD adds SEM_DATA to a
semaphore, SET sets it, and the write restarts the stall detector's timer. -/
def Obligations.SemaphoreCommandsRun : Prop :=
  (∀ (s : State) (x : EngRef) (c : Ctx) (u : Cursor),
    (∀ o, standsAt s x (.swait o) c u → o.thresh ≤ semOf s o.sem →
      exec (.swait x o) s = .next (pump (advance c.id u.eng (updCur c.id u.eng (fun v => { v with swaitEnd := none }) s)))) ∧
    (∀ o, standsAt s x (.swait o) c u → semOf s o.sem < o.thresh → u.swaitEnd = none →
      exec (.swait x o) s = .next (pump (updCur c.id u.eng (fun v => { v with swaitEnd := some (s.now + waitNs o.tmo (wMin s)) }) s))) ∧
    (∀ o i t, x.ok = true → ctxOf s x.ctx = some c → c.life = .running → curOf c x.eng = some u → u.swaitEnd = some t → t ≤ s.now →
      curInstr s c x.eng = some ⟨.swait o, i⟩ → semOf s o.sem < o.thresh →
      exec (.swaitTimeout x) s = .next (pump (endWith x.ctx ⟨stWaitTimeout, 0x100, 0⟩ s))) ∧
    (∀ o, standsAt s x (.ssignal o) c u →
      exec (.ssignal x o) s = .next (pump (advance c.id u.eng (semDo (decide (o.op = 1)) o.sem o.value s))))) ∧
  (∀ (s : State) (a : Agent) (n : Nat), n < 16384 → accepts s a pgSync →
    exec (.semOpAdd a n) s = .next (syncTouch (pump (semDo false n (regPair s pgSync 0x050) s))) ∧
    exec (.semOpSet a n) s = .next (syncTouch (pump (semDo true n (regPair s pgSync 0x050) s))))

/-! ## The array and the vector unit -/

/-- SLD loads the stationary tile of its engine; STREAM in mode 0 (overwrite) or 1 (accumulate) whose check passes on every vector
writes the pass into its slot; the accumulator words of every other engine and slot stay. DRAIN sends its slot through the output path
to the address of its indexed SA; PDRAIN copies the slot there in the partial format, and PRELOAD restores it. -/
def Obligations.ArrayRuns : Prop :=
  (∀ (s r q : State) (x : EngRef) (c : Ctx) (u : Cursor),
    (∀ o, standsAt s x (.sld o) c u →
      let f := fmtOf o.fmt
      let i := curIdx s c x.eng
      engReads c.id u.eng ([(spaceAddr u o.space o.hreg (ixByte u i (64 * o.addr)), tileLen (elemFmt f))] ++
        (if o.chk = 0 then [(spaceAddr u o.space o.hreg (64 * o.caddr), 2048)] else []) ++
        (if isMx f then [(sa0 u o.scale, 8192)] else [])) s = (true, r) →
      exec (.sld x o) s = .next (pump (advance c.id u.eng { r with tiles := spSet noTile u.eng (some (loadTile u i o r)) r.tiles }))) ∧
    (∀ o t, standsAt s x (.stream o) c u →
      let f := fmtOf o.fmt
      let a := saIx u (curIdx s c x.eng) o.sa
      engReads c.id u.eng ((a, (o.v + 1) * vecStride (elemFmt f)) :: (if isMx f then [(sa0 u o.scale, 16 * (o.v + 1))] else [])) s = (true, r) →
      (if o.mode = 1 then slotReads c.id u.eng o.slot (o.v + 1) r else (true, r)) = (true, q) →
      spGet noTile u.eng q.tiles = some t →
      (∀ p ∈ runPass t a (sa0 u o.scale) (o.v + 1) f q, p.ok = true) →
      exec (.stream x o .none) s = .next (pump (advance c.id u.eng
        (storePass u o (isIntFmt t.fmt) (runPass t a (sa0 u o.scale) (o.v + 1) f q) q))))) ∧
  (∀ (s r q : State) (x : EngRef) (c : Ctx) (u : Cursor),
    (∀ o, standsAt s x (.drain o) c u →
      engReads c.id u.eng (if o.fuse = 0 then [] else [(sa0 u o.fuseSa, fuseLen o)]) s = (true, r) →
      slotReads c.id u.eng o.slot (o.v + 1) r = (true, q) →
      exec (.drain x o) s = .next (pump (drainSlot c u (saIx u (curIdx s c x.eng) o.sa) o
        ((slotRec q u.eng o.slot).getD ⟨o.slot, o.v, false, 0, 0⟩) q))) ∧
    (∀ o, standsAt s x (.pdrain o) c u → slotReads c.id u.eng o.slot (o.v + 1) s = (true, q) →
      let d := (slotRec q u.eng o.slot).getD ⟨o.slot, o.v, false, 0, 0⟩
      let a := saIx u (curIdx s c x.eng) o.sa
      let m := memWrite a (partialBytes q u.eng o.slot (o.v + 1) d.flags) q
      exec (.pdrain x o) s = .next (pump (advance c.id u.eng
        (stageFlags c.id u.eng d.flags { m with partials := spSet noPartial a (some d.isInt) m.partials })))) ∧
    (∀ o, standsAt s x (.preload o) c u →
      let a := saIx u (curIdx s c x.eng) o.sa
      engReads c.id u.eng [(a, 2048 * (o.v + 1) + 64)] s = (true, r) →
      exec (.preload x o) s = .next (pump (advance c.id u.eng (preloadSlot u o a r)))))

/-- A slot written holds the words it was given, and every slot word outside it is as before. -/
def Obligations.SlotWriteStores : Prop :=
  ∀ (e v col : Nat) (r : SlotRec) (ws : List (List Nat)) (s : State),
    (∀ w ∈ ws, w.length = 512 ∧ ∀ n ∈ w, n < 2 ^ 32) →
    (v < ws.length → col < 512 → slotWord (writeSlot e r ws s) e r.slot v col = nth (nth ws v []) col 0) ∧
    (∀ k, k < slotKey e r.slot 0 0 ∨ slotKey e r.slot 0 0 + 2048 * ws.length ≤ k →
      spGet zeroWord k (writeSlot e r ws s).acc = spGet zeroWord k s.acc) ∧
    (writeSlot e r ws s).mem = s.mem ∧ (writeSlot e r ws s).tiles = s.tiles

/-- The partial format holds a slot's words unchanged, in column-major order within each streamed vector, followed by one 64-byte record
with the flags in its bits [4:0] and the remaining bits zero. -/
def Obligations.PartialFormatIsExact : Prop :=
  ∀ (s : State) (e slot n flags v col : Nat), flags < 32 →
    (partialBytes s e slot n flags).length = 2048 * n + 64 ∧
    (v < n → col < 512 → leAt (partialBytes s e slot n flags) (2048 * v + 4 * col) 4 = slotWord s e slot v col) ∧
    leAt (partialBytes s e slot n flags) (2048 * n) 64 = flags

/-- VOP, VRED, VNORM, VCVT and VTOPK read their operands, write their result at the address of SA_D, which IDX indexes, and go on. -/
def Obligations.VectorRuns : Prop :=
  ∀ (s r : State) (x : EngRef) (c : Ctx) (u : Cursor),
    (∀ o, standsAt s x (.vop o) c u →
      let n := vecLen o.ty o.nv
      let d := saIx u (curIdx s c x.eng) o.saD
      engReads c.id u.eng ([(sa0 u o.saA, n)] ++ (if usesB o.func then [(sa0 u o.saB, n)] else []) ++
        (if o.func = 0x04 then [(d, n)] else [])) s = (true, r) →
      exec (.vop x o) s = .next (pump (advance c.id u.eng (vopRun c u d o r)))) ∧
    (∀ o, standsAt s x (.vred o) c u →
      let n := vecLen o.ty o.nv
      engReads c.id u.eng [(sa0 u o.saA, n)] s = (true, r) →
      exec (.vred x o) s = .next (pump (advance c.id u.eng (memWrite (saIx u (curIdx s c x.eng) o.saD)
        (vredBytes (tyOfCode o.ty) o.op (512 * (o.nv + 1)) (memRead r (sa0 u o.saA) n)) r)))) ∧
    (∀ o, standsAt s x (.vnorm o) c u →
      let n := o.n + 1
      engReads c.id u.eng [(sa0 u o.saA, 4 * n)] s = (true, r) →
      let xs := f32Codes (memRead r (sa0 u o.saA) (4 * n)) n
      exec (.vnorm x o) s = .next (pump (advance c.id u.eng (memWrite (saIx u (curIdx s c x.eng) o.saD)
        (((if o.kind = 0 then f32Softmax xs else f32Normalise xs o.eps).map (leBytes 4)).flatten) r)))) ∧
    (∀ o, standsAt s x (.vcvt o) c u →
      let f := fmtOf o.ifmt
      engReads c.id u.eng [(sa0 u o.saA, (o.nv + 1) * vecStride (elemFmt f) + mxTail f (o.nv + 1) 0)] s = (true, r) →
      exec (.vcvt x o) s = .next (pump (advance c.id u.eng (vcvtRun c u (saIx u (curIdx s c x.eng) o.saD) o r)))) ∧
    (∀ o, standsAt s x (.vtopk o) c u →
      let n := o.nr + 1
      engReads c.id u.eng [(sa0 u o.saA, 128 * n)] s = (true, r) →
      let es := ((List.range n).map fun t => recordEntries (memRead r (sa0 u o.saA + 128 * t) 128) (512 * t)).flatten
      exec (.vtopk x o) s = .next (pump (advance c.id u.eng (memWrite (saIx u (curIdx s c x.eng) o.saD)
        (topMerged (o.k + 1) (topRank Config.vtopkInt (decide (o.mode = 0)) es)) r)))) ∧
    (∀ o, standsAt s x (.pbuild o) c u →
      let a := saIx u (curIdx s c x.eng) o.saA
      engReads c.id u.eng [(a, 4 * (o.count + 1))] s = (true, r) →
      exec (.pbuild x o) s = .next (pump (advance c.id u.eng (pbuildRun c u a o r))))

/-! ## The anneal class, reductions, audit and certificate of a program -/

/-- PLOAD once every participant stands at it and no queued audit holds the home regions: it checks, places and starts the problem; a
problem that fails a check ends the invocation with the place of the failure. -/
def Obligations.PloadRuns : Prop :=
  ∀ (s : State) (c : Nat) (o : PloadOp) (x : Ctx), allStandAt s c (.pload o) x → auditHolds s x = false →
    exec (.pload c o) s = .next (pump (ploadStep c o x s)) ∧
    ∀ l, ploadUnderway x o = false → ploadCheck s x o = .error l →
      exec (.pload c o) s = .next (pump (endWith c (invalidAt l) s))

/-- GATHER reads the run's state and the visited segments' fields, delivers a shared segment's data to its visiting engine and begins
the visits of a phase; RELAX completes at once when T_RELAX = 0 and CHOOSE when T_CHOOSE = 0; otherwise each reads its working data,
forms its tiles, makes the passes of every visit and, where they stand, steps every visit; the invocation goes to the next step of the
phase. -/
def Obligations.VisitsRun : Prop :=
  ∀ (s : State) (c : Nat) (x : Ctx) (a : Anneal),
    (∀ o r, annealsAt s c (.gather o) x a → runReads c a s = (true, r) →
      let segs := phaseSegs a.prob.segCount a.prob.engReq a.hIdx
      let f := fieldReads c a.prob ((segs.map (segEngines a.prob)).flatten) r
      let g := if isShared a.prob then segs.foldl (fun s g => if goesOn s c then gatherSeg c a g s else s) f else f
      goesOn g c = true →
      exec (.gather c o) s = .next (pump (collAdvance c
        (match runOf (updRun c beginPhase g) c with
          | some b => workWrites b (updRun c beginPhase g)
          | none => updRun c beginPhase g)))) ∧
    (∀ o us, annealsAt s c (.relax o) x a → a.ps.relax.t = 0 →
      exec (.relax c o us) s = .next (pump (collAdvance c (updRun c (fun b => { b with pos := .choose }) s)))) ∧
    (∀ o us w q k, annealsAt s c (.relax o) x a → a.ps.relax.t ≠ 0 →
      let b := working s c a
      phaseReads c b s = (true, w) → goesOn (formTiles c b false w) c = true →
      accPass c (visitEngines b) (crossLen a.prob) (2048 * a.prob.replicas) (formTiles c b false w) = (true, q) →
      let r := relaxVisits a
      passCheck c (visits b) true (us ++ r.2.2.2) q = (true, k) →
      exec (.relax c o us) s = .next (pump (collAdvance c
        (setVisits c r ((a.visits.filter fun v => !allHeld a.prob v.seg).map fun v => 2 * v.seg) .choose k)))) ∧
    (∀ o us, annealsAt s c (.choose o) x a → a.ps.choose.t = 0 →
      exec (.choose c o us) s = .next (pump (collAdvance c (updRun c (fun b => { b with pos := .rollcall }) s)))) ∧
    (∀ o us w q k, annealsAt s c (.choose o) x a → a.ps.choose.t ≠ 0 →
      let b := working s c a
      phaseReads c b s = (true, w) → goesOn (formTiles c b true w) c = true →
      accPass c (visitEngines b) (crossLen a.prob) (chooseLen b) (formTiles c b true w) = (true, q) →
      let r := chooseVisits a
      passCheck c (visits b) true (us ++ r.2.2.2) q = (true, k) →
      exec (.choose c o us) s =
        .next (pump (collAdvance c (setVisits c r (a.visits.map fun v => 2 * v.seg + 1) .rollcall k))))

/-- ROLLCALL reads its working data, the coefficients and the tables, and, where its passes and its pairs stand, puts the proposals'
records into the exchange windows and walks them; FIELDUP on one device, its passes standing, commits the accepted ones; SWEEPEND takes
the parts of a sweep end that are left, in their order, each once the one before it is complete; RESULT writes the result area. -/
def Obligations.PhasesRun : Prop :=
  ∀ (s : State) (c : Nat) (x : Ctx) (a : Anneal),
    (∀ o us ps w k q, annealsAt s c (.rollcall o) x a →
      let t := if a.redo.isEmpty then s else redoVisits c a s
      goesOn t c = true →
      phaseReads c { a with visits := a.visits.filter fun v => crossing t c a (visitEng a.prob v.seg) } t = (true, w) →
      crossPass c a us w = (true, k) → failingAt k c = [] → pairsCheck c a ps k = (true, q) →
      exec (.rollcall c o ⟨us, ps⟩) s =
        .next (pump (collAdvance c (sendFree c x (updRun c walkPhase (deliverRecords a q)))))) ∧
    (∀ o us w r k, annealsAt s c (.fieldup o) x a → recordReads c a s = (true, w) → runReads c a w = (true, r) →
      isSpanned r x = false → propagate c a (ownDeltas a) us r = (true, k) →
      let f := phaseFields a (ownDeltas a)
      a.marked = false → allFit f = true →
      exec (.fieldup c ⟨o, us⟩) s = .next (pump (commitPhase c (commitRun (ownDeltas a) f (fun i => nth a.dl i 0) fun _ => false) k))) ∧
    (∀ o us w r m k, annealsAt s c (.fieldup o) x a → recordReads c a s = (true, w) → runReads c a w = (true, r) →
      isSpanned r x = true → flFree x = true → ((ctxOf (takeAccs c r) c).bind (·.md)) = some m →
      let sets := freeSets m fun _ _ => true
      propagate c a (ownDeltas a ++ (sets.map (·.deltas)).flatten) us (takeAccs c r) = (true, k) →
      let t := updMd c (fun m => { m with remote := [], shareSent := false }) k
      (∀ f, applyFree (ownDeltas a) a.dl sets a = some f → exec (.fieldup c ⟨o, us⟩) s = .next (pump (commitPhase c f t))) ∧
      (applyFree (ownDeltas a) a.dl sets a = none →
        exec (.fieldup c ⟨o, us⟩) s = .next (pump (saturate c a.n (takeBackRun c (marksOf sets) (tellSaturated c a.n sets t)))))) ∧
    (∀ o r, annealsAt s c (.sweepend o) x a → runReads c a s = (true, r) →
      exec (.sweepend c o) s = .next (pump ((List.range (4 - a.part)).foldl (fun s i =>
        match runOf s c with
        | some b => if b.part = a.part + i then sweepPart c s else s
        | none => s) r))) ∧
    (∀ o r q b v t, annealsAt s c (.result o) x a → runReads c a s = (true, r) → isSpanned r x = true →
      (flFree x = false ∧ q = r ∧ b = a ∨ flFree x = true ∧ endsTold c a r = (true, q) ∧ runOf q c = some b) →
      combine c (fun u v => u ++ v) (digestInts (stateDigest b)) q = (some v, t) →
      exec (.result c o) s = .next (pump (collAdvance c (writeResult c (daOf x o.da)
        (shake256 (2 :: (leBytes 2 (v.length / 2) ++ (v.map fun i => leBytes 16 (unsigned 128 i)).flatten)) 32)
          (updRun c (fun a => { a with gathered := [] }) t))))) ∧
    (∀ o r, annealsAt s c (.result o) x a → runReads c a s = (true, r) → isSpanned r x = false →
      exec (.result c o) s = .next (pump (collAdvance c (writeResult c (daOf x o.da) (stateDigest a) r))))

/-- A phase in which a field would leave its range commits nothing: on one device FIELDUP ends the run with FIELD_SATURATED, and the
states, energies and residuals stay as the phase found them. -/
def Obligations.SaturatedPhaseCommitsNothing : Prop :=
  ∀ (s w r k : State) (c : Nat) (o : FieldupOp) (us : List Upset) (x : Ctx) (a : Anneal),
    annealsAt s c (.fieldup o) x a → recordReads c a s = (true, w) → runReads c a w = (true, r) → isSpanned r x = false →
    propagate c a (ownDeltas a) us r = (true, k) →
    (a.marked = true ∨ allFit (phaseFields a (ownDeltas a)) = false) →
      exec (.fieldup c ⟨o, us⟩) s = .next (pump (saturate c a.n k)) ∧
      ∀ b, runOf (saturate c a.n k) c = some b →
        ∃ b0, runOf k c = some b0 ∧ b.stop = some .saturated ∧ b.satPhase = a.n ∧ b.spins = b0.spins ∧ b.energy = b0.energy ∧
          b.resid = b0.resid ∧ b.fields = b0.fields ∧ b.top = b0.top

/-- What a phase accepts and what it rejects add up to what it proposes: in every replica, each visit's proposal is accepted or
rejected. -/
def Obligations.WalkDecidesEveryProposal : Prop :=
  ∀ a : Anneal, (walkPhase a).accepted.length = a.prob.replicas ∧
    (∀ l ∈ (walkPhase a).accepted, l.length = a.visits.length) ∧ (walkPhase a).dl.length = a.prob.replicas ∧
    (walkPhase a).deltas.length = a.visits.length ∧ (walkPhase a).spins = a.spins ∧ (walkPhase a).energy = a.energy

/-- RED gives every participant the fold of the participants' vectors at its SA_D, with SCOPE = run the fold over the device tree once
it is there; where the participants' operands differ it completes too, with free values (log entry 68). BCAST copies the root's bytes to
SA of every other participant; with SCOPE = run the root's device sends them to every position, and another device writes what has
arrived from the root's. LSEND sends its range as activation frames to a position of the run; LRECV, with the matching length, reads
each frame where it stands in the exchange window, writes it at its place in the range of its indexed SA, and goes on once every frame
of the range is in. -/
def Obligations.CollectivesRun : Prop :=
  (∀ (s r : State) (c : Nat) (x : Ctx) (es : List Nat), c < 4096 → ctxOf s c = some x →
    (∀ o, tagGroup s x (.red o) true o.tag o.scope = some es →
      let ps := es.filterMap fun e => (redAt s x e).map fun q => (e, q)
      groupReads c (ps.map fun p => (p.1, saIx p.2.2.1 p.2.2.2 p.2.1.saA, vecLen p.2.1.ty p.2.1.nv)) s = (true, r) →
      ((∀ p ∈ ps, p.2.1.nv = o.nv ∧ p.2.1.op = o.op ∧ p.2.1.ty = o.ty) →
        let v := redDevice o.ty o.op (ps.map fun p =>
          (p.1, (List.range (512 * (o.nv + 1))).map (redElem o.ty (memRead r (saIx p.2.2.1 p.2.2.2 p.2.1.saA) (vecLen o.ty o.nv)))))
        (o.scope ≠ 2 → exec (.red c o) s = .next (pump (redWrite c ps (redBytes o.ty v).1 (redBytes o.ty v).2 r))) ∧
        (∀ w t, o.scope = 2 → combineAt c (tagKey o.tag) (redVec o.ty o.op) v r = (some w, t) →
          exec (.red c o) s = .next (pump (redWrite c ps (redBytes o.ty w).1 (redBytes o.ty w).2 t)))) ∧
      ((∃ p ∈ ps, ¬(p.2.1.nv = o.nv ∧ p.2.1.op = o.op ∧ p.2.1.ty = o.ty)) →
        exec (.red c o) s = .next (pump (ps.foldl (fun t p =>
          advance c p.1 (memWrite (sa0 p.2.2.1 p.2.1.saD)
            (leBytes (vecLen p.2.1.ty p.2.1.nv) (Config.redMixed (redInput r ps) p.1)) t)) r)))) ∧
    (∀ o p, tagGroup s x (.bcast o) false o.tag o.scope = some es →
      let ps := es.filterMap fun e => (bcastAt s x e).map fun q => (e, q)
      (ps.find? fun q => decide (q.1 = o.root)) = some p →
      let a := saIx p.2.2.1 p.2.2.2 p.2.1.sa
      let n := 64 * (o.len + 1)
      groupReads c [(p.1, a, n)] s = (true, r) →
      (o.scope ≠ 2 ∨ x.md = none →
        exec (.bcast c o) s = .next (pump (bcastWrite c ps (some p.1) (memRead r a n)
          (countSent c (es.headD 0) (2 ^ 16 + o.tag) 1 r)))) ∧
      (∀ m, o.scope = 2 → x.md = some m → m.position = o.rdev →
        let num := o.tag + 256 * ((curOf x (es.headD 0)).map (sentOf · (2 ^ 16 + o.tag))).getD 0
        exec (.bcast c o) s = .next (pump (bcastWrite c ps (some p.1) (memRead r a n) (countSent c (es.headD 0) (2 ^ 16 + o.tag) 1
          ((others m).foldl (fun t q => sendRun c q 1 mkBcast num (memRead r a n) t) r)))))) ∧
    (∀ o m b, tagGroup s x (.bcast o) false o.tag o.scope = some es → o.scope = 2 → x.md = some m → m.position ≠ o.rdev →
      let ps := es.filterMap fun e => (bcastAt s x e).map fun q => (e, q)
      let num := o.tag + 256 * ((curOf x (es.headD 0)).map (sentOf · (2 ^ 16 + o.tag))).getD 0
      gotRun s m o.rdev mkBcast num = some b →
      exec (.bcast c o) s = .next (pump (bcastWrite c ps none (b.take (64 * (o.len + 1)))
        (countSent c (es.headD 0) (2 ^ 16 + o.tag) 1 (waitAt c (tagKey o.tag) [] (dropRun m o.rdev mkBcast num s))))))) ∧
  (∀ (s r : State) (x : EngRef) (c : Ctx) (u : Cursor),
    (∀ o, standsAt s x (.lsend o) c u →
      let a := saIx u (curIdx s c x.eng) o.sa
      engReads c.id u.eng [(a, 64 * (o.len + 1))] s = (true, r) →
      exec (.lsend x o) s = .next (pump (advance c.id u.eng (lsendFrames c.id c u.eng o a (memRead r a (64 * (o.len + 1))) r)))) ∧
    (∀ o m b y v, standsAt s x (.lrecv o) c u → c.md = some m →
      let n := 64 * (o.len + 1)
      let num := o.chan + 16 * sentOf u (keyRecv o.peer o.chan)
      let nf := ceilDiv n 65536
      gotRun s m o.peer mkLen num = some b → leAt b 0 4 = n →
      (List.range nf).foldl (takeFrame c.id u.eng m o (sentOf u (keyFrames o.peer o.chan)) (saIx u (curIdx s c x.eng) o.sa) n)
        (true, s) = (true, r) →
      ctxOf r c.id = some y → curOf y u.eng = some v → sentOf v (keyPart o.peer o.chan) = 2 ^ nf - 1 →
      exec (.lrecv x o) s = .next (pump (advance c.id u.eng (countSent c.id u.eng (keyRecv o.peer o.chan) 1
        (countSent c.id u.eng (keyFrames o.peer o.chan) nf (setSent c.id u.eng (keyPart o.peer o.chan) 0 (dropRun m o.peer mkLen num r))))))) ∧
    (∀ o m b, standsAt s x (.lrecv o) c u → c.md = some m →
      gotRun s m o.peer mkLen (o.chan + 16 * sentOf u (keyRecv o.peer o.chan)) = some b → leAt b 0 4 ≠ 64 * (o.len + 1) →
      exec (.lrecv x o) s = .next (pump (lengthsDiffer c.id u o (o.chan + 16 * sentOf u (keyRecv o.peer o.chan)) s))))

/-- AUDIT completes when the audit is queued, and only where the descriptor asks for one; CERT has no effect where the descriptor asks
for no certificate; where it asks for one, CERT waits for BOOT_ID and, on an ordinary ring, for a queued audit, and then issues the
certificate unless the device is tampered. The four digest operations: START empties the context, ABSORB appends LEN bytes from SA,
FINAL writes the tree digest of the bytes absorbed since START to SA, COMPARE goes on where the 32 bytes at SA equal it and else ends
the invocation with INPUT_DIGEST_MISMATCH, its DETAIL a free value (log entry 28). -/
def Obligations.DigestsAuditsCertificatesRun : Prop :=
  (∀ (s : State) (c : Nat) (x : Ctx),
    (∀ o, allStandAt s c (.audit o) x → flAudit x = true →
      exec (.audit c o) s = .next (pump (collAdvance c (queueAudit c (daOf x o.da) s)))) ∧
    (∀ o, allStandAt s c (.audit o) x → flAudit x = false → exec (.audit c o) s = .next (pump (collAdvance c s))) ∧
    (∀ o, allStandAt s c (.cert o) x → flCert x = false → exec (.cert c o) s = .next (pump (collAdvance c s))) ∧
    (∀ o, allStandAt s c (.cert o) x → flCert x = true → isBell x = true ∨ auditPending s x = false → s.cert.bootId.isSome = true →
      (s.sec.tampered = false → exec (.cert c o) s = .next (pump (collAdvance c (issueCert c x (daOf x o.da) s)))) ∧
      (s.sec.tampered = true → exec (.cert c o) s = .next (pump (collAdvance c s)))) ∧
    (∀ o, allStandAt s c (.cert o) x → flCert x = true → (isBell x = false ∧ auditPending s x = true) ∨ s.cert.bootId = none →
      exec (.cert c o) s = .next s)) ∧
  (∀ (s : State) (x : EngRef) (o : DigestOp) (c : Ctx) (u : Cursor), standsAt s x (.digest o) c u →
    let a := saIx u (curIdx s c x.eng) o.sa
    let n := 64 * (o.len + 1)
    (o.op = 0 → exec (.digestStart x o) s = .next (pump (advance c.id u.eng
      (updCur c.id u.eng (fun v => { v with digests := updAt v.digests o.ctx fun _ => [] }) s)))) ∧
    (∀ r, o.op = 1 → engReads c.id u.eng [(a, n)] s = (true, r) →
      exec (.digestAbsorb x o) s = .next (pump (advance c.id u.eng (absorb c.id u.eng o.ctx (memRead r a n) r)))) ∧
    (o.op = 2 → exec (.digestFinal x o) s = .next (pump (advance c.id u.eng (memWrite a (treeDigest (digestBytes u o.ctx)) s)))) ∧
    (∀ r, o.op = 3 → engReads c.id u.eng [(a, 32)] s = (true, r) → memRead r a 32 = treeDigest (digestBytes u o.ctx) →
      exec (.digestCompare x o) s = .next (pump (advance c.id u.eng r))) ∧
    (∀ r, o.op = 3 → engReads c.id u.eng [(a, 32)] s = (true, r) → memRead r a 32 ≠ treeDigest (digestBytes u o.ctx) →
      exec (.digestCompare x o) s = .next (pump
        (endWith c.id ⟨stDigestMismatch, Config.freeNat r.free % 2 ^ 32, 0⟩ { r with free := r.free + 1 }))))

/-! ## Entries -/

/-- The next descriptor comes from the highest-priority ring that holds one and can obtain a context, at the slot HEAD of the ring at
RING_BASE: it takes a context, and HEAD rises by one; a descriptor that cannot be read faults the queue with HOST_READ_FAULT, and HEAD
stays. -/
def Obligations.FetchRuns : Prop :=
  ∀ (s r : State) (rs : List Cpl) (q : Nat), fetchRing s = some q →
    let a := pageBase s q 0x040 + 64 * (qHead s q % ringSize s q)
    (q < 6 ∧ fetches s q = true ∧ ∀ p, p < q → fetches s p = false) ∧
    (∀ d, hostGet a rs 64 s = (some d, r) → exec (.descriptorFetch rs) s = .next (pump
      (takeCtx q ((contextFor s q).getD true) (qHead s q % ringSize s q) .ring d (setReg (pgQue q) 0x060 ((qHead s q + 1) % 2 ^ 32) r)))) ∧
    (hostGet a rs 64 s = (none, r) → exec (.descriptorFetch rs) s = .next (pump (faultQueue q stHostReadFault r)))

/-- An entry becomes WAITING once every earlier entry of its ring has started, and one whose descriptor fails a check ends with the
place of the first that fails; its argument block is read; a host-address wait whose poll is due latches at its threshold; a timer that
expires with a wait unlatched ends it with WAIT_TIMEOUT; the stall detector ends its victim with DEADLOCK_BROKEN. Entries whose waits
have all latched: INVOKE makes an invocation READY; INSTALL installs the image that its checks pass and places its constants; REMOVE
asks for a resident, unregistered index, which REMOVE_COMPLETE frees once no context names it; CMDBUF reads its entries, each of which
starts when its dependencies have completed; SELFTEST runs on its idle tile; JOIN only completes. -/
def Obligations.WaitingRuns : Prop :=
  (∀ (s : State) (c : Nat) (x : Ctx),
    (ctxMeets s c (fun y => decide (y.life = .fetched) && inOrder s y && ringRuns s y) x →
      let w := updCtx c (fun y => { y with life := .waiting }) s
      exec (.enterWaiting c) s = .next (pump (match descBad s x with
        | some o => endWith c (badAt (descLoc x).2 (descLoc x).1 o) s
        | none => if readsArgs x then w else startWaits c w))) ∧
    (∀ rs, ctxMeets s c (fun y => decide (y.life = .waiting) && !y.argsRead) x →
      exec (.argumentBlockRead c rs) s = .next (pump (readArgs c rs s))) ∧
    (∀ rs w e b r, w < 4 → ctxMeets s c (fun y => waitsOn y && polled s c w) x → x.waits[w]? = some e → e.kind = 1 →
      e.latched = false → pollDue s e = true → waitExpired s x e = false → hostGet e.addr rs 8 (notePoll c w s) = (some b, r) → e.thresh ≤ leNat b →
      exec (.hostWaitPoll c w rs) s =
        .next (pump (updCtx c (fun y => { y with waits := updAt y.waits w fun v => { v with latched := true } }) r))) ∧
    (ctxMeets (latchAll s) c (entryTimedOut (latchAll s)) x →
      exec (.waitTimeout c) s = .next (pump (endWith c ⟨stWaitTimeout, timedOutWait (latchAll s) x, 0⟩ (latchAll s)))) ∧
    (let d := trackStall (latchAll s)
     stallDue d = true → stallVictim d = some x →
      exec .stallDetectorFire s = .next (pump (endWith x.id ⟨stDeadlockBroken, lowestUnlatched x, 0⟩
        { raise pgCfe 1 (bump pgCfe 0x070 d) with stallSince := none })))) ∧
  (∀ (s r : State) (c : Nat) (x : Ctx),
    (ctxMeets (latchAll s) c (entryDue 0) x → exec (.invoke c) s = .next (pump (makeReady c (latchAll s)))) ∧
    (∀ rs b img, ctxMeets (latchAll s) c (entryRuns s 1) x →
      let t := beginWork c .running (latchAll s)
      progAt t (dProgram x) = none → readImage x rs t = (.ok b, r) → installCheck r x.ring b = .ok img →
      let ms := masterPlaces r img
      exec (.install c rs) s = .next (pump (finish c
        { placeConstants img ms r with progs := (placeConstants img ms r).progs ++ [⟨dProgram x, img, treeDigest img, false, ms⟩] }))) ∧
    (ctxMeets (latchAll s) c (entryRuns s 2) x → (progAt (latchAll s) (dProgram x)).isSome = true →
      isRegistered (latchAll s) (dProgram x) = false →
      exec (.remove c) s = .next (pump (beginWork c .ready (latchAll s)))) ∧
    (ctxMeets s c (fun y => decide (dType y = 2) && decide (y.life = .ready) && !programHeld s c (dProgram y)) x →
      exec (.removeComplete c) s = .next (pump (finish c { s with progs := s.progs.filter fun p => decide (p.index ≠ dProgram x) }))) ∧
    (∀ rs b, ctxMeets (latchAll s) c (entryDue 3) x → devState s = 0 →
      (flArgsDev x && !mapOk (latchAll s) (dmaReach x.ring) (dArgs x) (64 * dCount x)) = false →
      argGet x (dArgs x) (64 * dCount x) 0xFF rs (latchAll s) = (.ok b, r) →
      exec (.cmdbuf c rs) s = .next (pump (startBuffer c b r))) ∧
    (∀ i, i < 4096 → ctxMeets s c (entryStarts s i) x → exec (.cmdbufEntryStart c i) s = .next (pump (startEntry c i s))) ∧
    (∀ n, ctxMeets (latchAll s) c (entryDue 6) x → tileIdle s (dProgram x) = true →
      exec (.selftest c n) s = .next (pump (selftestEntry c n (latchAll s)))) ∧
    (ctxMeets (latchAll s) c (entryDue 7) x → exec (.join c) s = .next (pump (finish c (beginWork c .running (latchAll s))))))

/-- Once an entry's status is final it never changes: finishing it again, or a later cause, has no effect. -/
def Obligations.StatusIsFinal : Prop :=
  ∀ (s : State) (c : Nat) (x : Ctx) (k : Cause), ctxOf s c = some x → x.status.isSome = true →
    finish c s = s ∧ ∃ y, ctxOf (endWith c k s) c = some y ∧ y.status = x.status

/-- A grantable invocation whose engines are all there, and whose certificate can be signed, enters RUNNING, its slice starting now; its
inputs are moved; it is spilled at a switch point and fills back; aborted, it stops there with ABORTED; the flush read of a host-address
signal ends its wait, or sets SIGNAL_FAULT. -/
def Obligations.InvocationsRun : Prop :=
  ∀ (s : State) (c : Nat) (x : Ctx),
    (ctxMeets s c (grantable s) x → needsLost s x = none → certRefused s x = true →
      exec (.engineGrant c) s = .next (pump (endWith c (badAt (descLoc x).2 (descLoc x).1 0x02) s))) ∧
    (ctxMeets s c (grantable s) x → needsLost s x = none → certRefused s x = false → placesBad s x = none →
      exec (.engineGrant c) s = .next (pump (updCtx c (fun y => { y with tSlice := s.now }) (beginWork c .running s)))) ∧
    (∀ ds gs, ctxMeets s c (fun y => isInvocation y && decide (y.life = .running) && !y.fed && !y.inputsIn) x → issueOff s = false →
      exec (.inputsMoved c ds gs) s = .next (pump (inputsMoved c ds gs s))) ∧
    (ctxMeets s c (switchable s) x → exec (.switchOut c) s = .next (pump (spill c s))) ∧
    (ctxMeets s c (resumable s) x → needsLost s x = none → exec (.switchIn c) s = .next (pump (fillBack c s))) ∧
    (ctxMeets s c (abortStops s) x → exec (.invocationAbortStop c) s = .next (pump (endWith c ⟨stAborted, 0, 0⟩ s))) ∧
    (∀ k g rs r t, k < 4 → ctxMeets s c (fun y => y.sigPending.contains k) x → x.signals[k]? = some g → hostTry g.addr 3 rs s = (r, t) →
      exec (.hostSignalFlushDone c k rs) s = .next (pump (updCtx c (fun y =>
        { y with sigPending := y.sigPending.filter fun i => decide (i ≠ k), sigFault := y.sigFault || r.isNone }) t)))

/-! ## Queues, states, semaphores -/

/-- A successful flush read confirms every record written, a failed one faults the queue with HOST_WRITE_FAULT; the coalescing time of
the oldest confirmed record sends the ring's message. TAIL takes a value that covers no more than the ring, and else is ignored with
BAD_TAIL; a CQ_HEAD beyond CQ_TAIL is clamped to CQ_TAIL; CTRL enables and disables a ring that is not FAULTED; REARM makes a FAULTED
one replay. -/
def Obligations.QueuesRun : Prop :=
  (∀ (s r : State) (q : Nat) (rs : List Cpl), q < 6 →
    ((queueOf s q).written ≠ [] → flushTry (flushAddr s q) 3 rs s = (true, r) → exec (.recordFlushDone q rs) s = .next (pump (confirm q r))) ∧
    ((queueOf s q).written ≠ [] → flushTry (flushAddr s q) 3 rs s = (false, r) →
      exec (.recordFlushDone q rs) s = .next (pump (faultQueue q stHostWriteFault (bufferWritten q r)))) ∧
    (coalesceDue s q = true → exec (.msixCoalesceTimeout q) s =
      .next (pump (msix (reg s (pgQue q) 0x058 % 128) (updQueue q (fun u => { u with coCount := 0, coOldest := none }) s))))) ∧
  (∀ (s : State) (a : Agent) (q v : Nat), q < 6 → accepts s a (pgQue q) → v < 2 ^ 32 →
    ((v + 2 ^ 32 - qHead s q) % 2 ^ 32 ≤ ringSize s q → exec (.queTailWrite a q v) s = .next (setReg (pgQue q) 0x05C v s)) ∧
    (ringSize s q < (v + 2 ^ 32 - qHead s q) % 2 ^ 32 → exec (.queTailWrite a q v) s = .next (raise (pgQue q) 0 s)) ∧
    exec (.cqHeadWrite a q v) s = .next (pump (setReg (pgQue q) 0x068
      (if (cqTail s q + 2 ^ 32 - cqHead s q) % 2 ^ 32 < (v + 2 ^ 32 - cqHead s q) % 2 ^ 32 then cqTail s q else v) s)) ∧
    (qEnabled s q = false → qState s q ≠ 2 →
      exec (.queEnable a q) s = .next (setReg (pgQue q) 0x070 1 (setBit (pgQue q) oCtrl 0 true s))) ∧
    (qEnabled s q = true → qState s q ≠ 2 →
      exec (.queDisable a q) s = .next (setReg (pgQue q) 0x070 0 (setBit (pgQue q) oCtrl 0 false s))) ∧
    (qState s q = 2 → exec (.queRearm a q) s = .next (pump (updQueue q (fun u => { u with replaying := true }) s))))

/-- STATE_REQ: in SERVICE, a request for MAINTENANCE starts the change, which suspends the Bell releases and with DRAIN = 1 aborts every
entry of BELL0 to LOW; in MAINTENANCE, a request for SERVICE that nothing bars starts that change; a request during a change is held.
ENTER_MAINTENANCE and ENTER_SERVICE end the changes. ABORT aborts the entries of a ring that carry ABORT_TAG, or every entry of it; an
entry that has not started ends at once with ABORTED; one that is finishing or delivering is left alone. -/
def Obligations.StateChangesRun : Prop :=
  (∀ (s : State) (a : Agent),
    (accepts s a pgCfe → devState s = 1 →
      exec (.stateReqMaintFinish a) s = .next (beginMaint false (setReg pgCfe 0x044 0 s)) ∧
      exec (.stateReqMaintAbort a) s = .next (beginMaint true (setReg pgCfe 0x044 2 s))) ∧
    (accepts s a pgCfe → devState s = 0 → serviceBarred s = false → exec (.stateReqService a) s =
      .next (setDevState 3 { setReg pgCfe 0x044 1 s with stateReq := some (1, false), heldReq := none })) ∧
    (accepts s a pgCfe → 2 ≤ devState s → exec (.stateReqMaintFinish a) s =
      .next { setReg pgCfe 0x044 0 s with heldReq := some (0, false) }) ∧
    (devState s = 2 → drained s = true → exec .enterMaintenance s =
      .next (pump (applyHeld (raise pgCfe 0 (freezeWaits (setDevState 0 { s with stateReq := none })))))) ∧
    (devState s = 3 → buffersOver s = true → s.cert.bootId.isSome = true → exec .enterService s = .next (pump (enterService s)))) ∧
  (∀ (s : State) (a : Agent) (q : Nat), q < 6 → accepts s a pgCfe →
    exec (.abortTag a q) s =
      .next (pump (abortWhere (fun x => decide (x.ring = q) && decide (dTag x = reg s pgCfe 0x04C)) s)) ∧
    exec (.abortAll a q) s = .next (pump (abortWhere (fun x => decide (x.ring = q)) s)) ∧
    ∀ (c : Nat) (x : Ctx), ctxOf s c = some x →
      (x.life = .fetched ∨ x.life = .waiting ∨ x.life = .ready → abortCtx c s = endWith c ⟨stAborted, 0, 0⟩ s) ∧
      (x.life = .finishing ∨ x.life = .delivering → abortCtx c s = s))

/-! ## Bell -/

/-- REGISTER, its checks and the three refusals passed, registers the program, which completes the entry; DEREGISTER stops further
releases at once; a release whose time has come is made, and one still held withdrawn; the held release with the earliest deadline
starts when the partition is free, within its governing budget; the cut point of a release on one device, or in a spanned run, cuts it;
and lending stops to a program whose work reaches no switch point in time. -/
def Obligations.BellRuns : Prop :=
  ∀ (s : State) (c : Nat) (x : Ctx),
    (∀ rs g r, ctxMeets (latchAll s) c (entryRuns s 4) x →
      let w := beginWork c .running (latchAll s)
      let img := ((progAt w (dProgram x)).map (·.image)).getD []
      registerBad w x x.regBlock img = none → daCheck img (mapOk w .program) = none → releaseArgs x rs w = (.ok g, r) →
      admissionRefused r x img (newProg r x g.1 g.2) = false →
      exec (.register c rs) s = .next (pump (finish c (admitRecheck x.ring
        (updBell x.ring (fun b => { b with progs := b.progs ++ [newProg r x g.1 g.2] }) r))))) ∧
    (∀ rs g r, ctxMeets (latchAll s) c (entryRuns s 4) x →
      let w := beginWork c .running (latchAll s)
      let img := ((progAt w (dProgram x)).map (·.image)).getD []
      registerBad w x x.regBlock img = none → daCheck img (mapOk w .program) = none → releaseArgs x rs w = (.ok g, r) →
      admissionRefused r x img (newProg r x g.1 g.2) = true →
      exec (.register c rs) s = .next (pump (endWith c ⟨stAdmissionRefused, 0, 0⟩ (admitRecheck x.ring r)))) ∧
    (ctxMeets (latchAll s) c (entryRuns s 5) x →
      ((bellOf (latchAll s) x.ring).progs.any fun p => decide (p.prog = dProgram x)) = true →
      exec (.deregister c) s = .next (pump (admitRecheck x.ring (lendEnds x.ring
        (updBell x.ring (fun b => { b with progs := b.progs.filter fun p => decide (p.prog ≠ dProgram x) })
          (beginWork c .finishing (latchAll s))))))) ∧
    (∀ q prog p, q < 2 → releaseDue s q prog = true → (bellOf s q).progs.find? (fun p => decide (p.prog = prog)) = some p →
      exec (.bellRelease q prog) s = .next (pump (updBellProg q prog (fun p => { p with held := some p.next, next := p.next + 1 })
        (bump (pgQue q) 0x114 (lendStarts q (releaseTime p p.next)
          (if (bellOf s q).progs.any (fun p => decide (p.prog = prog) && p.held.isSome) then bump (pgQue q) 0x120 s else s)))))) ∧
    (∀ q p j, q < 2 → partitionFree s q = true → nextHeld s q = some (p, j) →
      exec (.releaseStart q) s = .next (pump (startRelease q p j s))) ∧
    (ctxMeets s c (cutDue s) x → exec (.cutPoint c) s = .next (pump
      (if isSpanned s x then updMd c (fun m => { m with cutFlag := true }) s else cutRun c s))) ∧
    (∀ q, q < 2 → ctxMeets s c (lendExpired s q) x →
      exec (.lendBlockExpiry q c) s = .next (pump
        { s with progs := s.progs.map fun p => if p.index = dProgram x then { p with noLend := true } else p }))

/-- A release starts within its governing budget, which lies between BUDGET_MIN and the nominal budget, and is the nominal one with
BUDGET_ADAPT off (R495). -/
def Obligations.GoverningBudgetIsBounded : Prop :=
  ∀ (s : State) (x : Ctx), bkBudgetMin x.regBlock ≤ x.budgetNom → x.before.1 ≤ x.budgetNom →
    bkBudgetMin x.regBlock ≤ governing s x ∧ governing s x ≤ x.budgetNom ∧
    ((reg s (pgQue x.ring) 0x104).testBit 0 = false → governing s x = x.budgetNom)

/-! ## Audits and signing windows -/

/-- The evaluator takes the next queued audit; the one that runs goes as far as it can; the open window closes WIN_MS after its first
certificate, and the oldest closed one is signed, its record waiting for the ring; RING_RD takes a value up to RING_WR. -/
def Obligations.AuditsAndWindowsRun : Prop :=
  ∀ s : State,
    (∀ j, s.auditRun = none → nextAudit s.audits = some j → issueOff s = false →
      exec .auditStart s = .next (pump { s with auditRun := some j, auditStarted := s.now, audits := s.audits.erase j })) ∧
    (∀ j d1 d2, s.auditRun = some j → exec (.auditFinish d1 d2) s = .next (pump (auditSteps d1 d2 s))) ∧
    (∀ w, s.cert.current = some w → windowDue s w = true → s.cert.closed.length < 4 →
      exec .windowTimeout s = .next (pump (closeWindow s))) ∧
    (∀ w rest, s.cert.closed = w :: rest → signReady s = true → s.sec.tampered = false →
      exec .windowSigned s = .next (pump (closePast
        (updCert (fun u => { u with closed := rest, signed := u.signed ++ [(windowRecord s w, w.certs)] }) s)))) ∧
    (∀ a v, accepts s a pgCert → (v + 2 ^ 32 - reg s pgCert 0x054) % 2 ^ 32 ≤ (reg s pgCert 0x058 + 2 ^ 32 - reg s pgCert 0x054) % 2 ^ 32 →
      exec (.certRingRdWrite a v) s = .next (pump (setReg pgCert 0x054 v s))) ∧
    (∀ a v, accepts s a pgCert → (reg s pgCert 0x058 + 2 ^ 32 - reg s pgCert 0x054) % 2 ^ 32 < (v + 2 ^ 32 - reg s pgCert 0x054) % 2 ^ 32 →
      exec (.certRingRdWrite a v) s = .next (pump (setReg pgCert 0x054 (reg s pgCert 0x058) s)))

/-! ## Links -/

/-- A link in VERIFY or UP sends flits, and takes each flit of the codewords that come; a REPLAY_TIMEOUT short of the limits replays
every unacknowledged flit, and at a limit the link goes down with cause 5; a lost lane lock takes it down; an enabled DOWN link trains,
or fails with cause 4 without the key its cipher needs; it locks, or returns to DOWN with cause 2; 1 ms of VERIFY without a match leaves
it FAILED; DISCOVER and REKEY are taken. A MSG_ACK releases its message; a message without one for 300 µs is sent again as a whole, up
to four times. -/
def Obligations.LinksRun : Prop :=
  (∀ (s : State) (l : Nat), l < 16 →
    ((linkOf s l).st = 2 ∨ (linkOf s l).st = 3 →
      exec (.flitSend l) s = .next (sendNext l (takeHeld l s)) ∧
      (∀ ls, (linkOf s l).rxBits.length < 2048 → lanesOk ls = true →
        exec (.flitReceive l true ls) s = .next (pump (takeFlit l (takeCodeword l ls s)))) ∧
      (2048 ≤ (linkOf s l).rxBits.length → ∀ ls, exec (.flitReceive l false ls) s = .next (pump (takeFlit l s))) ∧
      exec (.laneLockLoss l) s = .next (linkDown l 0 s)) ∧
    (replayDue s l = true → replayOut s l = false → exec (.replayTimeout l) s = .next (resendAll l s)) ∧
    (replayDue s l = true → replayOut s l = true → exec (.replayTimeout l) s = .next (linkDown l 5 s)) ∧
    ((linkOf s l).st = 0 → linkEnabled s l = true → (linkOf s l).downAt ≤ s.now → lacksKey s l = false →
      exec (.linkTrainStart l) s = .next (beginTraining l s)) ∧
    ((linkOf s l).st = 0 → linkEnabled s l = true → (linkOf s l).downAt ≤ s.now → lacksKey s l = true →
      exec (.linkTrainStart l) s = .next (linkFails l 4 s)) ∧
    ((linkOf s l).st = 1 → epochWaits s l = false → exec (.linkTrainLock l) s = .next (beginVerify l s)) ∧
    ((linkOf s l).st = 1 →
      exec (.linkTrainFail l) s = .next (updLink l (fun k => linkFresh k 0 2 (s.now + 100000000) s.now) s)) ∧
    ((linkOf s l).st = 2 → (linkOf s l).since + 1000000 ≤ s.now → exec (.linkTrainFail l) s = .next (verifyFails l s)) ∧
    (∀ b, (linkOf s l).st = 2 → exec (.discover l b) s = .next (discoverArrives l b s)) ∧
    (∀ e, (linkOf s l).st = 2 ∧ e < 2 ^ 32 ∨ linkUp s l = true ∧ e = ((linkOf s l).rxEpoch + 1) % 2 ^ 32 →
      exec (.rekey l e) s = .next (updLink l (fun k => { k with rxEpoch := e, rxCount64 := 0 }) s))) ∧
  (∀ (s : State) (d cls msg : Nat),
    (d < 512 → exec (.msgAck d cls msg) s = .next (pump (frameHeard d (updNet (fun n => { n with
      out := n.out.filter fun o => !(decide (o.dst = d) && decide (o.cls = cls) && decide (o.msg = msg)) }) s)))) ∧
    (∀ o, outOf s d cls msg = some o → ackLate s o = true → exec (.msgAckTimeout d cls msg) s = .next (pump (resendMsg o s))))

/-! ## Runs over devices, fail-over and mirrors -/

/-- A message of a run from a position that is not lost restarts its peer timer and has its own effect; one from a lost position is
counted as late; PROGRESS goes out 500 µs after the last; a barrier is passed when every peer's sets are there; a missed peer, and the
coordinator's 100 µs, are acted on. -/
def Obligations.PeersRun : Prop :=
  ∀ (s : State) (id p n : Nat) (x : Ctx) (m : MdRun), runCtx s id = some x → x.md = some m → p < m.devices.length → n < 2 ^ 64 →
    (m.lost = some p → exec (.progress id p n) s = .next (pump (lateMessage x.id s)) ∧ exec (.epoch id p n) s = .next (pump (lateMessage x.id s)) ∧
      ∀ d, exec (.lost id p d n) s = .next (pump (lateMessage x.id s))) ∧
    (m.lost ≠ some p → exec (.progress id p n) s = .next (pump (heardFrom x.id p s)) ∧
    exec (.epoch id p n) s = .next (pump (updMd x.id (fun m => { m with epochs := m.epochs ++ [(p, n)] }) (heardFrom x.id p s))) ∧
    ∀ d, exec (.lost id p d n) s = .next (pump (noticeLost x.id d (heardFrom x.id p s)))) ∧
    (x.id < 4096 → ctxOf s x.id = some x → inRun x = true →
      (m.lastProgress + 500000 ≤ s.now → exec (.progressSend x.id) s = .next (pump (sendProgress x.id s))) ∧
      (∀ q, peerDue s q x = true → exec (.peerTimerExpire x.id q) s = .next (pump (peerMissed x.id q s))) ∧
      (∀ t, m.failover = none → m.collectFrom = some t → t + 100000 ≤ s.now →
        exec (.lostCollectEnd x.id) s = .next (pump (collectEnd x.id s)))) ∧
    (∀ y us, let t := takeAccs x.id s
      ctxMeets t x.id (fun y => inRun y && barrierReady y && (ctxEngines t y).all fun e => !(t.substs.any fun u => decide (u.eng = e))) y →
      exec (.epochBarrierDone ⟨x.id, us⟩) s = .next (pump (barrierStep x.id us t)))

/-- A START is compared where its run is there, and kept otherwise. A spare takes a claim, probes, fails the claim on an in-run reply,
and wins it after 100 µs without one; FAILOVER is acted on; the copy and the restore end; a mirror is rebuilt. -/
def Obligations.FailoverRuns : Prop :=
  ∀ (s : State) (src id d : Nat),
    (src < 512 → ∀ b, exec (.start src b) s = .next (pump (match startFor s src b with
      | some (c, p) => takeStart c p b (heardFrom c p s)
      | none => match lateIn s b.runId src with | some c => lateMessage c s | none => keepStart src b s))) ∧
    (∀ dev q, s.sysmap.role = 1 → exec (.claim src dev id d q) s = .next (pump (claimArrives src dev id d q s))) ∧
    (∀ l, l < 16 → linkUp s l = true → exec (.probe l id) s = .next (pump (sendHop l (ctProbeReply id (holdsRun s id)) s))) ∧
    (∀ k, s.net.claim = some k → k.runId = id → k.won = false →
      (s.now ≤ k.probedAt + 100000 → exec (.probeReply id true) s = .next (pump (claimFails k.from_ id k.lostPos s))) ∧
      (k.probedAt + 100000 < s.now → exec (.probeReply id true) s = .next (pump s)) ∧
      exec (.probeReply id false) s = .next (pump s) ∧
      (k.probedAt + 100000 ≤ s.now →
        exec (.probeTimeout id) s = .next (pump (sendCtrl k.from_ (ctFailover id k.lostPos (selfId s) 0)
          (updNet (fun n => { n with claim := some { k with won := true } }) s))))) ∧
    (∀ sp k, d < 512 → exec (.failover src id d sp k) s = .next (pump (failoverNotice src id d sp k s))) ∧
    (∀ c x, ctxMeets s c (restoreDue s) x → installDue s c = false →
      exec (.failoverCopyDone c) s = .next (pump (survivorRestore c s))) ∧
    (∀ c k, c < 4096 → installDue s c = true → s.net.claim = some k →
      exec (.failoverCopyDone c) s = .next (pump (spareInstall c k s))) ∧
    (rebuildDue s d = true → exec (.mirrorRebuildDone d) s = .next (pump
      (updNet (fun n => { n with rebuilding := n.rebuilding.filter fun e => decide (e.1 ≠ d) }) s)))

/-! ## Tiles, scrubbers, error logs -/

/-- A substitution ends, and a tile whose failure no invocation is left to answer is retired; the oldest waiting entry goes to the
repair log while it holds fewer than 255, and is dropped with REPAIR_LOG_FULL otherwise; a tile that is due a self-test is tested while
it is idle; a scrubber reads its next word. A write of LOG_CTRL.CLEAR empties the log of the page's controller and clears its overflow
bit; a write of INJ_CTRL keeps ARM, and in an ENG page TARGET too. -/
def Obligations.TilesRun : Prop :=
  (∀ (s : State) (n : Nat),
    (∀ e, e < 32 → (s.substs.any fun u => decide (u.eng = e)) = true →
      exec (.tileSubstitutionDone e) s = .next (pump (substDone e (retireOrphan e s)))) ∧
    (∀ e, e < 32 → orphaned s e = true → exec (.tileSubstitutionDone e) s = .next (pump (substDone e (retireOrphan e s)))) ∧
    (∀ r rest, s.repairQueue = r :: rest →
      (s.flash.repair.length < 255 → exec .repairLogWrite s = .next (pump (emit (.flashWrite 3)
        { s with repairQueue := rest, flash := { s.flash with repair := s.flash.repair ++ [r] } }))) ∧
      (255 ≤ s.flash.repair.length → exec .repairLogWrite s = .next (pump (raise pgDev 0 { s with repairQueue := rest })))) ∧
    (∀ p, p < 36 → s.selftestDue.contains p = true → tileIdle s p = true →
      exec (.tileSelftest p n) s = .next (pump (testedTile p n 2 { s with selftestDue := s.selftestDue.filter fun q => decide (q ≠ p) }))) ∧
    (∀ k, k < 152 → scrubMay s k = true → exec (.scrubRead k) s = .next (pump (scrubNext k s)))) ∧
  (∀ (s : State) (a : Agent) (page b v : Nat), memPage page = some b → accepts s a page →
    exec (.logClear a page) s = .next
      (setBit page (b + 0x044) 31 false { s with logs := updAt s.logs (logOf page) fun _ => [] }) ∧
    exec (.injArm a page v) s = .next (setReg page (b + 0x088) (if b = 0 then v % 2 else v &&& 0xD) s))

/-! ## Security -/

/-- A life-cycle request that R551 allows, in MAINTENANCE with no context, and for RMA with a valid token, starts the transition of
`lcMove` (fuses, then wipe and cold reset, or FUSE_FAULT where the fuses do not read back: a free value, log entry 49); BLANK is
provisioned at the factory; a tamper source trips; a key is revoked and SVN_MIN rises; a key is provisioned at once where instance K
serves, and is asked for where it does not; evidence is written. -/
def Obligations.SecurityRuns : Prop :=
  ∀ (s : State) (a : Agent), accepts s a pgSec → accepts s a pgKey →
    (maintNow s = true → s.ctxs = [] →
      let w := fun n => setReg pgSec 0x044 n s
      (s.fuses.life = 1 → exec (.lcReqDeployed a) s = .next (lcMove 2 (w 2))) ∧
      (s.fuses.life = 1 ∨ s.fuses.life = 2 →
        let k := lcToken 3 (w 3)
        exec (.lcReqRma a) s = .next (if k.1 then lcMove 3 k.2 else setReg pgSec 0x050 4 k.2)) ∧
      (s.fuses.life = 1 ∨ s.fuses.life = 2 ∨ s.fuses.life = 3 → exec (.lcReqScrapped a) s = .next (lcMove 4 (w 4)))) ∧
    (s.fuses.life = 0 → s.boot.phase ≠ .held →
      exec .lcProvision s = .next (wipe { s with fuses := blowGroups 0 1 s.fuses })) ∧
    (∀ k, k < 6 → s.boot.phase ≠ .held → (s.fuses.life = 0 → (reg s pgSec 0x058).testBit k = false) →
      exec (.tamperDetect k) s = .next (tamperStop (discardWindows (tamperClear (setBit pgSec 0x054 k true s))))) ∧
    (∀ k, k < 4 → mayRevoke s k = true → exec (.revoke a k) s =
      .next { s with fuses := { s.fuses with revoked := updAt s.fuses.revoked k fun _ => true } }) ∧
    (alive s = true → exec (.svnCommit a) s =
      .next { s with fuses := { s.fuses with svnMin := max s.fuses.svnMin (fwSvn (bootedSlot s)) } }) ∧
    (∀ k, k < 2 → reg s pgKey 0x050 ≠ 1 → s.fuses.life = 1 → maintNow s = true →
      (canServe s instK = true → exec (.keyProvision a k) s = .next (provision k s)) ∧
      (canServe s instK = false → exec (.keyProvision a k) s = .next (askDrbg instK 2 k (setReg pgKey 0x050 1 s)))) ∧
    (∀ r k, s.sec.idSeed = some k → exec (.attestation a r) s = .next (setReg pgKey 0x060 (if (cplData r).isSome then 2 else 4)
      (noteCpl r (emit (.hostWrite (regPair s pgKey 0x058 / 64 * 64) (evidence s k)) s))))

/-- Host software revokes a key where the device is in MAINTENANCE, the booted firmware was verified under a different key and at least
one other key stays unrevoked; otherwise the write is ignored and REVOKE_REJECTED is raised. A revoked key stays revoked in every later
state. -/
def Obligations.RevocationFollowsItsRule : Prop :=
  ∀ (s : State) (a : Agent) (k : Nat), k < 4 →
    (accepts s a pgSec →
      let may := alive s = true ∧ inMaintenance s = true ∧ fwKey (bootedSlot s) ≠ k ∧ ∃ i, i < 4 ∧ i ≠ k ∧ nth s.fuses.revoked i true = false
      (may → exec (.revoke a k) s = .next { s with fuses := { s.fuses with revoked := updAt s.fuses.revoked k fun _ => true } }) ∧
      (¬may → exec (.revoke a k) s = .next (raise pgSec 1 s))) ∧
    ∀ (c : Instr) (t : State), exec c s = .next t → nth s.fuses.revoked k false = true → nth t.fuses.revoked k false = true

/-! ## Entropy -/

/-- The sources are tested at start-up, fail, are tested again and rejoin; a new 256-bit block goes to an instance that waits; a reseed
falls due; a waiting request fails after its time; BOOT_ID is drawn. A write of H_REQ asks for a seed; a read of H_DATA[7] delivers its
word and takes the seed away. -/
def Obligations.EntropyRuns : Prop :=
  (∀ (s : State) (k : Nat),
    (∀ p q r, entropyOn s = true → s.ent.service = 0 → exec (.startUpTestsEnd p q r) s =
      .next (settleService (testSource (testSource (testSource s 0 p) 1 q) 2 r))) ∧
    (k < 3 → s.ent.service ≠ 0 → sourceSt s k = 1 → mayTrip s k = true →
      exec (.entropyTestTrip k) s = .next (settleService (failSource k s))) ∧
    (k < 3 → sourceSt s k = 2 → nth s.ent.retestAt k 0 + 256000 ≤ s.now →
      (mayEnd s k true = true → exec (.sourceRetest k true) s = .next (settleService (healSource k s))) ∧
      (mayEnd s k false = true → exec (.sourceRetest k false) s = .next
        (updEnt (fun e => { e with retestAt := updAt e.retestAt k fun t => t + 1000000000 }) s))) ∧
    (∀ b, b.length = 32 → s.ent.service = 1 ∨ s.ent.service = 2 →
      (b ≠ s.ent.prev → exec (.conditionedBlock b) s = .next (giveBlock b s)) ∧
      (b = s.ent.prev → exec (.conditionedBlock b) s = .next (repeatedBlock s))) ∧
    (k < 4 → reseedDue s k = true → exec (.drbgReseedDue k) s = .next (updDrbg k (fun d => { d with st := drbgDue }) s)) ∧
    (∀ r, s.ent.reqs[k]? = some r → reqDue s r = true → canServe s r.inst = false → reqLive s r = true →
      exec (.entropyRequestTimeout k) s =
        .next (pump (reqClient r (reqFails (updEnt (fun e => { e with reqs := e.reqs.eraseIdx k }) s))))) ∧
    (bootIdReady s = true → exec .bootIdDraw s = .next (drawBootId s))) ∧
  (∀ (s : State) (a : Agent), accepts s a pgEntropy →
    exec (.hReq a) s = .next (hReqWrite 1 s) ∧
    exec (.hDataLastRead a) s = .next (emit (.barData a (liveReg s pgEntropy 0x07C)) (hDataDone s)))

/-! ## Power and heat -/

/-- The reef controller evaluates every 100 µs and V_spd every 10 ms; a power surge or ALERT_N raises the level by two at once; the
regulator acknowledges, or the failed request is repeated; a lane that fires raises its tile's code below its upper bound, and the level
otherwise; a quiet tile's code falls; the sensors read; at 115 °C the device trips. -/
def Obligations.PowerRuns : Prop :=
  ∀ (s : State) (p : Nat), alive s = true →
    (∀ m, s.power.lastEval + 100000 ≤ s.now → exec (.reefEvaluation m) s = .next (reefEval m (atSafe pgPower s))) ∧
    (∀ r, s.power.lastSpd + 10000000 ≤ s.now → exec (.vspdEvaluation r) s = .next (speedEval r s)) ∧
    exec .powerSurge s = .next (triggerRaise 2 (setTrigger 1 s)) ∧
    exec .alertNFall s = .next (triggerRaise 2 (setTrigger 3 (raise pgPower 2 (updPower (fun q => { q with alert := true }) s)))) ∧
    (s.power.avsOut = true → exec .avsAck s = .next (ackAvs s)) ∧
    (s.power.avsOut = true → s.power.lastAvs + 100000 ≤ s.now →
      exec (.avsRetry false) s = .next (sendAvs (avsFails s)) ∧ exec (.avsRetry true) s = .next (ackAvs (sendAvs (avsFails s)))) ∧
    (p < 36 →
      ((marginOf s p).code < codeMax (marginOf s p) →
        exec (.canaryFire p) s = .next (setCode p ((marginOf s p).code + 1) (bump pgSpeed 0x058 s))) ∧
      (codeMax (marginOf s p) ≤ (marginOf s p).code →
        exec (.canaryFire p) s = .next (triggerRaise 1 (setTrigger 4 (bump pgSpeed 0x058 s)))) ∧
      ((marginOf s p).adapt = true → codeFloor (marginOf s p) < (marginOf s p).code →
        exec (.marginDecay p) s = .next (setCode p ((marginOf s p).code - 1) s))) ∧
    (∀ ts, ts.length = 41 → exec (.sensorSample ts) s = .next (sampleSensors ts (atSafe pgTherm s))) ∧
    (p < 41 → s.thermTripped = false →
      exec (.thermtrip p) s = .next (followVreq (emit (.thermtrip true) { s with thermTripped := true })))

/-- Whatever raises it, the level stays at most 7, and a level above REEF_MAX has OVERRIDE set (R35, R599). -/
def Obligations.TriggersRaiseTheLevel : Prop :=
  ∀ (s : State) (k : Nat), s.power.level ≤ 7 →
    (triggerRaise k s).power.level = min 7 (s.power.level + k) ∧
    (reg s pgPower 0x048 % 8 < min 7 (s.power.level + k) → (reg (triggerRaise k s) pgPower 0x060).testBit 0 = true)

/-! ## Resets and boot -/

/-- PORST_N low, a bad rail, or PWRGD low holds the device in a cold reset; when the cause is gone the power-up sequence starts,
BOOT_MODE being sampled as PORST_N rises; the firmware becomes ready; RECOVERY_CMD installs an image that passes its checks, and answers
3 for one that does not. PERST_N low, a hot reset or a link-down is a warm reset while the device runs; an FLR and an entry to D3hot
reset without the link; the sequence ends; D0 is entered again; the PCIe link trains. -/
def Obligations.ResetsRun : Prop :=
  (∀ s : State,
    (s.boot.porst = true → exec .porstNAssert s = .next (holdReset { s with boot := { s.boot with porst := false } })) ∧
    (s.boot.porst = false → ∀ m kat,
      let t := { s with boot := { s.boot with porst := true, mode := sampledMode s m } }
      (powerGood s = true → exec (.porstNRise m kat) s = .next (startUp kat t)) ∧
      (powerGood s = false → exec (.porstNRise m kat) s = .next t)) ∧
    (∀ r v, r < 7 → s.boot.porst = true → railWithin s ⟨r, v⟩ = false → exec (.railFault ⟨r, v⟩) s = .next
      (holdReset { s with boot := { s.boot with railsBad := r :: s.boot.railsBad.filter fun q => decide (q ≠ r) } })) ∧
    (s.boot.pwrgd = true → s.boot.porst = true →
      exec .pwrgdLow s = .next (holdReset { s with boot := { s.boot with pwrgd := false } })) ∧
    (∀ kat, powerGood s = false → s.boot.porst = true → exec (.internalResetRelease kat) s =
      .next (startUp kat { s with boot := { s.boot with pwrgd := true, railsBad := [] } })) ∧
    (∀ f, s.boot.phase = .starting → factsOk f = true → exec (.bootComplete f) s = .next (bootReady f s)) ∧
    (∀ a, accepts s a pgBoot → s.boot.phase = .recovery →
      let b := spBytes s.mem (slateBase 0) (reg s pgBoot 0x044)
      exec (.recoveryCmd a) s = .next (if imageOk s b then installImage b s else setReg pgBoot 0x04C 3 s))) ∧
  (∀ s : State,
    (s.boot.phase = .running → s.boot.warm = none →
      (s.boot.perst = true → exec .perstNAssert s =
        .next (warmReset true (pcieDown { s with boot := { s.boot with perst := false } }))) ∧
      (s.pcieUp = true → exec .pcieHotReset s = .next (warmReset true (pcieDown s))) ∧
      (s.pcieUp = true → s.boot.d3hot = false → exec .flr s = .next (warmReset false s) ∧
        exec .d3hotEntry s = .next { warmReset false s with boot := { (warmReset false s).boot with d3hot := true } })) ∧
    (s.boot.perst = false → exec .perstNRise s = .next { s with boot := { s.boot with perst := true } }) ∧
    (s.boot.d3hot = true → s.pcieUp = true → exec .returnToD0 s = .next { s with boot := { s.boot with d3hot := false } }) ∧
    (s.boot.warm.isSome = true → exec .warmResetComplete s = .next { s with boot := { s.boot with warm := none } }) ∧
    (∀ v w f, s.pcieUp = false → s.boot.perst = true → s.boot.phase ≠ .held → 1 ≤ v → v ≤ 6 → 1 ≤ w → w ≤ 16 →
      let t := setReg pgPcie 0x040 (v % 8 + 16 * (w % 32) + 512 * b2n f) { s with pcieUp := true }
      exec (.pcieLinkTrained v w f) s = .next (if v < 6 ∨ w < 16 then raise pgPcie 2 t else t)))

/-- A cold reset keeps the fuses and the flash, discards keys, contexts, programs and registrations, and returns memory and the
semaphores to zero (R612). What a warm reset keeps: host-managed LPDDR6 as it stands, fuses, flash, keys and the time base; what it
discards: SRAM and bonded memory, contexts, programs, registrations, semaphores (R612). -/
def Obligations.ResetsKeep : Prop :=
  (∀ s : State, let t := holdReset s
    t.fuses = s.fuses ∧ t.flash = s.flash ∧ t.mem = [] ∧ t.sems = [] ∧ t.ctxs = [] ∧ t.progs = [] ∧
    t.bells = State.reset.bells ∧ t.sec = ⟨false, none, none, none, none, none⟩ ∧ t.boot.phase = .held ∧ t.pcieUp = false) ∧
  (∀ (s : State) (b : Bool), let t := warmBase s
    (∀ a, warmMem s a = true → spGet zeroByte a t.mem = spGet zeroByte a s.mem) ∧
    (∀ a, warmMem s a = false → spGet zeroByte a t.mem = 0) ∧
    (warmReset b s).fuses = s.fuses ∧ (warmReset b s).flash = s.flash ∧ (warmReset b s).sec = s.sec ∧ (warmReset b s).now = s.now ∧
    (warmReset b s).ctxs = [] ∧ (warmReset b s).progs = [] ∧ (warmReset b s).sems = [])

/-! ## Calibration and time -/

/-- In MAINTENANCE, in a life-cycle state that allows it, CAL_CMD stores a record, reads the one in flash, or captures the one in force;
an edge of PPS_IN latches; PPS is lost after 1.5 s; a PTM exchange sets PTM_OFFSET; the clock input is lost and found. -/
def Obligations.CalibrationAndTimeRun : Prop :=
  ∀ s : State,
    (∀ a x y, accepts s a pgCal → calAccepts s = true →
      exec (.calWrite a) s = .next (calStoreWith (keyBytes (calSrc s) 65536 s)) ∧
      exec (.calRead a) s = .next (calOut (calFlash s.flash.cal) s) ∧
      exec (.calCapture a x y) s = .next (calOut (calCaptured s x y) s)) ∧
    (alive s = true → exec .ppsInEdge s = .next (ppsEdge s)) ∧
    (∀ t, s.ppsLast = some t → t + 1500000000 ≤ s.now →
      exec .ppsLoss s = .next (setBit pgTime 0x068 1 false (setBit pgTime 0x068 0 false { s with ppsLast := none }))) ∧
    (∀ t, alive s = true → s.pcieUp = true → syncCtrl s 2 = true → s.ptmLast + 10000000 ≤ s.now →
      exec (.ptmExchange t) s = .next (ptmDone t s)) ∧
    (s.boot.phase ≠ .held → (reg s pgDev oStatus).testBit 0 = false →
      exec .timeclkLoss s = .next (raise pgDev 1 (setBit pgDev oStatus 0 true s))) ∧
    ((reg s pgDev oStatus).testBit 0 = true → exec .timeclkRelock s = .next (setBit pgDev oStatus 0 false s))

/-! ## PCIe and I3C -/

/-- BAR 2 reads and writes device memory where the range is in the map, in recovery the Slate of tile 0, and an access outside the map
is counted; a completion timeout, a replay, a malformed TLP and an access of another shape are counted where the spec says. The I3C port
takes an address once; a write and a read of a register act, and the next private read tells how; an offset that is not of 4 bytes, or
lies beyond 64 MiB, has status 1, and a read of it the value of all ones. -/
def Obligations.HostBusesRun : Prop :=
  (∀ (s : State) (o n : Nat) (d : List (Option Byte)),
    (bar2Serves o n s = true → 1 ≤ n → s.boot.phase = .recovery → exec (.bar2Read o n) s = .next (recoveryGet o n s)) ∧
    (bar2Serves o n s = true → 1 ≤ n → s.boot.phase ≠ .recovery →
      (mapOk s (bar2Reach s) (bar2Addr s o) n = true → exec (.bar2Read o n) s = .next (bar2Get (bar2Addr s o) n s)) ∧
      (mapOk s (bar2Reach s) (bar2Addr s o) n = false → exec (.bar2Read o n) s =
        .next (bar2Reject (emit (.bar2Data false (List.replicate n 0xFF)) s)))) ∧
    (bar2Serves o d.length s = true → 1 ≤ d.length → s.boot.phase = .recovery →
      exec (.bar2Write o d) s = .next (bar2Put (slateBase 0 + o) (d.take (min d.length (0x2000000 - o))) s)) ∧
    (bar2Serves o d.length s = true → 1 ≤ d.length → s.boot.phase ≠ .recovery →
      (mapOk s (bar2Reach s) (bar2Addr s o) d.length = true → exec (.bar2Write o d) s = .next (bar2Put (bar2Addr s o) d s)) ∧
      (mapOk s (bar2Reach s) (bar2Addr s o) d.length = false → exec (.bar2Write o d) s = .next (bar2Reject s))) ∧
    (alive s = true → exec .cplTimeout s = .next (noteCpl .timeout s)) ∧
    (s.pcieUp = true → s.boot.phase ≠ .held →
      exec .pcieFlitReplay s = .next (bump pgPcie oErrCe (bump pgPcie 0x060 s)) ∧
      exec .malformedTlp s = .next (emit .aerFatal (bump pgPcie oErrUe s))) ∧
    (pcieServes s = true → exec (.badAccess false) s = .next (raise pgDev 3 (bump pgDev 0x068 s)) ∧
      exec (.badAccess true) s = .next (raise pgDev 3 (bump pgDev 0x068 (emit (.barData .pcie (2 ^ 32 - 1)) s))))) ∧
  (∀ (s : State) (o v : Nat), alive s = true →
    (∀ n, s.i3c.addr = none → exec (.i3cEntdaa n) s = .next { s with i3c := { s.i3c with addr := some n } }) ∧
    (s.i3c.addr.isSome = true →
      exec .i3cPrivateRead s = .next (emit (.i3cReply s.i3c.data s.i3c.status) s) ∧
      (offsetOk o = true →
        exec (.i3cReadRequest o) s = .next (i3cReply (barRead o s).1 0 (barRead o s).2) ∧
        (alive (barWrite .i3c o v s) = true → lockedOut s .i3c (pageOf o) = false →
          exec (.i3cWriteRequest o v) s = .next (i3cReply 0 0 (barWrite .i3c o v s)))) ∧
      (offsetOk o = false →
        exec (.i3cReadRequest o) s = .next (i3cReply (2 ^ 32 - 1) 1 (badAccess s)) ∧
        exec (.i3cWriteRequest o v) s = .next (i3cReply 0 1 (badAccess s)))))

/-! ## Register pages: transactions, locks, events, counters, reads -/

/-- BEGIN opens the transaction of an idle page that holds RWT registers; COMMIT of the agent that opened it makes it pending, and ABORT
discards it; a write of an RWT register is a transaction of its own on an idle page, is staged where the page is open to the writer, and
is turned away as BUSY otherwise; a pending transaction is applied at its safe point (the SPEED page's values first at each tile's own,
and as a whole once every tile has them), and an open one expires. A group begins, commits, is aborted, applies, and fails with
SAFE_TIMEOUT as its pages do. -/
def Obligations.TransactionsRun : Prop :=
  (∀ (s : State) (a : Agent) (page : Nat), accepts s a page → txnPage page = true →
    let w := setBit page oTxnCtrl 8 ((reg s page oTxnCtrl).testBit 8) s
    ((txnOf s page).st = .idle → exec (.txnBegin a page) s =
      .next (updTxn page (fun t => { t with st := .open_, agent := a, began := s.now, staged := [] }) w)) ∧
    ((txnOf s page).st = .open_ → (txnOf s page).agent = a →
      exec (.txnCommit a page) s = .next (settleTxn page (updTxn page (fun t => { t with st := .pending }) w)) ∧
      exec (.txnAbort a page) s = .next (updTxn page (endTxn lastAborted) w)) ∧
    (∀ o v m, o < 0x1000 → 0x040 ≤ o → rwtMask (tyOf page) (instOf page) o = some m →
      ((txnOf s page).st = .idle → exec (.rwtWrite a (rk page o) v) s = .next (settleTxn page (stage page o (v &&& m)
        (updTxn page (fun t => { t with st := .pending, agent := a, began := s.now, staged := [] }) s)))) ∧
      ((txnOf s page).st ≠ .idle → openTo s a (txnOf s page) = true →
        exec (.rwtWrite a (rk page o) v) s = .next (stage page o (v &&& m) s)) ∧
      ((txnOf s page).st ≠ .idle → openTo s a (txnOf s page) = false →
        exec (.rwtWrite a (rk page o) v) s = .next (txnBusy page s)))) ∧
  (∀ (s : State) (page : Nat), page < 0x74 →
    ((txnOf s page).st = .pending → tyOf page ≠ .speed → safePoint s page (txnOf s page) = true →
      exec (.txnApply page) s = .next (pump (applyTxn page s))) ∧
    ((txnOf s page).st = .pending → tyOf page = .speed → safeDue s page = true →
      let u := tilesTake (txnOf s page) s
      exec (.txnApply page) s = .next (pump (if safePoint u page (txnOf s page) then applyTxn page u else u))) ∧
    (page ≠ pgTxn → (txnOf s page).st = .open_ → (txnOf s page).began + txnTmo s ≤ s.now →
      exec (.txnExpire page) s = .next (updTxn page (endTxn lastExpired) s)) ∧
    (page = pgTxn → s.group.st = .open_ → s.group.began + txnTmo s ≤ s.now →
      exec (.txnExpire page) s = .next (endGroup lastExpired s))) ∧
  (∀ (s : State) (a : Agent), accepts s a pgTxn →
    exec (.grpBegin a) s = .next (grpBegin a s) ∧
    (s.group.st = .open_ → s.group.agent = a → exec (.grpCommit a) s =
      .next (arriveNow (updGroup (fun g => { g with st := .pending, committed := s.now }) s))) ∧
    (s.group.st ≠ .idle → s.group.agent = a → exec (.grpAbort a) s = .next (endGroup lastAborted s))) ∧
  (∀ s : State, s.group.st = .pending →
    ((notArrived s).all (fun p => safePoint s p (txnOf s p)) = true → exec .grpApply s = .next (pump (grpApply s))) ∧
    (s.group.committed + holdMax s ≤ s.now → notArrived s ≠ [] → exec .grpSafeTimeout s =
      .next (updGroup (fun g => { g with lastPage := (notArrived s).headD 0 }) (endGroup lastSafeTimeout s))))

/-- A value that is staged is not yet in force: the page's registers, and everything but its transaction, stay as they are. -/
def Obligations.StagedValuesWait : Prop :=
  ∀ (s : State) (a : Agent) (page o v m : Nat), accepts s a page → o < 0x1000 → 0x040 ≤ o →
    rwtMask (tyOf page) (instOf page) o = some m → (txnOf s page).st = .open_ → (txnOf s page).agent = a →
    ∃ t, exec (.rwtWrite a (rk page o) v) s = .next t ∧ { t with txns := s.txns } = s ∧
      stagedOr t page (txnOf t page) o = (v &&& m) % 2 ^ 32 ∧ (∀ p, p ≠ page → txnOf t p = txnOf s p)

/-- A write of OWNER locks or releases; a write of EVT_STATUS clears the bits that it names, but for events of the same cycle; EVT_FORCE
sets bits; CNT_CLEAR and SOFT_RST act, and the soft reset follows at its safe point; a write of any register reaches its page, and a
read delivers the register's value; a page that the other agent has locked takes no write, which is counted; any write of the SYNC page
by the host restarts the stall watch. A read of a read-only _LO register delivers the low half of the 64-bit value and latches the high
half, which the _HI register then holds whatever the value does. -/
def Obligations.RegistersRun : Prop :=
  (∀ (s : State) (a : Agent) (page : Nat),
    (accepts s a page →
      (∀ k, exec (.ownerLock a page k) s =
        .next (touched a page (setReg page oOwner (2 ^ 31 + (match a with | .pcie => 0 | .i3c => 1) * 2 ^ 30 + k % 65536) s))) ∧
      (∀ k, exec (.ownerRelease a page k) s = .next (touched a page (setReg page oOwner (k % 65536) s))) ∧
      (∀ m r, exec (.evtClear a page m r) s = .next (touched a page (evtClear page m r s))) ∧
      (∀ m, exec (.evtForce a page m) s = .next (touched a page (evtForce page m s))) ∧
      exec (.cntClear a page) s = .next (touched a page (cntClear page s)) ∧
      (hasSoftReset (tyOf page) = true → exec (.softRst a page) s = .next (touched a page (setBit page oCtrl 1 true s))) ∧
      (∀ o v, o < 0x1000 → 0x040 ≤ o → o % 4 = 0 → page < 2 ^ 14 →
        exec (.registerWrite a (rk page o) v) s = .next (touched a page (ownWrite a (tyOf page) page o v s)))) ∧
    (page < 0x74 → softDue s page = true →
      exec (.softResetApply page) s = .next (softTxn page (softRegs page (softBlock page s)))) ∧
    (serves s a = true → ∀ o, offsetOk o = true →
      exec (.readLoLatch a o) s = .next (emit (.barData a (barRead o s).1) (barRead o s).2)) ∧
    (serves s a = true → (pageAt page).isSome = true → shown s page = true → lockedOut s a page = true → page < 2 ^ 14 →
      ∀ o v, o < 0x1000 → o % 4 = 0 →
        exec (.registerWrite a (rk page o) v) s = .next (touched a page (raise pgDev 4 (bump pgDev 0x064 s))))) ∧
  (∀ (s : State) (a : Agent) (page o : Nat), accepts s a page → isDiag (tyOf page) = false → roPair (tyOf page) o = true →
    o < 0xFFC → o % 4 = 0 → page < 2 ^ 14 →
    exec (.readLoLatch a (rk page o)) s =
      .next (emit (.barData a (pairVal s page o % 2 ^ 32)) (setReg page (o + 4) (pairVal s page o / 2 ^ 32) s)) ∧
    reg (setReg page (o + 4) (pairVal s page o / 2 ^ 32) s) page (o + 4) = pairVal s page o / 2 ^ 32 % 2 ^ 32)

/-- When a transaction stays OPEN for TMO_MS after its BEGIN, the device discards it and sets LAST = EXPIRED. A PENDING transaction does
not expire. -/
def Obligations.OpenTransactionsExpire : Prop :=
  ∀ (s : State) (page : Nat), page < 0x74 → page ≠ pgTxn →
    ((txnOf s page).st = .open_ → (txnOf s page).began + 1000000 * reg s pgTxn 0x058 ≤ s.now →
      ∃ t, exec (.txnExpire page) s = .next t ∧ (txnOf t page).st = .idle ∧ (txnOf t page).staged = [] ∧ (txnOf t page).last = 3 ∧
        (∀ p, p ≠ page → txnOf t p = txnOf s p) ∧ { t with txns := s.txns } = s) ∧
    ((txnOf s page).st = .pending → exec (.txnExpire page) s = .next s)

/-- When an event occurs in the same cycle as a W1C write that clears its bit, the bit stays set; a bit whose event does not occur is
cleared where the write names it, and stays where it does not. -/
def Obligations.EventsOutlastTheirClear : Prop :=
  ∀ (s : State) (a : Agent) (page m r i : Nat), accepts s a page → i < 32 →
    ∃ t, exec (.evtClear a page m r) s = .next t ∧
      (r.testBit i = true → (pageEvents page).testBit i = true → (reg t page oEvtStatus).testBit i = true) ∧
      (r.testBit i = false → (reg t page oEvtStatus).testBit i = ((reg s page oEvtStatus).testBit i && !m.testBit i))

/-! ## Engine programs as words -/

/-- The 128-bit word of an engine instruction whose fields fit spells that instruction again, and a word that spells an instruction is
that instruction's word: no field is dropped, and no two words spell one instruction. -/
def Obligations.EngineCodesAgree : Prop :=
  (∀ i : EngInstr, i.fits = true → decodeEng (encodeEng i) = some i) ∧
  (∀ (w : Nat) (i : EngInstr), decodeEng w = some i → encodeEng i = w ∧ i.fits = true)
end

