-- ==== Sys2Proof/Laws/Codes.lean ====
section
/-!
SUPPORT. Fields laid end to end: packing and unpacking undo each other, which the engine instructions' encodings rest on.
-/
namespace Sys2Proof

/-- Fields that fit come back from the word they are packed in. -/
theorem unpackF_packF (l : List (Nat × Nat)) (h : ∀ p ∈ l, p.1 < 2 ^ p.2) :
    unpackF (l.map (·.2)) (packF l) = l.map (·.1) := by
  induction l with
  | nil => rfl
  | cons p l ih =>
    obtain ⟨v, w⟩ := p
    have hv : v < 2 ^ w := h (v, w) (by simp)
    simp only [packF, unpackF, List.map]
    rw [Nat.add_mul_mod_self_left, Nat.mod_mod, Nat.add_mul_div_left _ _ (Nat.two_pow_pos w),
      Nat.div_eq_of_lt (Nat.mod_lt _ (Nat.two_pow_pos w)), Nat.zero_add, ih (fun p hp => h p (by simp [hp])), Nat.mod_eq_of_lt hv]

/-- A packed word fits the sum of its widths. -/
theorem packF_lt (l : List (Nat × Nat)) : packF l < 2 ^ (l.map (·.2)).sum := by
  induction l with
  | nil => simp [packF]
  | cons p l ih =>
    obtain ⟨v, w⟩ := p
    simp only [packF, List.map, List.sum_cons, Nat.pow_add]
    have h1 := Nat.mod_lt v (Nat.two_pow_pos w)
    have h2 : 2 ^ w * (packF l + 1) ≤ 2 ^ w * 2 ^ (l.map (·.2)).sum := Nat.mul_le_mul_left _ ih
    rw [Nat.mul_add] at h2
    omega

/-- A word is what its fields pack to. -/
theorem packF_unpackF (ws : List Nat) (n : Nat) (h : n < 2 ^ ws.sum) : packF ((unpackF ws n).zip ws) = n := by
  induction ws generalizing n with
  | nil => simp at h; simp [packF, unpackF, h]
  | cons w ws ih =>
    simp only [unpackF, List.zip_cons_cons, packF]
    rw [ih _ (by rw [List.sum_cons, Nat.pow_add] at h; exact Nat.div_lt_of_lt_mul h), Nat.mod_mod]
    exact Nat.mod_add_div n (2 ^ w)

/-- Every field that is unpacked fits its width. -/
theorem unpackF_lt (ws : List Nat) (n i v w : Nat) (hv : (unpackF ws n)[i]? = some v) (hw : ws[i]? = some w) : v < 2 ^ w := by
  induction ws generalizing n i with
  | nil => simp at hw
  | cons u ws ih =>
    cases i with
    | zero =>
      simp [unpackF] at hv hw
      subst hw; rw [← hv]; exact Nat.mod_lt _ (Nat.two_pow_pos u)
    | succ i => exact ih (n / 2 ^ u) i (by simpa [unpackF] using hv) (by simpa using hw)

end Sys2Proof
end

