-- ==== Sys2Proof/Laws/Kept.lean ====
section
/-!
SUPPORT. What every operation keeps: the queue of waiting commands, which only `step` changes, and the fuses, which the
life-cycle, REVOKE and SVN_COMMIT alone change. One lemma for each operation on the state.
-/
namespace Sys2Proof.Machine

set_option linter.unusedSimpArgs false
set_option linter.unusedVariables false

/-- What an operation keeps. -/
def frozen (s : State) : List Instr × Fuses := (s.pending, s.fuses)
@[simp] theorem frozen_fold (s : State) : (s.pending, s.fuses) = frozen s := rfl
@[simp] theorem frozen_mk a0 a1 a2 a3 a4 a5 a6 a7 a8 a9 a10 a11 a12 a13 a14 a15 a16 a17 a18 a19 a20 a21 a22 a23 a24 a25 a26 a27 a28 a29 a30 a31 a32 a33 a34 a35 a36 a37 a38 a39 a40 a41 a42 a43 a44 a45 a46 a47 a48 a49 a50 a51 a52 a53 a54 a55 a56 a57 :
    frozen (State.mk a0 a1 a2 a3 a4 a5 a6 a7 a8 a9 a10 a11 a12 a13 a14 a15 a16 a17 a18 a19 a20 a21 a22 a23 a24 a25 a26 a27 a28 a29 a30 a31 a32 a33 a34 a35 a36 a37 a38 a39 a40 a41 a42 a43 a44 a45 a46 a47 a48 a49 a50 a51 a52 a53 a54 a55 a56 a57) = (a0, a42) := rfl
@[simp] theorem ite_kept (c : Prop) [Decidable c] (a b : State) : frozen (if c then a else b) = (if c then frozen a else frozen b) := by
  split <;> rfl
@[simp] theorem pair_ite_kept {α : Type} (c : Prop) [Decidable c] (a b : α × State) :
    frozen (if c then a else b).2 = (if c then frozen a.2 else frozen b.2) := by
  split <;> rfl
theorem foldl_kept {α : Type} (f : State → α → State) (l : List α) (s : State) (h : ∀ s a, frozen (f s a) = frozen s) :
    frozen (l.foldl f s) = frozen s := by
  induction l generalizing s with
  | nil => rfl
  | cons x l ih => rw [List.foldl_cons, ih, h]
theorem foldl2_kept {α β : Type} (f : β × State → α → β × State) (l : List α) (s : β × State)
    (h : ∀ s a, frozen (f s a).2 = frozen s.2) : frozen (l.foldl f s).2 = frozen s.2 := by
  induction l generalizing s with
  | nil => rfl
  | cons x l ih => rw [List.foldl_cons, ih, h]
theorem foldl3_kept {α β γ : Type} (f : β × γ × State → α → β × γ × State) (l : List α) (s : β × γ × State)
    (h : ∀ s a, frozen (f s a).2.2 = frozen s.2.2) : frozen (l.foldl f s).2.2 = frozen s.2.2 := by
  induction l generalizing s with
  | nil => rfl
  | cons x l ih => rw [List.foldl_cons, ih, h]
theorem foldlS_kept {α β : Type} (f : State × β → α → State × β) (l : List α) (s : State × β)
    (h : ∀ s a, frozen (f s a).1 = frozen s.1) : frozen (l.foldl f s).1 = frozen s.1 := by
  induction l generalizing s with
  | nil => rfl
  | cons x l ih => rw [List.foldl_cons, ih, h]
theorem iter_kept (f : Nat → State → State) (n : Nat) (s : State) (h : ∀ k s, frozen (f k s) = frozen s) :
    frozen (iter f n s) = frozen s := by
  induction n generalizing s with
  | zero => rfl
  | succ n ih => rw [iter, h, ih]

@[simp] theorem emit_kept (o : BusOut) (s : State) : frozen (emit o s) = frozen s := by
  simp [emit]

@[simp] theorem freshNat_kept (s : State) : frozen (freshNat s).2 = frozen s := by
  simp [freshNat]

@[simp] theorem setReg_kept (page off v : Nat) (s : State) : frozen (setReg page off v s) = frozen s := by
  simp [setReg]

@[simp] theorem setBit_kept (page off i : Nat) (b : Bool) (s : State) : frozen (setBit page off i b s) = frozen s := by
  simp [setBit]

@[simp] theorem setField_kept (page off lo w v : Nat) (s : State) : frozen (setField page off lo w v s) = frozen s := by
  simp [setField]

@[simp] theorem setRegPair_kept (page off v : Nat) (s : State) : frozen (setRegPair page off v s) = frozen s := by
  simp [setRegPair]

@[simp] theorem setWide_kept (page off v : Nat) (s : State) : frozen (setWide page off v s) = frozen s := by
  simp [setWide]

@[simp] theorem msix_kept (vec : Nat) (s : State) : frozen (msix vec s) = frozen s := by
  simp [msix]

@[simp] theorem eventMessage_kept (page : Nat) (before : Bool) (s : State) : frozen (eventMessage page before s) = frozen s := by
  simp [eventMessage]

@[simp] theorem raiseMask_kept (page mask : Nat) (s : State) : frozen (raiseMask page mask s) = frozen s := by
  simp [raiseMask]

@[simp] theorem raise_kept (page bit : Nat) (s : State) : frozen (raise page bit s) = frozen s := by
  simp [raise]

@[simp] theorem raiseSend_kept (page bit : Nat) (s : State) : frozen (raiseSend page bit s) = frozen s := by
  simp [raiseSend]

@[simp] theorem noteSat_kept (page : Nat) (s : State) : frozen (noteSat page s) = frozen s := by
  simp [noteSat]

@[simp] theorem bumpN_kept (page off n : Nat) (s : State) : frozen (bumpN page off n s) = frozen s := by
  simp [bumpN]

@[simp] theorem bump_kept (page off : Nat) (s : State) : frozen (bump page off s) = frozen s := by
  simp [bump]

@[simp] theorem setTxn_kept (page : Nat) (t : Txn) (s : State) : frozen (setTxn page t s) = frozen s := by
  simp [setTxn]

@[simp] theorem logRead_kept (a : Nat) (c : RdClass) (src : Nat) (s : State) : frozen (logRead a c src s) = frozen s := by
  simp [logRead]

@[simp] theorem setMark_kept (w : Nat) (m : Mark) (s : State) : frozen (setMark w m s) = frozen s := by
  simp [setMark]

@[simp] theorem settle_kept (w : Nat) (s : State) : frozen (settle w s) = frozen s := by
  unfold settle; (try dsimp only); (repeat' split) <;> (first | (simp [*, foldl_kept, foldl2_kept, foldl3_kept, foldlS_kept]; done) | (simp_all [foldl_kept, foldl2_kept, foldl3_kept, foldlS_kept]; done))

@[simp] theorem noteRead_kept (src w : Nat) (s : State) : frozen (noteRead src w s).2 = frozen s := by
  unfold noteRead; (try dsimp only); (repeat' split) <;> (first | (simp [*, foldl_kept, foldl2_kept, foldl3_kept, foldlS_kept]; done) | (simp_all [foldl_kept, foldl2_kept, foldl3_kept, foldlS_kept]; done))

@[simp] theorem readCheck_kept (src a n : Nat) (s : State) : frozen (readCheck src a n s).2.2 = frozen s := by
  unfold readCheck; rw [foldl3_kept]; intro s a; (try dsimp only); (repeat' split) <;> simp

@[simp] theorem partsRead_kept (ps : List (Nat × Nat)) (s : State) : frozen (partsRead ps s).2.2 = frozen s := by
  first | (simp [partsRead]; done) | (unfold partsRead; simp [foldl_kept, foldl2_kept, foldl3_kept, foldlS_kept]; done) | (unfold partsRead; (try dsimp only); (repeat' split) <;> (first | (simp [*, foldl_kept, foldl2_kept, foldl3_kept, foldlS_kept]; done) | (simp_all [foldl_kept, foldl2_kept, foldl3_kept, foldlS_kept]; done)))

@[simp] theorem poisonWord_kept (w : Nat) (s : State) : frozen (poisonWord w s) = frozen s := by
  simp [poisonWord]

@[simp] theorem wroteWord_kept (w : Nat) (s : State) : frozen (wroteWord w s) = frozen s := by
  simp [wroteWord]

@[simp] theorem armRun_kept (a n : Nat) (s : State) : frozen (armRun a n s) = frozen s := by
  unfold armRun; split
  · rfl
  · refine foldl_kept _ _ _ ?_; intro s w; split <;> simp

@[simp] theorem noteWritten_kept (a n : Nat) (s : State) : frozen (noteWritten a n s) = frozen s := by
  unfold noteWritten; split
  · rw [frozen_mk, frozen_fold]
  · rfl

@[simp] theorem writePart_kept (w a : Nat) (bs : List Byte) (s : State) : frozen (writePart w a bs s) = frozen s := by
  unfold writePart; (try dsimp only); (repeat' split) <;> (first | (simp [*, foldl_kept, foldl2_kept, foldl3_kept, foldlS_kept]; done) | (simp_all [foldl_kept, foldl2_kept, foldl3_kept, foldlS_kept]; done))

@[simp] theorem writeCanon_kept (a : Nat) (bs : List Byte) (s : State) : frozen (writeCanon a bs s) = frozen s := by
  simp [writeCanon]

@[simp] theorem memWrite_kept (a : Nat) (bs : List Byte) (s : State) : frozen (memWrite a bs s) = frozen s := by
  unfold memWrite; simp [foldl_kept, foldl2_kept, foldl3_kept, foldlS_kept]

@[simp] theorem updCtx_kept (c : Nat) (f : Ctx → Ctx) (s : State) : frozen (updCtx c f s) = frozen s := by
  simp [updCtx]

@[simp] theorem freeCtx_kept (c : Nat) (s : State) : frozen (freeCtx c s) = frozen s := by
  simp [freeCtx]

@[simp] theorem recAdd_kept (c i n : Nat) (s : State) : frozen (recAdd c i n s) = frozen s := by
  simp [recAdd]

@[simp] theorem settleIssue_kept (s : State) : frozen (settleIssue s) = frozen s := by
  first | (simp [settleIssue]; done) | (unfold settleIssue; simp [foldl_kept, foldl2_kept, foldl3_kept, foldlS_kept]; done) | (unfold settleIssue; (try dsimp only); (repeat' split) <;> (first | (simp [*, foldl_kept, foldl2_kept, foldl3_kept, foldlS_kept]; done) | (simp_all [foldl_kept, foldl2_kept, foldl3_kept, foldlS_kept]; done)))

@[simp] theorem noteOp_kept (s : State) : frozen (noteOp s) = frozen s := by
  simp [noteOp]

@[simp] theorem semSet_kept (n v : Nat) (s : State) : frozen (semSet n v s) = frozen s := by
  simp [semSet]

@[simp] theorem semAdd_kept (n v : Nat) (s : State) : frozen (semAdd n v s) = frozen s := by
  simp [semAdd]

@[simp] theorem semDo_kept (set : Bool) (n v : Nat) (s : State) : frozen (semDo set n v s) = frozen s := by
  simp [semDo]

@[simp] theorem latchAll_kept (s : State) : frozen (latchAll s) = frozen s := by
  simp [latchAll]

@[simp] theorem trackStall_kept (s : State) : frozen (trackStall s) = frozen s := by
  simp [trackStall]

@[simp] theorem noteCpl_kept (c : Cpl) (s : State) : frozen (noteCpl c s) = frozen s := by
  unfold noteCpl; (repeat' split) <;> (first | (simp [*, foldl_kept, foldl2_kept, foldl3_kept, foldlS_kept]; done) | (simp_all [foldl_kept, foldl2_kept, foldl3_kept, foldlS_kept]; done))

@[simp] theorem hostTry_kept (a n : Nat) (rs : List Cpl) (s : State) : frozen (hostTry a n rs s).2 = frozen s := by
  induction n generalizing rs s with
  | zero => simp [hostTry]
  | succ n ih => unfold hostTry; (try dsimp only); (repeat' split) <;> simp [ih]

@[simp] theorem hostGet_kept (a : Nat) (rs : List Cpl) (n : Nat) (s : State) : frozen (hostGet a rs n s).2 = frozen s := by
  simp [hostGet]

@[simp] theorem devGet_kept (c a n : Nat) (s : State) : frozen (devGet c a n s).2 = frozen s := by
  simp [devGet]

@[simp] theorem internalFault_kept (s : State) : frozen (internalFault s).2 = frozen s := by
  simp [internalFault]

@[simp] theorem argGet_kept (x : Ctx) (a n detail : Nat) (rs : List Cpl) (s : State) : frozen (argGet x a n detail rs s).2 = frozen s := by
  unfold argGet; (try dsimp only); (repeat' split) <;> (first | (simp [*, foldl_kept, foldl2_kept, foldl3_kept, foldlS_kept]; done) | (simp_all [foldl_kept, foldl2_kept, foldl3_kept, foldlS_kept]; done))

@[simp] theorem nextCertSeq_kept (s : State) : frozen (nextCertSeq s).2 = frozen s := by
  simp [nextCertSeq]

@[simp] theorem updCert_kept (f : CertUnit → CertUnit) (s : State) : frozen (updCert f s) = frozen s := by
  simp [updCert]

@[simp] theorem tagWindow_kept (n : Nat) (cs : List CertW) (s : State) : frozen (tagWindow n cs s) = frozen s := by
  unfold tagWindow; apply foldl_kept; intro s a; (repeat' split) <;> simp

@[simp] theorem closeWindow_kept (s : State) : frozen (closeWindow s) = frozen s := by
  unfold closeWindow; (repeat' split) <;> (first | (simp [*, foldl_kept, foldl2_kept, foldl3_kept, foldlS_kept]; done) | (simp_all [foldl_kept, foldl2_kept, foldl3_kept, foldlS_kept]; done))

@[simp] theorem closeFull_kept (s : State) : frozen (closeFull s) = frozen s := by
  unfold closeFull; (repeat' split) <;> (first | (simp [*, foldl_kept, foldl2_kept, foldl3_kept, foldlS_kept]; done) | (simp_all [foldl_kept, foldl2_kept, foldl3_kept, foldlS_kept]; done))

@[simp] theorem joinWindow_kept (c : CertW) (s : State) : frozen (joinWindow c s) = frozen s := by
  unfold joinWindow; (repeat' split) <;> (first | (simp [*, foldl_kept, foldl2_kept, foldl3_kept, foldlS_kept]; done) | (simp_all [foldl_kept, foldl2_kept, foldl3_kept, foldlS_kept]; done))

@[simp] theorem refreshWindows_kept (ctx seq : Nat) (b : List Byte) (s : State) : frozen (refreshWindows ctx seq b s) = frozen s := by
  simp [refreshWindows]

@[simp] theorem ringChange_kept (s : State) : frozen (ringChange s) = frozen s := by
  simp [ringChange]

@[simp] theorem releaseSigned_kept (cs : List CertW) (s : State) : frozen (releaseSigned cs s) = frozen s := by
  unfold releaseSigned; apply foldl_kept; intro s a; (repeat' split) <;> simp

@[simp] theorem queueFollows_kept (cs : List CertW) (n : Nat) (s : State) : frozen (queueFollows cs n s) = frozen s := by
  unfold queueFollows; apply foldl_kept; intro s a; (repeat' split) <;> simp

@[simp] theorem ringPut_kept (s : State) : frozen (ringPut s) = frozen s := by
  unfold ringPut; (repeat' split) <;> (first | (simp [*, foldl_kept, foldl2_kept, foldl3_kept, foldlS_kept]; done) | (simp_all [foldl_kept, foldl2_kept, foldl3_kept, foldlS_kept]; done))

@[simp] theorem ringPump_kept  (s : State) : frozen (ringPump s) = frozen s := by
  have h := iter_kept (fun _ s => ringPut s) s.cert.signed.length s (by simp)
  unfold ringPump; simp [h]

@[simp] theorem updBell_kept (q : Nat) (f : Bell → Bell) (s : State) : frozen (updBell q f s) = frozen s := by
  simp [updBell]

@[simp] theorem updBellProg_kept (q p : Nat) (f : BellProg → BellProg) (s : State) : frozen (updBellProg q p f s) = frozen s := by
  simp [updBellProg]

@[simp] theorem admitRecheck_kept (q : Nat) (s : State) : frozen (admitRecheck q s) = frozen s := by
  unfold admitRecheck; (try dsimp only); (repeat' split) <;> (first | (simp [*, foldl_kept, foldl2_kept, foldl3_kept, foldlS_kept]; done) | (simp_all [foldl_kept, foldl2_kept, foldl3_kept, foldlS_kept]; done))

@[simp] theorem addCause_kept (c : Nat) (k : Cause) (s : State) : frozen (addCause c k s) = frozen s := by
  unfold addCause; (repeat' split) <;> (first | (simp [*, foldl_kept, foldl2_kept, foldl3_kept, foldlS_kept]; done) | (simp_all [foldl_kept, foldl2_kept, foldl3_kept, foldlS_kept]; done))

@[simp] theorem applySignal_kept (c k : Nat) (g : Signal) (s : State) : frozen (applySignal c k g s) = frozen s := by
  simp [applySignal]

@[simp] theorem applySignals_kept (c : Nat) (s : State) : frozen (applySignals c s) = frozen s := by
  unfold applySignals; (repeat' split) <;> (first | (simp [*, foldl_kept, foldl2_kept, foldl3_kept, foldlS_kept]; done) | (simp_all [foldl_kept, foldl2_kept, foldl3_kept, foldlS_kept]; done))

@[simp] theorem tellAudits_kept (x : Ctx) (seq : Option Nat) (b : List Byte) (s : State) : frozen (tellAudits x seq b s) = frozen s := by
  simp [tellAudits]

@[simp] theorem followUp_kept (j : AuditJob) (r : AuditRes) (s : State) : frozen (followUp j r s) = frozen s := by
  unfold followUp; (try dsimp only); (repeat' split) <;> (first | (simp [*, foldl_kept, foldl2_kept, foldl3_kept, foldlS_kept]; done) | (simp_all [foldl_kept, foldl2_kept, foldl3_kept, foldlS_kept]; done))

@[simp] theorem followSkips_kept (x : Ctx) (s : State) : frozen (followSkips x s) = frozen s := by
  unfold followSkips; simp [foldl_kept, foldl2_kept, foldl3_kept, foldlS_kept]

@[simp] theorem refreshIssued_kept (x : Ctx) (s : State) (q : IssuedCert) : frozen (refreshIssued x s q) = frozen s := by
  simp [refreshIssued]

@[simp] theorem tellIssued_kept (x : Ctx) (s : State) : frozen (tellIssued x s) = frozen s := by
  simp [tellIssued]

@[simp] theorem certAtDelivery_kept (c : Nat) (wanted : Bool) (s : State) : frozen (certAtDelivery c wanted s) = frozen s := by
  unfold certAtDelivery; (try dsimp only); (repeat' split) <;> (first | (simp [*, foldl_kept, foldl2_kept, foldl3_kept, foldlS_kept]; done) | (simp_all [foldl_kept, foldl2_kept, foldl3_kept, foldlS_kept]; done))

@[simp] theorem noteBell_kept (c : Nat) (s : State) : frozen (noteBell c s) = frozen s := by
  unfold noteBell; (repeat' split) <;> (first | (simp [*, foldl_kept, foldl2_kept, foldl3_kept, foldlS_kept]; done) | (simp_all [foldl_kept, foldl2_kept, foldl3_kept, foldlS_kept]; done))

@[simp] theorem afterRelease_kept (x : Ctx) (s : State) : frozen (afterRelease x s) = frozen s := by
  unfold afterRelease; (try dsimp only); (repeat' split) <;> (first | (simp [*, foldl_kept, foldl2_kept, foldl3_kept, foldlS_kept]; done) | (simp_all [foldl_kept, foldl2_kept, foldl3_kept, foldlS_kept]; done))

@[simp] theorem tellBuffer_kept (x : Ctx) (s : State) : frozen (tellBuffer x s) = frozen s := by
  unfold tellBuffer; (repeat' split) <;> (first | (simp [*, foldl_kept, foldl2_kept, foldl3_kept, foldlS_kept]; done) | (simp_all [foldl_kept, foldl2_kept, foldl3_kept, foldlS_kept]; done))

@[simp] theorem noteAborted_kept (x : Ctx) (s : State) : frozen (noteAborted x s) = frozen s := by
  unfold noteAborted; (repeat' split) <;> (first | (simp [*, foldl_kept, foldl2_kept, foldl3_kept, foldlS_kept]; done) | (simp_all [foldl_kept, foldl2_kept, foldl3_kept, foldlS_kept]; done))

@[simp] theorem holdPending_kept (x : Ctx) (s : State) : frozen (holdPending x s) = frozen s := by
  simp [holdPending]

@[simp] theorem endRun_kept (x : Ctx) (s : State) : frozen (endRun x s) = frozen s := by
  unfold endRun; (repeat' split) <;> (first | (simp [*, foldl_kept, foldl2_kept, foldl3_kept, foldlS_kept]; done) | (simp_all [foldl_kept, foldl2_kept, foldl3_kept, foldlS_kept]; done))

@[simp] theorem finish_kept (c : Nat) (s : State) : frozen (finish c s) = frozen s := by
  unfold finish; (try dsimp only); (repeat' split) <;> (first | (simp [*, foldl_kept, foldl2_kept, foldl3_kept, foldlS_kept]; done) | (simp_all [foldl_kept, foldl2_kept, foldl3_kept, foldlS_kept]; done))

@[simp] theorem endWith_kept (c : Nat) (k : Cause) (s : State) : frozen (endWith c k s) = frozen s := by
  simp [endWith]

@[simp] theorem engineWorkDone_kept (c : Nat) (s : State) : frozen (engineWorkDone c s) = frozen s := by
  unfold engineWorkDone; (repeat' split) <;> (first | (simp [*, foldl_kept, foldl2_kept, foldl3_kept, foldlS_kept]; done) | (simp_all [foldl_kept, foldl2_kept, foldl3_kept, foldlS_kept]; done))

@[simp] theorem bufferDone_kept  (s : State) : frozen (bufferDone s) = frozen s := by
  unfold bufferDone; apply foldl_kept; intro s a; (repeat' split) <;> simp

@[simp] theorem deregDone_kept (s : State) : frozen (deregDone s) = frozen s := by
  unfold deregDone; simp [foldl_kept, foldl2_kept, foldl3_kept, foldlS_kept]

@[simp] theorem updQueue_kept (q : Nat) (f : Queue → Queue) (s : State) : frozen (updQueue q f s) = frozen s := by
  simp [updQueue]

@[simp] theorem freeRec_kept (r : RecW) (s : State) : frozen (freeRec r s) = frozen s := by
  unfold freeRec; (repeat' split) <;> (first | (simp [*, foldl_kept, foldl2_kept, foldl3_kept, foldlS_kept]; done) | (simp_all [foldl_kept, foldl2_kept, foldl3_kept, foldlS_kept]; done))

@[simp] theorem keepRecord_kept (x : Ctx) (b : List Byte) (s : State) : frozen (keepRecord x b s) = frozen s := by
  first | (simp [keepRecord]; done) | (unfold keepRecord; simp [foldl_kept, foldl2_kept, foldl3_kept, foldlS_kept]; done) | (unfold keepRecord; (try dsimp only); (repeat' split) <;> (first | (simp [*, foldl_kept, foldl2_kept, foldl3_kept, foldlS_kept]; done) | (simp_all [foldl_kept, foldl2_kept, foldl3_kept, foldlS_kept]; done)))

@[simp] theorem pushRecord_kept (s : State) (x : Ctx) : frozen (pushRecord s x) = frozen s := by
  first | (simp [pushRecord]; done) | (unfold pushRecord; simp [foldl_kept, foldl2_kept, foldl3_kept, foldlS_kept]; done) | (unfold pushRecord; (try dsimp only); (repeat' split) <;> (first | (simp [*, foldl_kept, foldl2_kept, foldl3_kept, foldlS_kept]; done) | (simp_all [foldl_kept, foldl2_kept, foldl3_kept, foldlS_kept]; done)))

@[simp] theorem pushRecords_kept (s : State) : frozen (pushRecords s) = frozen s := by
  unfold pushRecords; simp [foldl_kept, foldl2_kept, foldl3_kept, foldlS_kept]

@[simp] theorem putRecord_kept (q : Nat) (r : RecW) (s : State) : frozen (putRecord q r s) = frozen s := by
  simp [putRecord]

@[simp] theorem bufferRecord_kept (q : Nat) (r : RecW) (s : State) : frozen (bufferRecord q r s) = frozen s := by
  simp [bufferRecord]

@[simp] theorem serveOne_kept (q : Nat) (s : State) : frozen (serveOne q s) = frozen s := by
  unfold serveOne; (try dsimp only); (repeat' split) <;> (first | (simp [*, foldl_kept, foldl2_kept, foldl3_kept, foldlS_kept]; done) | (simp_all [foldl_kept, foldl2_kept, foldl3_kept, foldlS_kept]; done))

@[simp] theorem serveQueue_kept (s : State) (q : Nat) : frozen (serveQueue s q) = frozen s := by
  unfold serveQueue; apply iter_kept; simp

@[simp] theorem replayOver_kept (s : State) (q : Nat) : frozen (replayOver s q) = frozen s := by
  simp [replayOver]

@[simp] theorem pump_kept (s : State) : frozen (pump s) = frozen s := by
  unfold pump; simp [foldl_kept, foldl2_kept, foldl3_kept, foldlS_kept]

@[simp] theorem flushTry_kept (a n : Nat) (rs : List Cpl) (s : State) : frozen (flushTry a n rs s).2 = frozen s := by
  induction n generalizing rs s with
  | zero => simp [flushTry]
  | succ n ih => unfold flushTry; (try dsimp only); (repeat' split) <;> simp [ih]

@[simp] theorem faultMessage_kept (s : State) : frozen (faultMessage s) = frozen s := by
  simp [faultMessage]

@[simp] theorem faultQueue_kept (q cause : Nat) (s : State) : frozen (faultQueue q cause s) = frozen s := by
  simp [faultQueue]

@[simp] theorem bufferWritten_kept (q : Nat) (s : State) : frozen (bufferWritten q s) = frozen s := by
  simp [bufferWritten]

@[simp] theorem coalesce_kept (q : Nat) (rs : List RecW) (s : State) : frozen (coalesce q rs s) = frozen s := by
  unfold coalesce; simp [foldl_kept, foldl2_kept, foldl3_kept, foldlS_kept]

@[simp] theorem confirm_kept (q : Nat) (s : State) : frozen (confirm q s) = frozen s := by
  unfold confirm; simp [foldl_kept, foldl2_kept, foldl3_kept, foldlS_kept]

@[simp] theorem updLink_kept (l : Nat) (f : Link → Link) (s : State) : frozen (updLink l f s) = frozen s := by
  simp [updLink]

@[simp] theorem updNet_kept (f : Net → Net) (s : State) : frozen (updNet f s) = frozen s := by
  simp [updNet]

@[simp] theorem freeBuf_kept (inp : Option (Nat × Nat)) (s : State) : frozen (freeBuf inp s) = frozen s := by
  unfold freeBuf; (repeat' split) <;> (first | (simp [*, foldl_kept, foldl2_kept, foldl3_kept, foldlS_kept]; done) | (simp_all [foldl_kept, foldl2_kept, foldl3_kept, foldlS_kept]; done))

@[simp] theorem routeFlit_kept (f : QFlit) (via : Option (Nat × Bool)) (s : State) : frozen (routeFlit f via s) = frozen s := by
  unfold routeFlit; (repeat' split) <;> (first | (simp [*, foldl_kept, foldl2_kept, foldl3_kept, foldlS_kept]; done) | (simp_all [foldl_kept, foldl2_kept, foldl3_kept, foldlS_kept]; done))

@[simp] theorem nextMsg_kept (dst cls chan : Nat) (s : State) : frozen (nextMsg dst cls chan s).2 = frozen s := by
  simp [nextMsg]

@[simp] theorem sendFrom_kept (src : Option (Nat × Nat)) (dst cls chan : Nat) (data : List Byte) (s : State) : frozen (sendFrom src dst cls chan data s) = frozen s := by
  unfold sendFrom; simp [foldl_kept, foldl2_kept, foldl3_kept, foldlS_kept]

@[simp] theorem sendMsg_kept (dst cls chan : Nat) (data : List Byte) (s : State) : frozen (sendMsg dst cls chan data s) = frozen s := by
  unfold sendMsg; simp [foldl_kept, foldl2_kept, foldl3_kept, foldlS_kept]

@[simp] theorem sendCtrl_kept (dst : Nat) (data : List Byte) (s : State) : frozen (sendCtrl dst data s) = frozen s := by
  simp [sendCtrl]

@[simp] theorem sendAck_kept (dst cls msg : Nat) (s : State) : frozen (sendAck dst cls msg s) = frozen s := by
  simp [sendAck]

@[simp] theorem sendHop_kept (l : Nat) (data : List Byte) (s : State) : frozen (sendHop l data s) = frozen s := by
  simp [sendHop]

@[simp] theorem updMd_kept (c : Nat) (f : MdRun → MdRun) (s : State) : frozen (updMd c f s) = frozen s := by
  simp [updMd]

@[simp] theorem waitAt_kept (c k : Nat) (ps : List Nat) (s : State) : frozen (waitAt c k ps s) = frozen s := by
  simp [waitAt]

@[simp] theorem waitFor_kept (c : Nat) (ps : List Nat) (s : State) : frozen (waitFor c ps s) = frozen s := by
  simp [waitFor]

@[simp] theorem sendRun_kept (c p cls kind num : Nat) (body : List Byte) (s : State) : frozen (sendRun c p cls kind num body s) = frozen s := by
  unfold sendRun; (repeat' split) <;> (first | (simp [*, foldl_kept, foldl2_kept, foldl3_kept, foldlS_kept]; done) | (simp_all [foldl_kept, foldl2_kept, foldl3_kept, foldlS_kept]; done))

@[simp] theorem dropRun_kept (m : MdRun) (p kind num : Nat) (s : State) : frozen (dropRun m p kind num s) = frozen s := by
  simp [dropRun]

@[simp] theorem sendDown_kept (c k : Nat) (m : MdRun) (r : List Int) (s : State) : frozen (sendDown c k m r s) = frozen s := by
  unfold sendDown; apply foldl_kept; intro s a; (repeat' split) <;> simp

@[simp] theorem combineOver_kept (c k : Nat) (s : State) : frozen (combineOver c k s) = frozen s := by
  simp [combineOver]

@[simp] theorem combineAt_kept (c k : Nat) (op : List Int → List Int → List Int) (v : List Int) (s : State) : frozen (combineAt c k op v s).2 = frozen s := by
  unfold combineAt; (try dsimp only); (repeat' split) <;> (first | (simp [*, foldl_kept, foldl2_kept, foldl3_kept, foldlS_kept]; done) | (simp_all [foldl_kept, foldl2_kept, foldl3_kept, foldlS_kept]; done))

@[simp] theorem combine_kept (c : Nat) (op : List Int → List Int → List Int) (v : List Int) (s : State) : frozen (combine c op v s).2 = frozen s := by
  unfold combine; (repeat' split) <;> (first | (simp [*, foldl_kept, foldl2_kept, foldl3_kept, foldlS_kept]; done) | (simp_all [foldl_kept, foldl2_kept, foldl3_kept, foldlS_kept]; done))

@[simp] theorem sendAcc_kept (c : Nat) (a : AccSet) (s : State) : frozen (sendAcc c a s) = frozen s := by
  unfold sendAcc; (repeat' split) <;> (first | (simp [*, foldl_kept, foldl2_kept, foldl3_kept, foldlS_kept]; done) | (simp_all [foldl_kept, foldl2_kept, foldl3_kept, foldlS_kept]; done))

@[simp] theorem takeAccs_kept (c : Nat) (s : State) : frozen (takeAccs c s) = frozen s := by
  unfold takeAccs; (repeat' split) <;> (first | (simp [*, foldl_kept, foldl2_kept, foldl3_kept, foldlS_kept]; done) | (simp_all [foldl_kept, foldl2_kept, foldl3_kept, foldlS_kept]; done))

@[simp] theorem writeResult_kept (c addr : Nat) (run : List Byte) (s : State) : frozen (writeResult c addr run s) = frozen s := by
  unfold writeResult; (repeat' split) <;> (first | (simp [*, foldl_kept, foldl2_kept, foldl3_kept, foldlS_kept]; done) | (simp_all [foldl_kept, foldl2_kept, foldl3_kept, foldlS_kept]; done))

@[simp] theorem setAudit_kept (c addr : Nat) (r : AuditRes) (s : State) : frozen (setAudit c addr r s) = frozen s := by
  simp [setAudit]

@[simp] theorem queueAudit_kept (c addr : Nat) (s : State) : frozen (queueAudit c addr s) = frozen s := by
  unfold queueAudit; (repeat' split) <;> (first | (simp [*, foldl_kept, foldl2_kept, foldl3_kept, foldlS_kept]; done) | (simp_all [foldl_kept, foldl2_kept, foldl3_kept, foldlS_kept]; done))

@[simp] theorem updCur_kept (c e : Nat) (f : Cursor → Cursor) (s : State) : frozen (updCur c e f s) = frozen s := by
  simp [updCur]

@[simp] theorem advance_kept (c e : Nat) (s : State) : frozen (advance c e s) = frozen s := by
  unfold advance; (repeat' split) <;> (first | (simp [*, foldl_kept, foldl2_kept, foldl3_kept, foldlS_kept]; done) | (simp_all [foldl_kept, foldl2_kept, foldl3_kept, foldlS_kept]; done))

@[simp] theorem enterLoop_kept (c e : Nat) (o : LoopOp) (s : State) : frozen (enterLoop c e o s) = frozen s := by
  unfold enterLoop; (repeat' split) <;> (first | (simp [*, foldl_kept, foldl2_kept, foldl3_kept, foldlS_kept]; done) | (simp_all [foldl_kept, foldl2_kept, foldl3_kept, foldlS_kept]; done))

@[simp] theorem exitSweeps_kept (c : Nat) (s : State) : frozen (exitSweeps c s) = frozen s := by
  unfold exitSweeps; (repeat' split) <;> (first | (simp [*, foldl_kept, foldl2_kept, foldl3_kept, foldlS_kept]; done) | (simp_all [foldl_kept, foldl2_kept, foldl3_kept, foldlS_kept]; done))

@[simp] theorem stageFlags_kept (c e bits : Nat) (s : State) : frozen (stageFlags c e bits s) = frozen s := by
  unfold stageFlags; (repeat' split) <;> (first | (simp [*, foldl_kept, foldl2_kept, foldl3_kept, foldlS_kept]; done) | (simp_all [foldl_kept, foldl2_kept, foldl3_kept, foldlS_kept]; done))

@[simp] theorem stageCount_kept (c e i n : Nat) (s : State) : frozen (stageCount c e i n s) = frozen s := by
  unfold stageCount; (repeat' split) <;> (first | (simp [*, foldl_kept, foldl2_kept, foldl3_kept, foldlS_kept]; done) | (simp_all [foldl_kept, foldl2_kept, foldl3_kept, foldlS_kept]; done))

@[simp] theorem restart_kept (c : Nat) (s : State) : frozen (restart c s) = frozen s := by
  unfold restart; (repeat' split) <;> (first | (simp [*, foldl_kept, foldl2_kept, foldl3_kept, foldlS_kept]; done) | (simp_all [foldl_kept, foldl2_kept, foldl3_kept, foldlS_kept]; done))

@[simp] theorem degradeWrite_kept (c : Nat) (x : Ctx) (a : Anneal) (s : State) : frozen (degradeWrite c x a s).2 = frozen s := by
  unfold degradeWrite; (repeat' split) <;> (first | (simp [*, foldl_kept, foldl2_kept, foldl3_kept, foldlS_kept]; done) | (simp_all [foldl_kept, foldl2_kept, foldl3_kept, foldlS_kept]; done))

@[simp] theorem degrade_kept (c : Nat) (s : State) : frozen (degrade c s) = frozen s := by
  unfold degrade; (try dsimp only); (repeat' split) <;> (first | (simp [*, foldl_kept, foldl2_kept, foldl3_kept, foldlS_kept]; done) | (simp_all [foldl_kept, foldl2_kept, foldl3_kept, foldlS_kept]; done))

theorem disrupt_kept (c : Nat) (k : Cause) (s t : State) (h : disrupt c k s = some t) : frozen t = frozen s := by
  unfold disrupt at h; repeat' split at h
  all_goals first | (injection h with h; subst h; simp; done) | simp at h

@[simp] theorem disrupt_getD_kept (c : Nat) (k : Cause) (s t : State) :
    frozen ((disrupt c k s).getD t) = (if (disrupt c k s).isSome then frozen s else frozen t) := by
  cases h : disrupt c k s with
  | none => simp
  | some u => simp [disrupt_kept c k s u h]

@[simp] theorem disruptOr_kept (c : Nat) (k : Cause) (s : State) : frozen (disruptOr c k s) = frozen s := by
  first | (simp [disruptOr]; done) | (unfold disruptOr; simp [foldl_kept, foldl2_kept, foldl3_kept, foldlS_kept]; done) | (unfold disruptOr; (try dsimp only); (repeat' split) <;> (first | (simp [*, foldl_kept, foldl2_kept, foldl3_kept, foldlS_kept]; done) | (simp_all [foldl_kept, foldl2_kept, foldl3_kept, foldlS_kept]; done)))

@[simp] theorem copyMaster_kept (k : ConstEnt × List (Nat × Nat)) (s : State) : frozen (copyMaster k s).2.2 = frozen s := by
  first | (simp [copyMaster]; done) | (unfold copyMaster; simp [foldl_kept, foldl2_kept, foldl3_kept, foldlS_kept]; done) | (unfold copyMaster; (try dsimp only); (repeat' split) <;> (first | (simp [*, foldl_kept, foldl2_kept, foldl3_kept, foldlS_kept]; done) | (simp_all [foldl_kept, foldl2_kept, foldl3_kept, foldlS_kept]; done)))

@[simp] theorem reloadConst_kept (c : Nat) (k : ConstEnt × List (Nat × Nat)) (f : Cause) (s : State) : frozen (reloadConst c k f s) = frozen s := by
  first | (simp [reloadConst]; done) | (unfold reloadConst; simp [foldl_kept, foldl2_kept, foldl3_kept, foldlS_kept]; done) | (unfold reloadConst; (try dsimp only); (repeat' split) <;> (first | (simp [*, foldl_kept, foldl2_kept, foldl3_kept, foldlS_kept]; done) | (simp_all [foldl_kept, foldl2_kept, foldl3_kept, foldlS_kept]; done)))

@[simp] theorem noteReload_kept (c w : Nat) (s : State) : frozen (noteReload c w s) = frozen s := by
  simp [noteReload]

@[simp] theorem noteRecompute_kept (c w : Nat) (s : State) : frozen (noteRecompute c w s) = frozen s := by
  simp [noteRecompute]

@[simp] theorem recoverWord_kept (c e w : Nat) (s : State) : frozen (recoverWord c e w s) = frozen s := by
  unfold recoverWord; (repeat' split) <;> first | (simp; done) | (exact disrupt_kept _ _ _ _ (by assumption))

@[simp] theorem engReads_kept (c e : Nat) (rs : List (Nat × Nat)) (s : State) : frozen (engReads c e rs s).2 = frozen s := by
  unfold engReads; (try dsimp only); (repeat' split) <;> (first | (simp [*, foldl_kept, foldl2_kept, foldl3_kept, foldlS_kept]; done) | (simp_all [foldl_kept, foldl2_kept, foldl3_kept, foldlS_kept]; done))

@[simp] theorem settleSlot_kept (e slot v : Nat) (s : State) : frozen (settleSlot e slot v s) = frozen s := by
  first | (simp [settleSlot]; done) | (unfold settleSlot; simp [foldl_kept, foldl2_kept, foldl3_kept, foldlS_kept]; done) | (unfold settleSlot; (try dsimp only); (repeat' split) <;> (first | (simp [*, foldl_kept, foldl2_kept, foldl3_kept, foldlS_kept]; done) | (simp_all [foldl_kept, foldl2_kept, foldl3_kept, foldlS_kept]; done)))

@[simp] theorem slotReads_kept (c e slot v : Nat) (s : State) : frozen (slotReads c e slot v s).2 = frozen s := by
  have key : ∀ (l : List Nat) (f : List Nat × State → Nat → List Nat × State) (t : State), (∀ s a, frozen (f s a).2 = frozen s.2) →
      frozen (l.foldl f ([], t)).2 = frozen t := fun l f t h => foldl2_kept f l ([], t) h
  unfold slotReads; dsimp only
  split
  · rw [key, settleSlot_kept]; intro s a; (repeat' split) <;> simp
  · simp only [recoverWord_kept]; rw [key, settleSlot_kept]; intro s a; (repeat' split) <;> simp

@[simp] theorem writeSlot_kept (e : Nat) (r : SlotRec) (ws : List (List Nat)) (s : State) : frozen (writeSlot e r ws s) = frozen s := by
  simp [writeSlot]

theorem engRun_kept (x : EngRef) (f : Ctx → Cursor → Nat → State → State) (h : ∀ c u i s, frozen (f c u i s) = frozen s) (s : State) : frozen (engRun x f s) = frozen s := by
  unfold engRun; (repeat' split) <;> simp [h]

theorem reading_kept (c : Ctx) (u : Cursor) (rs : List (Nat × Nat)) (f : State → State) (h : ∀ s, frozen (f s) = frozen s) (s : State) : frozen (reading c u rs f s) = frozen s := by
  unfold reading; dsimp only; split <;> simp [h]

@[simp] theorem collAdvance_kept (c : Nat) (s : State) : frozen (collAdvance c s) = frozen s := by
  unfold collAdvance; (repeat' split) <;> (first | (simp [*, foldl_kept, foldl2_kept, foldl3_kept, foldlS_kept]; done) | (simp_all [foldl_kept, foldl2_kept, foldl3_kept, foldlS_kept]; done))

@[simp] theorem haltEngine_kept (c e : Nat) (s : State) : frozen (haltEngine c e s) = frozen s := by
  unfold haltEngine; (try dsimp only); (repeat' split) <;> (first | (simp [*, foldl_kept, foldl2_kept, foldl3_kept, foldlS_kept]; done) | (simp_all [foldl_kept, foldl2_kept, foldl3_kept, foldlS_kept]; done))

@[simp] theorem absorb_kept (c e ctx : Nat) (b : List Byte) (s : State) : frozen (absorb c e ctx b s) = frozen s := by
  simp [absorb]

@[simp] theorem moveTags_kept (src dst n : Nat) (s : State) : frozen (moveTags src dst n s) = frozen s := by
  first | (simp [moveTags]; done) | (unfold moveTags; simp [foldl_kept, foldl2_kept, foldl3_kept, foldlS_kept]; done) | (unfold moveTags; (try dsimp only); (repeat' split) <;> (first | (simp [*, foldl_kept, foldl2_kept, foldl3_kept, foldlS_kept]; done) | (simp_all [foldl_kept, foldl2_kept, foldl3_kept, foldlS_kept]; done)))

@[simp] theorem digestCompare_kept (c : Ctx) (u : Cursor) (a ctx : Nat) (s : State) : frozen (digestCompare c u a ctx s) = frozen s := by
  simp [digestCompare]

@[simp] theorem swaitTry_kept (c : Ctx) (u : Cursor) (o : SwaitOp) (s : State) : frozen (swaitTry c u o s) = frozen s := by
  unfold swaitTry; (repeat' split) <;> (first | (simp [*, foldl_kept, foldl2_kept, foldl3_kept, foldlS_kept]; done) | (simp_all [foldl_kept, foldl2_kept, foldl3_kept, foldlS_kept]; done))

@[simp] theorem placeTile_kept (p : Prob) (e k g b : Nat) (s : State) : frozen (placeTile p e k g b s) = frozen s := by
  simp [placeTile]

@[simp] theorem placeEngine_kept (p : Prob) (s : State) (e : Nat) : frozen (placeEngine p s e) = frozen s := by
  unfold placeEngine; simp [foldl_kept, foldl2_kept, foldl3_kept, foldlS_kept]

@[simp] theorem reloadTile_kept (p : Prob) (e k g b : Nat) (s : State) : frozen (reloadTile p e k g b s).2.2 = frozen s := by
  simp [reloadTile]

@[simp] theorem reloadSeg_kept (p : Prob) (e off : Nat) (s : State) : frozen (reloadSeg p e off s).2.2 = frozen s := by
  unfold reloadSeg; simp [foldl_kept, foldl2_kept, foldl3_kept, foldlS_kept]

@[simp] theorem reloadUnit_kept (p : Prob) (staged : List (Nat × Nat)) (e off : Nat) (s : State) : frozen (reloadUnit p staged e off s).2.2 = frozen s := by
  unfold reloadUnit; (try dsimp only); (repeat' split) <;> (first | (simp [*, foldl_kept, foldl2_kept, foldl3_kept, foldlS_kept]; done) | (simp_all [foldl_kept, foldl2_kept, foldl3_kept, foldlS_kept]; done))

@[simp] theorem updRun_kept (c : Nat) (f : Anneal → Anneal) (s : State) : frozen (updRun c f s) = frozen s := by
  simp [updRun]

@[simp] theorem fieldWrites_kept (p : Prob) (s : State) : frozen (fieldWrites p s) = frozen s := by
  unfold fieldWrites; simp [foldl_kept, foldl2_kept, foldl3_kept, foldlS_kept]

@[simp] theorem writeStream_kept (p : Prob) (off : Nat) (b : List Byte) (s : State) : frozen (writeStream p off b s) = frozen s := by
  unfold writeStream; simp [foldl_kept, foldl2_kept, foldl3_kept, foldlS_kept]

@[simp] theorem writeRun_kept (c : Nat) (s : State) : frozen (writeRun c s) = frozen s := by
  unfold writeRun; (repeat' split) <;> (first | (simp [*, foldl_kept, foldl2_kept, foldl3_kept, foldlS_kept]; done) | (simp_all [foldl_kept, foldl2_kept, foldl3_kept, foldlS_kept]; done))

@[simp] theorem restoreRun_kept (c : Nat) (k : Ckpt) (s : State) : frozen (restoreRun c k s) = frozen s := by
  unfold restoreRun; (repeat' split) <;> (first | (simp [*, foldl_kept, foldl2_kept, foldl3_kept, foldlS_kept]; done) | (simp_all [foldl_kept, foldl2_kept, foldl3_kept, foldlS_kept]; done))

@[simp] theorem streamReads_kept (c : Nat) (p : Prob) (off n : Nat) (s : State) : frozen (streamReads c p off n s).2 = frozen s := by
  unfold streamReads; simp [foldl_kept, foldl2_kept, foldl3_kept, foldlS_kept]

@[simp] theorem resumePoint_kept (c : Nat) (a : Anneal) (s : State) : frozen (resumePoint c a s).2 = frozen s := by
  unfold resumePoint; simp [foldl_kept, foldl2_kept, foldl3_kept, foldlS_kept]

@[simp] theorem resumeRun_kept (c : Nat) (k : Cause) (x : Ctx) (a : Anneal) (s : State) : frozen (resumeRun c k x a s) = frozen s := by
  unfold resumeRun; (try dsimp only); (repeat' split) <;> (first | (simp [*, foldl_kept, foldl2_kept, foldl3_kept, foldlS_kept]; done) | (simp_all [foldl_kept, foldl2_kept, foldl3_kept, foldlS_kept]; done))

@[simp] theorem redoPhase_kept (c : Nat) (s : State) : frozen (redoPhase c s) = frozen s := by
  unfold redoPhase; (repeat' split) <;> (first | (simp [*, foldl_kept, foldl2_kept, foldl3_kept, foldlS_kept]; done) | (simp_all [foldl_kept, foldl2_kept, foldl3_kept, foldlS_kept]; done))

@[simp] theorem recovering_kept (c e : Nat) (f : Ctx → Cause → State → State) (s : State) (hf : ∀ x k s, frozen (f x k s) = frozen s) :
    frozen (recovering c e f s) = frozen s := by
  unfold recovering; (try dsimp only); (repeat' split) <;> first | rfl | (simp; done) | (rw [hf, disruptOr_kept])

theorem whileOn_kept (c : Nat) (f : State → State) (s : State) (h : ∀ s, frozen (f s) = frozen s) : frozen (whileOn c f s) = frozen s := by
  unfold whileOn; split
  · exact h s
  · rfl

@[simp] theorem reloadEnds_kept (c : Nat) (k : Cause) (r : Bool × Nat × State) : frozen (reloadEnds c k r) = frozen r.2.2 := by
  unfold reloadEnds; dsimp only; split <;> simp

theorem reloadsWord_kept (c : Nat) (p : Prob) (w : Nat) (h : Nat × Nat) (k : Cause) (s : State) :
    frozen (reloadEnds c k (reloadUnit p (stagedOf s c) h.1 h.2 (noteReload c w s))) = frozen s := by
  rw [reloadEnds_kept, reloadUnit_kept, noteReload_kept]

@[simp] theorem recoverUnit_kept (c : Nat) (p : Prob) (w : Nat) (h : Nat × Nat) (s : State) : frozen (recoverUnit c p w h s) = frozen s :=
  recovering_kept _ _ _ _ (fun _ k s => reloadsWord_kept c p w _ k s)

@[simp] theorem recoverCoeff_kept (c : Nat) (p : Prob) (w : Nat) (s : State) : frozen (recoverCoeff c p w s) = frozen s := by
  unfold recoverCoeff
  cases homeAt s w with
  | none => simp only [Option.elim_none]; split <;> simp
  | some h => simp

@[simp] theorem coeffReads_kept (c : Nat) (p : Prob) (src : Nat) (rs : List (Nat × Nat)) (s : State) : frozen (coeffReads c p src rs s) = frozen s := by
  unfold coeffReads; (try dsimp only); (repeat' split) <;> (first | (simp [*]; done) | (simp_all; done) | (apply foldl_kept; intro s a; (repeat' split) <;> (first | (simp [*]; done) | (simp_all; done))))

@[simp] theorem stageTile_kept (c : Nat) (p : Prob) (t : Nat × Nat) (s : State) : frozen (stageTile c p t s) = frozen s := by
  unfold stageTile; simp [foldl_kept, foldl2_kept, foldl3_kept, foldlS_kept]

@[simp] theorem stagedRead_kept (c : Nat) (p : Prob) (t : Nat × Nat × Nat) (s : State) : frozen (stagedRead c p t s) = frozen s := by
  first | (simp [stagedRead]; done) | (unfold stagedRead; simp [foldl_kept, foldl2_kept, foldl3_kept, foldlS_kept]; done) | (unfold stagedRead; (try dsimp only); (repeat' split) <;> (first | (simp [*, foldl_kept, foldl2_kept, foldl3_kept, foldlS_kept]; done) | (simp_all [foldl_kept, foldl2_kept, foldl3_kept, foldlS_kept]; done)))

@[simp] theorem partReads_kept (c : Nat) (p : Prob) (ts : List (Nat × Nat × Nat)) (s : State) : frozen (partReads c p ts s) = frozen s := by
  unfold partReads; simp [foldl_kept, foldl2_kept, foldl3_kept, foldlS_kept]

@[simp] theorem tileReads_kept (c : Nat) (p : Prob) (ts : List (Nat × Nat)) (s : State) : frozen (tileReads c p ts s) = frozen s := by
  simp [tileReads]

@[simp] theorem tableReads_kept (c : Nat) (p : Prob) (es : List Nat) (s : State) : frozen (tableReads c p es s) = frozen s := by
  simp [tableReads]

@[simp] theorem rowReads_kept (c : Nat) (p : Prob) (e i : Nat) (s : State) : frozen (rowReads c p e i s) = frozen s := by
  simp [rowReads]

@[simp] theorem recomputeRow_kept (c e i w : Nat) (a : Anneal) (s : State) : frozen (recomputeRow c e i w a s) = frozen s := by
  simp [recomputeRow]

@[simp] theorem recoverField_kept (c e w : Nat) (s : State) : frozen (recoverField c e w s) = frozen s := by
  unfold recoverField; rw [recovering_kept]; intro x k s; split
  · rfl
  · rw [recomputeRow_kept]

@[simp] theorem fieldReads_kept (c : Nat) (p : Prob) (es : List Nat) (s : State) : frozen (fieldReads c p es s) = frozen s := by
  unfold fieldReads; apply foldl_kept; intro s a; (try dsimp only); (repeat' split) <;> simp

@[simp] theorem wordReads_kept (c : Nat) (rs : List (Nat × Nat)) (s : State) : frozen (wordReads c rs s).2 = frozen s := by
  unfold wordReads; dsimp only; rw [foldl2_kept]; intro s a; (repeat' split) <;> simp

@[simp] theorem recoverRun_kept (c w : Nat) (s : State) : frozen (recoverRun c w s) = frozen s := by
  unfold recoverRun; rw [recovering_kept]; intro x k s; split
  · rfl
  · rw [resumeRun_kept, noteRecompute_kept]

@[simp] theorem recoverPhase_kept (c w : Nat) (s : State) : frozen (recoverPhase c w s) = frozen s := by
  unfold recoverPhase; rw [recovering_kept]; intro x k s; rw [whileOn_kept]; intro s; simp

@[simp] theorem accWrites_kept (off n : Nat) (s : State) (e : Nat) : frozen (accWrites off n s e) = frozen s := by
  first | (simp [accWrites]; done) | (unfold accWrites; simp [foldl_kept, foldl2_kept, foldl3_kept, foldlS_kept]; done) | (unfold accWrites; (try dsimp only); (repeat' split) <;> (first | (simp [*, foldl_kept, foldl2_kept, foldl3_kept, foldlS_kept]; done) | (simp_all [foldl_kept, foldl2_kept, foldl3_kept, foldlS_kept]; done)))

@[simp] theorem readsOr_kept (f : Nat → State → State) (r : Option Nat × State) (hf : ∀ w s, frozen (f w s) = frozen s) :
    frozen (readsOr f r).2 = frozen r.2 := by
  unfold readsOr; split
  · rfl
  · exact hf _ _

@[simp] theorem accPass_kept (c : Nat) (es : List Nat) (off n : Nat) (s : State) : frozen (accPass c es off n s).2 = frozen s := by
  unfold accPass; split
  · rfl
  · rw [readsOr_kept _ _ (fun _ _ => recoverPhase_kept _ _ _), wordReads_kept, foldl_kept]; intro s e; simp

@[simp] theorem stageIncr_kept (c : Nat) (p : Prob) (s : State) : frozen (stageIncr c p s).2 = frozen s := by
  unfold stageIncr; dsimp only
  rw [readsOr_kept _ _ (fun _ _ => recoverPhase_kept _ _ _), wordReads_kept, foldl_kept]
  intro s r; simp

@[simp] theorem runReads_kept (c : Nat) (a : Anneal) (s : State) : frozen (runReads c a s).2 = frozen s := by
  simp [runReads]

@[simp] theorem formReads_kept (c : Nat) (p : Prob) (g : Nat) (again : Bool) (s : State) : frozen (formReads c p g again s) = frozen s := by
  simp [formReads]

@[simp] theorem formKey_kept (c key : Nat) (again : Bool) (s : State) : frozen (formKey c key again s) = frozen s := by
  unfold formKey; (repeat' split) <;> (first | (simp [*, foldl_kept, foldl2_kept, foldl3_kept, foldlS_kept]; done) | (simp_all [foldl_kept, foldl2_kept, foldl3_kept, foldlS_kept]; done))

@[simp] theorem reuseKey_kept (c e : Nat) (k : Kept) (s : State) : frozen (reuseKey c e k s) = frozen s := by
  unfold reuseKey; dsimp only; split
  · simp
  · rw [recovering_kept]
    · simp
    · intro x k s; rw [whileOn_kept]; intro s; simp

@[simp] theorem useKey_kept (c key : Nat) (s : State) : frozen (useKey c key s) = frozen s := by
  unfold useKey; (try dsimp only); (repeat' split) <;> (first | (simp [*, foldl_kept, foldl2_kept, foldl3_kept, foldlS_kept]; done) | (simp_all [foldl_kept, foldl2_kept, foldl3_kept, foldlS_kept]; done))

@[simp] theorem formTiles_kept (c : Nat) (a : Anneal) (chooser : Bool) (s : State) : frozen (formTiles c a chooser s) = frozen s := by
  unfold formTiles; simp [foldl_kept, foldl2_kept, foldl3_kept, foldlS_kept]

@[simp] theorem deliver_kept (e : Nat) (b : List Byte) (s : State) : frozen (deliver e b s) = frozen s := by
  unfold deliver; simp [foldl_kept, foldl2_kept, foldl3_kept, foldlS_kept]

@[simp] theorem gatherSeg_kept (c : Nat) (a : Anneal) (g : Nat) (s : State) : frozen (gatherSeg c a g s) = frozen s := by
  simp [gatherSeg]

@[simp] theorem workWrites_kept (a : Anneal) (s : State) : frozen (workWrites a s) = frozen s := by
  unfold workWrites; simp [foldl_kept, foldl2_kept, foldl3_kept, foldlS_kept]

@[simp] theorem phaseReads_kept (c : Nat) (a : Anneal) (s : State) : frozen (phaseReads c a s).2 = frozen s := by
  simp [phaseReads]

@[simp] theorem recordReads_kept (c : Nat) (a : Anneal) (s : State) : frozen (recordReads c a s).2 = frozen s := by
  simp [recordReads]

@[simp] theorem recoverHalf_kept (x : Ctx) (a : Anneal) (e w : Nat) (s : State) : frozen (recoverHalf x a e w s) = frozen s := by
  unfold recoverHalf; (try dsimp only); (repeat' split) <;> (first | (simp [*, foldl_kept, foldl2_kept, foldl3_kept, foldlS_kept]; done) | (simp_all [foldl_kept, foldl2_kept, foldl3_kept, foldlS_kept]; done))

@[simp] theorem recoverSram_kept (x : Ctx) (e w : Nat) (s : State) : frozen (recoverSram x e w s) = frozen s := by
  unfold recoverSram; (repeat' split) <;> (first | (simp [*, foldl_kept, foldl2_kept, foldl3_kept, foldlS_kept]; done) | (simp_all [foldl_kept, foldl2_kept, foldl3_kept, foldlS_kept]; done))

@[simp] theorem takeCtx_kept (q : Nat) (shared : Bool) (slot : Nat) (origin : Origin) (desc : List Byte) (s : State) : frozen (takeCtx q shared slot origin desc s) = frozen s := by
  simp [takeCtx]

@[simp] theorem fetchFrom_kept (q : Nat) (rs : List Cpl) (s : State) : frozen (fetchFrom q rs s) = frozen s := by
  unfold fetchFrom; (try dsimp only); (repeat' split) <;> (first | (simp [*, foldl_kept, foldl2_kept, foldl3_kept, foldlS_kept]; done) | (simp_all [foldl_kept, foldl2_kept, foldl3_kept, foldlS_kept]; done))

@[simp] theorem startWaits_kept (c : Nat) (s : State) : frozen (startWaits c s) = frozen s := by
  simp [startWaits]

@[simp] theorem enterWaiting_kept (c : Nat) (s : State) : frozen (enterWaiting c s) = frozen s := by
  unfold enterWaiting; (repeat' split) <;> (first | (simp [*, foldl_kept, foldl2_kept, foldl3_kept, foldlS_kept]; done) | (simp_all [foldl_kept, foldl2_kept, foldl3_kept, foldlS_kept]; done))

@[simp] theorem takeArgs_kept (c : Nat) (b : List Byte) (s : State) : frozen (takeArgs c b s) = frozen s := by
  unfold takeArgs; (repeat' split) <;> (first | (simp [*, foldl_kept, foldl2_kept, foldl3_kept, foldlS_kept]; done) | (simp_all [foldl_kept, foldl2_kept, foldl3_kept, foldlS_kept]; done))

@[simp] theorem takeBlock_kept (c : Nat) (b : List Byte) (s : State) : frozen (takeBlock c b s) = frozen s := by
  simp [takeBlock]

@[simp] theorem argBlock_kept (x : Ctx) (a : Nat) (ranges : List (Nat × Nat)) (rs : List Cpl) (s : State) : frozen (argBlock x a ranges rs s).2 = frozen s := by
  first | (simp [argBlock]; done) | (unfold argBlock; simp [foldl_kept, foldl2_kept, foldl3_kept, foldlS_kept]; done) | (unfold argBlock; (try dsimp only); (repeat' split) <;> (first | (simp [*, foldl_kept, foldl2_kept, foldl3_kept, foldlS_kept]; done) | (simp_all [foldl_kept, foldl2_kept, foldl3_kept, foldlS_kept]; done)))

@[simp] theorem readArgs_kept (c : Nat) (rs : List Cpl) (s : State) : frozen (readArgs c rs s) = frozen s := by
  unfold readArgs; (try dsimp only); (repeat' split) <;> (first | (simp [*, foldl_kept, foldl2_kept, foldl3_kept, foldlS_kept]; done) | (simp_all [foldl_kept, foldl2_kept, foldl3_kept, foldlS_kept]; done))

@[simp] theorem notePoll_kept (c w : Nat) (s : State) : frozen (notePoll c w s) = frozen s := by
  simp [notePoll]

@[simp] theorem pollWait_kept (c w : Nat) (rs : List Cpl) (s : State) : frozen (pollWait c w rs s) = frozen s := by
  unfold pollWait; (try dsimp only); (repeat' split) <;> (first | (simp [*, foldl_kept, foldl2_kept, foldl3_kept, foldlS_kept]; done) | (simp_all [foldl_kept, foldl2_kept, foldl3_kept, foldlS_kept]; done))

@[simp] theorem stallFire_kept (s : State) : frozen (stallFire s) = frozen s := by
  unfold stallFire; (repeat' split) <;> (first | (simp [*, foldl_kept, foldl2_kept, foldl3_kept, foldlS_kept]; done) | (simp_all [foldl_kept, foldl2_kept, foldl3_kept, foldlS_kept]; done))

@[simp] theorem abortCtx_kept (c : Nat) (s : State) : frozen (abortCtx c s) = frozen s := by
  unfold abortCtx; (repeat' split) <;> (first | (simp [*, foldl_kept, foldl2_kept, foldl3_kept, foldlS_kept]; done) | (simp_all [foldl_kept, foldl2_kept, foldl3_kept, foldlS_kept]; done))

@[simp] theorem abortWhere_kept (p : Ctx → Bool) (s : State) : frozen (abortWhere p s) = frozen s := by
  unfold abortWhere; simp [foldl_kept, foldl2_kept, foldl3_kept, foldlS_kept]

@[simp] theorem abortWrite_kept (v : Nat) (s : State) : frozen (abortWrite v s) = frozen s := by
  simp [abortWrite]

@[simp] theorem beginWork_kept (c : Nat) (life : Life) (s : State) : frozen (beginWork c life s) = frozen s := by
  simp [beginWork]

@[simp] theorem makeReady_kept (c : Nat) (s : State) : frozen (makeReady c s) = frozen s := by
  simp [makeReady]

@[simp] theorem readImage_kept (x : Ctx) (rs : List Cpl) (s : State) : frozen (readImage x rs s).2 = frozen s := by
  unfold readImage; (try dsimp only); (repeat' split) <;> (first | (simp [*, foldl_kept, foldl2_kept, foldl3_kept, foldlS_kept]; done) | (simp_all [foldl_kept, foldl2_kept, foldl3_kept, foldlS_kept]; done))

@[simp] theorem writeParts_kept (ps : List (Nat × Nat)) (b : List Byte) (s : State) : frozen (writeParts ps b s) = frozen s := by
  first | (simp [writeParts]; done) | (unfold writeParts; simp [foldl_kept, foldl2_kept, foldl3_kept, foldlS_kept]; done) | (unfold writeParts; (try dsimp only); (repeat' split) <;> (first | (simp [*, foldl_kept, foldl2_kept, foldl3_kept, foldlS_kept]; done) | (simp_all [foldl_kept, foldl2_kept, foldl3_kept, foldlS_kept]; done)))

@[simp] theorem placeConstants_kept (img : List Byte) (ms : List (List (Nat × Nat))) (s : State) : frozen (placeConstants img ms s) = frozen s := by
  unfold placeConstants; simp [foldl_kept, foldl2_kept, foldl3_kept, foldlS_kept]

@[simp] theorem installEntry_kept (c : Nat) (rs : List Cpl) (s : State) : frozen (installEntry c rs s) = frozen s := by
  unfold installEntry; (try dsimp only); (repeat' split) <;> (first | (simp [*, foldl_kept, foldl2_kept, foldl3_kept, foldlS_kept]; done) | (simp_all [foldl_kept, foldl2_kept, foldl3_kept, foldlS_kept]; done))

@[simp] theorem removeEntry_kept (c : Nat) (s : State) : frozen (removeEntry c s) = frozen s := by
  unfold removeEntry; (repeat' split) <;> (first | (simp [*, foldl_kept, foldl2_kept, foldl3_kept, foldlS_kept]; done) | (simp_all [foldl_kept, foldl2_kept, foldl3_kept, foldlS_kept]; done))

@[simp] theorem removeDone_kept (c : Nat) (s : State) : frozen (removeDone c s) = frozen s := by
  unfold removeDone; (repeat' split) <;> (first | (simp [*, foldl_kept, foldl2_kept, foldl3_kept, foldlS_kept]; done) | (simp_all [foldl_kept, foldl2_kept, foldl3_kept, foldlS_kept]; done))

@[simp] theorem startBuffer_kept (c : Nat) (b : List Byte) (s : State) : frozen (startBuffer c b s) = frozen s := by
  simp [startBuffer]

@[simp] theorem bufferEntry_kept (c : Nat) (rs : List Cpl) (s : State) : frozen (bufferEntry c rs s) = frozen s := by
  unfold bufferEntry; (try dsimp only); (repeat' split) <;> (first | (simp [*, foldl_kept, foldl2_kept, foldl3_kept, foldlS_kept]; done) | (simp_all [foldl_kept, foldl2_kept, foldl3_kept, foldlS_kept]; done))

@[simp] theorem startEntry_kept (b i : Nat) (s : State) : frozen (startEntry b i s) = frozen s := by
  unfold startEntry; (try dsimp only); (repeat' split) <;> (first | (simp [*, foldl_kept, foldl2_kept, foldl3_kept, foldlS_kept]; done) | (simp_all [foldl_kept, foldl2_kept, foldl3_kept, foldlS_kept]; done))

@[simp] theorem noteCheckFail_kept (p e instr vec : Nat) (s : State) : frozen (noteCheckFail p e instr vec s) = frozen s := by
  simp [noteCheckFail]

@[simp] theorem updTile_kept (p : Nat) (f : TileSt → TileSt) (s : State) : frozen (updTile p f s) = frozen s := by
  simp [updTile]

@[simp] theorem copyBlock_kept (c : Option Nat) (src dst : Nat) (a : List Nat × State) : frozen (copyBlock c src dst a).2 = frozen a.2 := by
  unfold copyBlock; dsimp only
  rw [frozen_mk, frozen_fold, armRun_kept, frozen_mk, frozen_fold, noteWritten_kept, foldl2_kept]
  intro s a; (repeat' split) <;> simp

@[simp] theorem copyRegion_kept (c : Option Nat) (p q : Nat) (s : State) : frozen (copyRegion c p q s).2 = frozen s := by
  unfold copyRegion; rw [foldl2_kept]; intro s a; simp

@[simp] theorem adoptConst_kept (w : Nat) (s : State) : frozen (adoptConst w s) = frozen s := by
  first | (simp [adoptConst]; done) | (unfold adoptConst; simp [foldl_kept, foldl2_kept, foldl3_kept, foldlS_kept]; done) | (unfold adoptConst; (try dsimp only); (repeat' split) <;> (first | (simp [*, foldl_kept, foldl2_kept, foldl3_kept, foldlS_kept]; done) | (simp_all [foldl_kept, foldl2_kept, foldl3_kept, foldlS_kept]; done)))

@[simp] theorem adoptWord_kept (e w : Nat) (s : State) : frozen (adoptWord e w s) = frozen s := by
  unfold adoptWord; (try dsimp only); (repeat' split) <;> (first | (simp [*, foldl_kept, foldl2_kept, foldl3_kept, foldlS_kept]; done) | (simp_all [foldl_kept, foldl2_kept, foldl3_kept, foldlS_kept]; done))

@[simp] theorem substitute_kept (c : Option Nat) (p q e : Nat) (s : State) : frozen (substitute c p q e s) = frozen s := by
  unfold substitute; simp [foldl_kept, foldl2_kept, foldl3_kept, foldlS_kept]

@[simp] theorem retireTile_kept (c : Option Nat) (p cause : Nat) (s : State) : frozen (retireTile c p cause s) = frozen s := by
  unfold retireTile; (try dsimp only); (repeat' split) <;> (first | (simp [*, foldl_kept, foldl2_kept, foldl3_kept, foldlS_kept]; done) | (simp_all [foldl_kept, foldl2_kept, foldl3_kept, foldlS_kept]; done))

@[simp] theorem failTile_kept (c p cause : Nat) (k : Cause) (s : State) : frozen (failTile c p cause k s) = frozen s := by
  simp [failTile]

@[simp] theorem checkOutcome_kept (c e instr vec : Nat) (recovers : Bool) (s : State) : frozen (checkOutcome c e instr vec recovers s).2 = frozen s := by
  unfold checkOutcome; (repeat' split) <;> (first | (simp [*, foldl_kept, foldl2_kept, foldl3_kept, foldlS_kept]; done) | (simp_all [foldl_kept, foldl2_kept, foldl3_kept, foldlS_kept]; done))

@[simp] theorem tileFails_kept (c e : Nat) (s : State) : frozen (tileFails c e s) = frozen s := by
  first | (simp [tileFails]; done) | (unfold tileFails; simp [foldl_kept, foldl2_kept, foldl3_kept, foldlS_kept]; done) | (unfold tileFails; (try dsimp only); (repeat' split) <;> (first | (simp [*, foldl_kept, foldl2_kept, foldl3_kept, foldlS_kept]; done) | (simp_all [foldl_kept, foldl2_kept, foldl3_kept, foldlS_kept]; done)))

@[simp] theorem failLater_kept (c e instr vec : Nat) (s : State) : frozen (failLater c e instr vec s) = frozen s := by
  first | (simp [failLater]; done) | (unfold failLater; simp [foldl_kept, foldl2_kept, foldl3_kept, foldlS_kept]; done) | (unfold failLater; (try dsimp only); (repeat' split) <;> (first | (simp [*, foldl_kept, foldl2_kept, foldl3_kept, foldlS_kept]; done) | (simp_all [foldl_kept, foldl2_kept, foldl3_kept, foldlS_kept]; done)))

@[simp] theorem replaceTiles_kept (c : Nat) (s : State) : frozen (replaceTiles c s) = frozen s := by
  first | (simp [replaceTiles]; done) | (unfold replaceTiles; simp [foldl_kept, foldl2_kept, foldl3_kept, foldlS_kept]; done) | (unfold replaceTiles; (try dsimp only); (repeat' split) <;> (first | (simp [*, foldl_kept, foldl2_kept, foldl3_kept, foldlS_kept]; done) | (simp_all [foldl_kept, foldl2_kept, foldl3_kept, foldlS_kept]; done)))

@[simp] theorem retireOrphan_kept (e : Nat) (s : State) : frozen (retireOrphan e s) = frozen s := by
  first | (simp [retireOrphan]; done) | (unfold retireOrphan; simp [foldl_kept, foldl2_kept, foldl3_kept, foldlS_kept]; done) | (unfold retireOrphan; (try dsimp only); (repeat' split) <;> (first | (simp [*, foldl_kept, foldl2_kept, foldl3_kept, foldlS_kept]; done) | (simp_all [foldl_kept, foldl2_kept, foldl3_kept, foldlS_kept]; done)))

@[simp] theorem substDone_kept (e : Nat) (s : State) : frozen (substDone e s) = frozen s := by
  unfold substDone; (try dsimp only); (repeat' split) <;> (first | (simp [*]; done) | (simp_all; done) | (apply foldl_kept; intro s a; (repeat' split) <;> (first | (simp [*]; done) | (simp_all; done))))

@[simp] theorem repairWrite_kept (s : State) : frozen (repairWrite s) = frozen s := by
  unfold repairWrite; (repeat' split) <;> (first | (simp [*, foldl_kept, foldl2_kept, foldl3_kept, foldlS_kept]; done) | (simp_all [foldl_kept, foldl2_kept, foldl3_kept, foldlS_kept]; done))

@[simp] theorem selfTest_kept (p n : Nat) (s : State) : frozen (selfTest p n s).2 = frozen s := by
  simp [selfTest]

@[simp] theorem testedTile_kept (p n cause : Nat) (s : State) : frozen (testedTile p n cause s) = frozen s := by
  unfold testedTile; (try dsimp only); (repeat' split) <;> (first | (simp [*, foldl_kept, foldl2_kept, foldl3_kept, foldlS_kept]; done) | (simp_all [foldl_kept, foldl2_kept, foldl3_kept, foldlS_kept]; done))

@[simp] theorem selftestEntry_kept (c n : Nat) (s : State) : frozen (selftestEntry c n s) = frozen s := by
  unfold selftestEntry; (repeat' split) <;> (first | (simp [*, foldl_kept, foldl2_kept, foldl3_kept, foldlS_kept]; done) | (simp_all [foldl_kept, foldl2_kept, foldl3_kept, foldlS_kept]; done))

@[simp] theorem storePass_kept (u : Cursor) (o : StreamOp) (isInt : Bool) (rs : List PassOut) (s : State) : frozen (storePass u o isInt rs s) = frozen s := by
  simp [storePass]

@[simp] theorem streamPass_kept (c : Ctx) (u : Cursor) (o : StreamOp) (a : Nat) (t : Tile) (up : Option (Nat × Bool)) (s : State) : frozen (streamPass c u o a t up s) = frozen s := by
  unfold streamPass; (try dsimp only); (repeat' split) <;> (first | (simp [*, foldl_kept, foldl2_kept, foldl3_kept, foldlS_kept]; done) | (simp_all [foldl_kept, foldl2_kept, foldl3_kept, foldlS_kept]; done))

@[simp] theorem drainSlot_kept (c : Ctx) (u : Cursor) (dst : Nat) (o : DrainOp) (r : SlotRec) (s : State) : frozen (drainSlot c u dst o r s) = frozen s := by
  simp [drainSlot]

@[simp] theorem pdrainSlot_kept (c : Ctx) (u : Cursor) (a : Nat) (o : PdrainOp) (s : State) : frozen (pdrainSlot c u a o s) = frozen s := by
  simp [pdrainSlot]

@[simp] theorem preloadSlot_kept (u : Cursor) (o : PreloadOp) (a : Nat) (s : State) : frozen (preloadSlot u o a s) = frozen s := by
  simp [preloadSlot]

@[simp] theorem vopRun_kept (c : Ctx) (u : Cursor) (d : Nat) (o : VopOp) (s : State) : frozen (vopRun c u d o s) = frozen s := by
  simp [vopRun]

@[simp] theorem vcvtRun_kept (c : Ctx) (u : Cursor) (d : Nat) (o : VcvtOp) (s : State) : frozen (vcvtRun c u d o s) = frozen s := by
  simp [vcvtRun]

@[simp] theorem pbuildStore_kept (kind d : Nat) (ts : List Int) (s : State) : frozen (pbuildStore kind d ts s) = frozen s := by
  unfold pbuildStore; (repeat' split) <;> (first | (simp [*, foldl_kept, foldl2_kept, foldl3_kept, foldlS_kept]; done) | (simp_all [foldl_kept, foldl2_kept, foldl3_kept, foldlS_kept]; done))

@[simp] theorem pbuildRun_kept (c : Ctx) (u : Cursor) (a : Nat) (o : PbuildOp) (s : State) : frozen (pbuildRun c u a o s) = frozen s := by
  simp [pbuildRun]

@[simp] theorem packageReads_kept (s : State) (x : Ctx) (p : Option Prob) : frozen (packageReads s x p).2 = frozen s := by
  first | (simp [packageReads]; done) | (unfold packageReads; simp [foldl_kept, foldl2_kept, foldl3_kept, foldlS_kept]; done) | (unfold packageReads; (try dsimp only); (repeat' split) <;> (first | (simp [*, foldl_kept, foldl2_kept, foldl3_kept, foldlS_kept]; done) | (simp_all [foldl_kept, foldl2_kept, foldl3_kept, foldlS_kept]; done)))

@[simp] theorem placeRange_kept (s : State) (r : Nat × Nat × List (Nat × Byte)) : frozen (placeRange s r) = frozen s := by
  unfold placeRange; simp [foldl_kept, foldl2_kept, foldl3_kept, foldlS_kept]

@[simp] theorem placeRanges_kept (l : List (Nat × Nat × List (Nat × Byte))) (s : State) : frozen (placeRanges l s) = frozen s := by
  unfold placeRanges; simp [foldl_kept, foldl2_kept, foldl3_kept, foldlS_kept]

@[simp] theorem updMirror_kept (dev run : Nat) (f : Mirror → Mirror) (s : State) : frozen (updMirror dev run f s) = frozen s := by
  simp [updMirror]

@[simp] theorem mirrorPiece_kept (m : Mirror) (i : InMsg) (s : State) : frozen (mirrorPiece m i s) = frozen s := by
  first | (simp [mirrorPiece]; done) | (unfold mirrorPiece; simp [foldl_kept, foldl2_kept, foldl3_kept, foldlS_kept]; done) | (unfold mirrorPiece; (try dsimp only); (repeat' split) <;> (first | (simp [*, foldl_kept, foldl2_kept, foldl3_kept, foldlS_kept]; done) | (simp_all [foldl_kept, foldl2_kept, foldl3_kept, foldlS_kept]; done)))

@[simp] theorem earlyPieces_kept (dev run : Nat) (s : State) : frozen (earlyPieces dev run s) = frozen s := by
  unfold earlyPieces; dsimp only; rw [foldl_kept]
  · simp
  · intro s a; split <;> simp

@[simp] theorem takeOffer_kept (dev run img pkg ck : Nat) (live : List Nat) (s : State) : frozen (takeOffer dev run img pkg ck live s) = frozen s := by
  unfold takeOffer; (try dsimp only); (repeat' split) <;> (first | (simp [*, foldl_kept, foldl2_kept, foldl3_kept, foldlS_kept]; done) | (simp_all [foldl_kept, foldl2_kept, foldl3_kept, foldlS_kept]; done))

@[simp] theorem mirrorMessage_kept (i : InMsg) (s : State) : frozen (mirrorMessage i s).2 = frozen s := by
  unfold mirrorMessage; (try dsimp only); (repeat' split) <;> (first | (simp [*, foldl_kept, foldl2_kept, foldl3_kept, foldlS_kept]; done) | (simp_all [foldl_kept, foldl2_kept, foldl3_kept, foldlS_kept]; done))

@[simp] theorem sendPieces_kept (run h kind num : Nat) (b : List Byte) (s : State) : frozen (sendPieces run h kind num b s) = frozen s := by
  unfold sendPieces; simp [foldl_kept, foldl2_kept, foldl3_kept, foldlS_kept]

@[simp] theorem sendOffer_kept (run h img pkg ck : Nat) (s : State) : frozen (sendOffer run h img pkg ck s) = frozen s := by
  simp [sendOffer]

@[simp] theorem askAgain_kept (dev run old : Nat) (all : Bool) (s : State) : frozen (askAgain dev run old all s) = frozen s := by
  first | (simp [askAgain]; done) | (unfold askAgain; simp [foldl_kept, foldl2_kept, foldl3_kept, foldlS_kept]; done) | (unfold askAgain; (try dsimp only); (repeat' split) <;> (first | (simp [*, foldl_kept, foldl2_kept, foldl3_kept, foldlS_kept]; done) | (simp_all [foldl_kept, foldl2_kept, foldl3_kept, foldlS_kept]; done)))

@[simp] theorem rebuildMirror_kept (w : Nat) (s : State) : frozen (rebuildMirror w s) = frozen s := by
  first | (simp [rebuildMirror]; done) | (unfold rebuildMirror; simp [foldl_kept, foldl2_kept, foldl3_kept, foldlS_kept]; done) | (unfold rebuildMirror; (try dsimp only); (repeat' split) <;> (first | (simp [*, foldl_kept, foldl2_kept, foldl3_kept, foldlS_kept]; done) | (simp_all [foldl_kept, foldl2_kept, foldl3_kept, foldlS_kept]; done)))

@[simp] theorem spanSum_kept (c : Nat) (v : List Int) (s : State) : frozen (spanSum c v s).2 = frozen s := by
  simp [spanSum]

@[simp] theorem farmGather_kept (c : Nat) (v : List Int) (s : State) : frozen (farmGather c v s).2 = frozen s := by
  simp [farmGather]

@[simp] theorem ploadFails_kept (c : Nat) (l : Loc) (s : State) : frozen (ploadFails c l s) = frozen s := by
  simp [ploadFails]

@[simp] theorem ploadShare_kept (c : Nat) (x : Ctx) (m : MdRun) (o : PloadOp) (p : Prob) (own : List (List Nat)) (s : State) : frozen (ploadShare c x m o p own s) = frozen s := by
  unfold ploadShare; simp [foldl_kept, foldl2_kept, foldl3_kept, foldlS_kept]

@[simp] theorem dropShares_kept (m : MdRun) (s : State) : frozen (dropShares m s) = frozen s := by
  unfold dropShares; simp [foldl_kept, foldl2_kept, foldl3_kept, foldlS_kept]

@[simp] theorem loadCombine_kept (c : Nat) (v : List Int) (s : State) : frozen (loadCombine c v s).2 = frozen s := by
  first | (simp [loadCombine]; done) | (unfold loadCombine; simp [foldl_kept, foldl2_kept, foldl3_kept, foldlS_kept]; done) | (unfold loadCombine; (try dsimp only); (repeat' split) <;> (first | (simp [*, foldl_kept, foldl2_kept, foldl3_kept, foldlS_kept]; done) | (simp_all [foldl_kept, foldl2_kept, foldl3_kept, foldlS_kept]; done)))

@[simp] theorem placeProblem_kept (c : Nat) (p : Prob) (s : State) : frozen (placeProblem c p s) = frozen s := by
  unfold placeProblem; simp [foldl_kept, foldl2_kept, foldl3_kept, foldlS_kept]

@[simp] theorem formRun_kept (c : Nat) (x : Ctx) (o : PloadOp) (p : Prob) (spins : List (List Nat)) (norm : Nat) (sums : List Int) (s : State) : frozen (formRun c x o p spins norm sums s) = frozen s := by
  simp [formRun]

theorem ploadWaits_kept (c : Nat) (x : Ctx) (o : PloadOp) (p : Prob) (spins : List (List Nat)) (s t : State) (h : ploadWaits c x o p spins s = some t) :
    frozen t = frozen s := by
  unfold ploadWaits at h; repeat' split at h
  all_goals first | (injection h with h; subst h; simp; done) | simp at h

@[simp] theorem ploadPlace_kept (c : Nat) (x : Ctx) (o : PloadOp) (p : Prob) (spins : List (List Nat)) (norm : Nat) (sums : List Int) (s : State) : frozen (ploadPlace c x o p spins norm sums s) = frozen s := by
  simp [ploadPlace]

@[simp] theorem ploadDrop_kept (x : Ctx) (s : State) : frozen (ploadDrop x s) = frozen s := by
  unfold ploadDrop; (repeat' split) <;> (first | (simp [*, foldl_kept, foldl2_kept, foldl3_kept, foldlS_kept]; done) | (simp_all [foldl_kept, foldl2_kept, foldl3_kept, foldlS_kept]; done))

@[simp] theorem ploadGo_kept (c : Nat) (x : Ctx) (o : PloadOp) (p : Prob) (spins : List (List Nat)) (norm : Nat)
    (bad : Option Nat) (r : Option (List Int) × State) : frozen (ploadGo c x o p spins norm bad r) = frozen r.2 := by
  unfold ploadGo; split
  · rfl
  · split <;> simp

theorem ploadShared_kept (c : Nat) (x : Ctx) (o : PloadOp) (p : Prob) (own : List (List Nat) × Nat) (w : Option State) (s : State)
    (h : ∀ t, w = some t → frozen t = frozen s) : frozen (ploadShared c x o p own w s) = frozen s := by
  cases w with
  | some t => exact h t rfl
  | none => unfold ploadShared; dsimp only; rw [ploadGo_kept, loadCombine_kept]

@[simp] theorem ploadChecked_kept (c : Nat) (x : Ctx) (o : PloadOp) (r : Except Loc Prob) (s : State) :
    frozen (ploadChecked c x o r s) = frozen s := by
  cases r with
  | error l => unfold ploadChecked; dsimp only; rw [ploadFails_kept]
  | ok p => unfold ploadChecked; dsimp only; rw [ploadShared_kept]; intro t h; exact ploadWaits_kept _ _ _ _ _ _ _ h

@[simp] theorem ploadBegin_kept (c : Nat) (x : Ctx) (o : PloadOp) (s : State) : frozen (ploadBegin c x o s) = frozen s := by
  simp [ploadBegin]

@[simp] theorem sendMirror_kept (c : Nat) (s : State) : frozen (sendMirror c s) = frozen s := by
  unfold sendMirror; (repeat' split) <;> (first | (simp [*, foldl_kept, foldl2_kept, foldl3_kept, foldlS_kept]; done) | (simp_all [foldl_kept, foldl2_kept, foldl3_kept, foldlS_kept]; done))

@[simp] theorem ploadEnd_kept (c : Nat) (all : List TopEntry) (s : State) : frozen (ploadEnd c all s) = frozen s := by
  simp [ploadEnd]

@[simp] theorem ploadFinish_kept (c : Nat) (a : Anneal) (s : State) : frozen (ploadFinish c a s) = frozen s := by
  unfold ploadFinish; (try dsimp only); (repeat' split) <;> (first | (simp [*, foldl_kept, foldl2_kept, foldl3_kept, foldlS_kept]; done) | (simp_all [foldl_kept, foldl2_kept, foldl3_kept, foldlS_kept]; done))

@[simp] theorem ploadOffers_kept (c : Nat) (s : State) : frozen (ploadOffers c s) = frozen s := by
  unfold ploadOffers; (try dsimp only); (repeat' split) <;> (first | (simp [*, foldl_kept, foldl2_kept, foldl3_kept, foldlS_kept]; done) | (simp_all [foldl_kept, foldl2_kept, foldl3_kept, foldlS_kept]; done))

@[simp] theorem ploadStep_kept (c : Nat) (o : PloadOp) (x : Ctx) (s : State) : frozen (ploadStep c o x s) = frozen s := by
  unfold ploadStep; (try dsimp only); (repeat' split) <;> (first | (simp [*, foldl_kept, foldl2_kept, foldl3_kept, foldlS_kept]; done) | (simp_all [foldl_kept, foldl2_kept, foldl3_kept, foldlS_kept]; done))

@[simp] theorem gatherGo_kept (c : Nat) (a : Anneal) (s : State) : frozen (gatherGo c a s) = frozen s := by
  unfold gatherGo; (try dsimp only); (repeat' split) <;> (first | (simp [*, foldl_kept, foldl2_kept, foldl3_kept, foldlS_kept]; done) | (simp_all [foldl_kept, foldl2_kept, foldl3_kept, foldlS_kept]; done))

@[simp] theorem gatherStep_kept (c : Nat) (a : Anneal) (s : State) : frozen (gatherStep c a s) = frozen s := by
  simp [gatherStep]

@[simp] theorem setVisits_kept (c : Nat) (r : VisitsOut) (keys : List Nat) (pos : PhaseAt) (s : State) : frozen (setVisits c r keys pos s) = frozen s := by
  simp [setVisits]

@[simp] theorem checkEach_kept (c : Nat) (recovers : Bool) (us : List (Nat × Nat)) (s : State) : frozen (checkEach c recovers us s) = frozen s := by
  unfold checkEach; simp [foldl_kept, foldl2_kept, foldl3_kept, foldlS_kept]

@[simp] theorem failEach_kept (c : Nat) (us : List (Nat × Nat)) (s : State) : frozen (failEach c us s) = frozen s := by
  unfold failEach; simp [foldl_kept, foldl2_kept, foldl3_kept, foldlS_kept]

@[simp] theorem passCheck_kept (c : Nat) (known : Nat → Bool) (later : Bool) (us : List Upset) (s : State) : frozen (passCheck c known later us s).2 = frozen s := by
  simp [passCheck]

@[simp] theorem relaxPhase_kept (c : Nat) (a : Anneal) (us : List Upset) (s : State) : frozen (relaxPhase c a us s) = frozen s := by
  simp [relaxPhase]

@[simp] theorem choosePhase_kept (c : Nat) (a : Anneal) (us : List Upset) (s : State) : frozen (choosePhase c a us s) = frozen s := by
  simp [choosePhase]

@[simp] theorem pairAgrees_kept (c ei ej : Nat) (s : State) : frozen (pairAgrees c ei ej s) = frozen s := by
  simp [pairAgrees]

@[simp] theorem auditPair_kept (c : Nat) (p : Prob) (ts : List (Nat × Nat)) (s : State) : frozen (auditPair c p ts s) = frozen s := by
  unfold auditPair; refine foldl_kept _ _ _ ?_; intro s t; dsimp only
  refine (coeffReads_kept _ _ _ _ _).trans ?_
  split
  · exact stageTile_kept _ _ _ _
  · rfl

@[simp] theorem pairCheck_kept (c : Nat) (a : Anneal) (u : PairUpset) (s : State) : frozen (pairCheck c a u s) = frozen s := by
  have hn : ∀ (l : List Nat) (f : State → Nat → State), (∀ s e, frozen (f s e) = frozen s) → frozen (l.foldl f s) = frozen s :=
    fun l f h => foldl_kept f l s h
  have hb : ∀ (l : List Nat) (t : State), frozen (l.foldl (fun s e => if goesOn s c then tileFails c e s else s) t) = frozen t :=
    fun l t => foldl_kept _ l t (fun s e => by split <;> simp)
  unfold pairCheck; dsimp only
  split
  · rfl
  · split
    · rfl
    · split
      · rw [endWith_kept]; exact hn _ _ (fun s e => noteCheckFail_kept _ _ _ _ _)
      · rw [pairAgrees_kept]; exact hn _ _ (fun s e => noteCheckFail_kept _ _ _ _ _)
  · split
    · rfl
    · split
      · rw [endWith_kept]; exact hn _ _ (fun s e => noteCheckFail_kept _ _ _ _ _)
      · rw [updRun_kept, hb, auditPair_kept, foldl_kept _ _ _ (fun s e => noteCheckFail_kept _ _ _ _ _)]
        exact hn _ _ (fun s e => noteCheckFail_kept _ _ _ _ _)

@[simp] theorem pairsCheck_kept (c : Nat) (a : Anneal) (us : List PairUpset) (s : State) : frozen (pairsCheck c a us s).2 = frozen s := by
  first | (simp [pairsCheck]; done) | (unfold pairsCheck; simp [foldl_kept, foldl2_kept, foldl3_kept, foldlS_kept]; done) | (unfold pairsCheck; (try dsimp only); (repeat' split) <;> (first | (simp [*, foldl_kept, foldl2_kept, foldl3_kept, foldlS_kept]; done) | (simp_all [foldl_kept, foldl2_kept, foldl3_kept, foldlS_kept]; done)))

@[simp] theorem deliverRecords_kept (a : Anneal) (s : State) : frozen (deliverRecords a s) = frozen s := by
  unfold deliverRecords; simp [foldl_kept, foldl2_kept, foldl3_kept, foldlS_kept]

@[simp] theorem sendFree_kept (c : Nat) (x : Ctx) (s : State) : frozen (sendFree c x s) = frozen s := by
  unfold sendFree; (repeat' split) <;> (first | (simp [*, foldl_kept, foldl2_kept, foldl3_kept, foldlS_kept]; done) | (simp_all [foldl_kept, foldl2_kept, foldl3_kept, foldlS_kept]; done))

@[simp] theorem walkGo_kept (c : Nat) (x : Ctx) (a : Anneal) (s : State) : frozen (walkGo c x a s) = frozen s := by
  simp [walkGo]

@[simp] theorem redoVisits_kept (c : Nat) (a : Anneal) (s : State) : frozen (redoVisits c a s) = frozen s := by
  first | (simp [redoVisits]; done) | (unfold redoVisits; simp [foldl_kept, foldl2_kept, foldl3_kept, foldlS_kept]; done) | (unfold redoVisits; (try dsimp only); (repeat' split) <;> (first | (simp [*, foldl_kept, foldl2_kept, foldl3_kept, foldlS_kept]; done) | (simp_all [foldl_kept, foldl2_kept, foldl3_kept, foldlS_kept]; done)))

@[simp] theorem crossPass_kept (c : Nat) (a : Anneal) (us : List Upset) (s : State) : frozen (crossPass c a us s).2 = frozen s := by
  first | (simp [crossPass]; done) | (unfold crossPass; simp [foldl_kept, foldl2_kept, foldl3_kept, foldlS_kept]; done) | (unfold crossPass; (try dsimp only); (repeat' split) <;> (first | (simp [*, foldl_kept, foldl2_kept, foldl3_kept, foldlS_kept]; done) | (simp_all [foldl_kept, foldl2_kept, foldl3_kept, foldlS_kept]; done)))

@[simp] theorem rollcallGo_kept (c : Nat) (x : Ctx) (a : Anneal) (ps : List PairUpset) (s : State) : frozen (rollcallGo c x a ps s) = frozen s := by
  first | (simp [rollcallGo]; done) | (unfold rollcallGo; simp [foldl_kept, foldl2_kept, foldl3_kept, foldlS_kept]; done) | (unfold rollcallGo; (try dsimp only); (repeat' split) <;> (first | (simp [*, foldl_kept, foldl2_kept, foldl3_kept, foldlS_kept]; done) | (simp_all [foldl_kept, foldl2_kept, foldl3_kept, foldlS_kept]; done)))

@[simp] theorem rollcallPhase_kept (c : Nat) (x : Ctx) (a : Anneal) (us : List Upset) (ps : List PairUpset) (s : State) : frozen (rollcallPhase c x a us ps s) = frozen s := by
  simp [rollcallPhase]

@[simp] theorem saturate_kept (c phase : Nat) (s : State) : frozen (saturate c phase s) = frozen s := by
  simp [saturate]

@[simp] theorem discardPhase_kept (c phase : Nat) (s : State) : frozen (discardPhase c phase s) = frozen s := by
  simp [discardPhase]

@[simp] theorem fieldupReads_kept (c : Nat) (a : Anneal) (ds : List Delta) (s : State) : frozen (fieldupReads c a ds s) = frozen s := by
  simp [fieldupReads]

@[simp] theorem productsStand_kept (c : Nat) (a : Anneal) (ds : List Delta) (s : State) : frozen (productsStand c a ds s).2 = frozen s := by
  first | (simp [productsStand]; done) | (unfold productsStand; simp [foldl_kept, foldl2_kept, foldl3_kept, foldlS_kept]; done) | (unfold productsStand; (try dsimp only); (repeat' split) <;> (first | (simp [*, foldl_kept, foldl2_kept, foldl3_kept, foldlS_kept]; done) | (simp_all [foldl_kept, foldl2_kept, foldl3_kept, foldlS_kept]; done)))

@[simp] theorem fieldupStands_kept (c : Nat) (a : Anneal) (ds : List Delta) (us : List Upset) (s : State) : frozen (fieldupStands c a ds us s).2 = frozen s := by
  simp [fieldupStands]

@[simp] theorem propagate_kept (c : Nat) (a : Anneal) (ds : List Delta) (us : List Upset) (s : State) : frozen (propagate c a ds us s).2 = frozen s := by
  first | (simp [propagate]; done) | (unfold propagate; simp [foldl_kept, foldl2_kept, foldl3_kept, foldlS_kept]; done) | (unfold propagate; (try dsimp only); (repeat' split) <;> (first | (simp [*, foldl_kept, foldl2_kept, foldl3_kept, foldlS_kept]; done) | (simp_all [foldl_kept, foldl2_kept, foldl3_kept, foldlS_kept]; done)))

@[simp] theorem commitPhase_kept (c : Nat) (f : Anneal → Anneal) (s : State) : frozen (commitPhase c f s) = frozen s := by
  unfold commitPhase; (repeat' split) <;> (first | (simp [*, foldl_kept, foldl2_kept, foldl3_kept, foldlS_kept]; done) | (simp_all [foldl_kept, foldl2_kept, foldl3_kept, foldlS_kept]; done))

@[simp] theorem fieldupAlone_kept (c : Nat) (a : Anneal) (us : List Upset) (s : State) : frozen (fieldupAlone c a us s) = frozen s := by
  simp [fieldupAlone]

@[simp] theorem cutRun_kept (c : Nat) (s : State) : frozen (cutRun c s) = frozen s := by
  unfold cutRun; (repeat' split) <;> (first | (simp [*, foldl_kept, foldl2_kept, foldl3_kept, foldlS_kept]; done) | (simp_all [foldl_kept, foldl2_kept, foldl3_kept, foldlS_kept]; done))

@[simp] theorem strictOver_kept (c : Nat) (a : Anneal) (ds : List Delta) (f : List (List (List Int))) (t : List Int) (s : State) : frozen (strictOver c a ds f t s) = frozen s := by
  simp [strictOver]

@[simp] theorem fieldupStrict_kept (c : Nat) (x : Ctx) (a : Anneal) (us : List Upset) (s : State) : frozen (fieldupStrict c x a us s) = frozen s := by
  unfold fieldupStrict; (try dsimp only); (repeat' split) <;> (first | (simp [*, foldl_kept, foldl2_kept, foldl3_kept, foldlS_kept]; done) | (simp_all [foldl_kept, foldl2_kept, foldl3_kept, foldlS_kept]; done))

@[simp] theorem takeBackRun_kept (c : Nat) (marks : List (Nat × Nat)) (s : State) : frozen (takeBackRun c marks s) = frozen s := by
  first | (simp [takeBackRun]; done) | (unfold takeBackRun; simp [foldl_kept, foldl2_kept, foldl3_kept, foldlS_kept]; done) | (unfold takeBackRun; (try dsimp only); (repeat' split) <;> (first | (simp [*, foldl_kept, foldl2_kept, foldl3_kept, foldlS_kept]; done) | (simp_all [foldl_kept, foldl2_kept, foldl3_kept, foldlS_kept]; done)))

@[simp] theorem tellSaturated_kept (c phase : Nat) (sets : List AccSet) (s : State) : frozen (tellSaturated c phase sets s) = frozen s := by
  unfold tellSaturated; (repeat' split) <;> (first | (simp [*, foldl_kept, foldl2_kept, foldl3_kept, foldlS_kept]; done) | (simp_all [foldl_kept, foldl2_kept, foldl3_kept, foldlS_kept]; done))

@[simp] theorem fieldupFree_kept (c : Nat) (a : Anneal) (us : List Upset) (s : State) : frozen (fieldupFree c a us s) = frozen s := by
  unfold fieldupFree; (try dsimp only); (repeat' split) <;> (first | (simp [*, foldl_kept, foldl2_kept, foldl3_kept, foldlS_kept]; done) | (simp_all [foldl_kept, foldl2_kept, foldl3_kept, foldlS_kept]; done))

@[simp] theorem fieldupGo_kept (c : Nat) (x : Ctx) (a : Anneal) (us : List Upset) (s : State) : frozen (fieldupGo c x a us s) = frozen s := by
  simp [fieldupGo]

@[simp] theorem fieldupPhase_kept (c : Nat) (x : Ctx) (a : Anneal) (us : List Upset) (s : State) : frozen (fieldupPhase c x a us s) = frozen s := by
  simp [fieldupPhase]

@[simp] theorem startBarrier_kept (c : Nat) (a : Anneal) (s : State) : frozen (startBarrier c a s) = frozen s := by
  unfold startBarrier; (repeat' split) <;> (first | (simp [*, foldl_kept, foldl2_kept, foldl3_kept, foldlS_kept]; done) | (simp_all [foldl_kept, foldl2_kept, foldl3_kept, foldlS_kept]; done))

@[simp] theorem barrierSaturated_kept (c : Nat) (a : Anneal) (sets : List AccSet) (s : State) : frozen (barrierSaturated c a sets s) = frozen s := by
  first | (simp [barrierSaturated]; done) | (unfold barrierSaturated; simp [foldl_kept, foldl2_kept, foldl3_kept, foldlS_kept]; done) | (unfold barrierSaturated; (try dsimp only); (repeat' split) <;> (first | (simp [*, foldl_kept, foldl2_kept, foldl3_kept, foldlS_kept]; done) | (simp_all [foldl_kept, foldl2_kept, foldl3_kept, foldlS_kept]; done)))

@[simp] theorem barrierStep_kept (c : Nat) (us : List Upset) (s : State) : frozen (barrierStep c us s) = frozen s := by
  unfold barrierStep; (try dsimp only); (repeat' split) <;> (first | (simp [*, foldl_kept, foldl2_kept, foldl3_kept, foldlS_kept]; done) | (simp_all [foldl_kept, foldl2_kept, foldl3_kept, foldlS_kept]; done))

@[simp] theorem pwChange_kept (c : Nat) (a : Anneal) (w : List Nat × Nat) (s : State) : frozen (pwChange c a w s) = frozen s := by
  first | (simp [pwChange]; done) | (unfold pwChange; simp [foldl_kept, foldl2_kept, foldl3_kept, foldlS_kept]; done) | (unfold pwChange; (try dsimp only); (repeat' split) <;> (first | (simp [*, foldl_kept, foldl2_kept, foldl3_kept, foldlS_kept]; done) | (simp_all [foldl_kept, foldl2_kept, foldl3_kept, foldlS_kept]; done)))

@[simp] theorem pwStep_kept (c : Nat) (a : Anneal) (s : State) : frozen (pwStep c a s) = frozen s := by
  unfold pwStep; (try dsimp only); (repeat' split) <;> (first | (simp [*, foldl_kept, foldl2_kept, foldl3_kept, foldlS_kept]; done) | (simp_all [foldl_kept, foldl2_kept, foldl3_kept, foldlS_kept]; done))

@[simp] theorem farmedPart_kept (c : Nat) (x : Ctx) (free : Bool) (a : Anneal) (v : List Int) (s : State) : frozen (farmedPart c x free a v s) = frozen s := by
  unfold farmedPart; (try dsimp only); (repeat' split) <;> (first | (simp [*, foldl_kept, foldl2_kept, foldl3_kept, foldlS_kept]; done) | (simp_all [foldl_kept, foldl2_kept, foldl3_kept, foldlS_kept]; done))

@[simp] theorem ratlinePart_kept (c : Nat) (x : Ctx) (a0 : Anneal) (s : State) : frozen (ratlinePart c x a0 s) = frozen s := by
  unfold ratlinePart; (try dsimp only); (repeat' split) <;> (first | (simp [*, foldl_kept, foldl2_kept, foldl3_kept, foldlS_kept]; done) | (simp_all [foldl_kept, foldl2_kept, foldl3_kept, foldlS_kept]; done))

@[simp] theorem takeCkpt_kept (c : Nat) (x : Ctx) (a : Anneal) (s : State) : frozen (takeCkpt c x a s) = frozen s := by
  unfold takeCkpt; (repeat' split) <;> (first | (simp [*, foldl_kept, foldl2_kept, foldl3_kept, foldlS_kept]; done) | (simp_all [foldl_kept, foldl2_kept, foldl3_kept, foldlS_kept]; done))

@[simp] theorem ckptPart_kept (c : Nat) (x : Ctx) (a : Anneal) (s : State) : frozen (ckptPart c x a s) = frozen s := by
  simp [ckptPart]

@[simp] theorem sweepPart_kept (c : Nat) (s : State) : frozen (sweepPart c s) = frozen s := by
  unfold sweepPart; (repeat' split) <;> (first | (simp [*, foldl_kept, foldl2_kept, foldl3_kept, foldlS_kept]; done) | (simp_all [foldl_kept, foldl2_kept, foldl3_kept, foldlS_kept]; done))

@[simp] theorem sweepParts_kept (c from_ : Nat) (s : State) : frozen (sweepParts c from_ s) = frozen s := by
  unfold sweepParts; apply foldl_kept; intro s a; (repeat' split) <;> simp

@[simp] theorem sweependPhase_kept (c : Nat) (a : Anneal) (s : State) : frozen (sweependPhase c a s) = frozen s := by
  simp [sweependPhase]

@[simp] theorem resultSpanned_kept (c : Nat) (x : Ctx) (a : Anneal) (da : Nat) (s : State) : frozen (resultSpanned c x a da s) = frozen s := by
  first | (simp [resultSpanned]; done) | (unfold resultSpanned; simp [foldl_kept, foldl2_kept, foldl3_kept, foldlS_kept]; done) | (unfold resultSpanned; (try dsimp only); (repeat' split) <;> (first | (simp [*, foldl_kept, foldl2_kept, foldl3_kept, foldlS_kept]; done) | (simp_all [foldl_kept, foldl2_kept, foldl3_kept, foldlS_kept]; done)))

@[simp] theorem endTogether_kept (c : Nat) (v : List Int) (s : State) : frozen (endTogether c v s) = frozen s := by
  first | (simp [endTogether]; done) | (unfold endTogether; simp [foldl_kept, foldl2_kept, foldl3_kept, foldlS_kept]; done) | (unfold endTogether; (try dsimp only); (repeat' split) <;> (first | (simp [*, foldl_kept, foldl2_kept, foldl3_kept, foldlS_kept]; done) | (simp_all [foldl_kept, foldl2_kept, foldl3_kept, foldlS_kept]; done)))

@[simp] theorem endsTold_kept (c : Nat) (a : Anneal) (s : State) : frozen (endsTold c a s).2 = frozen s := by
  first | (simp [endsTold]; done) | (unfold endsTold; simp [foldl_kept, foldl2_kept, foldl3_kept, foldlS_kept]; done) | (unfold endsTold; (try dsimp only); (repeat' split) <;> (first | (simp [*, foldl_kept, foldl2_kept, foldl3_kept, foldlS_kept]; done) | (simp_all [foldl_kept, foldl2_kept, foldl3_kept, foldlS_kept]; done)))

@[simp] theorem resultGo_kept (c : Nat) (x : Ctx) (a : Anneal) (da : Nat) (s : State) : frozen (resultGo c x a da s) = frozen s := by
  unfold resultGo; (try dsimp only); (repeat' split) <;> (first | (simp [*, foldl_kept, foldl2_kept, foldl3_kept, foldlS_kept]; done) | (simp_all [foldl_kept, foldl2_kept, foldl3_kept, foldlS_kept]; done))

@[simp] theorem resultPhase_kept (c : Nat) (x : Ctx) (a : Anneal) (da : Nat) (s : State) : frozen (resultPhase c x a da s) = frozen s := by
  unfold resultPhase; (try dsimp only); (repeat' split) <;> (first | (simp [*, foldl_kept, foldl2_kept, foldl3_kept, foldlS_kept]; done) | (simp_all [foldl_kept, foldl2_kept, foldl3_kept, foldlS_kept]; done))

@[simp] theorem groupAdvance_kept (c : Nat) (es : List Nat) (s : State) : frozen (groupAdvance c es s) = frozen s := by
  unfold groupAdvance; simp [foldl_kept, foldl2_kept, foldl3_kept, foldlS_kept]

@[simp] theorem groupReads_kept (c : Nat) (rs : List (Nat × Nat × Nat)) (s : State) : frozen (groupReads c rs s).2 = frozen s := by
  unfold groupReads; simp [foldl_kept, foldl2_kept, foldl3_kept, foldlS_kept]

@[simp] theorem redWrite_kept (c : Nat) (ps : List (Nat × RedOp × Cursor × Nat)) (b : List Byte) (sat : Bool) (s : State) : frozen (redWrite c ps b sat s) = frozen s := by
  unfold redWrite; simp [foldl_kept, foldl2_kept, foldl3_kept, foldlS_kept]

@[simp] theorem redGroup_kept (c : Nat) (x : Ctx) (o : RedOp) (es : List Nat) (s : State) : frozen (redGroup c x o es s) = frozen s := by
  unfold redGroup; (try dsimp only); (repeat' split) <;> (first | (simp [*, foldl_kept, foldl2_kept, foldl3_kept, foldlS_kept]; done) | (simp_all [foldl_kept, foldl2_kept, foldl3_kept, foldlS_kept]; done))

@[simp] theorem countSent_kept (c e k n : Nat) (s : State) : frozen (countSent c e k n s) = frozen s := by
  simp [countSent]

@[simp] theorem bcastWrite_kept (c : Nat) (ps : List (Nat × BcastOp × Cursor × Nat)) (root : Option Nat) (b : List Byte) (s : State) : frozen (bcastWrite c ps root b s) = frozen s := by
  unfold bcastWrite; simp [foldl_kept, foldl2_kept, foldl3_kept, foldlS_kept]

@[simp] theorem bcastGroup_kept (c : Nat) (x : Ctx) (o : BcastOp) (es : List Nat) (s : State) : frozen (bcastGroup c x o es s) = frozen s := by
  unfold bcastGroup; (try dsimp only); (repeat' split) <;> (first | (simp [*, foldl_kept, foldl2_kept, foldl3_kept, foldlS_kept]; done) | (simp_all [foldl_kept, foldl2_kept, foldl3_kept, foldlS_kept]; done))

@[simp] theorem lsendFrames_kept (c : Nat) (x : Ctx) (e : Nat) (o : LsendOp) (a : Nat) (b : List Byte) (s : State) : frozen (lsendFrames c x e o a b s) = frozen s := by
  unfold lsendFrames; (repeat' split) <;> (first | (simp [*, foldl_kept, foldl2_kept, foldl3_kept, foldlS_kept]; done) | (simp_all [foldl_kept, foldl2_kept, foldl3_kept, foldlS_kept]; done))

@[simp] theorem dropFrame_kept (m : MdRun) (peer chan k : Nat) (s : State) : frozen (dropFrame m peer chan k s) = frozen s := by
  simp [dropFrame]

@[simp] theorem lengthsDiffer_kept (c : Nat) (u : Cursor) (o : LrecvOp) (num : Nat) (s : State) : frozen (lengthsDiffer c u o num s) = frozen s := by
  simp [lengthsDiffer]

@[simp] theorem setSent_kept (c e k v : Nat) (s : State) : frozen (setSent c e k v s) = frozen s := by
  simp [setSent]

@[simp] theorem takeFrame_kept (c e : Nat) (m : MdRun) (o : LrecvOp) (base a n : Nat) (r : Bool × State) (j : Nat) : frozen (takeFrame c e m o base a n r j).2 = frozen r.2 := by
  unfold takeFrame; (try dsimp only); (repeat' split) <;> (first | (simp [*, foldl_kept, foldl2_kept, foldl3_kept, foldlS_kept]; done) | (simp_all [foldl_kept, foldl2_kept, foldl3_kept, foldlS_kept]; done))

@[simp] theorem lrecvFrames.lrecvOver_kept (c : Nat) (u : Cursor) (o : LrecvOp) (num nf : Nat) (m : MdRun) (s : State) : frozen (lrecvFrames.lrecvOver c u o num nf m s) = frozen s := by
  simp [lrecvFrames.lrecvOver]

theorem takeFrames_kept (c e : Nat) (m : MdRun) (o : LrecvOp) (base a n : Nat) (l : List Nat) (s : State) :
    frozen (l.foldl (takeFrame c e m o base a n) (true, s)).2 = frozen s :=
  foldl2_kept _ l (true, s) (fun r j => takeFrame_kept c e m o base a n r j)

@[simp] theorem lrecvFrames_kept (c : Nat) (x : Ctx) (u : Cursor) (i : Nat) (o : LrecvOp) (s : State) : frozen (lrecvFrames c x u i o s) = frozen s := by
  unfold lrecvFrames
  split
  · rfl
  · dsimp only
    split
    · rfl
    · split
      · rw [lengthsDiffer_kept]
      · split
        · rw [lrecvFrames.lrecvOver_kept, takeFrames_kept]
        · exact takeFrames_kept _ _ _ _ _ _ _ _ _

@[simp] theorem issueCert_kept (c : Nat) (x : Ctx) (da : Nat) (s : State) : frozen (issueCert c x da s) = frozen s := by
  unfold issueCert; (try dsimp only); (repeat' split) <;> (first | (simp [*, foldl_kept, foldl2_kept, foldl3_kept, foldlS_kept]; done) | (simp_all [foldl_kept, foldl2_kept, foldl3_kept, foldlS_kept]; done))

@[simp] theorem updEnt_kept (f : Entropy → Entropy) (s : State) : frozen (updEnt f s) = frozen s := by
  simp [updEnt]

@[simp] theorem updDrbg_kept (i : Nat) (f : Drbg → Drbg) (s : State) : frozen (updDrbg i f s) = frozen s := by
  simp [updDrbg]

@[simp] theorem drbgTake_kept (i n : Nat) (s : State) : frozen (drbgTake i n s).2 = frozen s := by
  simp [drbgTake]

@[simp] theorem setOwed_kept (i : Nat) (b : List Byte) (s : State) : frozen (setOwed i b s) = frozen s := by
  simp [setOwed]

@[simp] theorem seedDrbg_kept (i : Nat) (b : List Byte) (s : State) : frozen (seedDrbg i b s) = frozen s := by
  simp [seedDrbg]

@[simp] theorem absorbBlock_kept (b : List Byte) (s : State) : frozen (absorbBlock b s).2 = frozen s := by
  unfold absorbBlock; (repeat' split) <;> (first | (simp [*, foldl_kept, foldl2_kept, foldl3_kept, foldlS_kept]; done) | (simp_all [foldl_kept, foldl2_kept, foldl3_kept, foldlS_kept]; done))

@[simp] theorem patternWrite_kept (v : Nat) (s : State) : frozen (patternWrite v s) = frozen s := by
  first | (simp [patternWrite]; done) | (unfold patternWrite; simp [foldl_kept, foldl2_kept, foldl3_kept, foldlS_kept]; done) | (unfold patternWrite; (try dsimp only); (repeat' split) <;> (first | (simp [*, foldl_kept, foldl2_kept, foldl3_kept, foldlS_kept]; done) | (simp_all [foldl_kept, foldl2_kept, foldl3_kept, foldlS_kept]; done)))

@[simp] theorem wantBootId_kept (s : State) : frozen (wantBootId s) = frozen s := by
  simp [wantBootId]

@[simp] theorem settleService_kept (s : State) : frozen (settleService s) = frozen s := by
  simp [settleService]

@[simp] theorem failSource_kept (i : Nat) (s : State) : frozen (failSource i s) = frozen s := by
  simp [failSource]

@[simp] theorem serveH_kept (s : State) : frozen (serveH s) = frozen s := by
  simp [serveH]

@[simp] theorem hReqWrite_kept (v : Nat) (s : State) : frozen (hReqWrite v s) = frozen s := by
  simp [hReqWrite]

@[simp] theorem hDataDone_kept (s : State) : frozen (hDataDone s) = frozen s := by
  simp [hDataDone]

@[simp] theorem reqFails_kept (s : State) : frozen (reqFails s) = frozen s := by
  simp [reqFails]

@[simp] theorem askDrbg_kept (inst purpose ctx : Nat) (s : State) : frozen (askDrbg inst purpose ctx s) = frozen s := by
  simp [askDrbg]

@[simp] theorem grant_kept (c : Nat) (s : State) : frozen (grant c s) = frozen s := by
  unfold grant; (repeat' split) <;> (first | (simp [*, foldl_kept, foldl2_kept, foldl3_kept, foldlS_kept]; done) | (simp_all [foldl_kept, foldl2_kept, foldl3_kept, foldlS_kept]; done))

@[simp] theorem startFeeding_kept (c : Nat) (s : State) : frozen (startFeeding c s) = frozen s := by
  simp [startFeeding]

@[simp] theorem tryStart_kept (c : Nat) (s : State) : frozen (tryStart c s) = frozen s := by
  unfold tryStart; (repeat' split) <;> (first | (simp [*, foldl_kept, foldl2_kept, foldl3_kept, foldlS_kept]; done) | (simp_all [foldl_kept, foldl2_kept, foldl3_kept, foldlS_kept]; done))

@[simp] theorem setBudget_kept (c b : Nat) (s : State) : frozen (setBudget c b s) = frozen s := by
  first | (simp [setBudget]; done) | (unfold setBudget; simp [foldl_kept, foldl2_kept, foldl3_kept, foldlS_kept]; done) | (unfold setBudget; (try dsimp only); (repeat' split) <;> (first | (simp [*, foldl_kept, foldl2_kept, foldl3_kept, foldlS_kept]; done) | (simp_all [foldl_kept, foldl2_kept, foldl3_kept, foldlS_kept]; done)))

@[simp] theorem fixBudget_kept (c : Nat) (s : State) : frozen (fixBudget c s) = frozen s := by
  first | (simp [fixBudget]; done) | (unfold fixBudget; simp [foldl_kept, foldl2_kept, foldl3_kept, foldlS_kept]; done) | (unfold fixBudget; (try dsimp only); (repeat' split) <;> (first | (simp [*, foldl_kept, foldl2_kept, foldl3_kept, foldlS_kept]; done) | (simp_all [foldl_kept, foldl2_kept, foldl3_kept, foldlS_kept]; done)))

@[simp] theorem takeStart_kept (c p : Nat) (b : StartBody) (s : State) : frozen (takeStart c p b s) = frozen s := by
  unfold takeStart; (repeat' split) <;> (first | (simp [*, foldl_kept, foldl2_kept, foldl3_kept, foldlS_kept]; done) | (simp_all [foldl_kept, foldl2_kept, foldl3_kept, foldlS_kept]; done))

@[simp] theorem keepStart_kept (src : Nat) (b : StartBody) (s : State) : frozen (keepStart src b s) = frozen s := by
  simp [keepStart]

@[simp] theorem takeEarly_kept (c : Nat) (s : State) : frozen (takeEarly c s) = frozen s := by
  unfold takeEarly; (repeat' split) <;> (first | (simp [*, foldl_kept, foldl2_kept, foldl3_kept, foldlS_kept]; done) | (simp_all [foldl_kept, foldl2_kept, foldl3_kept, foldlS_kept]; done))

@[simp] theorem sendStarts_kept (c : Nat) (s : State) : frozen (sendStarts c s) = frozen s := by
  unfold sendStarts; (repeat' split) <;> (first | (simp [*, foldl_kept, foldl2_kept, foldl3_kept, foldlS_kept]; done) | (simp_all [foldl_kept, foldl2_kept, foldl3_kept, foldlS_kept]; done))

@[simp] theorem clearFrames_kept (m : MdRun) (s : State) : frozen (clearFrames m s) = frozen s := by
  simp [clearFrames]

@[simp] theorem clearDelivered_kept (m : MdRun) (s : State) : frozen (clearDelivered m s) = frozen s := by
  first | (simp [clearDelivered]; done) | (unfold clearDelivered; simp [foldl_kept, foldl2_kept, foldl3_kept, foldlS_kept]; done) | (unfold clearDelivered; (try dsimp only); (repeat' split) <;> (first | (simp [*, foldl_kept, foldl2_kept, foldl3_kept, foldlS_kept]; done) | (simp_all [foldl_kept, foldl2_kept, foldl3_kept, foldlS_kept]; done)))

@[simp] theorem offerPackage_kept (c : Nat) (s : State) : frozen (offerPackage c s) = frozen s := by
  unfold offerPackage; (repeat' split) <;> (first | (simp [*, foldl_kept, foldl2_kept, foldl3_kept, foldlS_kept]; done) | (simp_all [foldl_kept, foldl2_kept, foldl3_kept, foldlS_kept]; done))

@[simp] theorem renumber_kept (run src : Nat) (s : State) : frozen (renumber run src s) = frozen s := by
  simp [renumber]

@[simp] theorem beginNumbers_kept (m : MdRun) (s : State) : frozen (beginNumbers m s) = frozen s := by
  unfold beginNumbers; simp [foldl_kept, foldl2_kept, foldl3_kept, foldlS_kept]

@[simp] theorem startMulti_kept (c : Nat) (s : State) : frozen (startMulti c s) = frozen s := by
  unfold startMulti; (repeat' split) <;> (first | (simp [*, foldl_kept, foldl2_kept, foldl3_kept, foldlS_kept]; done) | (simp_all [foldl_kept, foldl2_kept, foldl3_kept, foldlS_kept]; done))

@[simp] theorem inputGet_kept (x : Ctx) (dev : Bool) (a n i : Nat) (rs : List Cpl) (s : State) : frozen (inputGet x dev a n i rs s).2 = frozen s := by
  unfold inputGet; (try dsimp only); (repeat' split) <;> (first | (simp [*, foldl_kept, foldl2_kept, foldl3_kept, foldlS_kept]; done) | (simp_all [foldl_kept, foldl2_kept, foldl3_kept, foldlS_kept]; done))

@[simp] theorem moveInput_kept (x : Ctx) (i : Nat) (e : Input) (rs ds : List Cpl) (s : State) : frozen (moveInput x i e rs ds s).2 = frozen s := by
  unfold moveInput; (try dsimp only); (repeat' split) <;> (first | (simp [*, foldl_kept, foldl2_kept, foldl3_kept, foldlS_kept]; done) | (simp_all [foldl_kept, foldl2_kept, foldl3_kept, foldlS_kept]; done))

@[simp] theorem moveInputs_kept (x : Ctx) (is : List (Nat × Input)) (rs ds : List (List Cpl)) (s : State) :
    frozen (moveInputs x is rs ds s).2 = frozen s := by
  induction is generalizing rs ds s with
  | nil => simp [moveInputs]
  | cons i is ih => unfold moveInputs; (try dsimp only); (repeat' split) <;> simp [ih]

@[simp] theorem feed_kept (c : Nat) (s : State) : frozen (feed c s) = frozen s := by
  unfold feed; (repeat' split) <;> (first | (simp [*, foldl_kept, foldl2_kept, foldl3_kept, foldlS_kept]; done) | (simp_all [foldl_kept, foldl2_kept, foldl3_kept, foldlS_kept]; done))

@[simp] theorem takeSeed_kept (c : Nat) (s : State) : frozen (takeSeed c s) = frozen s := by
  simp [takeSeed]

@[simp] theorem seedAndFeed_kept (c : Nat) (s : State) : frozen (seedAndFeed c s) = frozen s := by
  unfold seedAndFeed; (repeat' split) <;> (first | (simp [*, foldl_kept, foldl2_kept, foldl3_kept, foldlS_kept]; done) | (simp_all [foldl_kept, foldl2_kept, foldl3_kept, foldlS_kept]; done))

@[simp] theorem inputsDone_kept (c : Nat) (bs : List (List Byte × List Byte)) (s : State) : frozen (inputsDone c bs s) = frozen s := by
  unfold inputsDone; (try dsimp only); (repeat' split) <;> (first | (simp [*, foldl_kept, foldl2_kept, foldl3_kept, foldlS_kept]; done) | (simp_all [foldl_kept, foldl2_kept, foldl3_kept, foldlS_kept]; done))

@[simp] theorem inputsMoved_kept (c : Nat) (rs ds : List (List Cpl)) (s : State) : frozen (inputsMoved c rs ds s) = frozen s := by
  unfold inputsMoved; (try dsimp only); (repeat' split) <;> (first | (simp [*, foldl_kept, foldl2_kept, foldl3_kept, foldlS_kept]; done) | (simp_all [foldl_kept, foldl2_kept, foldl3_kept, foldlS_kept]; done))

@[simp] theorem moveCells_kept (src dst n : Nat) (s : State) : frozen (moveCells src dst n s) = frozen s := by
  simp [moveCells]

@[simp] theorem accOut_kept (e a n dst : Nat) (s : State) : frozen (accOut e a n dst s) = frozen s := by
  simp [accOut]

@[simp] theorem accBack_kept (e a n src : Nat) (s : State) : frozen (accBack e a n src s) = frozen s := by
  simp [accBack]

@[simp] theorem spillEngine_kept (x : Ctx) (slot e : Nat) (s : State) : frozen (spillEngine x slot e s) = frozen s := by
  unfold spillEngine; simp [foldl_kept, foldl2_kept, foldl3_kept, foldlS_kept]

@[simp] theorem spillCheck_kept (x : Ctx) (e : Nat) (s : State) : frozen (spillCheck x e s).2 = frozen s := by
  unfold spillCheck; (try dsimp only); (repeat' split) <;> (first | (simp [*, foldl_kept, foldl2_kept, foldl3_kept, foldlS_kept]; done) | (simp_all [foldl_kept, foldl2_kept, foldl3_kept, foldlS_kept]; done))

@[simp] theorem spillChecks_kept (c : Nat) (x : Ctx) (es : List Nat) (s : State) : frozen (spillChecks c x es s).2 = frozen s := by
  unfold spillChecks; simp [foldl_kept, foldl2_kept, foldl3_kept, foldlS_kept]

@[simp] theorem spill_kept (c : Nat) (s : State) : frozen (spill c s) = frozen s := by
  unfold spill; (repeat' split) <;> (first | (simp [*, foldl_kept, foldl2_kept, foldl3_kept, foldlS_kept]; done) | (simp_all [foldl_kept, foldl2_kept, foldl3_kept, foldlS_kept]; done))

@[simp] theorem fillEngine_kept (x : Ctx) (k e : Nat) (s : State) : frozen (fillEngine x k e s) = frozen s := by
  unfold fillEngine; dsimp only
  rw [armRun_kept, frozen_mk, frozen_fold, foldl_kept, foldl_kept, foldl_kept]
  · intro s r; simp
  · intro s r; simp
  · intro s r; simp

@[simp] theorem fillReads_kept (c : Nat) (x : Ctx) (k : Nat) (es : List Nat) (s : State) : frozen (fillReads c x k es s).2 = frozen s := by
  unfold fillReads; simp [foldl_kept, foldl2_kept, foldl3_kept, foldlS_kept]

@[simp] theorem fillBack_kept (c : Nat) (s : State) : frozen (fillBack c s) = frozen s := by
  unfold fillBack; (try dsimp only); (repeat' split) <;> (first | (simp [*, foldl_kept, foldl2_kept, foldl3_kept, foldlS_kept]; done) | (simp_all [foldl_kept, foldl2_kept, foldl3_kept, foldlS_kept]; done))

@[simp] theorem resume_kept (c : Nat) (s : State) : frozen (resume c s) = frozen s := by
  unfold resume; (repeat' split) <;> (first | (simp [*, foldl_kept, foldl2_kept, foldl3_kept, foldlS_kept]; done) | (simp_all [foldl_kept, foldl2_kept, foldl3_kept, foldlS_kept]; done))

@[simp] theorem signalFlushed_kept (c k : Nat) (rs : List Cpl) (s : State) : frozen (signalFlushed c k rs s) = frozen s := by
  simp [signalFlushed]

@[simp] theorem flushFailed_kept (q : Nat) (s : State) : frozen (flushFailed q s) = frozen s := by
  simp [flushFailed]

@[simp] theorem tailWrite_kept (q v : Nat) (s : State) : frozen (tailWrite q v s) = frozen s := by
  simp [tailWrite]

@[simp] theorem cqHeadWrite_kept (q v : Nat) (s : State) : frozen (cqHeadWrite q v s) = frozen s := by
  simp [cqHeadWrite]

@[simp] theorem enableWrite_kept (q : Nat) (b : Bool) (s : State) : frozen (enableWrite q b s) = frozen s := by
  simp [enableWrite]

@[simp] theorem rearm_kept (q : Nat) (s : State) : frozen (rearm q s) = frozen s := by
  simp [rearm]

@[simp] theorem setDevState_kept (n : Nat) (s : State) : frozen (setDevState n s) = frozen s := by
  simp [setDevState]

@[simp] theorem beginMaint_kept (drain : Bool) (s : State) : frozen (beginMaint drain s) = frozen s := by
  simp [beginMaint]

@[simp] theorem request_kept (service drain : Bool) (s : State) : frozen (request service drain s) = frozen s := by
  unfold request; (repeat' split) <;> (first | (simp [*, foldl_kept, foldl2_kept, foldl3_kept, foldlS_kept]; done) | (simp_all [foldl_kept, foldl2_kept, foldl3_kept, foldlS_kept]; done))

@[simp] theorem stateReqWrite_kept (v : Nat) (s : State) : frozen (stateReqWrite v s) = frozen s := by
  simp [stateReqWrite]

@[simp] theorem applyHeld_kept (s : State) : frozen (applyHeld s) = frozen s := by
  unfold applyHeld; (repeat' split) <;> (first | (simp [*, foldl_kept, foldl2_kept, foldl3_kept, foldlS_kept]; done) | (simp_all [foldl_kept, foldl2_kept, foldl3_kept, foldlS_kept]; done))

@[simp] theorem freezeWaits_kept (s : State) : frozen (freezeWaits s) = frozen s := by
  simp [freezeWaits]

@[simp] theorem enterService_kept (s : State) : frozen (enterService s) = frozen s := by
  simp [enterService]

@[simp] theorem releaseArgs_kept (x : Ctx) (rs : List Cpl) (s : State) : frozen (releaseArgs x rs s).2 = frozen s := by
  unfold releaseArgs; (try dsimp only); (repeat' split) <;> (first | (simp [*, foldl_kept, foldl2_kept, foldl3_kept, foldlS_kept]; done) | (simp_all [foldl_kept, foldl2_kept, foldl3_kept, foldlS_kept]; done))

@[simp] theorem registerEntry_kept (c : Nat) (rs : List Cpl) (s : State) : frozen (registerEntry c rs s) = frozen s := by
  unfold registerEntry; (try dsimp only); (repeat' split) <;> (first | (simp [*, foldl_kept, foldl2_kept, foldl3_kept, foldlS_kept]; done) | (simp_all [foldl_kept, foldl2_kept, foldl3_kept, foldlS_kept]; done))

@[simp] theorem lendEnds_kept (q : Nat) (s : State) : frozen (lendEnds q s) = frozen s := by
  first | (simp [lendEnds]; done) | (unfold lendEnds; simp [foldl_kept, foldl2_kept, foldl3_kept, foldlS_kept]; done) | (unfold lendEnds; (try dsimp only); (repeat' split) <;> (first | (simp [*, foldl_kept, foldl2_kept, foldl3_kept, foldlS_kept]; done) | (simp_all [foldl_kept, foldl2_kept, foldl3_kept, foldlS_kept]; done)))

@[simp] theorem deregisterEntry_kept (c : Nat) (s : State) : frozen (deregisterEntry c s) = frozen s := by
  unfold deregisterEntry; (repeat' split) <;> (first | (simp [*, foldl_kept, foldl2_kept, foldl3_kept, foldlS_kept]; done) | (simp_all [foldl_kept, foldl2_kept, foldl3_kept, foldlS_kept]; done))

@[simp] theorem lendStarts_kept (q t : Nat) (s : State) : frozen (lendStarts q t s) = frozen s := by
  first | (simp [lendStarts]; done) | (unfold lendStarts; simp [foldl_kept, foldl2_kept, foldl3_kept, foldlS_kept]; done) | (unfold lendStarts; (try dsimp only); (repeat' split) <;> (first | (simp [*, foldl_kept, foldl2_kept, foldl3_kept, foldlS_kept]; done) | (simp_all [foldl_kept, foldl2_kept, foldl3_kept, foldlS_kept]; done)))

@[simp] theorem makeRelease_kept (q prog : Nat) (s : State) : frozen (makeRelease q prog s) = frozen s := by
  unfold makeRelease; (try dsimp only); (repeat' split) <;> (first | (simp [*, foldl_kept, foldl2_kept, foldl3_kept, foldlS_kept]; done) | (simp_all [foldl_kept, foldl2_kept, foldl3_kept, foldlS_kept]; done))

@[simp] theorem startRelease_kept (q : Nat) (p : BellProg) (j : Nat) (s : State) : frozen (startRelease q p j s) = frozen s := by
  unfold startRelease; (try dsimp only); (repeat' split) <;> (first | (simp [*, foldl_kept, foldl2_kept, foldl3_kept, foldlS_kept]; done) | (simp_all [foldl_kept, foldl2_kept, foldl3_kept, foldlS_kept]; done))

@[simp] theorem cutNow_kept (c : Nat) (s : State) : frozen (cutNow c s) = frozen s := by
  simp [cutNow]

@[simp] theorem stopLending_kept (x : Ctx) (s : State) : frozen (stopLending x s) = frozen s := by
  simp [stopLending]

@[simp] theorem auditStart_kept (j : AuditJob) (s : State) : frozen (auditStart j s) = frozen s := by
  simp [auditStart]

@[simp] theorem updAudit_kept (f : AuditJob → AuditJob) (s : State) : frozen (updAudit f s) = frozen s := by
  simp [updAudit]

@[simp] theorem jobRec_kept (j : AuditJob) (i : Nat) (s : State) : frozen (jobRec j i s) = frozen s := by
  unfold jobRec; (repeat' split) <;> (first | (simp [*, foldl_kept, foldl2_kept, foldl3_kept, foldlS_kept]; done) | (simp_all [foldl_kept, foldl2_kept, foldl3_kept, foldlS_kept]; done))

@[simp] theorem jobCorrected_kept (j : AuditJob) (n : Nat) (s : State) : frozen (jobCorrected j n s) = frozen s := by
  first | (simp [jobCorrected]; done) | (unfold jobCorrected; simp [foldl_kept, foldl2_kept, foldl3_kept, foldlS_kept]; done) | (unfold jobCorrected; (try dsimp only); (repeat' split) <;> (first | (simp [*, foldl_kept, foldl2_kept, foldl3_kept, foldlS_kept]; done) | (simp_all [foldl_kept, foldl2_kept, foldl3_kept, foldlS_kept]; done)))

@[simp] theorem auditReload_kept (j : AuditJob) (w : Nat) (h : Option (Nat × Nat)) (s : State) : frozen (auditReload j w h s).2 = frozen s := by
  unfold auditReload; (repeat' split) <;> (first | (simp [*, foldl_kept, foldl2_kept, foldl3_kept, foldlS_kept]; done) | (simp_all [foldl_kept, foldl2_kept, foldl3_kept, foldlS_kept]; done))

@[simp] theorem auditWord_kept (j : AuditJob) (w : Nat) (s : State) : frozen (auditWord j w s).2 = frozen s := by
  unfold auditWord; (try dsimp only); (repeat' split) <;> (first | (simp [*, foldl_kept, foldl2_kept, foldl3_kept, foldlS_kept]; done) | (simp_all [foldl_kept, foldl2_kept, foldl3_kept, foldlS_kept]; done))

@[simp] theorem auditReads_kept (j : AuditJob) (n : Nat) (s : State) : frozen (auditReads j n s).2 = frozen s := by
  unfold auditReads; simp [foldl_kept, foldl2_kept, foldl3_kept, foldlS_kept]

@[simp] theorem audDrop_kept (j : AuditJob) (p kind num : Nat) (s : State) : frozen (audDrop j p kind num s) = frozen s := by
  simp [audDrop]

@[simp] theorem audSend_kept (j : AuditJob) (p kind num : Nat) (v : List Int) (s : State) : frozen (audSend j p kind num v s) = frozen s := by
  simp [audSend]

@[simp] theorem audDown_kept (j : AuditJob) (num : Nat) (r : List Int) (s : State) : frozen (audDown j num r s) = frozen s := by
  unfold audDown; apply foldl_kept; intro s a; (repeat' split) <;> simp

@[simp] theorem audCombine_kept (j : AuditJob) (num : Nat) (v : List Int) (s : State) : frozen (audCombine j num v s).2 = frozen s := by
  unfold audCombine; (try dsimp only); (repeat' split) <;> (first | (simp [*, foldl_kept, foldl2_kept, foldl3_kept, foldlS_kept]; done) | (simp_all [foldl_kept, foldl2_kept, foldl3_kept, foldlS_kept]; done))

@[simp] theorem dueSelftests_kept (es : List Nat) (s : State) : frozen (dueSelftests es s) = frozen s := by
  simp [dueSelftests]

@[simp] theorem countAudit_kept (j : AuditJob) (status : Nat) (s : State) : frozen (countAudit j status s) = frozen s := by
  simp [countAudit]

@[simp] theorem auditOver_kept (j : AuditJob) (status : Nat) (vals : List AuditVal) (s : State) : frozen (auditOver j status vals s) = frozen s := by
  unfold auditOver; (try dsimp only); (repeat' split) <;> (first | (simp [*, foldl_kept, foldl2_kept, foldl3_kept, foldlS_kept]; done) | (simp_all [foldl_kept, foldl2_kept, foldl3_kept, foldlS_kept]; done))

@[simp] theorem auditUnreadable_kept (j : AuditJob) (s : State) : frozen (auditUnreadable j s) = frozen s := by
  unfold auditUnreadable; (try dsimp only); (repeat' split) <;> (first | (simp [*, foldl_kept, foldl2_kept, foldl3_kept, foldlS_kept]; done) | (simp_all [foldl_kept, foldl2_kept, foldl3_kept, foldlS_kept]; done))

@[simp] theorem passOver_kept (j : AuditJob) (es : List TopEntry) (v : List Int) (s : State) : frozen (passOver j es v s) = frozen s := by
  simp [passOver]

@[simp] theorem auditStep_kept (d1 d2 : Int) (s : State) : frozen (auditStep d1 d2 s) = frozen s := by
  unfold auditStep; (try dsimp only); (repeat' split) <;> (first | (simp [*, foldl_kept, foldl2_kept, foldl3_kept, foldlS_kept]; done) | (simp_all [foldl_kept, foldl2_kept, foldl3_kept, foldlS_kept]; done))

@[simp] theorem auditSteps_kept (d1 d2 : Int) (s : State) : frozen (auditSteps d1 d2 s) = frozen s := by
  unfold auditSteps; apply iter_kept; simp

@[simp] theorem closePast_kept (s : State) : frozen (closePast s) = frozen s := by
  unfold closePast; (repeat' split) <;> (first | (simp [*, foldl_kept, foldl2_kept, foldl3_kept, foldlS_kept]; done) | (simp_all [foldl_kept, foldl2_kept, foldl3_kept, foldlS_kept]; done))

@[simp] theorem signWindow_kept (s : State) : frozen (signWindow s) = frozen s := by
  unfold signWindow; (repeat' split) <;> (first | (simp [*, foldl_kept, foldl2_kept, foldl3_kept, foldlS_kept]; done) | (simp_all [foldl_kept, foldl2_kept, foldl3_kept, foldlS_kept]; done))

@[simp] theorem ringRdWrite_kept (v : Nat) (s : State) : frozen (ringRdWrite v s) = frozen s := by
  simp [ringRdWrite]

@[simp] theorem heardFrom_kept (c p : Nat) (s : State) : frozen (heardFrom c p s) = frozen s := by
  simp [heardFrom]

@[simp] theorem lateMessage_kept (c : Nat) (s : State) : frozen (lateMessage c s) = frozen s := by
  simp [lateMessage]

theorem fromPeer_kept (runId p : Nat) (f : Nat → State → State) (h : ∀ c s, frozen (f c s) = frozen s) (s : State) : frozen (fromPeer runId p f s) = frozen s := by
  unfold fromPeer; (repeat' split) <;> simp [h]

@[simp] theorem sendProgress_kept (c : Nat) (s : State) : frozen (sendProgress c s) = frozen s := by
  unfold sendProgress; (repeat' split) <;> (first | (simp [*, foldl_kept, foldl2_kept, foldl3_kept, foldlS_kept]; done) | (simp_all [foldl_kept, foldl2_kept, foldl3_kept, foldlS_kept]; done))

@[simp] theorem startArrives_kept (src : Nat) (b : StartBody) (s : State) : frozen (startArrives src b s) = frozen s := by
  unfold startArrives; (repeat' split) <;> (first | (simp [*, foldl_kept, foldl2_kept, foldl3_kept, foldlS_kept]; done) | (simp_all [foldl_kept, foldl2_kept, foldl3_kept, foldlS_kept]; done))

@[simp] theorem runLost_kept (c d : Nat) (s : State) : frozen (runLost c d s) = frozen s := by
  unfold runLost; (try dsimp only); (repeat' split) <;> first | (simp; done) | (exact disrupt_kept _ _ _ _ (by assumption))

@[simp] theorem failRun_kept (c d : Nat) (s : State) : frozen (failRun c d s) = frozen s := by
  unfold failRun; (repeat' split) <;> (first | (simp [*, foldl_kept, foldl2_kept, foldl3_kept, foldlS_kept]; done) | (simp_all [foldl_kept, foldl2_kept, foldl3_kept, foldlS_kept]; done))

@[simp] theorem noticeLost_kept (c d : Nat) (s : State) : frozen (noticeLost c d s) = frozen s := by
  unfold noticeLost; (repeat' split) <;> (first | (simp [*, foldl_kept, foldl2_kept, foldl3_kept, foldlS_kept]; done) | (simp_all [foldl_kept, foldl2_kept, foldl3_kept, foldlS_kept]; done))

@[simp] theorem peerMissed_kept (c p : Nat) (s : State) : frozen (peerMissed c p s) = frozen s := by
  unfold peerMissed; (repeat' split) <;> (first | (simp [*, foldl_kept, foldl2_kept, foldl3_kept, foldlS_kept]; done) | (simp_all [foldl_kept, foldl2_kept, foldl3_kept, foldlS_kept]; done))

@[simp] theorem collectEnd_kept (c : Nat) (s : State) : frozen (collectEnd c s) = frozen s := by
  unfold collectEnd; (repeat' split) <;> (first | (simp [*, foldl_kept, foldl2_kept, foldl3_kept, foldlS_kept]; done) | (simp_all [foldl_kept, foldl2_kept, foldl3_kept, foldlS_kept]; done))

@[simp] theorem claimFails_kept (src runId d : Nat) (s : State) : frozen (claimFails src runId d s) = frozen s := by
  simp [claimFails]

@[simp] theorem claimArrives_kept (src dev runId d q : Nat) (s : State) : frozen (claimArrives src dev runId d q s) = frozen s := by
  simp [claimArrives]

@[simp] theorem probeReplied_kept (runId : Nat) (inRun : Bool) (s : State) : frozen (probeReplied runId inRun s) = frozen s := by
  unfold probeReplied; (repeat' split) <;> (first | (simp [*, foldl_kept, foldl2_kept, foldl3_kept, foldlS_kept]; done) | (simp_all [foldl_kept, foldl2_kept, foldl3_kept, foldlS_kept]; done))

@[simp] theorem claimWon_kept (runId : Nat) (s : State) : frozen (claimWon runId s) = frozen s := by
  unfold claimWon; (repeat' split) <;> (first | (simp [*, foldl_kept, foldl2_kept, foldl3_kept, foldlS_kept]; done) | (simp_all [foldl_kept, foldl2_kept, foldl3_kept, foldlS_kept]; done))

@[simp] theorem dropRunMsgs_kept (runId : Nat) (s : State) : frozen (dropRunMsgs runId s) = frozen s := by
  simp [dropRunMsgs]

@[simp] theorem clearEngine_kept (x : Ctx) (s : State) (e : Nat) : frozen (clearEngine x s e) = frozen s := by
  unfold clearEngine; dsimp only
  rw [frozen_mk, frozen_fold, foldl_kept, foldl_kept]
  · intro s r; simp
  · intro s r; simp

@[simp] theorem startAgain_kept (c : Nat) (x : Ctx) (s : State) : frozen (startAgain c x s) = frozen s := by
  unfold startAgain; simp [foldl_kept, foldl2_kept, foldl3_kept, foldlS_kept]

@[simp] theorem takeFailover_kept (c d sp k : Nat) (s : State) : frozen (takeFailover c d sp k s) = frozen s := by
  unfold takeFailover; (repeat' split) <;> (first | (simp [*, foldl_kept, foldl2_kept, foldl3_kept, foldlS_kept]; done) | (simp_all [foldl_kept, foldl2_kept, foldl3_kept, foldlS_kept]; done))

@[simp] theorem failoverArrives_kept (c d sp k : Nat) (s : State) : frozen (failoverArrives c d sp k s) = frozen s := by
  simp [failoverArrives]

@[simp] theorem tryFailover_kept (c : Nat) (s : State) : frozen (tryFailover c s) = frozen s := by
  unfold tryFailover; (try dsimp only); (repeat' split) <;> (first | (simp [*, foldl_kept, foldl2_kept, foldl3_kept, foldlS_kept]; done) | (simp_all [foldl_kept, foldl2_kept, foldl3_kept, foldlS_kept]; done))

@[simp] theorem claimAnswer_kept (c src runId d sp : Nat) (s : State) : frozen (claimAnswer c src runId d sp s) = frozen s := by
  simp [claimAnswer]

@[simp] theorem spareFailover_kept (runId sp k : Nat) (s : State) : frozen (spareFailover runId sp k s) = frozen s := by
  unfold spareFailover; (repeat' split) <;> (first | (simp [*, foldl_kept, foldl2_kept, foldl3_kept, foldlS_kept]; done) | (simp_all [foldl_kept, foldl2_kept, foldl3_kept, foldlS_kept]; done))

@[simp] theorem failoverNotice_kept (src runId d sp k : Nat) (s : State) : frozen (failoverNotice src runId d sp k s) = frozen s := by
  unfold failoverNotice; (repeat' split) <;> (first | (simp [*, foldl_kept, foldl2_kept, foldl3_kept, foldlS_kept]; done) | (simp_all [foldl_kept, foldl2_kept, foldl3_kept, foldlS_kept]; done))

@[simp] theorem sendPart_kept (dst runId : Nat) (s : State) (q : Nat × Nat × Nat) : frozen (sendPart dst runId s q) = frozen s := by
  unfold sendPart; simp [foldl_kept, foldl2_kept, foldl3_kept, foldlS_kept]

@[simp] theorem sendShare_kept (dst dev runId k : Nat) (s : State) : frozen (sendShare dst dev runId k s) = frozen s := by
  unfold sendShare; (repeat' split) <;> (first | (simp [*, foldl_kept, foldl2_kept, foldl3_kept, foldlS_kept]; done) | (simp_all [foldl_kept, foldl2_kept, foldl3_kept, foldlS_kept]; done))

@[simp] theorem sparePiece_kept (i : InMsg) (s : State) : frozen (sparePiece i s) = frozen s := by
  simp [sparePiece]

@[simp] theorem sendMirrorTo_kept (c h : Nat) (s : State) : frozen (sendMirrorTo c h s) = frozen s := by
  unfold sendMirrorTo; (try dsimp only); (repeat' split) <;> simp [foldl_kept]

@[simp] theorem sendAgain_kept (src run old : Nat) (all : Bool) (s : State) : frozen (sendAgain src run old all s) = frozen s := by
  first | (simp [sendAgain]; done) | (unfold sendAgain; simp [foldl_kept, foldl2_kept, foldl3_kept, foldlS_kept]; done) | (unfold sendAgain; (try dsimp only); (repeat' split) <;> (first | (simp [*, foldl_kept, foldl2_kept, foldl3_kept, foldlS_kept]; done) | (simp_all [foldl_kept, foldl2_kept, foldl3_kept, foldlS_kept]; done)))

@[simp] theorem bulkMessage_kept (i : InMsg) (s : State) : frozen (bulkMessage i s).2 = frozen s := by
  simp [bulkMessage]

@[simp] theorem spareRun_kept (c : Nat) (x : Ctx) (o : PloadOp) (k : Ckpt) (q : Prob) (s : State) : frozen (spareRun c x o k q s) = frozen s := by
  unfold spareRun; rw [restoreRun_kept, updCtx_kept, foldl_kept]; intro s e; rw [placeEngine_kept]

@[simp] theorem spareImage_kept (k : Claim) (o : PloadOp) (s : State) : frozen (spareImage k o s) = frozen s := by
  simp [spareImage]

theorem spareLoaded_kept (c : Nat) (k : Claim) (p : Package) (x : Ctx) (o : PloadOp) (r : Except Loc Prob) (s t : State)
    (h : spareLoaded c k p x o r s = some t) : frozen t = frozen s := by
  cases r with
  | error l => simp [spareLoaded] at h
  | ok q =>
    unfold spareLoaded at h
    dsimp only at h
    split at h
    · simp at h
    · injection h with h; rw [← h, spareRun_kept]

theorem spareTake_kept (c : Nat) (k : Claim) (p : Package) (o : PloadOp) (s t : State)
    (h : spareTake c k p o s = some t) : frozen t = frozen s := by
  unfold spareTake at h
  cases hc : ctxOf s c with
  | none => rw [hc] at h; simp at h
  | some x => rw [hc] at h; exact spareLoaded_kept _ _ _ _ _ _ _ _ h

theorem spareLoad_kept (c : Nat) (k : Claim) (p : Package) (s t : State) (h : spareLoad c k p s = some t) :
    frozen t = frozen s := by
  unfold spareLoad at h
  split at h
  · simp at h
  · rw [spareTake_kept _ _ _ _ _ _ h, spareImage_kept]

@[simp] theorem spareRefuses_kept (k : Claim) (s : State) : frozen (spareRefuses k s) = frozen s := by
  unfold spareRefuses; simp [foldl_kept, foldl2_kept, foldl3_kept, foldlS_kept]

@[simp] theorem startRebuild_kept (k : Claim) (s : State) : frozen (startRebuild k s) = frozen s := by
  unfold startRebuild; rw [foldl_kept]
  · simp
  · intro s n; simp

@[simp] theorem spareCleared_kept (c : Nat) (s : State) : frozen (spareCleared c s) = frozen s := by
  first | (simp [spareCleared]; done) | (unfold spareCleared; simp [foldl_kept, foldl2_kept, foldl3_kept, foldlS_kept]; done) | (unfold spareCleared; (try dsimp only); (repeat' split) <;> (first | (simp [*, foldl_kept, foldl2_kept, foldl3_kept, foldlS_kept]; done) | (simp_all [foldl_kept, foldl2_kept, foldl3_kept, foldlS_kept]; done)))

@[simp] theorem spareInstall_kept (c : Nat) (k : Claim) (s : State) : frozen (spareInstall c k s) = frozen s := by
  unfold spareInstall; dsimp only
  split
  · simp
  · split
    · simp
    · split
      · simp
      · rename_i t ht
        have h : frozen t = frozen s := by
          split at ht
          · injection ht with ht; subst ht; simp [foldl_kept]
          · rw [spareLoad_kept _ _ _ _ _ ht]; simp [foldl_kept]
        simp [h]

@[simp] theorem survivorRestore_kept (c : Nat) (s : State) : frozen (survivorRestore c s) = frozen s := by
  unfold survivorRestore; (try dsimp only); (repeat' split) <;> (first | (simp [*, foldl_kept, foldl2_kept, foldl3_kept, foldlS_kept]; done) | (simp_all [foldl_kept, foldl2_kept, foldl3_kept, foldlS_kept]; done))

@[simp] theorem rebuildOver_kept (dev : Nat) (s : State) : frozen (rebuildOver dev s) = frozen s := by
  first | (simp [rebuildOver]; done) | (unfold rebuildOver; simp [foldl_kept, foldl2_kept, foldl3_kept, foldlS_kept]; done) | (unfold rebuildOver; (try dsimp only); (repeat' split) <;> (first | (simp [*, foldl_kept, foldl2_kept, foldl3_kept, foldlS_kept]; done) | (simp_all [foldl_kept, foldl2_kept, foldl3_kept, foldlS_kept]; done)))

@[simp] theorem recRuns_kept (dst i : Nat) (s : State) : frozen (recRuns dst i s) = frozen s := by
  unfold recRuns; simp [foldl_kept, foldl2_kept, foldl3_kept, foldlS_kept]

@[simp] theorem recRunsOf_kept (ds : List Nat) (i : Nat) (s : State) : frozen (recRunsOf ds i s) = frozen s := by
  unfold recRunsOf; simp [foldl_kept, foldl2_kept, foldl3_kept, foldlS_kept]

@[simp] theorem packFlit_kept (l : Nat) (b : List Byte) (s : State) : frozen (packFlit l b s) = frozen s := by
  simp [packFlit]

@[simp] theorem transmit_kept (l : Nat) (f : QFlit) (seq : Nat) (s : State) : frozen (transmit l f seq s) = frozen s := by
  simp [transmit]

@[simp] theorem noteLast_kept (f : QFlit) (s : State) : frozen (noteLast f s) = frozen s := by
  simp [noteLast]

@[simp] theorem sendNew_kept (l : Nat) (f : QFlit) (s : State) : frozen (sendNew l f s) = frozen s := by
  simp [sendNew]

@[simp] theorem sendRekey_kept (l : Nat) (s : State) : frozen (sendRekey l s) = frozen s := by
  simp [sendRekey]

@[simp] theorem sendNext_kept (l : Nat) (s : State) : frozen (sendNext l s) = frozen s := by
  unfold sendNext; (try dsimp only); (repeat' split) <;> (first | (simp [*, foldl_kept, foldl2_kept, foldl3_kept, foldlS_kept]; done) | (simp_all [foldl_kept, foldl2_kept, foldl3_kept, foldlS_kept]; done))

@[simp] theorem resendAll_kept (l : Nat) (s : State) : frozen (resendAll l s) = frozen s := by
  unfold resendAll; simp [foldl_kept, foldl2_kept, foldl3_kept, foldlS_kept]

@[simp] theorem linkLeaves_kept (l st cause downAt : Nat) (s : State) : frozen (linkLeaves l st cause downAt s) = frozen s := by
  unfold linkLeaves; simp [foldl_kept, foldl2_kept, foldl3_kept, foldlS_kept]

@[simp] theorem linkDown_kept (l cause : Nat) (s : State) : frozen (linkDown l cause s) = frozen s := by
  simp [linkDown]

@[simp] theorem nakArrives_kept (l : Nat) (s : State) : frozen (nakArrives l s) = frozen s := by
  simp [nakArrives]

@[simp] theorem linkFails_kept (l cause : Nat) (s : State) : frozen (linkFails l cause s) = frozen s := by
  simp [linkFails]

@[simp] theorem setEpoch_kept (l : Nat) (b : List Byte) (s : State) : frozen (setEpoch l b s) = frozen s := by
  simp [setEpoch]

@[simp] theorem drawEpoch_kept (l : Nat) (s : State) : frozen (drawEpoch l s) = frozen s := by
  simp [drawEpoch]

@[simp] theorem beginTraining_kept (l : Nat) (s : State) : frozen (beginTraining l s) = frozen s := by
  simp [beginTraining]

@[simp] theorem beginVerify_kept (l : Nat) (s : State) : frozen (beginVerify l s) = frozen s := by
  simp [beginVerify]

@[simp] theorem verifyFails_kept (l : Nat) (s : State) : frozen (verifyFails l s) = frozen s := by
  simp [verifyFails]

@[simp] theorem discoverArrives_kept (l : Nat) (b : DiscoverBody) (s : State) : frozen (discoverArrives l b s) = frozen s := by
  simp [discoverArrives]

@[simp] theorem rekeyArrives_kept (l e : Nat) (s : State) : frozen (rekeyArrives l e s) = frozen s := by
  simp [rekeyArrives]

@[simp] theorem frameHeard_kept (src : Nat) (s : State) : frozen (frameHeard src s) = frozen s := by
  unfold frameHeard; apply foldl_kept; intro s a; (repeat' split) <;> simp

@[simp] theorem msgAcked_kept (src cls msg : Nat) (s : State) : frozen (msgAcked src cls msg s) = frozen s := by
  simp [msgAcked]

@[simp] theorem ackArrives_kept (src cls msg : Nat) (s : State) : frozen (ackArrives src cls msg s) = frozen s := by
  first | (simp [ackArrives]; done) | (unfold ackArrives; simp [foldl_kept, foldl2_kept, foldl3_kept, foldlS_kept]; done) | (unfold ackArrives; (try dsimp only); (repeat' split) <;> (first | (simp [*, foldl_kept, foldl2_kept, foldl3_kept, foldlS_kept]; done) | (simp_all [foldl_kept, foldl2_kept, foldl3_kept, foldlS_kept]; done)))

@[simp] theorem claimUnsent_kept (o : OutMsg) (s : State) : frozen (claimUnsent o s) = frozen s := by
  unfold claimUnsent; (repeat' split) <;> (first | (simp [*, foldl_kept, foldl2_kept, foldl3_kept, foldlS_kept]; done) | (simp_all [foldl_kept, foldl2_kept, foldl3_kept, foldlS_kept]; done))

@[simp] theorem resendMsg_kept (o : OutMsg) (s : State) : frozen (resendMsg o s) = frozen s := by
  unfold resendMsg; simp [foldl_kept, foldl2_kept, foldl3_kept, foldlS_kept]

@[simp] theorem keepMsg_kept (i : InMsg) (s : State) : frozen (keepMsg i s) = frozen s := by
  simp [keepMsg]

@[simp] theorem peerLength_kept (c : Nat) (s : State) : frozen (peerLength c s) = frozen s := by
  simp [peerLength]

@[simp] theorem runMessage_kept (c : Nat) (i : InMsg) (s : State) : frozen (runMessage c i s) = frozen s := by
  simp [runMessage]

theorem bulk_kept (i : InMsg) (s : State) : frozen (if i.cls = 3 then bulkMessage i s else (false, s)).2 = frozen s := by split <;> simp

@[simp] theorem deliverMsg_kept (i : InMsg) (s : State) : frozen (deliverMsg i s) = frozen s := by
  unfold deliverMsg; dsimp only
  (repeat' split) <;> first
    | rfl
    | (simp; done)
    | exact bulk_kept i s
    | (rw [runMessage_kept, bulk_kept])
    | (rw [fromPeer_kept]; intro c s; split <;> first | exact bulk_kept i s | simp)

@[simp] theorem noteDelivered_kept (src cls msg : Nat) (s : State) : frozen (noteDelivered src cls msg s) = frozen s := by
  simp [noteDelivered]

@[simp] theorem frameCounted_kept (f : QFlit) (s : State) : frozen (frameCounted f s) = frozen s := by
  first | (simp [frameCounted]; done) | (unfold frameCounted; simp [foldl_kept, foldl2_kept, foldl3_kept, foldlS_kept]; done) | (unfold frameCounted; (try dsimp only); (repeat' split) <;> (first | (simp [*, foldl_kept, foldl2_kept, foldl3_kept, foldlS_kept]; done) | (simp_all [foldl_kept, foldl2_kept, foldl3_kept, foldlS_kept]; done)))

@[simp] theorem dataArrives_kept (f : QFlit) (s : State) : frozen (dataArrives f s) = frozen s := by
  unfold dataArrives; (try dsimp only); (repeat' split) <;> (first | (simp [*, foldl_kept, foldl2_kept, foldl3_kept, foldlS_kept]; done) | (simp_all [foldl_kept, foldl2_kept, foldl3_kept, foldlS_kept]; done))

@[simp] theorem ctrlMessage_kept (src : Nat) (d : List Byte) (s : State) : frozen (ctrlMessage src d s) = frozen s := by
  unfold ctrlMessage; dsimp only
  (repeat' split) <;> first
    | (simp; done)
    | (rw [fromPeer_kept]; intro c s; first | rfl | (simp; done) | (split <;> simp))

@[simp] theorem ctrlArrives_kept (f : QFlit) (s : State) : frozen (ctrlArrives f s) = frozen s := by
  simp [ctrlArrives]

@[simp] theorem hopArrives_kept (l : Nat) (d : List Byte) (s : State) : frozen (hopArrives l d s) = frozen s := by
  unfold hopArrives; (repeat' split) <;> (first | (simp [*, foldl_kept, foldl2_kept, foldl3_kept, foldlS_kept]; done) | (simp_all [foldl_kept, foldl2_kept, foldl3_kept, foldlS_kept]; done))

@[simp] theorem takeData_kept (l : Nat) (f : QFlit) (s : State) : frozen (takeData l f s) = frozen s := by
  simp [takeData]

@[simp] theorem takeHeld_kept (l : Nat) (s : State) : frozen (takeHeld l s) = frozen s := by
  unfold takeHeld; simp [foldl_kept, foldl2_kept, foldl3_kept, foldlS_kept]

@[simp] theorem flitAccepted_kept (l : Nat) (f0 : QFlit) (s : State) : frozen (flitAccepted l f0 s) = frozen s := by
  simp [flitAccepted]

@[simp] theorem flitFailed_kept (l : Nat) (s : State) : frozen (flitFailed l s) = frozen s := by
  simp [flitFailed]

@[simp] theorem takeAck_kept (l a : Nat) (s : State) : frozen (takeAck l a s) = frozen s := by
  simp [takeAck]

@[simp] theorem takeCredits_kept (l i n : Nat) (s : State) : frozen (takeCredits l i n s) = frozen s := by
  simp [takeCredits]

@[simp] theorem takeSeq_kept (l seq : Nat) (f : QFlit) (s : State) : frozen (takeSeq l seq f s) = frozen s := by
  simp [takeSeq]

@[simp] theorem flitArrives_kept (l : Nat) (b : List Byte) (s : State) : frozen (flitArrives l b s) = frozen s := by
  unfold flitArrives; (repeat' split) <;> (first | (simp [*, foldl_kept, foldl2_kept, foldl3_kept, foldlS_kept]; done) | (simp_all [foldl_kept, foldl2_kept, foldl3_kept, foldlS_kept]; done))

@[simp] theorem countRx_kept (l : Nat) (s : State) : frozen (countRx l s) = frozen s := by
  simp [countRx]

@[simp] theorem ackNow_kept (l : Nat) (s : State) : frozen (ackNow l s) = frozen s := by
  simp [ackNow]

@[simp] theorem receive_kept (l : Nat) (b : Option (List Byte)) (s : State) : frozen (receive l b s) = frozen s := by
  unfold receive; (repeat' split) <;> (first | (simp [*, foldl_kept, foldl2_kept, foldl3_kept, foldlS_kept]; done) | (simp_all [foldl_kept, foldl2_kept, foldl3_kept, foldlS_kept]; done))

@[simp] theorem takeCodeword_kept (l : Nat) (ls : List (List Nat)) (s : State) : frozen (takeCodeword l ls s) = frozen s := by
  unfold takeCodeword; dsimp only; generalize codewordBits ls = r; (repeat' split) <;> simp

@[simp] theorem takeFlit_kept (l : Nat) (s : State) : frozen (takeFlit l s) = frozen s := by
  unfold takeFlit; rw [receive_kept, updLink_kept]

@[simp] theorem coldReset_kept (ph : BootPhase) (s : State) : frozen (coldReset ph s) = frozen s := by
  simp [coldReset]

@[simp] theorem holdReset_kept (s : State) : frozen (holdReset s) = frozen s := by
  simp [holdReset]

@[simp] theorem romHalts_kept (kat : Nat) (s : State) : frozen (romHalts kat s) = frozen s := by
  simp [romHalts]

@[simp] theorem verifySlots_kept (s : State) : frozen (verifySlots s) = frozen s := by
  unfold verifySlots; (repeat' split) <;> rfl

@[simp] theorem railBad_kept (rail : Nat) (s : State) : frozen (railBad rail s) = frozen s := by
  first | (simp [railBad]; done) | (unfold railBad; simp [foldl_kept, foldl2_kept, foldl3_kept, foldlS_kept]; done) | (unfold railBad; (try dsimp only); (repeat' split) <;> (first | (simp [*, foldl_kept, foldl2_kept, foldl3_kept, foldlS_kept]; done) | (simp_all [foldl_kept, foldl2_kept, foldl3_kept, foldlS_kept]; done)))

@[simp] theorem bootRetire_kept (p cause : Nat) (s : State) : frozen (bootRetire p cause s) = frozen s := by
  unfold bootRetire; (try dsimp only); (repeat' split) <;> (first | (simp [*, foldl_kept, foldl2_kept, foldl3_kept, foldlS_kept]; done) | (simp_all [foldl_kept, foldl2_kept, foldl3_kept, foldlS_kept]; done))

@[simp] theorem bootColumn_kept (p : Nat) (s : State) : frozen (bootColumn p s) = frozen s := by
  simp [bootColumn]

@[simp] theorem applyRepair_kept (s : State) : frozen (applyRepair s) = frozen s := by
  unfold applyRepair; simp [foldl_kept, foldl2_kept, foldl3_kept, foldlS_kept]

@[simp] theorem bootTiles_kept (f : BootFacts) (s : State) : frozen (bootTiles f s) = frozen s := by
  unfold bootTiles; simp [foldl_kept, foldl2_kept, foldl3_kept, foldlS_kept]

@[simp] theorem bootMap_kept (s : State) : frozen (bootMap s) = frozen s := by
  simp [bootMap]

@[simp] theorem bootLinks_kept (s : State) : frozen (bootLinks s) = frozen s := by
  unfold bootLinks; simp [foldl_kept, foldl2_kept, foldl3_kept, foldlS_kept]

@[simp] theorem bootCal_kept (f : BootFacts) (s : State) : frozen (bootCal f s) = frozen s := by
  simp [bootCal]

@[simp] theorem bootMem_kept (f : BootFacts) (s : State) : frozen (bootMem f s) = frozen s := by
  unfold bootMem; simp [foldl_kept, foldl2_kept, foldl3_kept, foldlS_kept]

@[simp] theorem bootKeys_kept (s : State) : frozen (bootKeys s) = frozen s := by
  unfold bootKeys; (try dsimp only); (repeat' split) <;> (first | (simp [*, foldl_kept, foldl2_kept, foldl3_kept, foldlS_kept]; done) | (simp_all [foldl_kept, foldl2_kept, foldl3_kept, foldlS_kept]; done))

@[simp] theorem bootReady_kept (f : BootFacts) (s : State) : frozen (bootReady f s) = frozen s := by
  simp [bootReady]

@[simp] theorem bootInstalled_kept (b : List Byte) (s : State) : frozen (bootInstalled b s) = frozen s := by
  unfold bootInstalled; dsimp only; rw [setReg_kept]; rfl

@[simp] theorem installFails_kept (s : State) : frozen (installFails s) = frozen s := by
  unfold installFails; rw [setReg_kept]; rfl

@[simp] theorem installImage_kept (b : List Byte) (s : State) : frozen (installImage b s) = frozen s := by
  simp [installImage]

@[simp] theorem recoveryWrite_kept (v : Nat) (s : State) : frozen (recoveryWrite v s) = frozen s := by
  simp [recoveryWrite]

@[simp] theorem warmBase_kept (s : State) : frozen (warmBase s) = frozen s := by
  simp [warmBase]

@[simp] theorem warmReset_kept (warm : Bool) (s : State) : frozen (warmReset warm s) = frozen s := by
  simp [warmReset]

@[simp] theorem pcieDown_kept (s : State) : frozen (pcieDown s) = frozen s := by
  simp [pcieDown]

@[simp] theorem warmRanked_kept (s : State) : frozen (warmRanked s) = frozen s := by
  unfold warmRanked; (try dsimp only); (repeat' split) <;> (first | (simp [*, foldl_kept, foldl2_kept, foldl3_kept, foldlS_kept]; done) | (simp_all [foldl_kept, foldl2_kept, foldl3_kept, foldlS_kept]; done))

@[simp] theorem linkTrained_kept (speed width : Nat) (flit : Bool) (s : State) : frozen (linkTrained speed width flit s) = frozen s := by
  simp [linkTrained]

@[simp] theorem keyBytes_kept (a n : Nat) (s : State) : frozen (keyBytes a n s).2 = frozen s := by
  simp [keyBytes]

@[simp] theorem wipe_kept (s : State) : frozen (wipe s) = frozen s := by
  simp [wipe]

@[simp] theorem tokenRead_kept (s : State) (r : Option (List Byte) × State) : frozen (tokenRead s r).2 = frozen r.2 := by
  simp [tokenRead]

@[simp] theorem tokenRead_snd (s : State) (r : Option (List Byte) × State) : (tokenRead s r).2 = r.2 := rfl

@[simp] theorem lcToken_kept (n : Nat) (s : State) : frozen (lcToken n s).2 = frozen s := by
  unfold lcToken
  by_cases h : n = 3
  · rw [if_pos h, tokenRead_snd, keyBytes_kept]
  · rw [if_neg h]

@[simp] theorem tamperClear_kept (s : State) : frozen (tamperClear s) = frozen s := by
  unfold tamperClear; simp [foldl_kept, foldl2_kept, foldl3_kept, foldlS_kept]

@[simp] theorem discardWindows_kept (s : State) : frozen (discardWindows s) = frozen s := by
  have h := foldl_kept (fun (s : State) (c : CertW) => match c.ctx with | some i => updCtx i (dropCert c) s | none => s) (unsignedCerts s) s
    (by intro s c; split <;> simp)
  unfold discardWindows; simp; exact h

@[simp] theorem tamperDrain_kept (s : State) : frozen (tamperDrain s) = frozen s := by
  first | (simp [tamperDrain]; done) | (unfold tamperDrain; simp [foldl_kept, foldl2_kept, foldl3_kept, foldlS_kept]; done) | (unfold tamperDrain; (try dsimp only); (repeat' split) <;> (first | (simp [*, foldl_kept, foldl2_kept, foldl3_kept, foldlS_kept]; done) | (simp_all [foldl_kept, foldl2_kept, foldl3_kept, foldlS_kept]; done)))

@[simp] theorem tamperStop_kept (s : State) : frozen (tamperStop s) = frozen s := by
  simp [tamperStop]

@[simp] theorem tamper_kept (src : Nat) (s : State) : frozen (tamper src s) = frozen s := by
  simp [tamper]

@[simp] theorem loadKey_kept (slot : Nat) (k : List Byte) (s : State) : frozen (loadKey slot k s) = frozen s := by
  simp [loadKey]

@[simp] theorem keyWritten_kept (slot i : Nat) (e k : List Byte) (s : State) : frozen (keyWritten slot i e k s) = frozen s := by
  simp [keyWritten]

@[simp] theorem keyNotWritten_kept (i : Nat) (s : State) : frozen (keyNotWritten i s) = frozen s := by
  simp [keyNotWritten]

@[simp] theorem writeKey_kept (slot : Nat) (kek k : List Byte) (s : State) : frozen (writeKey slot kek k s) = frozen s := by
  simp [writeKey]

@[simp] theorem provOpen_kept (s : State) : frozen (provOpen s) = frozen s := by
  simp [provOpen]

@[simp] theorem provisionWith_kept (slot : Nat) (r : Option (List Byte) × State) : frozen (provisionWith slot r) = frozen r.2 := by
  unfold provisionWith; split <;> simp

@[simp] theorem provision_kept (slot : Nat) (s : State) : frozen (provision slot s) = frozen s := by
  unfold provision; rw [provisionWith_kept, keyBytes_kept]

@[simp] theorem provWrite_kept (v : Nat) (s : State) : frozen (provWrite v s) = frozen s := by
  simp [provWrite]

@[simp] theorem attWrite_kept (v : Nat) (reply : Cpl) (s : State) : frozen (attWrite v reply s) = frozen s := by
  unfold attWrite; (repeat' split) <;> (first | (simp [*, foldl_kept, foldl2_kept, foldl3_kept, foldlS_kept]; done) | (simp_all [foldl_kept, foldl2_kept, foldl3_kept, foldlS_kept]; done))

@[simp] theorem healSource_kept (i : Nat) (s : State) : frozen (healSource i s) = frozen s := by
  simp [healSource]

@[simp] theorem testSource_kept (s : State) (i : Nat) (pass : Bool) : frozen (testSource s i pass) = frozen s := by
  simp [testSource]

@[simp] theorem retestAgain_kept (k : Nat) (s : State) : frozen (retestAgain k s) = frozen s := by
  simp [retestAgain]

@[simp] theorem epochDrawn_kept (l : Nat) (s : State) : frozen (epochDrawn l s) = frozen s := by
  simp [epochDrawn]

@[simp] theorem serveReq_kept (s : State) (r : EntReq) : frozen (serveReq s r) = frozen s := by
  unfold serveReq; (repeat' split) <;> (first | (simp [*, foldl_kept, foldl2_kept, foldl3_kept, foldlS_kept]; done) | (simp_all [foldl_kept, foldl2_kept, foldl3_kept, foldlS_kept]; done))

@[simp] theorem serveWaiting_kept (i : Nat) (s : State) : frozen (serveWaiting i s) = frozen s := by
  unfold serveWaiting; simp [foldl_kept, foldl2_kept, foldl3_kept, foldlS_kept]

@[simp] theorem repeatedBlock_kept (s : State) : frozen (repeatedBlock s) = frozen s := by
  unfold repeatedBlock; simp [foldl_kept, foldl2_kept, foldl3_kept, foldlS_kept]

@[simp] theorem giveBlock_kept (b : List Byte) (s : State) : frozen (giveBlock b s) = frozen s := by
  unfold giveBlock; (try dsimp only); (repeat' split) <;> (first | (simp [*, foldl_kept, foldl2_kept, foldl3_kept, foldlS_kept]; done) | (simp_all [foldl_kept, foldl2_kept, foldl3_kept, foldlS_kept]; done))

@[simp] theorem reqClient_kept (r : EntReq) (s : State) : frozen (reqClient r s) = frozen s := by
  unfold reqClient; (repeat' split) <;> (first | (simp [*, foldl_kept, foldl2_kept, foldl3_kept, foldlS_kept]; done) | (simp_all [foldl_kept, foldl2_kept, foldl3_kept, foldlS_kept]; done))

@[simp] theorem reqTimeout_kept (k : Nat) (r : EntReq) (s : State) : frozen (reqTimeout k r s) = frozen s := by
  simp [reqTimeout]

@[simp] theorem drawBootId_kept (s : State) : frozen (drawBootId s) = frozen s := by
  simp [drawBootId]

@[simp] theorem updPower_kept (f : Power → Power) (s : State) : frozen (updPower f s) = frozen s := by
  simp [updPower]

@[simp] theorem traceNote_kept (kind v : Nat) (s : State) : frozen (traceNote kind v s) = frozen s := by
  simp [traceNote]

@[simp] theorem widenWindow_kept (v : Nat) (s : State) : frozen (widenWindow v s) = frozen s := by
  first | (simp [widenWindow]; done) | (unfold widenWindow; simp [foldl_kept, foldl2_kept, foldl3_kept, foldlS_kept]; done) | (unfold widenWindow; (try dsimp only); (repeat' split) <;> (first | (simp [*, foldl_kept, foldl2_kept, foldl3_kept, foldlS_kept]; done) | (simp_all [foldl_kept, foldl2_kept, foldl3_kept, foldlS_kept]; done)))

@[simp] theorem sendAvs_kept (s : State) : frozen (sendAvs s) = frozen s := by
  simp [sendAvs]

@[simp] theorem followVreq_kept (s : State) : frozen (followVreq s) = frozen s := by
  simp [followVreq]

@[simp] theorem setIssue_kept (n : Nat) (s : State) : frozen (setIssue n s) = frozen s := by
  simp [setIssue]

@[simp] theorem riseIssue_kept (n : Nat) (s : State) : frozen (riseIssue n s) = frozen s := by
  simp [riseIssue]

@[simp] theorem setOverride_kept (s : State) : frozen (setOverride s) = frozen s := by
  simp [setOverride]

@[simp] theorem levelUp_kept (n : Nat) (s : State) : frozen (levelUp n s) = frozen s := by
  simp [levelUp]

@[simp] theorem triggerRaise_kept (k : Nat) (s : State) : frozen (triggerRaise k s) = frozen s := by
  simp [triggerRaise]

@[simp] theorem fallTo_kept (n : Nat) (s : State) : frozen (fallTo n s) = frozen s := by
  simp [fallTo]

@[simp] theorem levelDown_kept (s : State) : frozen (levelDown s) = frozen s := by
  simp [levelDown]

@[simp] theorem clampLevel_kept (s : State) : frozen (clampLevel s) = frozen s := by
  simp [clampLevel]

@[simp] theorem setTrigger_kept (k : Nat) (s : State) : frozen (setTrigger k s) = frozen s := by
  simp [setTrigger]

@[simp] theorem raiseNow_kept (k by_ : Nat) (s : State) : frozen (raiseNow k by_ s) = frozen s := by
  simp [raiseNow]

@[simp] theorem clearTriggers_kept (p1ms : Nat) (s : State) : frozen (clearTriggers p1ms s) = frozen s := by
  simp [clearTriggers]

@[simp] theorem reefFall_kept (s : State) : frozen (reefFall s) = frozen s := by
  simp [reefFall]

@[simp] theorem holdAlert_kept (b : Bool) (s : State) : frozen (holdAlert b s) = frozen s := by
  unfold holdAlert; split <;> simp

@[simp] theorem reefEval_kept (m : ReefMeas) (s : State) : frozen (reefEval m s) = frozen s := by
  simp [reefEval]

@[simp] theorem ackAvs_kept (s : State) : frozen (ackAvs s) = frozen s := by
  unfold ackAvs; (try dsimp only); (repeat' split) <;> (first | (simp [*, foldl_kept, foldl2_kept, foldl3_kept, foldlS_kept]; done) | (simp_all [foldl_kept, foldl2_kept, foldl3_kept, foldlS_kept]; done))

@[simp] theorem avsFails_kept (s : State) : frozen (avsFails s) = frozen s := by
  simp [avsFails]

@[simp] theorem alertFalls_kept (s : State) : frozen (alertFalls s) = frozen s := by
  first | (simp [alertFalls]; done) | (unfold alertFalls; simp [foldl_kept, foldl2_kept, foldl3_kept, foldlS_kept]; done) | (unfold alertFalls; (try dsimp only); (repeat' split) <;> (first | (simp [*, foldl_kept, foldl2_kept, foldl3_kept, foldlS_kept]; done) | (simp_all [foldl_kept, foldl2_kept, foldl3_kept, foldlS_kept]; done)))

@[simp] theorem speedEval_kept (rate : Nat) (s : State) : frozen (speedEval rate s) = frozen s := by
  simp [speedEval]

@[simp] theorem setCode_kept (p c : Nat) (s : State) : frozen (setCode p c s) = frozen s := by
  simp [setCode]

@[simp] theorem takeBounds_kept (b : Bool × Nat × Nat) (p : Nat) (s : State) : frozen (takeBounds b p s) = frozen s := by
  first | (simp [takeBounds]; done) | (unfold takeBounds; simp [foldl_kept, foldl2_kept, foldl3_kept, foldlS_kept]; done) | (unfold takeBounds; (try dsimp only); (repeat' split) <;> (first | (simp [*, foldl_kept, foldl2_kept, foldl3_kept, foldlS_kept]; done) | (simp_all [foldl_kept, foldl2_kept, foldl3_kept, foldlS_kept]; done)))

@[simp] theorem boundCodes_kept (s : State) : frozen (boundCodes s) = frozen s := by
  unfold boundCodes; simp [foldl_kept, foldl2_kept, foldl3_kept, foldlS_kept]

@[simp] theorem canaryFires_kept (p : Nat) (s : State) : frozen (canaryFires p s) = frozen s := by
  simp [canaryFires]

@[simp] theorem holdIssue_kept (s : State) : frozen (holdIssue s) = frozen s := by
  simp [holdIssue]

@[simp] theorem sampleSensors_kept (ts : List Int) (s : State) : frozen (sampleSensors ts s) = frozen s := by
  simp [sampleSensors]

@[simp] theorem tripNow_kept (s : State) : frozen (tripNow s) = frozen s := by
  simp [tripNow]

@[simp] theorem trimRate_kept (s : State) : frozen (trimRate s) = frozen s := by
  simp [trimRate]

@[simp] theorem ppsEdge_kept (s : State) : frozen (ppsEdge s) = frozen s := by
  simp [ppsEdge]

@[simp] theorem ptmDone_kept (t : Nat) (s : State) : frozen (ptmDone t s) = frozen s := by
  simp [ptmDone]

@[simp] theorem shiftTimes_kept (d : Int) (s : State) : frozen (shiftTimes d s) = frozen s := by
  simp [shiftTimes]

@[simp] theorem withdrawPassed_kept (s : State) (q : Nat) : frozen (withdrawPassed s q) = frozen s := by
  unfold withdrawPassed; simp [foldl_kept, foldl2_kept, foldl3_kept, foldlS_kept]

@[simp] theorem stepTime64_kept (d : Int) (s : State) : frozen (stepTime64 d s) = frozen s := by
  simp [stepTime64]

@[simp] theorem updScrub_kept (k : Nat) (f : Scrub → Scrub) (s : State) : frozen (updScrub k f s) = frozen s := by
  simp [updScrub]

@[simp] theorem setPeriod_kept (k p : Nat) (s : State) : frozen (setPeriod k p s) = frozen s := by
  simp [setPeriod]

@[simp] theorem beginPass_kept (k : Nat) (s : State) : frozen (beginPass k s) = frozen s := by
  simp [beginPass]

@[simp] theorem endPass_kept (k : Nat) (s : State) : frozen (endPass k s) = frozen s := by
  simp [endPass]

@[simp] theorem repairWord_kept (kind w : Nat) (s : State) : frozen (repairWord kind w s) = frozen s := by
  simp [repairWord]

@[simp] theorem noteHit_kept (w : Nat) (pos : Option Nat) (s : State) : frozen (noteHit w pos s) = frozen s := by
  unfold noteHit; (repeat' split) <;> (first | (simp [*, foldl_kept, foldl2_kept, foldl3_kept, foldlS_kept]; done) | (simp_all [foldl_kept, foldl2_kept, foldl3_kept, foldlS_kept]; done))

@[simp] theorem scrubRecover_kept (x : Ctx) (e w : Nat) (s : State) : frozen (scrubRecover x e w s) = frozen s := by
  unfold scrubRecover; (repeat' split) <;> (first | (simp [*, foldl_kept, foldl2_kept, foldl3_kept, foldlS_kept]; done) | (simp_all [foldl_kept, foldl2_kept, foldl3_kept, foldlS_kept]; done))

@[simp] theorem testPattern_kept (w : Nat) (s : State) : frozen (testPattern w s) = frozen s := by
  first | (simp [testPattern]; done) | (unfold testPattern; simp [foldl_kept, foldl2_kept, foldl3_kept, foldlS_kept]; done) | (unfold testPattern; (try dsimp only); (repeat' split) <;> (first | (simp [*, foldl_kept, foldl2_kept, foldl3_kept, foldlS_kept]; done) | (simp_all [foldl_kept, foldl2_kept, foldl3_kept, foldlS_kept]; done)))

@[simp] theorem scrubBad_kept (w : Nat) (s : State) : frozen (scrubBad w s) = frozen s := by
  unfold scrubBad; simp [foldl_kept, foldl2_kept, foldl3_kept, foldlS_kept]

@[simp] theorem scrubWord_kept (k w : Nat) (s : State) : frozen (scrubWord k w s) = frozen s := by
  unfold scrubWord; (try dsimp only); (repeat' split) <;> (first | (simp [*, foldl_kept, foldl2_kept, foldl3_kept, foldlS_kept]; done) | (simp_all [foldl_kept, foldl2_kept, foldl3_kept, foldlS_kept]; done))

@[simp] theorem scrubNext_kept (k : Nat) (s : State) : frozen (scrubNext k s) = frozen s := by
  unfold scrubNext; (try dsimp only); (repeat' split) <;> (first | (simp [*, foldl_kept, foldl2_kept, foldl3_kept, foldlS_kept]; done) | (simp_all [foldl_kept, foldl2_kept, foldl3_kept, foldlS_kept]; done))

@[simp] theorem updTxn_kept (page : Nat) (f : Txn → Txn) (s : State) : frozen (updTxn page f s) = frozen s := by
  simp [updTxn]

@[simp] theorem txnBusy_kept (page : Nat) (s : State) : frozen (txnBusy page s) = frozen s := by
  simp [txnBusy]

@[simp] theorem tilesTake_kept (t : Txn) (s : State) : frozen (tilesTake t s) = frozen s := by
  first | (simp [tilesTake]; done) | (unfold tilesTake; simp [foldl_kept, foldl2_kept, foldl3_kept, foldlS_kept]; done) | (unfold tilesTake; (try dsimp only); (repeat' split) <;> (first | (simp [*, foldl_kept, foldl2_kept, foldl3_kept, foldlS_kept]; done) | (simp_all [foldl_kept, foldl2_kept, foldl3_kept, foldlS_kept]; done)))

@[simp] theorem applyRegs_kept (page : Nat) (t : Txn) (s0 : State) : frozen (applyRegs page t s0) = frozen s0 := by
  unfold applyRegs; simp [foldl_kept, foldl2_kept, foldl3_kept, foldlS_kept]

@[simp] theorem notePart_kept (page : Nat) (rej : Bool) (s : State) : frozen (notePart page rej s) = frozen s := by
  simp [notePart]

@[simp] theorem resetCounts_kept (page : Nat) (s : State) : frozen (resetCounts page s) = frozen s := by
  simp [resetCounts]

@[simp] theorem queHook_kept (page : Nat) (t : Txn) (rej : Bool) (s : State) : frozen (queHook page t rej s) = frozen s := by
  simp [queHook]

@[simp] theorem linkHook_kept (l old : Nat) (s : State) : frozen (linkHook l old s) = frozen s := by
  simp [linkHook]

@[simp] theorem applyHook_kept (page : Nat) (t : Txn) (s0 s : State) : frozen (applyHook page t s0 s) = frozen s := by
  unfold applyHook; (repeat' split) <;> (first | (simp [*, foldl_kept, foldl2_kept, foldl3_kept, foldlS_kept]; done) | (simp_all [foldl_kept, foldl2_kept, foldl3_kept, foldlS_kept]; done))

@[simp] theorem applyTxn_kept (page : Nat) (s : State) : frozen (applyTxn page s) = frozen s := by
  simp [applyTxn]

@[simp] theorem settleTxn_kept (page : Nat) (s : State) : frozen (settleTxn page s) = frozen s := by
  simp [settleTxn]

@[simp] theorem pendingSafe_kept (page : Nat) (t : Txn) (s : State) : frozen (pendingSafe page t s) = frozen s := by
  first | (simp [pendingSafe]; done) | (unfold pendingSafe; simp [foldl_kept, foldl2_kept, foldl3_kept, foldlS_kept]; done) | (unfold pendingSafe; (try dsimp only); (repeat' split) <;> (first | (simp [*, foldl_kept, foldl2_kept, foldl3_kept, foldlS_kept]; done) | (simp_all [foldl_kept, foldl2_kept, foldl3_kept, foldlS_kept]; done)))

@[simp] theorem reachSafe_kept (page : Nat) (s : State) : frozen (reachSafe page s) = frozen s := by
  simp [reachSafe]

@[simp] theorem txnBegin_kept (a : Agent) (page : Nat) (s : State) : frozen (txnBegin a page s) = frozen s := by
  simp [txnBegin]

@[simp] theorem txnCommit_kept (a : Agent) (page : Nat) (s : State) : frozen (txnCommit a page s) = frozen s := by
  simp [txnCommit]

@[simp] theorem giveBack_kept (page : Nat) (s : State) : frozen (giveBack page s) = frozen s := by
  unfold giveBack; split <;> rfl

@[simp] theorem txnAbort_kept (a : Agent) (page : Nat) (s : State) : frozen (txnAbort a page s) = frozen s := by
  simp [txnAbort]

@[simp] theorem txnCommand_kept (a : Agent) (page cmd : Nat) (s : State) : frozen (txnCommand a page cmd s) = frozen s := by
  unfold txnCommand; (repeat' split) <;> (first | (simp [*, foldl_kept, foldl2_kept, foldl3_kept, foldlS_kept]; done) | (simp_all [foldl_kept, foldl2_kept, foldl3_kept, foldlS_kept]; done))

@[simp] theorem stage_kept (page off v : Nat) (s : State) : frozen (stage page off v s) = frozen s := by
  simp [stage]

@[simp] theorem rwtPut_kept (a : Agent) (page off v : Nat) (s : State) : frozen (rwtPut a page off v s) = frozen s := by
  simp [rwtPut]

@[simp] theorem endGroup_kept (last : Nat) (s : State) : frozen (endGroup last s) = frozen s := by
  unfold endGroup; simp [foldl_kept, foldl2_kept, foldl3_kept, foldlS_kept]

@[simp] theorem updGroup_kept (f : TxnGroup → TxnGroup) (s : State) : frozen (updGroup f s) = frozen s := by
  simp [updGroup]

@[simp] theorem grpBusy_kept (s : State) : frozen (grpBusy s) = frozen s := by
  simp [grpBusy]

@[simp] theorem grpBegin_kept (a : Agent) (s : State) : frozen (grpBegin a s) = frozen s := by
  unfold grpBegin; (try dsimp only); (repeat' split) <;> (first | (simp [*, foldl_kept, foldl2_kept, foldl3_kept, foldlS_kept]; done) | (simp_all [foldl_kept, foldl2_kept, foldl3_kept, foldlS_kept]; done))

@[simp] theorem arriveNow_kept (s : State) : frozen (arriveNow s) = frozen s := by
  simp [arriveNow]

@[simp] theorem grpCommit_kept (a : Agent) (s : State) : frozen (grpCommit a s) = frozen s := by
  simp [grpCommit]

@[simp] theorem grpAbort_kept (a : Agent) (s : State) : frozen (grpAbort a s) = frozen s := by
  simp [grpAbort]

@[simp] theorem grpCommand_kept (a : Agent) (v : Nat) (s : State) : frozen (grpCommand a v s) = frozen s := by
  unfold grpCommand; (repeat' split) <;> (first | (simp [*, foldl_kept, foldl2_kept, foldl3_kept, foldlS_kept]; done) | (simp_all [foldl_kept, foldl2_kept, foldl3_kept, foldlS_kept]; done))

@[simp] theorem grpApply_kept (s : State) : frozen (grpApply s) = frozen s := by
  unfold grpApply; simp [foldl_kept, foldl2_kept, foldl3_kept, foldlS_kept]

@[simp] theorem atSafe_kept (page : Nat) (s : State) : frozen (atSafe page s) = frozen s := by
  simp [atSafe]

@[simp] theorem diagRead_kept (t : PageTy) (s : State) : frozen (diagRead t s).2 = frozen s := by
  simp [diagRead]

@[simp] theorem barRead_kept (off : Nat) (s : State) : frozen (barRead off s).2 = frozen s := by
  unfold barRead; (try dsimp only); (repeat' split) <;> (first | (simp [*, foldl_kept, foldl2_kept, foldl3_kept, foldlS_kept]; done) | (simp_all [foldl_kept, foldl2_kept, foldl3_kept, foldlS_kept]; done))

@[simp] theorem evtClear_kept (page mask recur : Nat) (s : State) : frozen (evtClear page mask recur s) = frozen s := by
  simp [evtClear]

@[simp] theorem evtForce_kept (page mask : Nat) (s : State) : frozen (evtForce page mask s) = frozen s := by
  simp [evtForce]

@[simp] theorem evtEnable_kept (page v : Nat) (s : State) : frozen (evtEnable page v s) = frozen s := by
  simp [evtEnable]

@[simp] theorem cntClear_kept (page : Nat) (s : State) : frozen (cntClear page s) = frozen s := by
  unfold cntClear; simp [foldl_kept, foldl2_kept, foldl3_kept, foldlS_kept]

@[simp] theorem lockReject_kept (s : State) : frozen (lockReject s) = frozen s := by
  simp [lockReject]

@[simp] theorem ownerWrite_kept (a : Agent) (page v : Nat) (s : State) : frozen (ownerWrite a page v s) = frozen s := by
  simp [ownerWrite]

theorem guarded_kept (a : Agent) (page : Nat) (f : State → State) (h : ∀ s, frozen (f s) = frozen s) (s : State) : frozen (guarded a page f s) = frozen s := by
  unfold guarded; (repeat' split) <;> simp [h]

@[simp] theorem badAccess_kept (s : State) : frozen (badAccess s) = frozen s := by
  simp [badAccess]

@[simp] theorem cplFree_kept (s : State) : frozen (cplFree s).2 = frozen s := by
  simp [cplFree]

@[simp] theorem softBlock_kept (page : Nat) (s : State) : frozen (softBlock page s) = frozen s := by
  unfold softBlock; (repeat' split) <;> (first | (simp [*, foldl_kept, foldl2_kept, foldl3_kept, foldlS_kept]; done) | (simp_all [foldl_kept, foldl2_kept, foldl3_kept, foldlS_kept]; done))

@[simp] theorem softRegs_kept (page : Nat) (s : State) : frozen (softRegs page s) = frozen s := by
  simp [softRegs]

@[simp] theorem softTxn_kept (page : Nat) (s : State) : frozen (softTxn page s) = frozen s := by
  unfold softTxn; (try dsimp only); (repeat' split) <;> (first | (simp [*, foldl_kept, foldl2_kept, foldl3_kept, foldlS_kept]; done) | (simp_all [foldl_kept, foldl2_kept, foldl3_kept, foldlS_kept]; done))

@[simp] theorem queCtrl_kept (q v : Nat) (s : State) : frozen (queCtrl q v s) = frozen s := by
  simp [queCtrl]

@[simp] theorem ctrlWrite_kept (page v : Nat) (s : State) : frozen (ctrlWrite page v s) = frozen s := by
  unfold ctrlWrite; (repeat' split) <;> (first | (simp [*, foldl_kept, foldl2_kept, foldl3_kept, foldlS_kept]; done) | (simp_all [foldl_kept, foldl2_kept, foldl3_kept, foldlS_kept]; done))

@[simp] theorem calResult_kept (v : Nat) (s : State) : frozen (calResult v s) = frozen s := by
  simp [calResult]

@[simp] theorem calProgram_kept (b : List Byte) (s : State) : frozen (calProgram b s) = frozen s := by
  simp [calProgram]

@[simp] theorem calStoreWith_kept (r : Option (List Byte) × State) : frozen (calStoreWith r) = frozen r.2 := by
  unfold calStoreWith; (repeat' split) <;> simp

@[simp] theorem calStore_kept  (s : State) : frozen (calStore s) = frozen s := by
  unfold calStore; rw [calStoreWith_kept, keyBytes_kept]

@[simp] theorem calOut_kept (b : List Byte) (s : State) : frozen (calOut b s) = frozen s := by
  simp [calOut]

@[simp] theorem calCommand_kept (cmd : Nat) (lm links : List Byte) (s : State) : frozen (calCommand cmd lm links s) = frozen s := by
  unfold calCommand; (repeat' split) <;> (first | (simp [*, foldl_kept, foldl2_kept, foldl3_kept, foldlS_kept]; done) | (simp_all [foldl_kept, foldl2_kept, foldl3_kept, foldlS_kept]; done))

@[simp] theorem calWrite_kept (v : Nat) (s : State) : frozen (calWrite v s) = frozen s := by
  simp [calWrite]

@[simp] theorem syncTouch_kept (s : State) : frozen (syncTouch s) = frozen s := by
  simp [syncTouch]

@[simp] theorem semOpWrite_kept (v : Nat) (s : State) : frozen (semOpWrite v s) = frozen s := by
  simp [semOpWrite]

@[simp] theorem logClear_kept (page base log : Nat) (s : State) : frozen (logClear page base log s) = frozen s := by
  simp [logClear]

@[simp] theorem injCtrl_kept (page base v : Nat) (s : State) : frozen (injCtrl page base v s) = frozen s := by
  simp [injCtrl]

@[simp] theorem attPlain_kept (v : Nat) (s : State) : frozen (attPlain v s) = frozen s := by
  simp [attPlain]

@[simp] theorem plainWrite_kept (t : PageTy) (page o v : Nat) (s : State) : frozen (plainWrite t page o v s) = frozen s := by
  unfold plainWrite; (repeat' split) <;> (first | (simp [*, foldl_kept, foldl2_kept, foldl3_kept, foldlS_kept]; done) | (simp_all [foldl_kept, foldl2_kept, foldl3_kept, foldlS_kept]; done))

@[simp] theorem txnCtrl_kept (a : Agent) (page v : Nat) (s : State) : frozen (txnCtrl a page v s) = frozen s := by
  simp [txnCtrl]

@[simp] theorem headWrite_kept (a : Agent) (page o v : Nat) (s : State) : frozen (headWrite a page o v s) = frozen s := by
  simp [headWrite]

@[simp] theorem touched_kept (a : Agent) (page : Nat) (s : State) : frozen (touched a page s) = frozen s := by
  first | (simp [touched]; done) | (unfold touched; simp [foldl_kept, foldl2_kept, foldl3_kept, foldlS_kept]; done) | (unfold touched; (try dsimp only); (repeat' split) <;> (first | (simp [*, foldl_kept, foldl2_kept, foldl3_kept, foldlS_kept]; done) | (simp_all [foldl_kept, foldl2_kept, foldl3_kept, foldlS_kept]; done)))

@[simp] theorem readBy_kept (a : Agent) (off : Nat) (s : State) : frozen (readBy a off s) = frozen s := by
  simp [readBy]

@[simp] theorem bar2Reject_kept (s : State) : frozen (bar2Reject s) = frozen s := by
  simp [bar2Reject]

@[simp] theorem bar2Get_kept (a n : Nat) (s : State) : frozen (bar2Get a n s) = frozen s := by
  simp [bar2Get]

@[simp] theorem recoveryGet_kept (o n : Nat) (s : State) : frozen (recoveryGet o n s) = frozen s := by
  simp [recoveryGet]

@[simp] theorem bar2Read_kept (o n : Nat) (s : State) : frozen (bar2Read o n s) = frozen s := by
  simp [bar2Read]

@[simp] theorem writeSome_kept (bs : List (Nat × Byte)) (s : State) (w : Nat) : frozen (writeSome bs s w) = frozen s := by
  unfold writeSome; (try dsimp only); (repeat' split) <;> (first | (simp [*, foldl_kept, foldl2_kept, foldl3_kept, foldlS_kept]; done) | (simp_all [foldl_kept, foldl2_kept, foldl3_kept, foldlS_kept]; done))

@[simp] theorem bar2Put_kept (a : Nat) (d : List (Option Byte)) (s : State) : frozen (bar2Put a d s) = frozen s := by
  unfold bar2Put; simp [foldl_kept, foldl2_kept, foldl3_kept, foldlS_kept]

@[simp] theorem bar2Write_kept (o : Nat) (d : List (Option Byte)) (s : State) : frozen (bar2Write o d s) = frozen s := by
  simp [bar2Write]

@[simp] theorem i3cReply_kept (data status : Nat) (s : State) : frozen (i3cReply data status s) = frozen s := by
  simp [i3cReply]

@[simp] theorem i3cRead_kept (off : Nat) (s : State) : frozen (i3cRead off s) = frozen s := by
  simp [i3cRead]

@[simp] theorem tick_kept (s : State) : frozen (tick s) = frozen s := by
  simp [tick]

end Sys2Proof.Machine
end

