-- ==== Sys2Proof/Laws/Fuses.lean ====
section
/-!
SUPPORT. The operations that may burn a fuse: each keeps the queue, and burns only as R549, R565 and R566 allow.
-/
namespace Sys2Proof.Machine

/-- What every operation of a command does to the queue and the fuses. -/
def Grows (s t : State) : Prop :=
  t.pending = s.pending ∧ fusesGrow s.fuses t.fuses ∧ (fusesLegal s.fuses = true → fusesLegal t.fuses = true)

theorem frozen_pending (s t : State) (h : frozen t = frozen s) : t.pending = s.pending := congrArg Prod.fst h

theorem frozen_fuses (s t : State) (h : frozen t = frozen s) : t.fuses = s.fuses := congrArg Prod.snd h

theorem Grows.refl (s : State) : Grows s s := ⟨rfl, ⟨fun _ => Nat.le_refl _, Nat.le_refl _, Nat.le_refl _, fun _ h => h⟩, fun h => h⟩

theorem Grows.trans (s t u : State) (h : Grows s t) (k : Grows t u) : Grows s u :=
  ⟨k.1.trans h.1, ⟨fun i => Nat.le_trans (h.2.1.1 i) (k.2.1.1 i), Nat.le_trans h.2.1.2.1 k.2.1.2.1,
      Nat.le_trans h.2.1.2.2.1 k.2.1.2.2.1, fun i hi => k.2.1.2.2.2 i (h.2.1.2.2.2 i hi)⟩,
    fun hl => k.2.2 (h.2.2 hl)⟩

/-- An operation that keeps the queue and the fuses grows them trivially. -/
theorem Grows.of_frozen (s t : State) (h : frozen t = frozen s) : Grows s t := by
  have hp := frozen_pending s t h
  have hf := frozen_fuses s t h
  refine ⟨hp, ?_, ?_⟩
  · rw [hf]; exact ⟨fun _ => Nat.le_refl _, Nat.le_refl _, Nat.le_refl _, fun _ h => h⟩
  · rw [hf]; exact fun h => h

/-- More fuses that read 1 never lower the number of leading blown groups. -/
theorem leading_mono (l m : List Nat) (hlen : l.length = m.length) (h : ∀ i, nth l i 0 ≤ nth m i 0) :
    (l.takeWhile fun g => decide (5 ≤ g)).length ≤ (m.takeWhile fun g => decide (5 ≤ g)).length := by
  induction l generalizing m with
  | nil => simp
  | cons x l ih =>
    cases m with
    | nil => cases hlen
    | cons y m =>
      have h0 : x ≤ y := by simpa [nth] using h 0
      have ht : ∀ i, nth l i 0 ≤ nth m i 0 := fun i => by simpa [nth] using h (i + 1)
      have := ih m (by simpa using hlen) ht
      by_cases hx : 5 ≤ x
      · have hy : 5 ≤ y := Nat.le_trans hx h0
        simpa [List.takeWhile_cons, hx, hy] using this
      · simp [List.takeWhile_cons, hx]

/-- An operation that only blows life-cycle fuses, at most eight in a group. -/
theorem groups_grow (s : State) (l : List Nat) (hlen : l.length = s.fuses.groups.length) (h : ∀ i, nth s.fuses.groups i 0 ≤ nth l i 0)
    (h8 : (∀ g ∈ s.fuses.groups, g ≤ 8) → ∀ g ∈ l, g ≤ 8) : Grows s { s with fuses := { s.fuses with groups := l } } := by
  refine ⟨rfl, ⟨h, leading_mono _ _ hlen.symm h, Nat.le_refl _, fun _ h => h⟩, ?_⟩
  intro hl
  simp only [fusesLegal, Bool.and_eq_true, List.all_eq_true, decide_eq_true_eq] at hl ⊢
  exact ⟨⟨⟨hlen.trans hl.1.1.1, h8 hl.1.1.2⟩, hl.1.2⟩, hl.2⟩

theorem nth_updAt {α : Type} (l : List α) (i j : Nat) (f : α → α) (d : α) :
    nth (updAt l i f) j d = if j = i ∧ i < l.length then f (nth l i d) else nth l j d := by
  induction l generalizing i j with
  | nil => simp [updAt, nth]
  | cons x l ih =>
    cases i with
    | zero => cases j with
      | zero => simp [updAt, nth]
      | succ j => simp [updAt, nth]
    | succ i => cases j with
      | zero => simp [updAt, nth]
      | succ j =>
        have := ih i j
        simp only [nth] at this ⊢
        simp only [updAt, List.getElem?_cons_succ, List.length_cons, Nat.add_right_cancel_iff, Nat.add_lt_add_iff_right]
        exact this

@[simp] theorem length_updAt {α : Type} (l : List α) (i : Nat) (f : α → α) : (updAt l i f).length = l.length := by
  induction l generalizing i with
  | nil => rfl
  | cons x l ih => cases i <;> simp [updAt, ih]

/-- `blowGroups` only blows fuses. -/
theorem blow_grows (lo hi : Nat) (s : State) : Grows s { s with fuses := blowGroups lo hi s.fuses } := by
  refine groups_grow s _ (by simp [blowGroups]) ?_ ?_
  · intro i
    simp only [nth, List.getElem?_map, List.getElem?_zipIdx, Nat.zero_add]
    by_cases h : i < s.fuses.groups.length
    · simp only [List.getElem?_eq_getElem h, Option.map_some, Option.getD_some]
      split
      · exact Nat.le_max_right _ _
      · exact Nat.le_refl _
    · simp [List.getElem?_eq_none (Nat.le_of_not_lt h)]
  · intro h g hg
    obtain ⟨x, hx, rfl⟩ := List.mem_map.1 hg
    have := h _ (List.fst_mem_of_mem_zipIdx hx)
    split
    · exact Nat.max_le.2 ⟨Nat.le_refl _, this⟩
    · exact this

/-- The power-up sequence blows at most what an interrupted transition left (R550). -/
theorem startUp_grows (kat : Nat) (s : State) : Grows s (startUp kat s) := by
  have hc : frozen (coldReset .starting s) = frozen s := rfl
  have e : Grows s (completeLife (coldReset .starting s)) := (Grows.of_frozen _ _ hc).trans _ _ _ (blow_grows _ _ _)
  unfold startUp
  dsimp only
  split
  · exact (Grows.of_frozen _ _ hc).trans _ _ _ (Grows.of_frozen _ _ (romHalts_kept _ _))
  · split
    · exact e.trans _ _ _ (Grows.of_frozen _ _ (romHalts_kept _ _))
    · exact e.trans _ _ _ (Grows.of_frozen _ _ (verifySlots_kept _))

/-- The end of a transition, after its fuses. -/
theorem lcReset_grows (s : State) : Grows s (lcReset s) := by
  unfold lcReset
  dsimp only
  exact (Grows.of_frozen _ _ (by rw [freshNat_kept, wipe_kept])).trans _ _ _ (startUp_grows _ _)

/-- A transition whose last group does not read back still only blows fuses. -/
theorem lcFault_grows (m n k : Nat) (s : State) : Grows s (lcFault m n k s) := by
  unfold lcFault
  dsimp only
  refine Grows.trans _ _ _ ((blow_grows (m + 1) n s).trans _ _ _ (groups_grow _ _ (length_updAt _ _ _) ?_ ?_))
    (Grows.of_frozen _ _ (setReg_kept _ _ _ _))
  · intro i
    rw [nth_updAt]
    split
    · rename_i h; rw [h.1]; exact Nat.le_max_left _ _
    · exact Nat.le_refl _
  · intro h g hg
    obtain ⟨i, hi, rfl⟩ := List.getElem_of_mem hg
    have e := nth_updAt (blowGroups (m + 1) n s.fuses).groups m i (fun g => max g (k % 5)) 0
    simp only [nth, List.getElem?_eq_getElem hi, Option.getD_some] at e
    have hi' : i < (blowGroups (m + 1) n s.fuses).groups.length := by simpa using hi
    rw [List.getElem?_eq_getElem hi', Option.getD_some] at e
    have hx := h _ (List.getElem_mem hi')
    rw [e]
    split
    · rename_i hm
      have hj : m < (blowGroups (m + 1) n s.fuses).groups.length := hm.2
      simp only [List.getElem?_eq_getElem hj, Option.getD_some]
      exact Nat.max_le.2 ⟨h _ (List.getElem_mem hj), Nat.le_trans (Nat.le_of_lt (Nat.mod_lt _ (by decide))) (by decide)⟩
    · exact hx

/-- A life-cycle transition only blows fuses, whatever reads back (R550, R552). -/
theorem lcMove_grows (n : Nat) (s : State) : Grows s (lcMove n s) := by
  unfold lcMove
  dsimp only
  have hf : frozen (freshNat s).2 = frozen s := freshNat_kept _
  split
  · exact ((Grows.of_frozen _ _ hf).trans _ _ _ (blow_grows _ _ _)).trans _ _ _ (lcReset_grows _)
  · exact (Grows.of_frozen _ _ hf).trans _ _ _ (lcFault_grows _ _ _ _)

theorem lcReq_grows (v : Nat) (s : State) : Grows s (lcReq v s) := by
  unfold lcReq
  dsimp only
  have h0 : frozen (setReg pgSec 0x044 (v % 8) s) = frozen s := setReg_kept _ _ _ _
  generalize setReg pgSec 0x044 (v % 8) s = s0 at h0 ⊢
  refine (Grows.of_frozen _ _ h0).trans _ _ _ ?_
  split
  · exact Grows.of_frozen _ _ (setReg_kept _ _ _ _)
  · split
    · exact Grows.of_frozen _ _ (setReg_kept _ _ _ _)
    · have hk := lcToken_kept (v % 8) s0
      generalize lcToken (v % 8) s0 = r at hk ⊢
      split
      · exact (Grows.of_frozen _ _ hk).trans _ _ _ (lcMove_grows _ _)
      · exact Grows.of_frozen _ _ (by rw [setReg_kept, hk])

/-- A list with an entry that is not `true` has one below its length. -/
theorem any_not_iff (l : List Bool) : (l.any fun r => !r) = true ↔ ∃ i, i < l.length ∧ nth l i true = false := by
  induction l with
  | nil => simp
  | cons x l ih =>
    rw [List.any_cons, Bool.or_eq_true, ih]
    constructor
    · rintro (h | ⟨i, hi, h⟩)
      · exact ⟨0, by simp, by simpa [nth] using h⟩
      · exact ⟨i + 1, by simpa using hi, by simpa [nth] using h⟩
    · rintro ⟨i, hi, h⟩
      cases i with
      | zero => exact .inl (by simpa [nth] using h)
      | succ i => exact .inr ⟨i, by simpa using hi, by simpa [nth] using h⟩

theorem revokeWrite_grows (v : Nat) (s : State) : Grows s (revokeWrite v s) := by
  unfold revokeWrite
  split
  · split
    · rename_i hm
      refine ⟨rfl, ⟨fun _ => Nat.le_refl _, Nat.le_refl _, Nat.le_refl _, ?_⟩, ?_⟩
      · intro k hk
        simp only [nth_updAt]
        split
        · rfl
        · exact hk
      · intro hl
        simp only [fusesLegal, Bool.and_eq_true, decide_eq_true_eq, length_updAt, any_not_iff] at hl ⊢
        refine ⟨hl.1, ?_⟩
        simp only [mayRevoke, Bool.and_eq_true, List.any_eq_true, List.mem_range, decide_eq_true_eq, Bool.not_eq_true'] at hm
        obtain ⟨i, hi, hne, hf⟩ := hm.2
        refine ⟨i, by rw [hl.1.2]; exact hi, ?_⟩
        rw [nth_updAt, if_neg (by intro h; exact hne h.1)]
        exact hf
    · exact Grows.of_frozen _ _ (raise_kept _ _ _)
  · exact Grows.refl s

theorem svnWrite_grows (v : Nat) (s : State) : Grows s (svnWrite v s) := by
  unfold svnWrite
  split
  · refine ⟨rfl, ⟨fun _ => Nat.le_refl _, Nat.le_refl _, Nat.le_max_left _ _, fun _ h => h⟩, ?_⟩
    intro hl; exact hl
  · exact Grows.refl s

theorem memPageWrite_kept (page base o v : Nat) (s t : State) (h : memPageWrite page base o v s = some t) : frozen t = frozen s := by
  unfold memPageWrite at h
  split at h
  · rw [← Option.some.inj h]; split
    · rw [logClear_kept]
    · rfl
  · split at h
    · rw [← Option.some.inj h, injCtrl_kept]
    · cases h

theorem pick_grows (c : Prop) [Decidable c] (s a t : State) (r : Option State) (h : (if c then some a else r) = some t)
    (ha : Grows s a) (hr : r = some t → Grows s t) : Grows s t := by
  split at h
  · rw [← Option.some.inj h]; exact ha
  · exact hr h

theorem actionWrite_grows (a : Agent) (ty : PageTy) (page o v : Nat) (s t : State) (h : actionWrite a ty page o v s = some t) : Grows s t := by
  unfold actionWrite at h
  cases ty <;> dsimp only at h
  case eng => exact Grows.of_frozen _ _ (memPageWrite_kept _ _ _ _ _ _ h)
  case bm => exact Grows.of_frozen _ _ (memPageWrite_kept _ _ _ _ _ _ h)
  case lm => exact Grows.of_frozen _ _ (memPageWrite_kept _ _ _ _ _ _ h)
  case txn => exact pick_grows _ _ _ _ _ h (Grows.of_frozen _ _ (grpCommand_kept _ _ _)) (fun e => by cases e)
  case cfe =>
    exact pick_grows _ _ _ _ _ h (Grows.of_frozen _ _ (stateReqWrite_kept _ _))
      (fun e => pick_grows _ _ _ _ _ e (Grows.of_frozen _ _ (abortWrite_kept _ _)) (fun e => by cases e))
  case que =>
    exact pick_grows _ _ _ _ _ h (Grows.of_frozen _ _ (tailWrite_kept _ _ _))
      (fun e => pick_grows _ _ _ _ _ e (Grows.of_frozen _ _ (cqHeadWrite_kept _ _ _)) (fun e => by cases e))
  case sync => exact pick_grows _ _ _ _ _ h (Grows.of_frozen _ _ (semOpWrite_kept _ _)) (fun e => by cases e)
  case cert => exact pick_grows _ _ _ _ _ h (Grows.of_frozen _ _ (ringRdWrite_kept _ _)) (fun e => by cases e)
  case power => exact pick_grows _ _ _ _ _ h (Grows.of_frozen _ _ (setReg_kept _ _ _ _)) (fun e => by cases e)
  case cal => exact pick_grows _ _ _ _ _ h (Grows.of_frozen _ _ (calWrite_kept _ _)) (fun e => by cases e)
  case sec =>
    exact pick_grows _ _ _ _ _ h (lcReq_grows _ _)
      (fun e => pick_grows _ _ _ _ _ e (Grows.of_frozen _ _ (by split <;> simp))
        (fun e => pick_grows _ _ _ _ _ e (revokeWrite_grows _ _)
          (fun e => pick_grows _ _ _ _ _ e (svnWrite_grows _ _) (fun e => by cases e))))
  case key =>
    exact pick_grows _ _ _ _ _ h (Grows.of_frozen _ _ (provWrite_kept _ _))
      (fun e => pick_grows _ _ _ _ _ e (Grows.of_frozen _ _ (attPlain_kept _ _)) (fun e => by cases e))
  case entropy =>
    exact pick_grows _ _ _ _ _ h (Grows.of_frozen _ _ (hReqWrite_kept _ _))
      (fun e => pick_grows _ _ _ _ _ e (Grows.of_frozen _ _ (patternWrite_kept _ _)) (fun e => by cases e))
  case boot => exact pick_grows _ _ _ _ _ h (Grows.of_frozen _ _ (recoveryWrite_kept _ _)) (fun e => by cases e)
  all_goals cases h

theorem ownWrite_grows (a : Agent) (ty : PageTy) (page o v : Nat) (s : State) : Grows s (ownWrite a ty page o v s) := by
  unfold ownWrite
  split
  · exact Grows.refl s
  · split
    · exact Grows.of_frozen _ _ (by simp)
    · split
      · rename_i h; exact actionWrite_grows _ _ _ _ _ _ _ h
      · exact Grows.of_frozen _ _ (by simp)

/-- A write of any register by an agent. -/
theorem barWrite_grows (a : Agent) (off v : Nat) (s : State) : Grows s (barWrite a off v s) := by
  have hg : Grows s (guarded a (pageOf off) (fun s => if regOf off < 0x040 then headWrite a (pageOf off) (regOf off) v s
      else ownWrite a (tyOf (pageOf off)) (pageOf off) (regOf off) v s) s) := by
    unfold guarded
    split
    · exact Grows.refl s
    · split
      · exact Grows.of_frozen _ _ (lockReject_kept _)
      · dsimp only
        split
        · exact Grows.of_frozen _ _ (by simp)
        · exact ownWrite_grows _ _ _ _ _ _
  exact hg.trans _ _ _ (Grows.of_frozen _ _ (touched_kept _ _ _))

theorem i3cWrite_grows (off v : Nat) (s : State) : Grows s (i3cWrite off v s) := by
  unfold i3cWrite
  dsimp only
  split
  · exact Grows.of_frozen _ _ (by simp)
  · split
    · exact (barWrite_grows _ _ _ _).trans _ _ _ (Grows.of_frozen _ _ (i3cReply_kept _ _ _))
    · exact barWrite_grows _ _ _ _

/-- The outcome of a register command. -/
theorem writeBy_grows (unit : Bool) (a : Agent) (page o v : Nat) (s t : State) (h : writeBy unit a page o v s = .next t) :
    Grows s t := by
  unfold writeBy act at h
  split at h
  · split at h
    · rw [← Host.Outcome.next.inj h]; exact barWrite_grows _ _ _ _
    · rw [← Host.Outcome.next.inj h]; exact Grows.refl s
  · cases h

end Sys2Proof.Machine
end

