-- ==== Sys2Proof/Laws/MemFrame.lean ====
section
/-!
SUPPORT. The operations that leave every byte of device memory: one lemma for each.
-/
namespace Sys2Proof.Machine

set_option linter.unusedSimpArgs false
set_option linter.unusedVariables false

/-- The bytes that the state lists. -/
def memF (s : State) : Sparse Byte := s.mem
theorem memF_fold (s : State) : s.mem = memF s := rfl
@[simp] theorem memF_mk a0 a1 a2 a3 a4 a5 a6 a7 a8 a9 a10 a11 a12 a13 a14 a15 a16 a17 a18 a19 a20 a21 a22 a23 a24 a25 a26 a27 a28 a29 a30 a31 a32 a33 a34 a35 a36 a37 a38 a39 a40 a41 a42 a43 a44 a45 a46 a47 a48 a49 a50 a51 a52 a53 a54 a55 a56 a57 :
    memF (State.mk a0 a1 a2 a3 a4 a5 a6 a7 a8 a9 a10 a11 a12 a13 a14 a15 a16 a17 a18 a19 a20 a21 a22 a23 a24 a25 a26 a27 a28 a29 a30 a31 a32 a33 a34 a35 a36 a37 a38 a39 a40 a41 a42 a43 a44 a45 a46 a47 a48 a49 a50 a51 a52 a53 a54 a55 a56 a57) = a9 := rfl
@[simp] theorem ite_mem (c : Prop) [Decidable c] (a b : State) : memF (if c then a else b) = (if c then memF a else memF b) := by
  split <;> rfl
@[simp] theorem pair_ite_mem {α : Type} (c : Prop) [Decidable c] (a b : α × State) :
    memF (if c then a else b).2 = (if c then memF a.2 else memF b.2) := by
  split <;> rfl
theorem foldl_mem {α : Type} (f : State → α → State) (l : List α) (s : State) (h : ∀ s a, memF (f s a) = memF s) :
    memF (l.foldl f s) = memF s := by
  induction l generalizing s with
  | nil => rfl
  | cons x l ih => rw [List.foldl_cons, ih, h]
theorem foldl2_mem {α β : Type} (f : β × State → α → β × State) (l : List α) (s : β × State)
    (h : ∀ s a, memF (f s a).2 = memF s.2) : memF (l.foldl f s).2 = memF s.2 := by
  induction l generalizing s with
  | nil => rfl
  | cons x l ih => rw [List.foldl_cons, ih, h]
theorem foldl3_mem {α β γ : Type} (f : β × γ × State → α → β × γ × State) (l : List α) (s : β × γ × State)
    (h : ∀ s a, memF (f s a).2.2 = memF s.2.2) : memF (l.foldl f s).2.2 = memF s.2.2 := by
  induction l generalizing s with
  | nil => rfl
  | cons x l ih => rw [List.foldl_cons, ih, h]
theorem foldlS_mem {α β : Type} (f : State × β → α → State × β) (l : List α) (s : State × β)
    (h : ∀ s a, memF (f s a).1 = memF s.1) : memF (l.foldl f s).1 = memF s.1 := by
  induction l generalizing s with
  | nil => rfl
  | cons x l ih => rw [List.foldl_cons, ih, h]
theorem iter_mem (f : Nat → State → State) (n : Nat) (s : State) (h : ∀ k s, memF (f k s) = memF s) :
    memF (iter f n s) = memF s := by
  induction n generalizing s with
  | zero => rfl
  | succ n ih => rw [iter, h, ih]

@[simp] theorem emit_mem (o : BusOut) (s : State) : memF (emit o s) = memF s := by
  simp [memF_fold, emit]

@[simp] theorem freshNat_mem (s : State) : memF (freshNat s).2 = memF s := by
  simp [memF_fold, freshNat]

@[simp] theorem setReg_mem (page off v : Nat) (s : State) : memF (setReg page off v s) = memF s := by
  simp [memF_fold, setReg]

@[simp] theorem setBit_mem (page off i : Nat) (b : Bool) (s : State) : memF (setBit page off i b s) = memF s := by
  simp [memF_fold, setBit]

@[simp] theorem setField_mem (page off lo w v : Nat) (s : State) : memF (setField page off lo w v s) = memF s := by
  simp [memF_fold, setField]

@[simp] theorem setRegPair_mem (page off v : Nat) (s : State) : memF (setRegPair page off v s) = memF s := by
  simp [memF_fold, setRegPair]

@[simp] theorem setWide_mem (page off v : Nat) (s : State) : memF (setWide page off v s) = memF s := by
  simp [memF_fold, setWide]

@[simp] theorem msix_mem (vec : Nat) (s : State) : memF (msix vec s) = memF s := by
  simp [memF_fold, msix]

@[simp] theorem eventMessage_mem (page : Nat) (before : Bool) (s : State) : memF (eventMessage page before s) = memF s := by
  simp [memF_fold, eventMessage]

@[simp] theorem raiseMask_mem (page mask : Nat) (s : State) : memF (raiseMask page mask s) = memF s := by
  simp [memF_fold, raiseMask]

@[simp] theorem raise_mem (page bit : Nat) (s : State) : memF (raise page bit s) = memF s := by
  simp [memF_fold, raise]

@[simp] theorem raiseSend_mem (page bit : Nat) (s : State) : memF (raiseSend page bit s) = memF s := by
  simp [memF_fold, raiseSend]

@[simp] theorem noteSat_mem (page : Nat) (s : State) : memF (noteSat page s) = memF s := by
  simp [memF_fold, noteSat]

@[simp] theorem bumpN_mem (page off n : Nat) (s : State) : memF (bumpN page off n s) = memF s := by
  simp [memF_fold, bumpN]

@[simp] theorem bump_mem (page off : Nat) (s : State) : memF (bump page off s) = memF s := by
  simp [memF_fold, bump]

@[simp] theorem setTxn_mem (page : Nat) (t : Txn) (s : State) : memF (setTxn page t s) = memF s := by
  simp [memF_fold, setTxn]

@[simp] theorem logRead_mem (a : Nat) (c : RdClass) (src : Nat) (s : State) : memF (logRead a c src s) = memF s := by
  simp [memF_fold, logRead]

@[simp] theorem setMark_mem (w : Nat) (m : Mark) (s : State) : memF (setMark w m s) = memF s := by
  simp [memF_fold, setMark]

@[simp] theorem poisonWord_mem (w : Nat) (s : State) : memF (poisonWord w s) = memF s := by
  simp [memF_fold, poisonWord]

@[simp] theorem wroteWord_mem (w : Nat) (s : State) : memF (wroteWord w s) = memF s := by
  simp [memF_fold, wroteWord]

@[simp] theorem armRun_mem (a n : Nat) (s : State) : memF (armRun a n s) = memF s := by
  unfold armRun; split
  · rfl
  · refine foldl_mem _ _ _ ?_; intro s w; split <;> simp

@[simp] theorem noteWritten_mem (a n : Nat) (s : State) : memF (noteWritten a n s) = memF s := by
  unfold noteWritten; split
  · rw [memF_mk, memF_fold]
  · rfl

@[simp] theorem updCtx_mem (c : Nat) (f : Ctx → Ctx) (s : State) : memF (updCtx c f s) = memF s := by
  simp [memF_fold, updCtx]

@[simp] theorem freeCtx_mem (c : Nat) (s : State) : memF (freeCtx c s) = memF s := by
  simp [memF_fold, freeCtx]

@[simp] theorem recAdd_mem (c i n : Nat) (s : State) : memF (recAdd c i n s) = memF s := by
  simp [memF_fold, recAdd]

@[simp] theorem settleIssue_mem (s : State) : memF (settleIssue s) = memF s := by
  first | (simp [memF_fold, settleIssue]; done) | (unfold settleIssue; simp [memF_fold, foldl_mem, foldl2_mem, foldl3_mem, foldlS_mem]; done) | (unfold settleIssue; (try dsimp only); (repeat' split) <;> (first | (simp [*, memF_fold, foldl_mem, foldl2_mem, foldl3_mem, foldlS_mem]; done) | (simp_all [memF_fold, foldl_mem, foldl2_mem, foldl3_mem, foldlS_mem]; done)))

@[simp] theorem noteOp_mem (s : State) : memF (noteOp s) = memF s := by
  simp [memF_fold, noteOp]

@[simp] theorem semSet_mem (n v : Nat) (s : State) : memF (semSet n v s) = memF s := by
  simp [memF_fold, semSet]

@[simp] theorem semAdd_mem (n v : Nat) (s : State) : memF (semAdd n v s) = memF s := by
  simp [memF_fold, semAdd]

@[simp] theorem semDo_mem (set : Bool) (n v : Nat) (s : State) : memF (semDo set n v s) = memF s := by
  simp [memF_fold, semDo]

@[simp] theorem latchAll_mem (s : State) : memF (latchAll s) = memF s := by
  simp [memF_fold, latchAll]

@[simp] theorem trackStall_mem (s : State) : memF (trackStall s) = memF s := by
  simp [memF_fold, trackStall]

@[simp] theorem noteCpl_mem (c : Cpl) (s : State) : memF (noteCpl c s) = memF s := by
  unfold noteCpl; (repeat' split) <;> (first | (simp [memF_fold, *, foldl_mem, foldl2_mem, foldl3_mem, foldlS_mem]; done) | (simp_all [memF_fold, foldl_mem, foldl2_mem, foldl3_mem, foldlS_mem]; done))

@[simp] theorem hostTry_mem (a n : Nat) (rs : List Cpl) (s : State) : memF (hostTry a n rs s).2 = memF s := by
  induction n generalizing rs s with
  | zero => simp [memF_fold, hostTry]
  | succ n ih => unfold hostTry; dsimp only; (repeat' split) <;> simp [memF_fold, ih]

@[simp] theorem hostGet_mem (a : Nat) (rs : List Cpl) (n : Nat) (s : State) : memF (hostGet a rs n s).2 = memF s := by
  simp [memF_fold, hostGet]

@[simp] theorem internalFault_mem (s : State) : memF (internalFault s).2 = memF s := by
  simp [memF_fold, internalFault]

@[simp] theorem nextCertSeq_mem (s : State) : memF (nextCertSeq s).2 = memF s := by
  simp [memF_fold, nextCertSeq]

@[simp] theorem updCert_mem (f : CertUnit → CertUnit) (s : State) : memF (updCert f s) = memF s := by
  simp [memF_fold, updCert]

@[simp] theorem tagWindow_mem (n : Nat) (cs : List CertW) (s : State) : memF (tagWindow n cs s) = memF s := by
  unfold tagWindow; apply foldl_mem; intro s a; (repeat' split) <;> simp [memF_fold]

@[simp] theorem closeWindow_mem (s : State) : memF (closeWindow s) = memF s := by
  unfold closeWindow; (repeat' split) <;> (first | (simp [memF_fold, *, foldl_mem, foldl2_mem, foldl3_mem, foldlS_mem]; done) | (simp_all [memF_fold, foldl_mem, foldl2_mem, foldl3_mem, foldlS_mem]; done))

@[simp] theorem closeFull_mem (s : State) : memF (closeFull s) = memF s := by
  unfold closeFull; (repeat' split) <;> (first | (simp [memF_fold, *, foldl_mem, foldl2_mem, foldl3_mem, foldlS_mem]; done) | (simp_all [memF_fold, foldl_mem, foldl2_mem, foldl3_mem, foldlS_mem]; done))

@[simp] theorem joinWindow_mem (c : CertW) (s : State) : memF (joinWindow c s) = memF s := by
  unfold joinWindow; (repeat' split) <;> (first | (simp [memF_fold, *, foldl_mem, foldl2_mem, foldl3_mem, foldlS_mem]; done) | (simp_all [memF_fold, foldl_mem, foldl2_mem, foldl3_mem, foldlS_mem]; done))

@[simp] theorem refreshWindows_mem (ctx seq : Nat) (b : List Byte) (s : State) : memF (refreshWindows ctx seq b s) = memF s := by
  simp [memF_fold, refreshWindows]

@[simp] theorem ringChange_mem (s : State) : memF (ringChange s) = memF s := by
  simp [memF_fold, ringChange]

@[simp] theorem releaseSigned_mem (cs : List CertW) (s : State) : memF (releaseSigned cs s) = memF s := by
  unfold releaseSigned; apply foldl_mem; intro s a; (repeat' split) <;> simp [memF_fold]

@[simp] theorem queueFollows_mem (cs : List CertW) (n : Nat) (s : State) : memF (queueFollows cs n s) = memF s := by
  unfold queueFollows; apply foldl_mem; intro s a; (repeat' split) <;> simp [memF_fold]

@[simp] theorem updBell_mem (q : Nat) (f : Bell → Bell) (s : State) : memF (updBell q f s) = memF s := by
  simp [memF_fold, updBell]

@[simp] theorem updBellProg_mem (q p : Nat) (f : BellProg → BellProg) (s : State) : memF (updBellProg q p f s) = memF s := by
  simp [memF_fold, updBellProg]

@[simp] theorem admitRecheck_mem (q : Nat) (s : State) : memF (admitRecheck q s) = memF s := by
  unfold admitRecheck; dsimp only; (repeat' split) <;> (first | (simp [memF_fold, *, foldl_mem, foldl2_mem, foldl3_mem, foldlS_mem]; done) | (simp_all [memF_fold, foldl_mem, foldl2_mem, foldl3_mem, foldlS_mem]; done))

@[simp] theorem addCause_mem (c : Nat) (k : Cause) (s : State) : memF (addCause c k s) = memF s := by
  unfold addCause; (repeat' split) <;> (first | (simp [memF_fold, *, foldl_mem, foldl2_mem, foldl3_mem, foldlS_mem]; done) | (simp_all [memF_fold, foldl_mem, foldl2_mem, foldl3_mem, foldlS_mem]; done))

@[simp] theorem applySignal_mem (c k : Nat) (g : Signal) (s : State) : memF (applySignal c k g s) = memF s := by
  simp [memF_fold, applySignal]

@[simp] theorem applySignals_mem (c : Nat) (s : State) : memF (applySignals c s) = memF s := by
  unfold applySignals; (repeat' split) <;> (first | (simp [memF_fold, *, foldl_mem, foldl2_mem, foldl3_mem, foldlS_mem]; done) | (simp_all [memF_fold, foldl_mem, foldl2_mem, foldl3_mem, foldlS_mem]; done))

@[simp] theorem tellAudits_mem (x : Ctx) (seq : Option Nat) (b : List Byte) (s : State) : memF (tellAudits x seq b s) = memF s := by
  simp [memF_fold, tellAudits]

@[simp] theorem tellIssued_mem (x : Ctx) (s : State) : memF (tellIssued x s) = memF s := by
  simp [memF_fold, tellIssued]

@[simp] theorem noteBell_mem (c : Nat) (s : State) : memF (noteBell c s) = memF s := by
  unfold noteBell; (repeat' split) <;> (first | (simp [memF_fold, *, foldl_mem, foldl2_mem, foldl3_mem, foldlS_mem]; done) | (simp_all [memF_fold, foldl_mem, foldl2_mem, foldl3_mem, foldlS_mem]; done))

@[simp] theorem afterRelease_mem (x : Ctx) (s : State) : memF (afterRelease x s) = memF s := by
  unfold afterRelease; dsimp only; (repeat' split) <;> (first | (simp [memF_fold, *, foldl_mem, foldl2_mem, foldl3_mem, foldlS_mem]; done) | (simp_all [memF_fold, foldl_mem, foldl2_mem, foldl3_mem, foldlS_mem]; done))

@[simp] theorem tellBuffer_mem (x : Ctx) (s : State) : memF (tellBuffer x s) = memF s := by
  unfold tellBuffer; (repeat' split) <;> (first | (simp [memF_fold, *, foldl_mem, foldl2_mem, foldl3_mem, foldlS_mem]; done) | (simp_all [memF_fold, foldl_mem, foldl2_mem, foldl3_mem, foldlS_mem]; done))

@[simp] theorem noteAborted_mem (x : Ctx) (s : State) : memF (noteAborted x s) = memF s := by
  unfold noteAborted; (repeat' split) <;> (first | (simp [memF_fold, *, foldl_mem, foldl2_mem, foldl3_mem, foldlS_mem]; done) | (simp_all [memF_fold, foldl_mem, foldl2_mem, foldl3_mem, foldlS_mem]; done))

@[simp] theorem holdPending_mem (x : Ctx) (s : State) : memF (holdPending x s) = memF s := by
  simp [memF_fold, holdPending]

@[simp] theorem endRun_mem (x : Ctx) (s : State) : memF (endRun x s) = memF s := by
  unfold endRun; (repeat' split) <;> (first | (simp [memF_fold, *, foldl_mem, foldl2_mem, foldl3_mem, foldlS_mem]; done) | (simp_all [memF_fold, foldl_mem, foldl2_mem, foldl3_mem, foldlS_mem]; done))

@[simp] theorem updQueue_mem (q : Nat) (f : Queue → Queue) (s : State) : memF (updQueue q f s) = memF s := by
  simp [memF_fold, updQueue]

@[simp] theorem freeRec_mem (r : RecW) (s : State) : memF (freeRec r s) = memF s := by
  unfold freeRec; (repeat' split) <;> (first | (simp [memF_fold, *, foldl_mem, foldl2_mem, foldl3_mem, foldlS_mem]; done) | (simp_all [memF_fold, foldl_mem, foldl2_mem, foldl3_mem, foldlS_mem]; done))

@[simp] theorem keepRecord_mem (x : Ctx) (b : List Byte) (s : State) : memF (keepRecord x b s) = memF s := by
  first | (simp [memF_fold, keepRecord]; done) | (unfold keepRecord; simp [memF_fold, foldl_mem, foldl2_mem, foldl3_mem, foldlS_mem]; done) | (unfold keepRecord; (try dsimp only); (repeat' split) <;> (first | (simp [*, memF_fold, foldl_mem, foldl2_mem, foldl3_mem, foldlS_mem]; done) | (simp_all [memF_fold, foldl_mem, foldl2_mem, foldl3_mem, foldlS_mem]; done)))

@[simp] theorem putRecord_mem (q : Nat) (r : RecW) (s : State) : memF (putRecord q r s) = memF s := by
  simp [memF_fold, putRecord]

@[simp] theorem bufferRecord_mem (q : Nat) (r : RecW) (s : State) : memF (bufferRecord q r s) = memF s := by
  simp [memF_fold, bufferRecord]

@[simp] theorem serveOne_mem (q : Nat) (s : State) : memF (serveOne q s) = memF s := by
  unfold serveOne; dsimp only; (repeat' split) <;> (first | (simp [memF_fold, *, foldl_mem, foldl2_mem, foldl3_mem, foldlS_mem]; done) | (simp_all [memF_fold, foldl_mem, foldl2_mem, foldl3_mem, foldlS_mem]; done))

@[simp] theorem serveQueue_mem (s : State) (q : Nat) : memF (serveQueue s q) = memF s := by
  unfold serveQueue; apply iter_mem; simp

@[simp] theorem replayOver_mem (s : State) (q : Nat) : memF (replayOver s q) = memF s := by
  simp [memF_fold, replayOver]

@[simp] theorem flushTry_mem (a n : Nat) (rs : List Cpl) (s : State) : memF (flushTry a n rs s).2 = memF s := by
  induction n generalizing rs s with
  | zero => simp [memF_fold, flushTry]
  | succ n ih => unfold flushTry; dsimp only; (repeat' split) <;> simp [memF_fold, ih]

@[simp] theorem faultMessage_mem (s : State) : memF (faultMessage s) = memF s := by
  simp [memF_fold, faultMessage]

@[simp] theorem faultQueue_mem (q cause : Nat) (s : State) : memF (faultQueue q cause s) = memF s := by
  simp [memF_fold, faultQueue]

@[simp] theorem bufferWritten_mem (q : Nat) (s : State) : memF (bufferWritten q s) = memF s := by
  simp [memF_fold, bufferWritten]

@[simp] theorem coalesce_mem (q : Nat) (rs : List RecW) (s : State) : memF (coalesce q rs s) = memF s := by
  unfold coalesce; simp [memF_fold, foldl_mem, foldl2_mem, foldl3_mem, foldlS_mem]

@[simp] theorem confirm_mem (q : Nat) (s : State) : memF (confirm q s) = memF s := by
  unfold confirm; simp [memF_fold, foldl_mem, foldl2_mem, foldl3_mem, foldlS_mem]

@[simp] theorem updLink_mem (l : Nat) (f : Link → Link) (s : State) : memF (updLink l f s) = memF s := by
  simp [memF_fold, updLink]

@[simp] theorem updNet_mem (f : Net → Net) (s : State) : memF (updNet f s) = memF s := by
  simp [memF_fold, updNet]

@[simp] theorem freeBuf_mem (inp : Option (Nat × Nat)) (s : State) : memF (freeBuf inp s) = memF s := by
  unfold freeBuf; (repeat' split) <;> (first | (simp [memF_fold, *, foldl_mem, foldl2_mem, foldl3_mem, foldlS_mem]; done) | (simp_all [memF_fold, foldl_mem, foldl2_mem, foldl3_mem, foldlS_mem]; done))

@[simp] theorem routeFlit_mem (f : QFlit) (via : Option (Nat × Bool)) (s : State) : memF (routeFlit f via s) = memF s := by
  unfold routeFlit; (repeat' split) <;> (first | (simp [memF_fold, *, foldl_mem, foldl2_mem, foldl3_mem, foldlS_mem]; done) | (simp_all [memF_fold, foldl_mem, foldl2_mem, foldl3_mem, foldlS_mem]; done))

@[simp] theorem nextMsg_mem (dst cls chan : Nat) (s : State) : memF (nextMsg dst cls chan s).2 = memF s := by
  simp [memF_fold, nextMsg]

@[simp] theorem sendFrom_mem (src : Option (Nat × Nat)) (dst cls chan : Nat) (data : List Byte) (s : State) : memF (sendFrom src dst cls chan data s) = memF s := by
  unfold sendFrom; simp [memF_fold, foldl_mem, foldl2_mem, foldl3_mem, foldlS_mem]

@[simp] theorem sendMsg_mem (dst cls chan : Nat) (data : List Byte) (s : State) : memF (sendMsg dst cls chan data s) = memF s := by
  unfold sendMsg; simp [memF_fold, foldl_mem, foldl2_mem, foldl3_mem, foldlS_mem]

@[simp] theorem sendCtrl_mem (dst : Nat) (data : List Byte) (s : State) : memF (sendCtrl dst data s) = memF s := by
  simp [memF_fold, sendCtrl]

@[simp] theorem sendAck_mem (dst cls msg : Nat) (s : State) : memF (sendAck dst cls msg s) = memF s := by
  simp [memF_fold, sendAck]

@[simp] theorem sendHop_mem (l : Nat) (data : List Byte) (s : State) : memF (sendHop l data s) = memF s := by
  simp [memF_fold, sendHop]

@[simp] theorem updMd_mem (c : Nat) (f : MdRun → MdRun) (s : State) : memF (updMd c f s) = memF s := by
  simp [memF_fold, updMd]

@[simp] theorem waitAt_mem (c k : Nat) (ps : List Nat) (s : State) : memF (waitAt c k ps s) = memF s := by
  simp [memF_fold, waitAt]

@[simp] theorem waitFor_mem (c : Nat) (ps : List Nat) (s : State) : memF (waitFor c ps s) = memF s := by
  simp [memF_fold, waitFor]

@[simp] theorem sendRun_mem (c p cls kind num : Nat) (body : List Byte) (s : State) : memF (sendRun c p cls kind num body s) = memF s := by
  unfold sendRun; (repeat' split) <;> (first | (simp [memF_fold, *, foldl_mem, foldl2_mem, foldl3_mem, foldlS_mem]; done) | (simp_all [memF_fold, foldl_mem, foldl2_mem, foldl3_mem, foldlS_mem]; done))

@[simp] theorem dropRun_mem (m : MdRun) (p kind num : Nat) (s : State) : memF (dropRun m p kind num s) = memF s := by
  simp [memF_fold, dropRun]

@[simp] theorem sendDown_mem (c k : Nat) (m : MdRun) (r : List Int) (s : State) : memF (sendDown c k m r s) = memF s := by
  unfold sendDown; apply foldl_mem; intro s a; (repeat' split) <;> simp

@[simp] theorem combineOver_mem (c k : Nat) (s : State) : memF (combineOver c k s) = memF s := by
  simp [memF_fold, combineOver]

@[simp] theorem combineAt_mem (c k : Nat) (op : List Int → List Int → List Int) (v : List Int) (s : State) : memF (combineAt c k op v s).2 = memF s := by
  unfold combineAt; dsimp only; (repeat' split) <;> (first | (simp [memF_fold, *, foldl_mem, foldl2_mem, foldl3_mem, foldlS_mem]; done) | (simp_all [memF_fold, foldl_mem, foldl2_mem, foldl3_mem, foldlS_mem]; done))

@[simp] theorem combine_mem (c : Nat) (op : List Int → List Int → List Int) (v : List Int) (s : State) : memF (combine c op v s).2 = memF s := by
  unfold combine; (repeat' split) <;> (first | (simp [memF_fold, *, foldl_mem, foldl2_mem, foldl3_mem, foldlS_mem]; done) | (simp_all [memF_fold, foldl_mem, foldl2_mem, foldl3_mem, foldlS_mem]; done))

@[simp] theorem sendAcc_mem (c : Nat) (a : AccSet) (s : State) : memF (sendAcc c a s) = memF s := by
  unfold sendAcc; (repeat' split) <;> (first | (simp [memF_fold, *, foldl_mem, foldl2_mem, foldl3_mem, foldlS_mem]; done) | (simp_all [memF_fold, foldl_mem, foldl2_mem, foldl3_mem, foldlS_mem]; done))

@[simp] theorem takeAccs_mem (c : Nat) (s : State) : memF (takeAccs c s) = memF s := by
  unfold takeAccs; (repeat' split) <;> (first | (simp [memF_fold, *, foldl_mem, foldl2_mem, foldl3_mem, foldlS_mem]; done) | (simp_all [memF_fold, foldl_mem, foldl2_mem, foldl3_mem, foldlS_mem]; done))

@[simp] theorem setAudit_mem (c addr : Nat) (r : AuditRes) (s : State) : memF (setAudit c addr r s) = memF s := by
  simp [memF_fold, setAudit]

@[simp] theorem queueAudit_mem (c addr : Nat) (s : State) : memF (queueAudit c addr s) = memF s := by
  unfold queueAudit; (repeat' split) <;> (first | (simp [memF_fold, *, foldl_mem, foldl2_mem, foldl3_mem, foldlS_mem]; done) | (simp_all [memF_fold, foldl_mem, foldl2_mem, foldl3_mem, foldlS_mem]; done))

@[simp] theorem updCur_mem (c e : Nat) (f : Cursor → Cursor) (s : State) : memF (updCur c e f s) = memF s := by
  simp [memF_fold, updCur]

@[simp] theorem advance_mem (c e : Nat) (s : State) : memF (advance c e s) = memF s := by
  unfold advance; (repeat' split) <;> (first | (simp [memF_fold, *, foldl_mem, foldl2_mem, foldl3_mem, foldlS_mem]; done) | (simp_all [memF_fold, foldl_mem, foldl2_mem, foldl3_mem, foldlS_mem]; done))

@[simp] theorem enterLoop_mem (c e : Nat) (o : LoopOp) (s : State) : memF (enterLoop c e o s) = memF s := by
  unfold enterLoop; (repeat' split) <;> (first | (simp [memF_fold, *, foldl_mem, foldl2_mem, foldl3_mem, foldlS_mem]; done) | (simp_all [memF_fold, foldl_mem, foldl2_mem, foldl3_mem, foldlS_mem]; done))

@[simp] theorem exitSweeps_mem (c : Nat) (s : State) : memF (exitSweeps c s) = memF s := by
  unfold exitSweeps; (repeat' split) <;> (first | (simp [memF_fold, *, foldl_mem, foldl2_mem, foldl3_mem, foldlS_mem]; done) | (simp_all [memF_fold, foldl_mem, foldl2_mem, foldl3_mem, foldlS_mem]; done))

@[simp] theorem stageFlags_mem (c e bits : Nat) (s : State) : memF (stageFlags c e bits s) = memF s := by
  unfold stageFlags; (repeat' split) <;> (first | (simp [memF_fold, *, foldl_mem, foldl2_mem, foldl3_mem, foldlS_mem]; done) | (simp_all [memF_fold, foldl_mem, foldl2_mem, foldl3_mem, foldlS_mem]; done))

@[simp] theorem stageCount_mem (c e i n : Nat) (s : State) : memF (stageCount c e i n s) = memF s := by
  unfold stageCount; (repeat' split) <;> (first | (simp [memF_fold, *, foldl_mem, foldl2_mem, foldl3_mem, foldlS_mem]; done) | (simp_all [memF_fold, foldl_mem, foldl2_mem, foldl3_mem, foldlS_mem]; done))

@[simp] theorem restart_mem (c : Nat) (s : State) : memF (restart c s) = memF s := by
  unfold restart; (repeat' split) <;> (first | (simp [memF_fold, *, foldl_mem, foldl2_mem, foldl3_mem, foldlS_mem]; done) | (simp_all [memF_fold, foldl_mem, foldl2_mem, foldl3_mem, foldlS_mem]; done))

@[simp] theorem noteReload_mem (c w : Nat) (s : State) : memF (noteReload c w s) = memF s := by
  simp [memF_fold, noteReload]

@[simp] theorem noteRecompute_mem (c w : Nat) (s : State) : memF (noteRecompute c w s) = memF s := by
  simp [memF_fold, noteRecompute]

@[simp] theorem settleSlot_mem (e slot v : Nat) (s : State) : memF (settleSlot e slot v s) = memF s := by
  first | (simp [memF_fold, settleSlot]; done) | (unfold settleSlot; simp [memF_fold, foldl_mem, foldl2_mem, foldl3_mem, foldlS_mem]; done) | (unfold settleSlot; (try dsimp only); (repeat' split) <;> (first | (simp [*, memF_fold, foldl_mem, foldl2_mem, foldl3_mem, foldlS_mem]; done) | (simp_all [memF_fold, foldl_mem, foldl2_mem, foldl3_mem, foldlS_mem]; done)))

@[simp] theorem writeSlot_mem (e : Nat) (r : SlotRec) (ws : List (List Nat)) (s : State) : memF (writeSlot e r ws s) = memF s := by
  unfold writeSlot; dsimp only; (repeat' split) <;> (first | (simp [memF_fold, *, foldl_mem, foldl2_mem, foldl3_mem, foldlS_mem]; done) | (simp_all [memF_fold, foldl_mem, foldl2_mem, foldl3_mem, foldlS_mem]; done))

theorem engRun_mem (x : EngRef) (f : Ctx → Cursor → Nat → State → State) (h : ∀ c u i s, memF (f c u i s) = memF s) (s : State) : memF (engRun x f s) = memF s := by
  unfold engRun; (repeat' split) <;> simp [memF_fold, h]

@[simp] theorem collAdvance_mem (c : Nat) (s : State) : memF (collAdvance c s) = memF s := by
  unfold collAdvance; (repeat' split) <;> (first | (simp [memF_fold, *, foldl_mem, foldl2_mem, foldl3_mem, foldlS_mem]; done) | (simp_all [memF_fold, foldl_mem, foldl2_mem, foldl3_mem, foldlS_mem]; done))

@[simp] theorem absorb_mem (c e ctx : Nat) (b : List Byte) (s : State) : memF (absorb c e ctx b s) = memF s := by
  simp [memF_fold, absorb]

@[simp] theorem moveTags_mem (src dst n : Nat) (s : State) : memF (moveTags src dst n s) = memF s := by
  first | (simp [memF_fold, moveTags]; done) | (unfold moveTags; simp [memF_fold, foldl_mem, foldl2_mem, foldl3_mem, foldlS_mem]; done) | (unfold moveTags; (try dsimp only); (repeat' split) <;> (first | (simp [*, memF_fold, foldl_mem, foldl2_mem, foldl3_mem, foldlS_mem]; done) | (simp_all [memF_fold, foldl_mem, foldl2_mem, foldl3_mem, foldlS_mem]; done)))

@[simp] theorem swaitTry_mem (c : Ctx) (u : Cursor) (o : SwaitOp) (s : State) : memF (swaitTry c u o s) = memF s := by
  unfold swaitTry; (repeat' split) <;> (first | (simp [memF_fold, *, foldl_mem, foldl2_mem, foldl3_mem, foldlS_mem]; done) | (simp_all [memF_fold, foldl_mem, foldl2_mem, foldl3_mem, foldlS_mem]; done))

@[simp] theorem updRun_mem (c : Nat) (f : Anneal → Anneal) (s : State) : memF (updRun c f s) = memF s := by
  simp [memF_fold, updRun]

@[simp] theorem fieldWrites_mem (p : Prob) (s : State) : memF (fieldWrites p s) = memF s := by
  unfold fieldWrites; apply foldl_mem; intro s e; dsimp only; rw [armRun_mem, memF_mk, memF_fold]

@[simp] theorem redoPhase_mem (c : Nat) (s : State) : memF (redoPhase c s) = memF s := by
  unfold redoPhase; (repeat' split) <;> (first | (simp [memF_fold, *, foldl_mem, foldl2_mem, foldl3_mem, foldlS_mem]; done) | (simp_all [memF_fold, foldl_mem, foldl2_mem, foldl3_mem, foldlS_mem]; done))

@[simp] theorem accWrites_mem (off n : Nat) (s : State) (e : Nat) : memF (accWrites off n s e) = memF s := by
  unfold accWrites; dsimp only; rw [armRun_mem, memF_mk, memF_fold]

@[simp] theorem takeCtx_mem (q : Nat) (shared : Bool) (slot : Nat) (origin : Origin) (desc : List Byte) (s : State) : memF (takeCtx q shared slot origin desc s) = memF s := by
  simp [memF_fold, takeCtx]

@[simp] theorem fetchFrom_mem (q : Nat) (rs : List Cpl) (s : State) : memF (fetchFrom q rs s) = memF s := by
  unfold fetchFrom; dsimp only; (repeat' split) <;> (first | (simp [memF_fold, *, foldl_mem, foldl2_mem, foldl3_mem, foldlS_mem]; done) | (simp_all [memF_fold, foldl_mem, foldl2_mem, foldl3_mem, foldlS_mem]; done))

@[simp] theorem startWaits_mem (c : Nat) (s : State) : memF (startWaits c s) = memF s := by
  simp [memF_fold, startWaits]

@[simp] theorem takeBlock_mem (c : Nat) (b : List Byte) (s : State) : memF (takeBlock c b s) = memF s := by
  simp [memF_fold, takeBlock]

@[simp] theorem notePoll_mem (c w : Nat) (s : State) : memF (notePoll c w s) = memF s := by
  simp [memF_fold, notePoll]

@[simp] theorem pollWait_mem (c w : Nat) (rs : List Cpl) (s : State) : memF (pollWait c w rs s) = memF s := by
  unfold pollWait; dsimp only; (repeat' split) <;> (first | (simp [memF_fold, *, foldl_mem, foldl2_mem, foldl3_mem, foldlS_mem]; done) | (simp_all [memF_fold, foldl_mem, foldl2_mem, foldl3_mem, foldlS_mem]; done))

@[simp] theorem beginWork_mem (c : Nat) (life : Life) (s : State) : memF (beginWork c life s) = memF s := by
  simp [memF_fold, beginWork]

@[simp] theorem makeReady_mem (c : Nat) (s : State) : memF (makeReady c s) = memF s := by
  simp [memF_fold, makeReady]

@[simp] theorem startBuffer_mem (c : Nat) (b : List Byte) (s : State) : memF (startBuffer c b s) = memF s := by
  simp [memF_fold, startBuffer]

@[simp] theorem noteCheckFail_mem (p e instr vec : Nat) (s : State) : memF (noteCheckFail p e instr vec s) = memF s := by
  simp [memF_fold, noteCheckFail]

@[simp] theorem updTile_mem (p : Nat) (f : TileSt → TileSt) (s : State) : memF (updTile p f s) = memF s := by
  simp [memF_fold, updTile]

@[simp] theorem substDone_mem (e : Nat) (s : State) : memF (substDone e s) = memF s := by
  unfold substDone; dsimp only; (repeat' split) <;> (first | (simp [memF_fold, *]; done) | (simp_all; done) | (apply foldl_mem; intro s a; (repeat' split) <;> (first | (simp [memF_fold, *]; done) | (simp_all; done))))

@[simp] theorem repairWrite_mem (s : State) : memF (repairWrite s) = memF s := by
  unfold repairWrite; (repeat' split) <;> (first | (simp [memF_fold, *, foldl_mem, foldl2_mem, foldl3_mem, foldlS_mem]; done) | (simp_all [memF_fold, foldl_mem, foldl2_mem, foldl3_mem, foldlS_mem]; done))

@[simp] theorem selfTest_mem (p n : Nat) (s : State) : memF (selfTest p n s).2 = memF s := by
  simp [memF_fold, selfTest]

@[simp] theorem storePass_mem (u : Cursor) (o : StreamOp) (isInt : Bool) (rs : List PassOut) (s : State) : memF (storePass u o isInt rs s) = memF s := by
  simp [memF_fold, storePass]

@[simp] theorem preloadSlot_mem (u : Cursor) (o : PreloadOp) (a : Nat) (s : State) : memF (preloadSlot u o a s) = memF s := by
  simp [memF_fold, preloadSlot]

@[simp] theorem updMirror_mem (dev run : Nat) (f : Mirror → Mirror) (s : State) : memF (updMirror dev run f s) = memF s := by
  simp [memF_fold, updMirror]

@[simp] theorem sendPieces_mem (run h kind num : Nat) (b : List Byte) (s : State) : memF (sendPieces run h kind num b s) = memF s := by
  unfold sendPieces; simp [memF_fold, foldl_mem, foldl2_mem, foldl3_mem, foldlS_mem]

@[simp] theorem sendOffer_mem (run h img pkg ck : Nat) (s : State) : memF (sendOffer run h img pkg ck s) = memF s := by
  simp [memF_fold, sendOffer]

@[simp] theorem askAgain_mem (dev run old : Nat) (all : Bool) (s : State) : memF (askAgain dev run old all s) = memF s := by
  first | (simp [memF_fold, askAgain]; done) | (unfold askAgain; simp [memF_fold, foldl_mem, foldl2_mem, foldl3_mem, foldlS_mem]; done) | (unfold askAgain; (try dsimp only); (repeat' split) <;> (first | (simp [*, memF_fold, foldl_mem, foldl2_mem, foldl3_mem, foldlS_mem]; done) | (simp_all [memF_fold, foldl_mem, foldl2_mem, foldl3_mem, foldlS_mem]; done)))

@[simp] theorem rebuildMirror_mem (w : Nat) (s : State) : memF (rebuildMirror w s) = memF s := by
  first | (simp [memF_fold, rebuildMirror]; done) | (unfold rebuildMirror; simp [memF_fold, foldl_mem, foldl2_mem, foldl3_mem, foldlS_mem]; done) | (unfold rebuildMirror; (try dsimp only); (repeat' split) <;> (first | (simp [*, memF_fold, foldl_mem, foldl2_mem, foldl3_mem, foldlS_mem]; done) | (simp_all [memF_fold, foldl_mem, foldl2_mem, foldl3_mem, foldlS_mem]; done)))

@[simp] theorem spanSum_mem (c : Nat) (v : List Int) (s : State) : memF (spanSum c v s).2 = memF s := by
  simp [memF_fold, spanSum]

@[simp] theorem farmGather_mem (c : Nat) (v : List Int) (s : State) : memF (farmGather c v s).2 = memF s := by
  simp [memF_fold, farmGather]

@[simp] theorem dropShares_mem (m : MdRun) (s : State) : memF (dropShares m s) = memF s := by
  unfold dropShares; simp [memF_fold, foldl_mem, foldl2_mem, foldl3_mem, foldlS_mem]

@[simp] theorem loadCombine_mem (c : Nat) (v : List Int) (s : State) : memF (loadCombine c v s).2 = memF s := by
  first | (simp [memF_fold, loadCombine]; done) | (unfold loadCombine; simp [memF_fold, foldl_mem, foldl2_mem, foldl3_mem, foldlS_mem]; done) | (unfold loadCombine; (try dsimp only); (repeat' split) <;> (first | (simp [*, memF_fold, foldl_mem, foldl2_mem, foldl3_mem, foldlS_mem]; done) | (simp_all [memF_fold, foldl_mem, foldl2_mem, foldl3_mem, foldlS_mem]; done)))

@[simp] theorem ploadDrop_mem (x : Ctx) (s : State) : memF (ploadDrop x s) = memF s := by
  unfold ploadDrop; (repeat' split) <;> (first | (simp [memF_fold, *, foldl_mem, foldl2_mem, foldl3_mem, foldlS_mem]; done) | (simp_all [memF_fold, foldl_mem, foldl2_mem, foldl3_mem, foldlS_mem]; done))

@[simp] theorem ploadFinish_mem (c : Nat) (a : Anneal) (s : State) : memF (ploadFinish c a s) = memF s := by
  unfold ploadFinish; dsimp only; (repeat' split) <;> (first | (simp [memF_fold, *, foldl_mem, foldl2_mem, foldl3_mem, foldlS_mem]; done) | (simp_all [memF_fold, foldl_mem, foldl2_mem, foldl3_mem, foldlS_mem]; done))

@[simp] theorem setVisits_mem (c : Nat) (r : VisitsOut) (keys : List Nat) (pos : PhaseAt) (s : State) : memF (setVisits c r keys pos s) = memF s := by
  simp [memF_fold, setVisits]

@[simp] theorem pairAgrees_mem (c ei ej : Nat) (s : State) : memF (pairAgrees c ei ej s) = memF s := by
  simp [memF_fold, pairAgrees]

@[simp] theorem sendFree_mem (c : Nat) (x : Ctx) (s : State) : memF (sendFree c x s) = memF s := by
  unfold sendFree; (repeat' split) <;> (first | (simp [memF_fold, *, foldl_mem, foldl2_mem, foldl3_mem, foldlS_mem]; done) | (simp_all [memF_fold, foldl_mem, foldl2_mem, foldl3_mem, foldlS_mem]; done))

@[simp] theorem saturate_mem (c phase : Nat) (s : State) : memF (saturate c phase s) = memF s := by
  simp [memF_fold, saturate]

@[simp] theorem cutRun_mem (c : Nat) (s : State) : memF (cutRun c s) = memF s := by
  unfold cutRun; (repeat' split) <;> (first | (simp [memF_fold, *, foldl_mem, foldl2_mem, foldl3_mem, foldlS_mem]; done) | (simp_all [memF_fold, foldl_mem, foldl2_mem, foldl3_mem, foldlS_mem]; done))

@[simp] theorem tellSaturated_mem (c phase : Nat) (sets : List AccSet) (s : State) : memF (tellSaturated c phase sets s) = memF s := by
  unfold tellSaturated; (repeat' split) <;> (first | (simp [memF_fold, *, foldl_mem, foldl2_mem, foldl3_mem, foldlS_mem]; done) | (simp_all [memF_fold, foldl_mem, foldl2_mem, foldl3_mem, foldlS_mem]; done))

@[simp] theorem startBarrier_mem (c : Nat) (a : Anneal) (s : State) : memF (startBarrier c a s) = memF s := by
  unfold startBarrier; (repeat' split) <;> (first | (simp [memF_fold, *, foldl_mem, foldl2_mem, foldl3_mem, foldlS_mem]; done) | (simp_all [memF_fold, foldl_mem, foldl2_mem, foldl3_mem, foldlS_mem]; done))

@[simp] theorem farmedPart_mem (c : Nat) (x : Ctx) (free : Bool) (a : Anneal) (v : List Int) (s : State) : memF (farmedPart c x free a v s) = memF s := by
  unfold farmedPart; dsimp only; (repeat' split) <;> (first | (simp [memF_fold, *, foldl_mem, foldl2_mem, foldl3_mem, foldlS_mem]; done) | (simp_all [memF_fold, foldl_mem, foldl2_mem, foldl3_mem, foldlS_mem]; done))

@[simp] theorem ratlinePart_mem (c : Nat) (x : Ctx) (a0 : Anneal) (s : State) : memF (ratlinePart c x a0 s) = memF s := by
  unfold ratlinePart; dsimp only; (repeat' split) <;> (first | (simp [memF_fold, *, foldl_mem, foldl2_mem, foldl3_mem, foldlS_mem]; done) | (simp_all [memF_fold, foldl_mem, foldl2_mem, foldl3_mem, foldlS_mem]; done))

@[simp] theorem groupAdvance_mem (c : Nat) (es : List Nat) (s : State) : memF (groupAdvance c es s) = memF s := by
  unfold groupAdvance; simp [memF_fold, foldl_mem, foldl2_mem, foldl3_mem, foldlS_mem]

@[simp] theorem countSent_mem (c e k n : Nat) (s : State) : memF (countSent c e k n s) = memF s := by
  simp [memF_fold, countSent]

@[simp] theorem lsendFrames_mem (c : Nat) (x : Ctx) (e : Nat) (o : LsendOp) (a : Nat) (b : List Byte) (s : State) : memF (lsendFrames c x e o a b s) = memF s := by
  unfold lsendFrames; (repeat' split) <;> (first | (simp [memF_fold, *, foldl_mem, foldl2_mem, foldl3_mem, foldlS_mem]; done) | (simp_all [memF_fold, foldl_mem, foldl2_mem, foldl3_mem, foldlS_mem]; done))

@[simp] theorem dropFrame_mem (m : MdRun) (peer chan k : Nat) (s : State) : memF (dropFrame m peer chan k s) = memF s := by
  simp [memF_fold, dropFrame]

@[simp] theorem setSent_mem (c e k v : Nat) (s : State) : memF (setSent c e k v s) = memF s := by
  simp [memF_fold, setSent]

@[simp] theorem lrecvFrames.lrecvOver_mem (c : Nat) (u : Cursor) (o : LrecvOp) (num nf : Nat) (m : MdRun) (s : State) : memF (lrecvFrames.lrecvOver c u o num nf m s) = memF s := by
  simp [memF_fold, lrecvFrames.lrecvOver]

@[simp] theorem updEnt_mem (f : Entropy → Entropy) (s : State) : memF (updEnt f s) = memF s := by
  simp [memF_fold, updEnt]

@[simp] theorem updDrbg_mem (i : Nat) (f : Drbg → Drbg) (s : State) : memF (updDrbg i f s) = memF s := by
  simp [memF_fold, updDrbg]

@[simp] theorem drbgTake_mem (i n : Nat) (s : State) : memF (drbgTake i n s).2 = memF s := by
  simp [memF_fold, drbgTake]

@[simp] theorem setOwed_mem (i : Nat) (b : List Byte) (s : State) : memF (setOwed i b s) = memF s := by
  simp [memF_fold, setOwed]

@[simp] theorem seedDrbg_mem (i : Nat) (b : List Byte) (s : State) : memF (seedDrbg i b s) = memF s := by
  simp [memF_fold, seedDrbg]

@[simp] theorem absorbBlock_mem (b : List Byte) (s : State) : memF (absorbBlock b s).2 = memF s := by
  unfold absorbBlock; (repeat' split) <;> (first | (simp [memF_fold, *, foldl_mem, foldl2_mem, foldl3_mem, foldlS_mem]; done) | (simp_all [memF_fold, foldl_mem, foldl2_mem, foldl3_mem, foldlS_mem]; done))

@[simp] theorem patternWrite_mem (v : Nat) (s : State) : memF (patternWrite v s) = memF s := by
  first | (simp [memF_fold, patternWrite]; done) | (unfold patternWrite; simp [memF_fold, foldl_mem, foldl2_mem, foldl3_mem, foldlS_mem]; done) | (unfold patternWrite; (try dsimp only); (repeat' split) <;> (first | (simp [*, memF_fold, foldl_mem, foldl2_mem, foldl3_mem, foldlS_mem]; done) | (simp_all [memF_fold, foldl_mem, foldl2_mem, foldl3_mem, foldlS_mem]; done)))

@[simp] theorem wantBootId_mem (s : State) : memF (wantBootId s) = memF s := by
  simp [memF_fold, wantBootId]

@[simp] theorem settleService_mem (s : State) : memF (settleService s) = memF s := by
  simp [memF_fold, settleService]

@[simp] theorem failSource_mem (i : Nat) (s : State) : memF (failSource i s) = memF s := by
  simp [memF_fold, failSource]

@[simp] theorem serveH_mem (s : State) : memF (serveH s) = memF s := by
  simp [memF_fold, serveH]

@[simp] theorem hReqWrite_mem (v : Nat) (s : State) : memF (hReqWrite v s) = memF s := by
  simp [memF_fold, hReqWrite]

@[simp] theorem hDataDone_mem (s : State) : memF (hDataDone s) = memF s := by
  simp [memF_fold, hDataDone]

@[simp] theorem reqFails_mem (s : State) : memF (reqFails s) = memF s := by
  simp [memF_fold, reqFails]

@[simp] theorem askDrbg_mem (inst purpose ctx : Nat) (s : State) : memF (askDrbg inst purpose ctx s) = memF s := by
  simp [memF_fold, askDrbg]

@[simp] theorem startFeeding_mem (c : Nat) (s : State) : memF (startFeeding c s) = memF s := by
  simp [memF_fold, startFeeding]

@[simp] theorem tryStart_mem (c : Nat) (s : State) : memF (tryStart c s) = memF s := by
  unfold tryStart; (repeat' split) <;> (first | (simp [memF_fold, *, foldl_mem, foldl2_mem, foldl3_mem, foldlS_mem]; done) | (simp_all [memF_fold, foldl_mem, foldl2_mem, foldl3_mem, foldlS_mem]; done))

@[simp] theorem setBudget_mem (c b : Nat) (s : State) : memF (setBudget c b s) = memF s := by
  first | (simp [memF_fold, setBudget]; done) | (unfold setBudget; simp [memF_fold, foldl_mem, foldl2_mem, foldl3_mem, foldlS_mem]; done) | (unfold setBudget; (try dsimp only); (repeat' split) <;> (first | (simp [*, memF_fold, foldl_mem, foldl2_mem, foldl3_mem, foldlS_mem]; done) | (simp_all [memF_fold, foldl_mem, foldl2_mem, foldl3_mem, foldlS_mem]; done)))

@[simp] theorem fixBudget_mem (c : Nat) (s : State) : memF (fixBudget c s) = memF s := by
  first | (simp [memF_fold, fixBudget]; done) | (unfold fixBudget; simp [memF_fold, foldl_mem, foldl2_mem, foldl3_mem, foldlS_mem]; done) | (unfold fixBudget; (try dsimp only); (repeat' split) <;> (first | (simp [*, memF_fold, foldl_mem, foldl2_mem, foldl3_mem, foldlS_mem]; done) | (simp_all [memF_fold, foldl_mem, foldl2_mem, foldl3_mem, foldlS_mem]; done)))

@[simp] theorem keepStart_mem (src : Nat) (b : StartBody) (s : State) : memF (keepStart src b s) = memF s := by
  simp [memF_fold, keepStart]

@[simp] theorem clearFrames_mem (m : MdRun) (s : State) : memF (clearFrames m s) = memF s := by
  simp [memF_fold, clearFrames]

@[simp] theorem clearDelivered_mem (m : MdRun) (s : State) : memF (clearDelivered m s) = memF s := by
  first | (simp [memF_fold, clearDelivered]; done) | (unfold clearDelivered; simp [memF_fold, foldl_mem, foldl2_mem, foldl3_mem, foldlS_mem]; done) | (unfold clearDelivered; (try dsimp only); (repeat' split) <;> (first | (simp [*, memF_fold, foldl_mem, foldl2_mem, foldl3_mem, foldlS_mem]; done) | (simp_all [memF_fold, foldl_mem, foldl2_mem, foldl3_mem, foldlS_mem]; done)))

@[simp] theorem renumber_mem (run src : Nat) (s : State) : memF (renumber run src s) = memF s := by
  simp [memF_fold, renumber]

@[simp] theorem beginNumbers_mem (m : MdRun) (s : State) : memF (beginNumbers m s) = memF s := by
  unfold beginNumbers; simp [memF_fold, foldl_mem, foldl2_mem, foldl3_mem, foldlS_mem]

@[simp] theorem accBack_mem (e a n src : Nat) (s : State) : memF (accBack e a n src s) = memF s := by
  unfold accBack; rw [armRun_mem, memF_mk, memF_fold]

@[simp] theorem signalFlushed_mem (c k : Nat) (rs : List Cpl) (s : State) : memF (signalFlushed c k rs s) = memF s := by
  simp [memF_fold, signalFlushed]

@[simp] theorem flushFailed_mem (q : Nat) (s : State) : memF (flushFailed q s) = memF s := by
  simp [memF_fold, flushFailed]

@[simp] theorem tailWrite_mem (q v : Nat) (s : State) : memF (tailWrite q v s) = memF s := by
  simp [memF_fold, tailWrite]

@[simp] theorem enableWrite_mem (q : Nat) (b : Bool) (s : State) : memF (enableWrite q b s) = memF s := by
  simp [memF_fold, enableWrite]

@[simp] theorem setDevState_mem (n : Nat) (s : State) : memF (setDevState n s) = memF s := by
  simp [memF_fold, setDevState]

@[simp] theorem freezeWaits_mem (s : State) : memF (freezeWaits s) = memF s := by
  simp [memF_fold, freezeWaits]

@[simp] theorem lendEnds_mem (q : Nat) (s : State) : memF (lendEnds q s) = memF s := by
  first | (simp [memF_fold, lendEnds]; done) | (unfold lendEnds; simp [memF_fold, foldl_mem, foldl2_mem, foldl3_mem, foldlS_mem]; done) | (unfold lendEnds; (try dsimp only); (repeat' split) <;> (first | (simp [*, memF_fold, foldl_mem, foldl2_mem, foldl3_mem, foldlS_mem]; done) | (simp_all [memF_fold, foldl_mem, foldl2_mem, foldl3_mem, foldlS_mem]; done)))

@[simp] theorem lendStarts_mem (q t : Nat) (s : State) : memF (lendStarts q t s) = memF s := by
  first | (simp [memF_fold, lendStarts]; done) | (unfold lendStarts; simp [memF_fold, foldl_mem, foldl2_mem, foldl3_mem, foldlS_mem]; done) | (unfold lendStarts; (try dsimp only); (repeat' split) <;> (first | (simp [*, memF_fold, foldl_mem, foldl2_mem, foldl3_mem, foldlS_mem]; done) | (simp_all [memF_fold, foldl_mem, foldl2_mem, foldl3_mem, foldlS_mem]; done)))

@[simp] theorem makeRelease_mem (q prog : Nat) (s : State) : memF (makeRelease q prog s) = memF s := by
  unfold makeRelease; dsimp only; (repeat' split) <;> (first | (simp [memF_fold]; done) | (simp_all [memF_fold]; done))

@[simp] theorem cutNow_mem (c : Nat) (s : State) : memF (cutNow c s) = memF s := by
  simp [memF_fold, cutNow]

@[simp] theorem stopLending_mem (x : Ctx) (s : State) : memF (stopLending x s) = memF s := by
  simp [memF_fold, stopLending]

@[simp] theorem auditStart_mem (j : AuditJob) (s : State) : memF (auditStart j s) = memF s := by
  simp [memF_fold, auditStart]

@[simp] theorem updAudit_mem (f : AuditJob → AuditJob) (s : State) : memF (updAudit f s) = memF s := by
  simp [memF_fold, updAudit]

@[simp] theorem jobRec_mem (j : AuditJob) (i : Nat) (s : State) : memF (jobRec j i s) = memF s := by
  unfold jobRec; (repeat' split) <;> (first | (simp [memF_fold, *, foldl_mem, foldl2_mem, foldl3_mem, foldlS_mem]; done) | (simp_all [memF_fold, foldl_mem, foldl2_mem, foldl3_mem, foldlS_mem]; done))

@[simp] theorem jobCorrected_mem (j : AuditJob) (n : Nat) (s : State) : memF (jobCorrected j n s) = memF s := by
  first | (simp [memF_fold, jobCorrected]; done) | (unfold jobCorrected; simp [memF_fold, foldl_mem, foldl2_mem, foldl3_mem, foldlS_mem]; done) | (unfold jobCorrected; (try dsimp only); (repeat' split) <;> (first | (simp [*, memF_fold, foldl_mem, foldl2_mem, foldl3_mem, foldlS_mem]; done) | (simp_all [memF_fold, foldl_mem, foldl2_mem, foldl3_mem, foldlS_mem]; done)))

@[simp] theorem audDrop_mem (j : AuditJob) (p kind num : Nat) (s : State) : memF (audDrop j p kind num s) = memF s := by
  simp [memF_fold, audDrop]

@[simp] theorem audSend_mem (j : AuditJob) (p kind num : Nat) (v : List Int) (s : State) : memF (audSend j p kind num v s) = memF s := by
  simp [memF_fold, audSend]

@[simp] theorem audDown_mem (j : AuditJob) (num : Nat) (r : List Int) (s : State) : memF (audDown j num r s) = memF s := by
  unfold audDown; apply foldl_mem; intro s a; (repeat' split) <;> simp [memF_fold]

@[simp] theorem audCombine_mem (j : AuditJob) (num : Nat) (v : List Int) (s : State) : memF (audCombine j num v s).2 = memF s := by
  unfold audCombine; dsimp only; (repeat' split) <;> (first | (simp [memF_fold, *, foldl_mem, foldl2_mem, foldl3_mem, foldlS_mem]; done) | (simp_all [memF_fold, foldl_mem, foldl2_mem, foldl3_mem, foldlS_mem]; done))

@[simp] theorem dueSelftests_mem (es : List Nat) (s : State) : memF (dueSelftests es s) = memF s := by
  simp [memF_fold, dueSelftests]

@[simp] theorem countAudit_mem (j : AuditJob) (status : Nat) (s : State) : memF (countAudit j status s) = memF s := by
  simp [memF_fold, countAudit]

@[simp] theorem closePast_mem (s : State) : memF (closePast s) = memF s := by
  unfold closePast; (repeat' split) <;> (first | (simp [memF_fold, *, foldl_mem, foldl2_mem, foldl3_mem, foldlS_mem]; done) | (simp_all [memF_fold, foldl_mem, foldl2_mem, foldl3_mem, foldlS_mem]; done))

@[simp] theorem signWindow_mem (s : State) : memF (signWindow s) = memF s := by
  unfold signWindow; (repeat' split) <;> (first | (simp [memF_fold, *, foldl_mem, foldl2_mem, foldl3_mem, foldlS_mem]; done) | (simp_all [memF_fold, foldl_mem, foldl2_mem, foldl3_mem, foldlS_mem]; done))

@[simp] theorem heardFrom_mem (c p : Nat) (s : State) : memF (heardFrom c p s) = memF s := by
  simp [memF_fold, heardFrom]

@[simp] theorem lateMessage_mem (c : Nat) (s : State) : memF (lateMessage c s) = memF s := by
  simp [memF_fold, lateMessage]

theorem fromPeer_mem (runId p : Nat) (f : Nat → State → State) (h : ∀ c s, memF (f c s) = memF s) (s : State) : memF (fromPeer runId p f s) = memF s := by
  unfold fromPeer; (repeat' split) <;> simp [memF_fold, h]

@[simp] theorem sendProgress_mem (c : Nat) (s : State) : memF (sendProgress c s) = memF s := by
  unfold sendProgress; (repeat' split) <;> (first | (simp [memF_fold, *, foldl_mem, foldl2_mem, foldl3_mem, foldlS_mem]; done) | (simp_all [memF_fold, foldl_mem, foldl2_mem, foldl3_mem, foldlS_mem]; done))

@[simp] theorem claimFails_mem (src runId d : Nat) (s : State) : memF (claimFails src runId d s) = memF s := by
  simp [memF_fold, claimFails]

@[simp] theorem claimArrives_mem (src dev runId d q : Nat) (s : State) : memF (claimArrives src dev runId d q s) = memF s := by
  simp [memF_fold, claimArrives]

@[simp] theorem probeReplied_mem (runId : Nat) (inRun : Bool) (s : State) : memF (probeReplied runId inRun s) = memF s := by
  unfold probeReplied; (repeat' split) <;> (first | (simp [memF_fold, *, foldl_mem, foldl2_mem, foldl3_mem, foldlS_mem]; done) | (simp_all [memF_fold, foldl_mem, foldl2_mem, foldl3_mem, foldlS_mem]; done))

@[simp] theorem claimWon_mem (runId : Nat) (s : State) : memF (claimWon runId s) = memF s := by
  unfold claimWon; (repeat' split) <;> (first | (simp [memF_fold, *, foldl_mem, foldl2_mem, foldl3_mem, foldlS_mem]; done) | (simp_all [memF_fold, foldl_mem, foldl2_mem, foldl3_mem, foldlS_mem]; done))

@[simp] theorem dropRunMsgs_mem (runId : Nat) (s : State) : memF (dropRunMsgs runId s) = memF s := by
  simp [memF_fold, dropRunMsgs]

@[simp] theorem spareFailover_mem (runId sp k : Nat) (s : State) : memF (spareFailover runId sp k s) = memF s := by
  unfold spareFailover; (repeat' split) <;> (first | (simp [memF_fold, *, foldl_mem, foldl2_mem, foldl3_mem, foldlS_mem]; done) | (simp_all [memF_fold, foldl_mem, foldl2_mem, foldl3_mem, foldlS_mem]; done))

@[simp] theorem sendPart_mem (dst runId : Nat) (s : State) (q : Nat × Nat × Nat) : memF (sendPart dst runId s q) = memF s := by
  unfold sendPart; simp [memF_fold, foldl_mem, foldl2_mem, foldl3_mem, foldlS_mem]

@[simp] theorem sparePiece_mem (i : InMsg) (s : State) : memF (sparePiece i s) = memF s := by
  simp [memF_fold, sparePiece]

@[simp] theorem spareRefuses_mem (k : Claim) (s : State) : memF (spareRefuses k s) = memF s := by
  unfold spareRefuses; simp [memF_fold, foldl_mem, foldl2_mem, foldl3_mem, foldlS_mem]

@[simp] theorem spareCleared_mem (c : Nat) (s : State) : memF (spareCleared c s) = memF s := by
  first | (simp [memF_fold, spareCleared]; done) | (unfold spareCleared; simp [memF_fold, foldl_mem, foldl2_mem, foldl3_mem, foldlS_mem]; done) | (unfold spareCleared; (try dsimp only); (repeat' split) <;> (first | (simp [*, memF_fold, foldl_mem, foldl2_mem, foldl3_mem, foldlS_mem]; done) | (simp_all [memF_fold, foldl_mem, foldl2_mem, foldl3_mem, foldlS_mem]; done)))

@[simp] theorem rebuildOver_mem (dev : Nat) (s : State) : memF (rebuildOver dev s) = memF s := by
  first | (simp [memF_fold, rebuildOver]; done) | (unfold rebuildOver; simp [memF_fold, foldl_mem, foldl2_mem, foldl3_mem, foldlS_mem]; done) | (unfold rebuildOver; (try dsimp only); (repeat' split) <;> (first | (simp [*, memF_fold, foldl_mem, foldl2_mem, foldl3_mem, foldlS_mem]; done) | (simp_all [memF_fold, foldl_mem, foldl2_mem, foldl3_mem, foldlS_mem]; done)))

@[simp] theorem recRuns_mem (dst i : Nat) (s : State) : memF (recRuns dst i s) = memF s := by
  unfold recRuns; simp [memF_fold, foldl_mem, foldl2_mem, foldl3_mem, foldlS_mem]

@[simp] theorem recRunsOf_mem (ds : List Nat) (i : Nat) (s : State) : memF (recRunsOf ds i s) = memF s := by
  unfold recRunsOf; simp [memF_fold, foldl_mem, foldl2_mem, foldl3_mem, foldlS_mem]

@[simp] theorem packFlit_mem (l : Nat) (b : List Byte) (s : State) : memF (packFlit l b s) = memF s := by
  simp [memF_fold, packFlit]

@[simp] theorem transmit_mem (l : Nat) (f : QFlit) (seq : Nat) (s : State) : memF (transmit l f seq s) = memF s := by
  simp [memF_fold, transmit]

@[simp] theorem noteLast_mem (f : QFlit) (s : State) : memF (noteLast f s) = memF s := by
  simp [memF_fold, noteLast]

@[simp] theorem sendNew_mem (l : Nat) (f : QFlit) (s : State) : memF (sendNew l f s) = memF s := by
  simp [memF_fold, sendNew]

@[simp] theorem sendRekey_mem (l : Nat) (s : State) : memF (sendRekey l s) = memF s := by
  simp [memF_fold, sendRekey]

@[simp] theorem sendNext_mem (l : Nat) (s : State) : memF (sendNext l s) = memF s := by
  unfold sendNext; dsimp only; (repeat' split) <;> (first | (simp [memF_fold, *, foldl_mem, foldl2_mem, foldl3_mem, foldlS_mem]; done) | (simp_all [memF_fold, foldl_mem, foldl2_mem, foldl3_mem, foldlS_mem]; done))

@[simp] theorem resendAll_mem (l : Nat) (s : State) : memF (resendAll l s) = memF s := by
  unfold resendAll; simp [memF_fold, foldl_mem, foldl2_mem, foldl3_mem, foldlS_mem]

@[simp] theorem linkLeaves_mem (l st cause downAt : Nat) (s : State) : memF (linkLeaves l st cause downAt s) = memF s := by
  unfold linkLeaves; simp [memF_fold, foldl_mem, foldl2_mem, foldl3_mem, foldlS_mem]

@[simp] theorem linkDown_mem (l cause : Nat) (s : State) : memF (linkDown l cause s) = memF s := by
  simp [memF_fold, linkDown]

@[simp] theorem nakArrives_mem (l : Nat) (s : State) : memF (nakArrives l s) = memF s := by
  simp [memF_fold, nakArrives]

@[simp] theorem linkFails_mem (l cause : Nat) (s : State) : memF (linkFails l cause s) = memF s := by
  simp [memF_fold, linkFails]

@[simp] theorem setEpoch_mem (l : Nat) (b : List Byte) (s : State) : memF (setEpoch l b s) = memF s := by
  simp [memF_fold, setEpoch]

@[simp] theorem drawEpoch_mem (l : Nat) (s : State) : memF (drawEpoch l s) = memF s := by
  simp [memF_fold, drawEpoch]

@[simp] theorem beginTraining_mem (l : Nat) (s : State) : memF (beginTraining l s) = memF s := by
  simp [memF_fold, beginTraining]

@[simp] theorem beginVerify_mem (l : Nat) (s : State) : memF (beginVerify l s) = memF s := by
  simp [memF_fold, beginVerify]

@[simp] theorem verifyFails_mem (l : Nat) (s : State) : memF (verifyFails l s) = memF s := by
  simp [memF_fold, verifyFails]

@[simp] theorem discoverArrives_mem (l : Nat) (b : DiscoverBody) (s : State) : memF (discoverArrives l b s) = memF s := by
  simp [memF_fold, discoverArrives]

@[simp] theorem rekeyArrives_mem (l e : Nat) (s : State) : memF (rekeyArrives l e s) = memF s := by
  simp [memF_fold, rekeyArrives]

@[simp] theorem frameHeard_mem (src : Nat) (s : State) : memF (frameHeard src s) = memF s := by
  unfold frameHeard; apply foldl_mem; intro s a; (repeat' split) <;> simp [memF_fold]

@[simp] theorem msgAcked_mem (src cls msg : Nat) (s : State) : memF (msgAcked src cls msg s) = memF s := by
  simp [memF_fold, msgAcked]

@[simp] theorem ackArrives_mem (src cls msg : Nat) (s : State) : memF (ackArrives src cls msg s) = memF s := by
  first | (simp [memF_fold, ackArrives]; done) | (unfold ackArrives; simp [memF_fold, foldl_mem, foldl2_mem, foldl3_mem, foldlS_mem]; done) | (unfold ackArrives; (try dsimp only); (repeat' split) <;> (first | (simp [*, memF_fold, foldl_mem, foldl2_mem, foldl3_mem, foldlS_mem]; done) | (simp_all [memF_fold, foldl_mem, foldl2_mem, foldl3_mem, foldlS_mem]; done)))

@[simp] theorem keepMsg_mem (i : InMsg) (s : State) : memF (keepMsg i s) = memF s := by
  simp [memF_fold, keepMsg]

@[simp] theorem noteDelivered_mem (src cls msg : Nat) (s : State) : memF (noteDelivered src cls msg s) = memF s := by
  simp [memF_fold, noteDelivered]

@[simp] theorem frameCounted_mem (f : QFlit) (s : State) : memF (frameCounted f s) = memF s := by
  first | (simp [memF_fold, frameCounted]; done) | (unfold frameCounted; simp [memF_fold, foldl_mem, foldl2_mem, foldl3_mem, foldlS_mem]; done) | (unfold frameCounted; (try dsimp only); (repeat' split) <;> (first | (simp [*, memF_fold, foldl_mem, foldl2_mem, foldl3_mem, foldlS_mem]; done) | (simp_all [memF_fold, foldl_mem, foldl2_mem, foldl3_mem, foldlS_mem]; done)))

@[simp] theorem hopArrives_mem (l : Nat) (d : List Byte) (s : State) : memF (hopArrives l d s) = memF s := by
  unfold hopArrives; (repeat' split) <;> (first | (simp [memF_fold, *, foldl_mem, foldl2_mem, foldl3_mem, foldlS_mem]; done) | (simp_all [memF_fold, foldl_mem, foldl2_mem, foldl3_mem, foldlS_mem]; done))

@[simp] theorem flitFailed_mem (l : Nat) (s : State) : memF (flitFailed l s) = memF s := by
  simp [memF_fold, flitFailed]

@[simp] theorem takeAck_mem (l a : Nat) (s : State) : memF (takeAck l a s) = memF s := by
  simp [memF_fold, takeAck]

@[simp] theorem takeCredits_mem (l i n : Nat) (s : State) : memF (takeCredits l i n s) = memF s := by
  simp [memF_fold, takeCredits]

@[simp] theorem countRx_mem (l : Nat) (s : State) : memF (countRx l s) = memF s := by
  simp [memF_fold, countRx]

@[simp] theorem ackNow_mem (l : Nat) (s : State) : memF (ackNow l s) = memF s := by
  simp [memF_fold, ackNow]

@[simp] theorem takeCodeword_mem (l : Nat) (ls : List (List Nat)) (s : State) : memF (takeCodeword l ls s) = memF s := by
  unfold takeCodeword; dsimp only; generalize codewordBits ls = r; (repeat' split) <;> simp

@[simp] theorem completeLife_mem (s : State) : memF (completeLife s) = memF s := by
  simp [memF_fold, completeLife]

@[simp] theorem romHalts_mem (kat : Nat) (s : State) : memF (romHalts kat s) = memF s := by
  first | (simp [memF_fold, romHalts]; done) | (unfold romHalts; simp [memF_fold, foldl_mem, foldl2_mem, foldl3_mem, foldlS_mem]; done) | (unfold romHalts; (try dsimp only); (repeat' split) <;> (first | (simp [*, memF_fold, foldl_mem, foldl2_mem, foldl3_mem, foldlS_mem]; done) | (simp_all [memF_fold, foldl_mem, foldl2_mem, foldl3_mem, foldlS_mem]; done)))

@[simp] theorem verifySlots_mem (s : State) : memF (verifySlots s) = memF s := by
  unfold verifySlots; (repeat' split) <;> rfl

@[simp] theorem bootRetire_mem (p cause : Nat) (s : State) : memF (bootRetire p cause s) = memF s := by
  unfold bootRetire; dsimp only; (repeat' split) <;> (first | (simp [memF_fold, *, foldl_mem, foldl2_mem, foldl3_mem, foldlS_mem]; done) | (simp_all [memF_fold, foldl_mem, foldl2_mem, foldl3_mem, foldlS_mem]; done))

@[simp] theorem bootColumn_mem (p : Nat) (s : State) : memF (bootColumn p s) = memF s := by
  simp [memF_fold, bootColumn]

@[simp] theorem applyRepair_mem (s : State) : memF (applyRepair s) = memF s := by
  unfold applyRepair; simp [memF_fold, foldl_mem, foldl2_mem, foldl3_mem, foldlS_mem]

@[simp] theorem bootTiles_mem (f : BootFacts) (s : State) : memF (bootTiles f s) = memF s := by
  unfold bootTiles; simp [memF_fold, foldl_mem, foldl2_mem, foldl3_mem, foldlS_mem]

@[simp] theorem bootMap_mem (s : State) : memF (bootMap s) = memF s := by
  simp [memF_fold, bootMap]

@[simp] theorem bootLinks_mem (s : State) : memF (bootLinks s) = memF s := by
  unfold bootLinks; simp [memF_fold, foldl_mem, foldl2_mem, foldl3_mem, foldlS_mem]

@[simp] theorem bootCal_mem (f : BootFacts) (s : State) : memF (bootCal f s) = memF s := by
  simp [memF_fold, bootCal]

@[simp] theorem bootMem_mem (f : BootFacts) (s : State) : memF (bootMem f s) = memF s := by
  unfold bootMem; simp [memF_fold, foldl_mem, foldl2_mem, foldl3_mem, foldlS_mem]

@[simp] theorem bootKeys_mem (s : State) : memF (bootKeys s) = memF s := by
  unfold bootKeys; dsimp only; (repeat' split) <;> (first | (simp [memF_fold, *, foldl_mem, foldl2_mem, foldl3_mem, foldlS_mem]; done) | (simp_all [memF_fold, foldl_mem, foldl2_mem, foldl3_mem, foldlS_mem]; done))

@[simp] theorem bootReady_mem (f : BootFacts) (s : State) : memF (bootReady f s) = memF s := by
  simp [memF_fold, bootReady]

@[simp] theorem installFails_mem (s : State) : memF (installFails s) = memF s := by
  simp [memF_fold, installFails]

@[simp] theorem pcieDown_mem (s : State) : memF (pcieDown s) = memF s := by
  simp [memF_fold, pcieDown]

@[simp] theorem linkTrained_mem (speed width : Nat) (flit : Bool) (s : State) : memF (linkTrained speed width flit s) = memF s := by
  simp [memF_fold, linkTrained]

@[simp] theorem wipe_mem (s : State) : memF (wipe s) = memF s := by
  simp [memF_fold, wipe]

@[simp] theorem tokenRead_mem (s : State) (r : Option (List Byte) × State) : memF (tokenRead s r).2 = memF r.2 := by
  simp [memF_fold, tokenRead]

@[simp] theorem lcFault_mem (m n k : Nat) (s : State) : memF (lcFault m n k s) = memF s := by
  simp [memF_fold, lcFault]

@[simp] theorem tamperClear_mem (s : State) : memF (tamperClear s) = memF s := by
  unfold tamperClear; simp [memF_fold, foldl_mem, foldl2_mem, foldl3_mem, foldlS_mem]

@[simp] theorem discardWindows_mem (s : State) : memF (discardWindows s) = memF s := by
  have h := foldl_mem (fun (s : State) (c : CertW) => match c.ctx with | some i => updCtx i (dropCert c) s | none => s) (unsignedCerts s) s
    (by intro s c; split <;> simp)
  unfold discardWindows; simp; exact h

@[simp] theorem revokeWrite_mem (v : Nat) (s : State) : memF (revokeWrite v s) = memF s := by
  simp [memF_fold, revokeWrite]

@[simp] theorem svnWrite_mem (v : Nat) (s : State) : memF (svnWrite v s) = memF s := by
  simp [memF_fold, svnWrite]

@[simp] theorem loadKey_mem (slot : Nat) (k : List Byte) (s : State) : memF (loadKey slot k s) = memF s := by
  simp [memF_fold, loadKey]

@[simp] theorem keyNotWritten_mem (i : Nat) (s : State) : memF (keyNotWritten i s) = memF s := by
  simp [memF_fold, keyNotWritten]

@[simp] theorem provOpen_mem (s : State) : memF (provOpen s) = memF s := by
  simp [memF_fold, provOpen]

@[simp] theorem attWrite_mem (v : Nat) (reply : Cpl) (s : State) : memF (attWrite v reply s) = memF s := by
  unfold attWrite; (repeat' split) <;> (first | (simp [memF_fold, *, foldl_mem, foldl2_mem, foldl3_mem, foldlS_mem]; done) | (simp_all [memF_fold, foldl_mem, foldl2_mem, foldl3_mem, foldlS_mem]; done))

@[simp] theorem healSource_mem (i : Nat) (s : State) : memF (healSource i s) = memF s := by
  simp [memF_fold, healSource]

@[simp] theorem testSource_mem (s : State) (i : Nat) (pass : Bool) : memF (testSource s i pass) = memF s := by
  simp [memF_fold, testSource]

@[simp] theorem retestAgain_mem (k : Nat) (s : State) : memF (retestAgain k s) = memF s := by
  simp [memF_fold, retestAgain]

@[simp] theorem epochDrawn_mem (l : Nat) (s : State) : memF (epochDrawn l s) = memF s := by
  simp [memF_fold, epochDrawn]

@[simp] theorem repeatedBlock_mem (s : State) : memF (repeatedBlock s) = memF s := by
  unfold repeatedBlock; simp [memF_fold, foldl_mem, foldl2_mem, foldl3_mem, foldlS_mem]

@[simp] theorem updPower_mem (f : Power → Power) (s : State) : memF (updPower f s) = memF s := by
  simp [memF_fold, updPower]

@[simp] theorem traceNote_mem (kind v : Nat) (s : State) : memF (traceNote kind v s) = memF s := by
  simp [memF_fold, traceNote]

@[simp] theorem widenWindow_mem (v : Nat) (s : State) : memF (widenWindow v s) = memF s := by
  first | (simp [memF_fold, widenWindow]; done) | (unfold widenWindow; simp [memF_fold, foldl_mem, foldl2_mem, foldl3_mem, foldlS_mem]; done) | (unfold widenWindow; (try dsimp only); (repeat' split) <;> (first | (simp [*, memF_fold, foldl_mem, foldl2_mem, foldl3_mem, foldlS_mem]; done) | (simp_all [memF_fold, foldl_mem, foldl2_mem, foldl3_mem, foldlS_mem]; done)))

@[simp] theorem sendAvs_mem (s : State) : memF (sendAvs s) = memF s := by
  simp [memF_fold, sendAvs]

@[simp] theorem followVreq_mem (s : State) : memF (followVreq s) = memF s := by
  simp [memF_fold, followVreq]

@[simp] theorem setIssue_mem (n : Nat) (s : State) : memF (setIssue n s) = memF s := by
  simp [memF_fold, setIssue]

@[simp] theorem riseIssue_mem (n : Nat) (s : State) : memF (riseIssue n s) = memF s := by
  simp [memF_fold, riseIssue]

@[simp] theorem setOverride_mem (s : State) : memF (setOverride s) = memF s := by
  simp [memF_fold, setOverride]

@[simp] theorem levelUp_mem (n : Nat) (s : State) : memF (levelUp n s) = memF s := by
  simp [memF_fold, levelUp]

@[simp] theorem triggerRaise_mem (k : Nat) (s : State) : memF (triggerRaise k s) = memF s := by
  simp [memF_fold, triggerRaise]

@[simp] theorem fallTo_mem (n : Nat) (s : State) : memF (fallTo n s) = memF s := by
  simp [memF_fold, fallTo]

@[simp] theorem levelDown_mem (s : State) : memF (levelDown s) = memF s := by
  simp [memF_fold, levelDown]

@[simp] theorem clampLevel_mem (s : State) : memF (clampLevel s) = memF s := by
  simp [memF_fold, clampLevel]

@[simp] theorem setTrigger_mem (k : Nat) (s : State) : memF (setTrigger k s) = memF s := by
  simp [memF_fold, setTrigger]

@[simp] theorem raiseNow_mem (k by_ : Nat) (s : State) : memF (raiseNow k by_ s) = memF s := by
  simp [memF_fold, raiseNow]

@[simp] theorem clearTriggers_mem (p1ms : Nat) (s : State) : memF (clearTriggers p1ms s) = memF s := by
  simp [memF_fold, clearTriggers]

@[simp] theorem reefFall_mem (s : State) : memF (reefFall s) = memF s := by
  simp [memF_fold, reefFall]

@[simp] theorem holdAlert_mem (b : Bool) (s : State) : memF (holdAlert b s) = memF s := by
  unfold holdAlert; split <;> simp [memF_fold]

@[simp] theorem reefEval_mem (m : ReefMeas) (s : State) : memF (reefEval m s) = memF s := by
  simp [memF_fold, reefEval]

@[simp] theorem ackAvs_mem (s : State) : memF (ackAvs s) = memF s := by
  unfold ackAvs; dsimp only; (repeat' split) <;> (first | (simp [memF_fold, *, foldl_mem, foldl2_mem, foldl3_mem, foldlS_mem]; done) | (simp_all [memF_fold, foldl_mem, foldl2_mem, foldl3_mem, foldlS_mem]; done))

@[simp] theorem avsFails_mem (s : State) : memF (avsFails s) = memF s := by
  simp [memF_fold, avsFails]

@[simp] theorem alertFalls_mem (s : State) : memF (alertFalls s) = memF s := by
  first | (simp [memF_fold, alertFalls]; done) | (unfold alertFalls; simp [memF_fold, foldl_mem, foldl2_mem, foldl3_mem, foldlS_mem]; done) | (unfold alertFalls; (try dsimp only); (repeat' split) <;> (first | (simp [*, memF_fold, foldl_mem, foldl2_mem, foldl3_mem, foldlS_mem]; done) | (simp_all [memF_fold, foldl_mem, foldl2_mem, foldl3_mem, foldlS_mem]; done)))

@[simp] theorem speedEval_mem (rate : Nat) (s : State) : memF (speedEval rate s) = memF s := by
  simp [memF_fold, speedEval]

@[simp] theorem setCode_mem (p c : Nat) (s : State) : memF (setCode p c s) = memF s := by
  simp [memF_fold, setCode]

@[simp] theorem takeBounds_mem (b : Bool × Nat × Nat) (p : Nat) (s : State) : memF (takeBounds b p s) = memF s := by
  first | (simp [memF_fold, takeBounds]; done) | (unfold takeBounds; simp [memF_fold, foldl_mem, foldl2_mem, foldl3_mem, foldlS_mem]; done) | (unfold takeBounds; (try dsimp only); (repeat' split) <;> (first | (simp [*, memF_fold, foldl_mem, foldl2_mem, foldl3_mem, foldlS_mem]; done) | (simp_all [memF_fold, foldl_mem, foldl2_mem, foldl3_mem, foldlS_mem]; done)))

@[simp] theorem boundCodes_mem (s : State) : memF (boundCodes s) = memF s := by
  unfold boundCodes; simp [memF_fold, foldl_mem, foldl2_mem, foldl3_mem, foldlS_mem]

@[simp] theorem canaryFires_mem (p : Nat) (s : State) : memF (canaryFires p s) = memF s := by
  simp [memF_fold, canaryFires]

@[simp] theorem holdIssue_mem (s : State) : memF (holdIssue s) = memF s := by
  simp [memF_fold, holdIssue]

@[simp] theorem sampleSensors_mem (ts : List Int) (s : State) : memF (sampleSensors ts s) = memF s := by
  simp [memF_fold, sampleSensors]

@[simp] theorem tripNow_mem (s : State) : memF (tripNow s) = memF s := by
  simp [memF_fold, tripNow]

@[simp] theorem trimRate_mem (s : State) : memF (trimRate s) = memF s := by
  simp [memF_fold, trimRate]

@[simp] theorem ppsEdge_mem (s : State) : memF (ppsEdge s) = memF s := by
  simp [memF_fold, ppsEdge]

@[simp] theorem ptmDone_mem (t : Nat) (s : State) : memF (ptmDone t s) = memF s := by
  simp [memF_fold, ptmDone]

@[simp] theorem shiftTimes_mem (d : Int) (s : State) : memF (shiftTimes d s) = memF s := by
  simp [memF_fold, shiftTimes]

@[simp] theorem withdrawPassed_mem (s : State) (q : Nat) : memF (withdrawPassed s q) = memF s := by
  unfold withdrawPassed; simp [memF_fold, foldl_mem, foldl2_mem, foldl3_mem, foldlS_mem]

@[simp] theorem stepTime64_mem (d : Int) (s : State) : memF (stepTime64 d s) = memF s := by
  simp [memF_fold, stepTime64]

@[simp] theorem updScrub_mem (k : Nat) (f : Scrub → Scrub) (s : State) : memF (updScrub k f s) = memF s := by
  simp [memF_fold, updScrub]

@[simp] theorem setPeriod_mem (k p : Nat) (s : State) : memF (setPeriod k p s) = memF s := by
  simp [memF_fold, setPeriod]

@[simp] theorem beginPass_mem (k : Nat) (s : State) : memF (beginPass k s) = memF s := by
  simp [memF_fold, beginPass]

@[simp] theorem endPass_mem (k : Nat) (s : State) : memF (endPass k s) = memF s := by
  simp [memF_fold, endPass]

@[simp] theorem repairWord_mem (kind w : Nat) (s : State) : memF (repairWord kind w s) = memF s := by
  simp [memF_fold, repairWord]

@[simp] theorem noteHit_mem (w : Nat) (pos : Option Nat) (s : State) : memF (noteHit w pos s) = memF s := by
  unfold noteHit; (repeat' split) <;> (first | (simp [memF_fold, *, foldl_mem, foldl2_mem, foldl3_mem, foldlS_mem]; done) | (simp_all [memF_fold, foldl_mem, foldl2_mem, foldl3_mem, foldlS_mem]; done))

@[simp] theorem testPattern_mem (w : Nat) (s : State) : memF (testPattern w s) = memF s := by
  first | (simp [memF_fold, testPattern]; done) | (unfold testPattern; simp [memF_fold, foldl_mem, foldl2_mem, foldl3_mem, foldlS_mem]; done) | (unfold testPattern; (try dsimp only); (repeat' split) <;> (first | (simp [*, memF_fold, foldl_mem, foldl2_mem, foldl3_mem, foldlS_mem]; done) | (simp_all [memF_fold, foldl_mem, foldl2_mem, foldl3_mem, foldlS_mem]; done)))

@[simp] theorem updTxn_mem (page : Nat) (f : Txn → Txn) (s : State) : memF (updTxn page f s) = memF s := by
  simp [memF_fold, updTxn]

@[simp] theorem txnBusy_mem (page : Nat) (s : State) : memF (txnBusy page s) = memF s := by
  simp [memF_fold, txnBusy]

@[simp] theorem tilesTake_mem (t : Txn) (s : State) : memF (tilesTake t s) = memF s := by
  first | (simp [memF_fold, tilesTake]; done) | (unfold tilesTake; simp [memF_fold, foldl_mem, foldl2_mem, foldl3_mem, foldlS_mem]; done) | (unfold tilesTake; (try dsimp only); (repeat' split) <;> (first | (simp [*, memF_fold, foldl_mem, foldl2_mem, foldl3_mem, foldlS_mem]; done) | (simp_all [memF_fold, foldl_mem, foldl2_mem, foldl3_mem, foldlS_mem]; done)))

@[simp] theorem applyRegs_mem (page : Nat) (t : Txn) (s0 : State) : memF (applyRegs page t s0) = memF s0 := by
  unfold applyRegs; simp [memF_fold, foldl_mem, foldl2_mem, foldl3_mem, foldlS_mem]

@[simp] theorem notePart_mem (page : Nat) (rej : Bool) (s : State) : memF (notePart page rej s) = memF s := by
  simp [memF_fold, notePart]

@[simp] theorem resetCounts_mem (page : Nat) (s : State) : memF (resetCounts page s) = memF s := by
  simp [memF_fold, resetCounts]

@[simp] theorem linkHook_mem (l old : Nat) (s : State) : memF (linkHook l old s) = memF s := by
  simp [memF_fold, linkHook]

@[simp] theorem txnBegin_mem (a : Agent) (page : Nat) (s : State) : memF (txnBegin a page s) = memF s := by
  simp [memF_fold, txnBegin]

@[simp] theorem giveBack_mem (page : Nat) (s : State) : memF (giveBack page s) = memF s := by
  unfold giveBack; split <;> rfl

@[simp] theorem txnAbort_mem (a : Agent) (page : Nat) (s : State) : memF (txnAbort a page s) = memF s := by
  simp [memF_fold, txnAbort]

@[simp] theorem stage_mem (page off v : Nat) (s : State) : memF (stage page off v s) = memF s := by
  simp [memF_fold, stage]

@[simp] theorem endGroup_mem (last : Nat) (s : State) : memF (endGroup last s) = memF s := by
  unfold endGroup; simp [memF_fold, foldl_mem, foldl2_mem, foldl3_mem, foldlS_mem]

@[simp] theorem updGroup_mem (f : TxnGroup → TxnGroup) (s : State) : memF (updGroup f s) = memF s := by
  simp [memF_fold, updGroup]

@[simp] theorem grpBusy_mem (s : State) : memF (grpBusy s) = memF s := by
  simp [memF_fold, grpBusy]

@[simp] theorem grpBegin_mem (a : Agent) (s : State) : memF (grpBegin a s) = memF s := by
  unfold grpBegin; dsimp only; (repeat' split) <;> (first | (simp [memF_fold, *, foldl_mem, foldl2_mem, foldl3_mem, foldlS_mem]; done) | (simp_all [memF_fold, foldl_mem, foldl2_mem, foldl3_mem, foldlS_mem]; done))

@[simp] theorem arriveNow_mem (s : State) : memF (arriveNow s) = memF s := by
  simp [memF_fold, arriveNow]

@[simp] theorem grpCommit_mem (a : Agent) (s : State) : memF (grpCommit a s) = memF s := by
  simp [memF_fold, grpCommit]

@[simp] theorem grpAbort_mem (a : Agent) (s : State) : memF (grpAbort a s) = memF s := by
  simp [memF_fold, grpAbort]

@[simp] theorem grpCommand_mem (a : Agent) (v : Nat) (s : State) : memF (grpCommand a v s) = memF s := by
  unfold grpCommand; (repeat' split) <;> (first | (simp [memF_fold, *, foldl_mem, foldl2_mem, foldl3_mem, foldlS_mem]; done) | (simp_all [memF_fold, foldl_mem, foldl2_mem, foldl3_mem, foldlS_mem]; done))

@[simp] theorem diagRead_mem (t : PageTy) (s : State) : memF (diagRead t s).2 = memF s := by
  simp [memF_fold, diagRead]

@[simp] theorem barRead_mem (off : Nat) (s : State) : memF (barRead off s).2 = memF s := by
  unfold barRead; dsimp only; (repeat' split) <;> (first | (simp [memF_fold, *, foldl_mem, foldl2_mem, foldl3_mem, foldlS_mem]; done) | (simp_all [memF_fold, foldl_mem, foldl2_mem, foldl3_mem, foldlS_mem]; done))

@[simp] theorem evtClear_mem (page mask recur : Nat) (s : State) : memF (evtClear page mask recur s) = memF s := by
  simp [memF_fold, evtClear]

@[simp] theorem evtForce_mem (page mask : Nat) (s : State) : memF (evtForce page mask s) = memF s := by
  simp [memF_fold, evtForce]

@[simp] theorem evtEnable_mem (page v : Nat) (s : State) : memF (evtEnable page v s) = memF s := by
  simp [memF_fold, evtEnable]

@[simp] theorem cntClear_mem (page : Nat) (s : State) : memF (cntClear page s) = memF s := by
  unfold cntClear; simp [memF_fold, foldl_mem, foldl2_mem, foldl3_mem, foldlS_mem]

@[simp] theorem lockReject_mem (s : State) : memF (lockReject s) = memF s := by
  simp [memF_fold, lockReject]

@[simp] theorem ownerWrite_mem (a : Agent) (page v : Nat) (s : State) : memF (ownerWrite a page v s) = memF s := by
  simp [memF_fold, ownerWrite]

theorem guarded_mem (a : Agent) (page : Nat) (f : State → State) (h : ∀ s, memF (f s) = memF s) (s : State) : memF (guarded a page f s) = memF s := by
  unfold guarded; (repeat' split) <;> simp [memF_fold, h]

@[simp] theorem badAccess_mem (s : State) : memF (badAccess s) = memF s := by
  simp [memF_fold, badAccess]

@[simp] theorem cplFree_mem (s : State) : memF (cplFree s).2 = memF s := by
  simp [memF_fold, cplFree]

@[simp] theorem softBlock_mem (page : Nat) (s : State) : memF (softBlock page s) = memF s := by
  unfold softBlock; (repeat' split) <;> (first | (simp [memF_fold, *, foldl_mem, foldl2_mem, foldl3_mem, foldlS_mem]; done) | (simp_all [memF_fold, foldl_mem, foldl2_mem, foldl3_mem, foldlS_mem]; done))

@[simp] theorem softRegs_mem (page : Nat) (s : State) : memF (softRegs page s) = memF s := by
  simp [memF_fold, softRegs]

@[simp] theorem softTxn_mem (page : Nat) (s : State) : memF (softTxn page s) = memF s := by
  unfold softTxn; dsimp only; (repeat' split) <;> (first | (simp [memF_fold, *, foldl_mem, foldl2_mem, foldl3_mem, foldlS_mem]; done) | (simp_all [memF_fold, foldl_mem, foldl2_mem, foldl3_mem, foldlS_mem]; done))

@[simp] theorem calResult_mem (v : Nat) (s : State) : memF (calResult v s) = memF s := by
  simp [memF_fold, calResult]

@[simp] theorem calProgram_mem (b : List Byte) (s : State) : memF (calProgram b s) = memF s := by
  simp [memF_fold, calProgram]

@[simp] theorem calStoreWith_mem (r : Option (List Byte) × State) : memF (calStoreWith r) = memF r.2 := by
  unfold calStoreWith; (repeat' split) <;> simp [memF_fold]

@[simp] theorem syncTouch_mem (s : State) : memF (syncTouch s) = memF s := by
  simp [memF_fold, syncTouch]

@[simp] theorem logClear_mem (page base log : Nat) (s : State) : memF (logClear page base log s) = memF s := by
  simp [memF_fold, logClear]

@[simp] theorem injCtrl_mem (page base v : Nat) (s : State) : memF (injCtrl page base v s) = memF s := by
  simp [memF_fold, injCtrl]

@[simp] theorem attPlain_mem (v : Nat) (s : State) : memF (attPlain v s) = memF s := by
  simp [memF_fold, attPlain]

@[simp] theorem plainWrite_mem (t : PageTy) (page o v : Nat) (s : State) : memF (plainWrite t page o v s) = memF s := by
  unfold plainWrite; (repeat' split) <;> (first | (simp [memF_fold, *, foldl_mem, foldl2_mem, foldl3_mem, foldlS_mem]; done) | (simp_all [memF_fold, foldl_mem, foldl2_mem, foldl3_mem, foldlS_mem]; done))

@[simp] theorem touched_mem (a : Agent) (page : Nat) (s : State) : memF (touched a page s) = memF s := by
  first | (simp [memF_fold, touched]; done) | (unfold touched; simp [memF_fold, foldl_mem, foldl2_mem, foldl3_mem, foldlS_mem]; done) | (unfold touched; (try dsimp only); (repeat' split) <;> (first | (simp [*, memF_fold, foldl_mem, foldl2_mem, foldl3_mem, foldlS_mem]; done) | (simp_all [memF_fold, foldl_mem, foldl2_mem, foldl3_mem, foldlS_mem]; done)))

@[simp] theorem readBy_mem (a : Agent) (off : Nat) (s : State) : memF (readBy a off s) = memF s := by
  simp [memF_fold, readBy]

@[simp] theorem bar2Reject_mem (s : State) : memF (bar2Reject s) = memF s := by
  simp [memF_fold, bar2Reject]

@[simp] theorem i3cReply_mem (data status : Nat) (s : State) : memF (i3cReply data status s) = memF s := by
  simp [memF_fold, i3cReply]

@[simp] theorem i3cRead_mem (off : Nat) (s : State) : memF (i3cRead off s) = memF s := by
  simp [memF_fold, i3cRead]

@[simp] theorem tick_mem (s : State) : memF (tick s) = memF s := by
  simp [memF_fold, tick]

@[simp] theorem State.withFetchWord_mem (s : State) (nbits w : Nat) : memF (State.withFetchWord s nbits w) = memF s := by
  unfold State.withFetchWord; (repeat' split) <;> (first | (simp [memF_fold, *, foldl_mem, foldl2_mem, foldl3_mem, foldlS_mem]; done) | (simp_all [memF_fold, foldl_mem, foldl2_mem, foldl3_mem, foldlS_mem]; done))

end Sys2Proof.Machine
end

