-- ==== Sys2Proof/Laws/Sparse.lean ====
section
/-!
SUPPORT. The sparse stores: their canonical form, and what one reads after a value is stored.
-/
namespace Sys2Proof.Machine

theorem spWfFrom_mono {α : Type} [DecidableEq α] (d : Nat → α) (a b : Nat) (h : a ≤ b) (m : Sparse α) (hm : spWfFrom d (some b) m = true) :
    spWfFrom d (some a) m = true := by
  cases m with
  | nil => rfl
  | cons e m =>
    simp only [spWfFrom, Bool.and_eq_true, decide_eq_true_eq] at hm ⊢
    exact ⟨⟨by omega, hm.1.2⟩, hm.2⟩

theorem spWfFrom_none {α : Type} [DecidableEq α] (d : Nat → α) (b : Nat) (m : Sparse α) (hm : spWfFrom d (some b) m = true) :
    spWfFrom d none m = true := by
  cases m with
  | nil => rfl
  | cons e m =>
    simp only [spWfFrom, Bool.and_eq_true, decide_eq_true_eq] at hm ⊢
    exact ⟨⟨trivial, hm.1.2⟩, hm.2⟩

theorem spWfFrom_gt {α : Type} [DecidableEq α] (d : Nat → α) (m : Sparse α) (b : Nat) (h : spWfFrom d (some b) m = true) :
    ∀ e ∈ m, b < e.1 := by
  induction m generalizing b with
  | nil => simp
  | cons x m ih =>
    simp [spWfFrom] at h
    intro e he
    rcases List.mem_cons.1 he with rfl | he
    · exact h.1.1
    · exact Nat.lt_trans h.1.1 (ih _ h.2 e he)

theorem spWfFrom_filter {α : Type} [DecidableEq α] (d : Nat → α) (p : Nat × α → Bool) (m : Sparse α) (b : Option Nat) (h : spWfFrom d b m = true) :
    spWfFrom d b (m.filter p) = true := by
  induction m generalizing b with
  | nil => simpa using h
  | cons x m ih =>
    simp only [spWfFrom, Bool.and_eq_true] at h
    by_cases hp : p x = true
    · simp only [List.filter_cons, hp, if_true, spWfFrom, Bool.and_eq_true]
      exact ⟨h.1, ih _ h.2⟩
    · simp only [List.filter_cons, hp]
      have := ih _ h.2
      cases b with
      | none => exact spWfFrom_none _ _ _ this
      | some b => refine spWfFrom_mono d b x.1 ?_ _ this; have := h.1.1; simp at this; omega

theorem spWfFrom_put {α : Type} [DecidableEq α] (d : Nat → α) (k : Nat) (v : α) (hv : v ≠ d k) (m : Sparse α) (b : Option Nat)
    (hb : ∀ x, b = some x → x < k) (h : spWfFrom d b m = true) : spWfFrom d b (spPut k v m) = true := by
  induction m generalizing b with
  | nil => cases b with
    | none => simp [spPut, spWfFrom, hv]
    | some x => simp [spPut, spWfFrom, hv, hb x rfl]
  | cons e m ih =>
    obtain ⟨k', v'⟩ := e
    simp only [spWfFrom, Bool.and_eq_true, decide_eq_true_eq] at h
    unfold spPut
    split
    · rename_i hk
      simp only [spWfFrom, Bool.and_eq_true, decide_eq_true_eq]
      refine ⟨⟨?_, hv⟩, ⟨hk, h.1.2⟩, h.2⟩
      cases b with
      | none => rfl
      | some x => simpa using hb x rfl
    · split
      · rename_i hk; subst hk
        simp only [spWfFrom, Bool.and_eq_true, decide_eq_true_eq]
        refine ⟨⟨?_, hv⟩, h.2⟩
        cases b with
        | none => rfl
        | some x => simpa using hb x rfl
      · simp only [spWfFrom, Bool.and_eq_true, decide_eq_true_eq]
        exact ⟨h.1, ih _ (by intro x hx; cases hx; omega) h.2⟩

theorem spWfFrom_del {α : Type} [DecidableEq α] (d : Nat → α) (k : Nat) (m : Sparse α) (b : Option Nat) (h : spWfFrom d b m = true) :
    spWfFrom d b (spDel k m) = true := spWfFrom_filter d _ m b h

/-- Storing a value keeps the canonical form. -/
@[simp] theorem spSet_wf {α : Type} [DecidableEq α] (d : Nat → α) (k : Nat) (v : α) (m : Sparse α) (h : spWf d m = true) :
    spWf d (spSet d k v m) = true := by
  unfold spSet; split
  · exact spWfFrom_del d k m none h
  · exact spWfFrom_put d k v ‹_› m none (by simp) h

@[simp] theorem filter_wf {α : Type} [DecidableEq α] (d : Nat → α) (p : Nat × α → Bool) (m : Sparse α) (h : spWf d m = true) :
    spWf d (m.filter p) = true := spWfFrom_filter d p m none h

@[simp] theorem spClear_wf {α : Type} [DecidableEq α] (d : Nat → α) (a n : Nat) (m : Sparse α) (h : spWf d m = true) :
    spWf d (spClear a n m) = true := by unfold spClear; exact filter_wf d _ m h

theorem spWfFrom_append {α : Type} [DecidableEq α] (d : Nat → α) (l m : Sparse α) (b : Option Nat) (k : Nat)
    (hl : spWfFrom d b l = true) (hk : ∀ e ∈ l, e.1 < k) (hb : ∀ x, b = some x → x < k)
    (hm : spWfFrom d none m = true) (hg : ∀ e ∈ m, k ≤ e.1) : spWfFrom d b (l ++ m) = true := by
  induction l generalizing b with
  | nil =>
    cases m with
    | nil => simp [spWfFrom]
    | cons e m =>
      simp only [List.nil_append, spWfFrom, Bool.and_eq_true, decide_eq_true_eq] at hm ⊢
      refine ⟨⟨?_, hm.1.2⟩, hm.2⟩
      cases b with
      | none => rfl
      | some x => have := hb x rfl; have := hg e (by simp); simp; omega
  | cons e l ih =>
    simp only [List.cons_append, spWfFrom, Bool.and_eq_true, decide_eq_true_eq] at hl ⊢
    refine ⟨hl.1, ih _ hl.2 (fun e he => hk e (by simp [he])) ?_⟩
    intro x hx; cases hx; exact hk e (by simp)

theorem spCells_wfFrom (l : List Byte) (a : Nat) (b : Option Nat) (hb : ∀ x, b = some x → x < a) :
    spWfFrom zeroByte b (spCells l a) = true ∧ ∀ e ∈ spCells l a, a ≤ e.1 ∧ e.1 < a + l.length := by
  induction l generalizing a b with
  | nil => simp [spCells, spWfFrom]
  | cons x l ih =>
    unfold spCells
    split
    · have := ih (a + 1) b (fun x hx => by have := hb x hx; omega)
      refine ⟨this.1, fun e he => ?_⟩
      have := this.2 e he
      simp only [List.length_cons]; omega
    · rename_i hx
      have := ih (a + 1) (some a) (by intro x hx; cases hx; omega)
      refine ⟨?_, fun e he => ?_⟩
      · simp only [spWfFrom, Bool.and_eq_true, decide_eq_true_eq]
        refine ⟨⟨?_, hx⟩, this.1⟩
        cases b with
        | none => rfl
        | some y => simpa using hb y rfl
      · rcases List.mem_cons.1 he with rfl | he
        · simp only [List.length_cons]; omega
        · have := this.2 e he
          simp only [List.length_cons]; omega

/-- Writing bytes keeps the canonical form. -/
@[simp] theorem spWrite_wf (l : List Byte) (a : Nat) (m : Sparse Byte) (h : spWf zeroByte m = true) :
    spWf zeroByte (spWrite l a m) = true := by
  unfold spWrite
  have hc := spCells_wfFrom l a none (by simp)
  unfold spWf
  refine spWfFrom_append zeroByte _ _ none (a + l.length) ?_ ?_ (by simp) (spWfFrom_filter _ _ m none h) ?_
  · refine spWfFrom_append zeroByte _ _ none a (spWfFrom_filter _ _ m none h) ?_ (by simp) hc.1 ?_
    · intro e he; simpa using (List.mem_filter.1 he).2
    · intro e he; exact (hc.2 e he).1
  · intro e he
    rcases List.mem_append.1 he with he | he
    · have := (List.mem_filter.1 he).2; simp at this; omega
    · exact (hc.2 e he).2
  · intro e he; simpa using (List.mem_filter.1 he).2

@[simp] theorem foldlSet_wf {β : Type} (l : List β) (f : β → Nat × Byte) (m : Sparse Byte) (h : spWf zeroByte m = true) :
    spWf zeroByte (l.foldl (fun m e => spSet zeroByte (f e).1 (f e).2 m) m) = true := by
  induction l generalizing m with
  | nil => exact h
  | cons x l ih => rw [List.foldl_cons]; exact ih _ (spSet_wf _ _ _ _ h)

theorem foldlM_wf {β : Type} (l : List β) (f : Sparse Byte → β → Sparse Byte) (m : Sparse Byte) (h : spWf zeroByte m = true)
    (hf : ∀ m e, spWf zeroByte m = true → spWf zeroByte (f m e) = true) : spWf zeroByte (l.foldl f m) = true := by
  induction l generalizing m with
  | nil => exact h
  | cons x l ih => rw [List.foldl_cons]; exact ih _ (hf _ _ h)

/-! ## Reading back -/

theorem spGet_append {α : Type} (d : Nat → α) (k : Nat) (l m : Sparse α) (h : ∀ e ∈ l, e.1 ≠ k) :
    spGet d k (l ++ m) = spGet d k m := by
  induction l with
  | nil => rfl
  | cons e l ih =>
    obtain ⟨k', v⟩ := e
    have h1 := h (k', v) (by simp)
    have h1 : ¬ k' = k := h1
    simp only [List.cons_append, spGet, h1, if_false]
    exact ih fun e he => h e (by simp [he])

theorem spGet_append_left {α : Type} (d : Nat → α) (k : Nat) (l m : Sparse α) (h : ∃ e ∈ l, e.1 = k) :
    spGet d k (l ++ m) = spGet d k l := by
  induction l with
  | nil => simp at h
  | cons e l ih =>
    obtain ⟨k', v⟩ := e
    by_cases hk : k' = k
    · simp [spGet, hk]
    · simp only [List.cons_append, spGet, hk, if_false]
      apply ih
      obtain ⟨e, he, heb⟩ := h
      rcases List.mem_cons.1 he with rfl | he
      · exact absurd heb hk
      · exact ⟨e, he, heb⟩

theorem spGet_none {α : Type} (d : Nat → α) (k : Nat) (l : Sparse α) (h : ∀ e ∈ l, e.1 ≠ k) : spGet d k l = d k := by
  have := spGet_append d k l [] h
  simpa [spGet] using this

theorem spGet_filter {α : Type} (d : Nat → α) (k : Nat) (p : Nat × α → Bool) (m : Sparse α) (h : ∀ v, p (k, v) = true) :
    spGet d k (m.filter p) = spGet d k m := by
  induction m with
  | nil => rfl
  | cons e m ih =>
    obtain ⟨k', v⟩ := e
    by_cases hk : k' = k
    · subst hk; simp [h, spGet]
    · by_cases hp : p (k', v) = true
      · simp [hp, spGet, hk, ih]
      · simp [hp, spGet, hk, ih]

theorem spGet_filter_out {α : Type} (d : Nat → α) (k : Nat) (p : Nat × α → Bool) (m : Sparse α) (h : ∀ v, p (k, v) = false) :
    spGet d k (m.filter p) = d k := by
  apply spGet_none
  intro e he hk
  have hp := (List.mem_filter.1 he).2
  obtain ⟨k', v⟩ := e
  subst hk
  simp [h v] at hp

theorem spGet_put {α : Type} (d : Nat → α) (k j : Nat) (v : α) (m : Sparse α) :
    spGet d j (spPut k v m) = if j = k then v else spGet d j m := by
  induction m with
  | nil => simp [spPut, spGet, eq_comm]
  | cons e m ih =>
    obtain ⟨k', v'⟩ := e
    unfold spPut
    split
    · simp only [spGet]; by_cases h : j = k
      · subst h; simp
      · simp [h, Ne.symm h]
    · split
      · rename_i h; subst h; simp only [spGet]
        by_cases h : j = k
        · subst h; simp
        · simp [h, Ne.symm h]
      · simp only [spGet, ih]
        by_cases h : k' = j
        · subst h; simp; omega
        · simp [h]

/-- What a store reads after one value is stored. -/
@[simp] theorem spGet_set {α : Type} [DecidableEq α] (d : Nat → α) (k j : Nat) (v : α) (m : Sparse α) :
    spGet d j (spSet d k v m) = if j = k then v else spGet d j m := by
  unfold spSet
  split
  · rename_i hv
    unfold spDel
    by_cases h : j = k
    · subst h; rw [spGet_filter_out _ _ _ _ (by simp)]; simp [hv]
    · rw [spGet_filter _ _ _ _ (by simp [h])]; simp [h]
  · exact spGet_put d k j v m

theorem spGet_cells (l : List Byte) (a b : Nat) (h : a ≤ b) (hb : b < a + l.length) :
    spGet zeroByte b (spCells l a) = nth l (b - a) 0 := by
  induction l generalizing a with
  | nil => simp at hb; omega
  | cons x l ih =>
    have hc := (spCells_wfFrom l (a + 1) none (by simp)).2
    by_cases hab : a = b
    · subst hab
      have hn : ∀ e ∈ spCells l (a + 1), e.1 ≠ a := fun e he => by have := (hc e he).1; omega
      unfold spCells
      split
      · rename_i hx; rw [spGet_none _ _ _ hn]; simp [nth, hx]
      · simp [spGet, nth]
    · have h2 : a + 1 ≤ b := by omega
      have h3 := ih (a + 1) h2 (by simp at hb; omega)
      have h4 : b - a = (b - (a + 1)) + 1 := by omega
      unfold spCells
      split
      · rw [h3, h4]; simp [nth]
      · simp only [spGet, hab, if_false, h3]; rw [h4]; simp [nth]

/-- What memory reads after bytes are written: the bytes in their range, and what stood there outside it. -/
theorem spGet_write (l : List Byte) (a b : Nat) (m : Sparse Byte) :
    spGet zeroByte b (spWrite l a m) = if a ≤ b ∧ b < a + l.length then nth l (b - a) 0 else spGet zeroByte b m := by
  have hc := (spCells_wfFrom l a none (by simp)).2
  unfold spWrite
  rw [List.append_assoc]
  by_cases h : a ≤ b
  · rw [spGet_append _ _ _ _ (by intro e he; have := (List.mem_filter.1 he).2; simp at this; omega)]
    by_cases h2 : b < a + l.length
    · simp only [h, h2, and_self, if_true]
      by_cases hz : ∃ e ∈ spCells l a, e.1 = b
      · rw [spGet_append_left _ _ _ _ hz, spGet_cells l a b h h2]
      · have hn : ∀ e ∈ spCells l a, e.1 ≠ b := fun e he hb => hz ⟨e, he, hb⟩
        rw [spGet_append _ _ _ _ hn, spGet_filter_out _ _ _ _ (by intro v; simp [h2]), ← spGet_cells l a b h h2,
          spGet_none _ _ _ hn]
    · rw [spGet_append _ _ _ _ (by intro e he; have := hc e he; omega), spGet_filter _ _ _ _ (by intro v; simp; omega)]
      simp [h2]
  · have hn : ∀ e ∈ spCells l a ++ m.filter (fun e => decide (a + l.length ≤ e.1)), e.1 ≠ b := by
      intro e he
      rcases List.mem_append.1 he with he | he
      · have := hc e he; omega
      · have := (List.mem_filter.1 he).2; simp at this; omega
    have key : ∀ (p q : Sparse Byte), (∀ e ∈ q, e.1 ≠ b) → spGet zeroByte b (p ++ q) = spGet zeroByte b p := by
      intro p q hq
      induction p with
      | nil => simpa [spGet] using spGet_none zeroByte b q hq
      | cons e p ih => obtain ⟨k, v⟩ := e; simp only [List.cons_append, spGet, ih]
    rw [key _ _ hn, spGet_filter _ _ _ _ (by intro v; simp; omega)]
    simp [h]

end Sys2Proof.Machine
end

