-- ==== Sys2Proof/Laws/Memory.lean ====
section
/-!
SUPPORT. The canonical form of device memory, and that every operation keeps it.
-/
namespace Sys2Proof.Machine

set_option linter.unusedSimpArgs false
set_option linter.unusedVariables false

/-- The canonical form of either branch is the form of the branch taken. -/
@[simp] theorem spWf_ite (c : Prop) [Decidable c] (a b : Sparse Byte) :
    spWf zeroByte (if c then a else b) = (if c then spWf zeroByte a else spWf zeroByte b) := by
  split <;> rfl
theorem ite_wf (c : Prop) [Decidable c] (a b : State) (ha : spWf zeroByte (memF a) = true) (hb : spWf zeroByte (memF b) = true) :
    spWf zeroByte (memF (if c then a else b)) = true := by
  split
  · exact ha
  · exact hb
theorem foldl_wf {α : Type} (f : State → α → State) (l : List α) (s : State) (h : spWf zeroByte (memF s) = true)
    (hf : ∀ s a, spWf zeroByte (memF s) = true → spWf zeroByte (memF (f s a)) = true) : spWf zeroByte (memF (l.foldl f s)) = true := by
  induction l generalizing s with
  | nil => exact h
  | cons x l ih => rw [List.foldl_cons]; exact ih _ (hf _ _ h)
theorem foldl2_wf {α β : Type} (f : β × State → α → β × State) (l : List α) (s : β × State) (h : spWf zeroByte (memF s.2) = true)
    (hf : ∀ s a, spWf zeroByte (memF s.2) = true → spWf zeroByte (memF (f s a).2) = true) : spWf zeroByte (memF (l.foldl f s).2) = true := by
  induction l generalizing s with
  | nil => exact h
  | cons x l ih => rw [List.foldl_cons]; exact ih _ (hf _ _ h)
theorem foldl3_wf {α β γ : Type} (f : β × γ × State → α → β × γ × State) (l : List α) (s : β × γ × State) (h : spWf zeroByte (memF s.2.2) = true)
    (hf : ∀ s a, spWf zeroByte (memF s.2.2) = true → spWf zeroByte (memF (f s a).2.2) = true) : spWf zeroByte (memF (l.foldl f s).2.2) = true := by
  induction l generalizing s with
  | nil => exact h
  | cons x l ih => rw [List.foldl_cons]; exact ih _ (hf _ _ h)
theorem foldlS_wf {α β : Type} (f : State × β → α → State × β) (l : List α) (s : State × β) (h : spWf zeroByte (memF s.1) = true)
    (hf : ∀ s a, spWf zeroByte (memF s.1) = true → spWf zeroByte (memF (f s a).1) = true) : spWf zeroByte (memF (l.foldl f s).1) = true := by
  induction l generalizing s with
  | nil => exact h
  | cons x l ih => rw [List.foldl_cons]; exact ih _ (hf _ _ h)
theorem iter_wf (f : Nat → State → State) (n : Nat) (s : State) (h : spWf zeroByte (memF s) = true)
    (hf : ∀ k s, spWf zeroByte (memF s) = true → spWf zeroByte (memF (f k s)) = true) : spWf zeroByte (memF (iter f n s)) = true := by
  induction n generalizing s with
  | zero => exact h
  | succ n ih => rw [iter]; exact hf _ _ (ih _ h)

@[simp] theorem settle_wf (w : Nat) (s : State) (h : spWf zeroByte (memF s) = true) : spWf zeroByte (memF (settle w s)) = true := by
  unfold settle; dsimp only
  split
  · exact h
  · split
    · simp only [setMark_mem, memF_mk]; unfold flipWord; simp [memF_fold, freshNat, h]
    · simp only [setMark_mem, memF_mk]; exact spWrite_wf _ _ _ (by simpa [memF_fold, freshNat] using h)
    · simpa [memF_fold, freshNat] using h

@[simp] theorem noteRead_wf (src w : Nat) (s : State) (h : spWf zeroByte (memF s) = true) : spWf zeroByte (memF (noteRead src w s).2) = true := by
  unfold noteRead; dsimp only; (repeat' split) <;> (first | (simp [memF_fold, *]; done) | (simp_all [memF_fold]; done))

@[simp] theorem readCheck_wf (src a n : Nat) (s : State) (h : spWf zeroByte (memF s) = true) : spWf zeroByte (memF (readCheck src a n s).2.2) = true := by
  unfold readCheck; apply foldl3_wf _ _ ([], 0, s) h; intro s a hs; dsimp only; (repeat' split) <;> simp [memF_fold, hs]

@[simp] theorem partsRead_wf (ps : List (Nat × Nat)) (s : State) (h : spWf zeroByte (memF s) = true) : spWf zeroByte (memF (partsRead ps s).2.2) = true := by
  unfold partsRead; (repeat' split) <;> (first | (simp +contextual [*, memF_fold, foldl_wf, foldl2_wf, foldl3_wf, foldlS_wf]; done) | (simp_all +contextual [memF_fold, foldl_wf, foldl2_wf, foldl3_wf, foldlS_wf]; done))

@[simp] theorem writePart_wf (w a : Nat) (bs : List Byte) (s : State) (h : spWf zeroByte (memF s) = true) : spWf zeroByte (memF (writePart w a bs s)) = true := by
  unfold writePart; dsimp only
  have hr : spWf zeroByte (memF (if markOf (bump (ctlOf s w).1 ((ctlOf s w).2.1 + 0x09C) s) w = noMark w then (RdClass.clean, bump (ctlOf s w).1 ((ctlOf s w).2.1 + 0x09C) s)
      else noteRead 2 w (bump (ctlOf s w).1 ((ctlOf s w).2.1 + 0x09C) s)).2) = true := by split <;> simp [memF_fold, h]
  generalize (if markOf (bump (ctlOf s w).1 ((ctlOf s w).2.1 + 0x09C) s) w = noMark w then (RdClass.clean, bump (ctlOf s w).1 ((ctlOf s w).2.1 + 0x09C) s)
      else noteRead 2 w (bump (ctlOf s w).1 ((ctlOf s w).2.1 + 0x09C) s)) = r at hr ⊢
  split
  · rw [wroteWord_mem, memF_mk]; exact spWrite_wf _ _ _ hr
  · rw [wroteWord_mem, memF_mk]; exact spWrite_wf _ _ _ hr
  · rw [poisonWord_mem, memF_mk]; exact spWrite_wf _ _ _ (spWrite_wf _ _ _ hr)

theorem writeMid_wf (ma : Nat) (mid : List Byte) (b : Bool) (s : State) (h : spWf zeroByte (memF s) = true) :
    spWf zeroByte (memF (if b then armRun ma mid.length { s with mem := spWrite mid ma s.mem, marks := spClear ma mid.length s.marks }
      else { s with mem := spWrite mid ma s.mem, marks := spClear ma mid.length s.marks })) = true := by
  cases b <;> simp only [armRun_mem, memF_mk, if_true, if_false, Bool.false_eq_true] <;> exact spWrite_wf _ _ _ h

@[simp] theorem writeCanon_wf (a : Nat) (bs : List Byte) (s : State) (h : spWf zeroByte (memF s) = true) : spWf zeroByte (memF (writeCanon a bs s)) = true := by
  unfold writeCanon; dsimp only
  have h0 : spWf zeroByte (memF (noteWritten a bs.length s)) = true := by simpa [memF_fold] using h
  generalize noteWritten a bs.length s = s0 at h0 ⊢
  split
  · exact h
  · split
    · split
      · rw [wroteWord_mem, memF_mk]; exact spWrite_wf _ _ _ h0
      · exact writePart_wf _ _ _ _ h0
    · have hh : ∀ w l, spWf zeroByte (memF (if (wordAt a + wordLen a - a) % wordLen a = 0 then s0 else writePart w a l s0)) = true := by
        intro w l; split
        · exact h0
        · exact writePart_wf _ _ _ _ h0
      have hm := fun ma mid (p : Prop) [Decidable p] (s : State) hs => writeMid_wf ma mid (decide p) s hs
      simp only [decide_eq_true_eq] at hm
      split
      · exact hm _ _ _ _ (hh _ _)
      · exact writePart_wf _ _ _ _ (hm _ _ _ _ (hh _ _))

@[simp] theorem memWrite_wf (a : Nat) (bs : List Byte) (s : State) (h : spWf zeroByte (memF s) = true) : spWf zeroByte (memF (memWrite a bs s)) = true := by
  unfold memWrite; simp +contextual [*, memF_fold, foldl_wf, foldl2_wf, foldl3_wf, foldlS_wf, foldlM_wf]

@[simp] theorem devGet_wf (c a n : Nat) (s : State) (h : spWf zeroByte (memF s) = true) : spWf zeroByte (memF (devGet c a n s).2) = true := by
  simp [memF_fold, devGet, h]

@[simp] theorem argGet_wf (x : Ctx) (a n detail : Nat) (rs : List Cpl) (s : State) (h : spWf zeroByte (memF s) = true) : spWf zeroByte (memF (argGet x a n detail rs s).2) = true := by
  unfold argGet; dsimp only; (repeat' split) <;> (first | (simp [memF_fold, *]; done) | (simp_all [memF_fold]; done))

@[simp] theorem ringPut_wf (s : State) (h : spWf zeroByte (memF s) = true) : spWf zeroByte (memF (ringPut s)) = true := by
  unfold ringPut; dsimp only; (repeat' split) <;> (first | (simp [memF_fold, *]; done) | (simp_all [memF_fold]; done))

@[simp] theorem ringPump_wf  (s : State) (h : spWf zeroByte (memF s) = true) : spWf zeroByte (memF (ringPump s)) = true := by
  unfold ringPump; rw [ringChange_mem]; exact iter_wf _ _ _ h (fun k s hs => ringPut_wf s hs)

@[simp] theorem followUp_wf (j : AuditJob) (r : AuditRes) (s : State) (h : spWf zeroByte (memF s) = true) : spWf zeroByte (memF (followUp j r s)) = true := by
  unfold followUp; dsimp only; (repeat' split) <;> (first | (simp [memF_fold, *]; done) | (simp_all [memF_fold]; done))

@[simp] theorem followSkips_wf (x : Ctx) (s : State) (h : spWf zeroByte (memF s) = true) : spWf zeroByte (memF (followSkips x s)) = true := by
  unfold followSkips; simp +contextual [*, memF_fold, foldl_wf, foldl2_wf, foldl3_wf, foldlS_wf, foldlM_wf]

@[simp] theorem refreshIssued_wf (x : Ctx) (s : State) (q : IssuedCert) (h : spWf zeroByte (memF s) = true) : spWf zeroByte (memF (refreshIssued x s q)) = true := by
  simp [memF_fold, refreshIssued, h]

@[simp] theorem certAtDelivery_wf (c : Nat) (wanted : Bool) (s : State) (h : spWf zeroByte (memF s) = true) : spWf zeroByte (memF (certAtDelivery c wanted s)) = true := by
  unfold certAtDelivery; dsimp only; (repeat' split) <;> (first | (simp +contextual [*, memF_fold, foldl_wf, foldl2_wf, foldl3_wf, foldlS_wf, foldlM_wf]; done))

@[simp] theorem finish_wf (c : Nat) (s : State) (h : spWf zeroByte (memF s) = true) : spWf zeroByte (memF (finish c s)) = true := by
  unfold finish; dsimp only; (repeat' split) <;> (first | (simp [memF_fold, *]; done) | (simp_all [memF_fold]; done))

@[simp] theorem endWith_wf (c : Nat) (k : Cause) (s : State) (h : spWf zeroByte (memF s) = true) : spWf zeroByte (memF (endWith c k s)) = true := by
  simp [memF_fold, endWith, h]

@[simp] theorem engineWorkDone_wf (c : Nat) (s : State) (h : spWf zeroByte (memF s) = true) : spWf zeroByte (memF (engineWorkDone c s)) = true := by
  unfold engineWorkDone; dsimp only; (repeat' split) <;> (first | (simp [memF_fold, *]; done) | (simp_all [memF_fold]; done))

@[simp] theorem bufferDone_wf  (s : State) (h : spWf zeroByte (memF s) = true) : spWf zeroByte (memF (bufferDone s)) = true := by
  unfold bufferDone; apply foldl_wf _ _ _ h; intro s a hs; (repeat' split) <;> simp [memF_fold, hs]

@[simp] theorem deregDone_wf (s : State) (h : spWf zeroByte (memF s) = true) : spWf zeroByte (memF (deregDone s)) = true := by
  unfold deregDone; simp +contextual [*, memF_fold, foldl_wf, foldl2_wf, foldl3_wf, foldlS_wf, foldlM_wf]

@[simp] theorem pushRecord_wf (s : State) (x : Ctx) (h : spWf zeroByte (memF s) = true) : spWf zeroByte (memF (pushRecord s x)) = true := by
  unfold pushRecord; (repeat' split) <;> (first | (simp +contextual [*, memF_fold, foldl_wf, foldl2_wf, foldl3_wf, foldlS_wf]; done) | (simp_all +contextual [memF_fold, foldl_wf, foldl2_wf, foldl3_wf, foldlS_wf]; done))

@[simp] theorem pushRecords_wf (s : State) (h : spWf zeroByte (memF s) = true) : spWf zeroByte (memF (pushRecords s)) = true := by
  unfold pushRecords; (repeat' split) <;> (first | (simp +contextual [*, memF_fold, foldl_wf, foldl2_wf, foldl3_wf, foldlS_wf]; done) | (simp_all +contextual [memF_fold, foldl_wf, foldl2_wf, foldl3_wf, foldlS_wf]; done))

@[simp] theorem pump_wf  (s : State) (h : spWf zeroByte (memF s) = true) : spWf zeroByte (memF (pump s)) = true := by
  unfold pump; dsimp only
  simp only [trackStall_mem, latchAll_mem]
  apply foldl_wf
  · apply foldl_wf
    · apply pushRecords_wf; apply deregDone_wf; apply bufferDone_wf; apply pushRecords_wf; apply ringPump_wf; rw [latchAll_mem]; exact h
    · intro s a hs; simpa [memF_fold] using hs
  · intro s a hs; simpa [memF_fold] using hs

@[simp] theorem writeResult_wf (c addr : Nat) (run : List Byte) (s : State) (h : spWf zeroByte (memF s) = true) : spWf zeroByte (memF (writeResult c addr run s)) = true := by
  unfold writeResult; dsimp only; (repeat' split) <;> (first | (simp [memF_fold, *]; done) | (simp_all [memF_fold]; done))

@[simp] theorem degradeWrite_wf (c : Nat) (x : Ctx) (a : Anneal) (s : State) (h : spWf zeroByte (memF s) = true) : spWf zeroByte (memF (degradeWrite c x a s).2) = true := by
  unfold degradeWrite; (repeat' split) <;> (first | (simp [memF_fold, *]; done) | (simp_all [memF_fold]; done))

@[simp] theorem degrade_wf (c : Nat) (s : State) (h : spWf zeroByte (memF s) = true) : spWf zeroByte (memF (degrade c s)) = true := by
  unfold degrade; dsimp only; (repeat' split) <;> (first | (simp [memF_fold, *]; done) | (simp_all [memF_fold]; done))

theorem disrupt_wf (c : Nat) (k : Cause) (s t : State) (hd : disrupt c k s = some t) (h : spWf zeroByte (memF s) = true) : spWf zeroByte (memF t) = true := by
  unfold disrupt at hd; repeat' split at hd
  all_goals first | (injection hd with hd; subst hd; simp [memF_fold, h]; done) | simp at hd

@[simp] theorem disrupt_getD_wf (c : Nat) (k : Cause) (s t : State) (h : spWf zeroByte (memF s) = true) (ht : spWf zeroByte (memF t) = true) :
    spWf zeroByte (memF ((disrupt c k s).getD t)) = true := by
  cases hd : disrupt c k s with
  | none => simpa [memF_fold] using ht
  | some u => simpa [memF_fold] using disrupt_wf c k s u hd h

@[simp] theorem disruptOr_wf (c : Nat) (k : Cause) (s : State) (h : spWf zeroByte (memF s) = true) : spWf zeroByte (memF (disruptOr c k s)) = true := by
  unfold disruptOr; (repeat' split) <;> (first | (simp +contextual [*, memF_fold, foldl_wf, foldl2_wf, foldl3_wf, foldlS_wf]; done) | (simp_all +contextual [memF_fold, foldl_wf, foldl2_wf, foldl3_wf, foldlS_wf]; done))

@[simp] theorem copyMaster_wf (k : ConstEnt × List (Nat × Nat)) (s : State) (h : spWf zeroByte (memF s) = true) : spWf zeroByte (memF (copyMaster k s).2.2) = true := by
  unfold copyMaster; (repeat' split) <;> (first | (simp +contextual [*, memF_fold, foldl_wf, foldl2_wf, foldl3_wf, foldlS_wf]; done) | (simp_all +contextual [memF_fold, foldl_wf, foldl2_wf, foldl3_wf, foldlS_wf]; done))

@[simp] theorem reloadConst_wf (c : Nat) (k : ConstEnt × List (Nat × Nat)) (f : Cause) (s : State) (h : spWf zeroByte (memF s) = true) : spWf zeroByte (memF (reloadConst c k f s)) = true := by
  unfold reloadConst; (repeat' split) <;> (first | (simp +contextual [*, memF_fold, foldl_wf, foldl2_wf, foldl3_wf, foldlS_wf]; done) | (simp_all +contextual [memF_fold, foldl_wf, foldl2_wf, foldl3_wf, foldlS_wf]; done))

@[simp] theorem recoverWord_wf (c e w : Nat) (s : State) (h : spWf zeroByte (memF s) = true) : spWf zeroByte (memF (recoverWord c e w s)) = true := by
  unfold recoverWord; (repeat' split) <;> first | (simp [memF_fold, h]; done) | (exact disrupt_wf _ _ _ _ (by assumption) h)

@[simp] theorem engReads_wf (c e : Nat) (rs : List (Nat × Nat)) (s : State) (h : spWf zeroByte (memF s) = true) : spWf zeroByte (memF (engReads c e rs s).2) = true := by
  have key : ∀ (l : List (Nat × Nat)) (f : List Nat × State → Nat × Nat → List Nat × State),
      (∀ s a, spWf zeroByte (memF s.2) = true → spWf zeroByte (memF (f s a).2) = true) →
      spWf zeroByte (memF (l.foldl f ([], s)).2) = true := fun l f hf => foldl2_wf f l ([], s) h hf
  unfold engReads; dsimp only
  split
  · apply key; intro s a hs; simp [memF_fold, hs]
  · apply recoverWord_wf; apply key; intro s a hs; simp [memF_fold, hs]

@[simp] theorem slotReads_wf (c e slot v : Nat) (s : State) (h : spWf zeroByte (memF s) = true) : spWf zeroByte (memF (slotReads c e slot v s).2) = true := by
  have h0 : spWf zeroByte (memF (settleSlot e slot v s)) = true := by simpa using h
  generalize hs' : settleSlot e slot v s = s1 at h0
  have key : ∀ (l : List Nat) (f : List Nat × State → Nat → List Nat × State),
      (∀ s a, spWf zeroByte (memF s.2) = true → spWf zeroByte (memF (f s a).2) = true) →
      spWf zeroByte (memF (l.foldl f ([], s1)).2) = true := fun l f hf => foldl2_wf f l ([], s1) h0 hf
  unfold slotReads; rw [hs']; dsimp only
  split
  · apply key; intro s a hs; (repeat' split) <;> simp [memF_fold, hs]
  · apply recoverWord_wf; apply key; intro s a hs; (repeat' split) <;> simp [memF_fold, hs]

theorem reading_wf (c : Ctx) (u : Cursor) (rs : List (Nat × Nat)) (f : State → State) (hf : ∀ s, spWf zeroByte (memF s) = true → spWf zeroByte (memF (f s)) = true) (s : State) (h : spWf zeroByte (memF s) = true) : spWf zeroByte (memF (reading c u rs f s)) = true := by
  unfold reading; dsimp only; split <;> simp [memF_fold, h, hf]

@[simp] theorem haltEngine_wf (c e : Nat) (s : State) (h : spWf zeroByte (memF s) = true) : spWf zeroByte (memF (haltEngine c e s)) = true := by
  unfold haltEngine; dsimp only; (repeat' split) <;> (first | (simp [memF_fold, *]; done) | (simp_all [memF_fold]; done))

@[simp] theorem digestCompare_wf (c : Ctx) (u : Cursor) (a ctx : Nat) (s : State) (h : spWf zeroByte (memF s) = true) : spWf zeroByte (memF (digestCompare c u a ctx s)) = true := by
  unfold digestCompare; dsimp only; (repeat' split) <;> (first | (simp [memF_fold, *]; done) | (simp_all [memF_fold]; done))

@[simp] theorem placeTile_wf (p : Prob) (e k g b : Nat) (s : State) (h : spWf zeroByte (memF s) = true) : spWf zeroByte (memF (placeTile p e k g b s)) = true := by
  unfold placeTile; (repeat' split) <;> (first | (simp [memF_fold, *]; done) | (simp_all [memF_fold]; done))

@[simp] theorem placeEngine_wf (p : Prob) (s : State) (e : Nat) (h : spWf zeroByte (memF s) = true) : spWf zeroByte (memF (placeEngine p s e)) = true := by
  unfold placeEngine; dsimp only
  apply foldl_wf
  · apply memWrite_wf; apply memWrite_wf; split
    · exact h
    · exact foldl_wf _ _ _ h (fun s t hs => placeTile_wf _ _ _ _ _ _ hs)
  · intro s t hs; exact memWrite_wf _ _ _ hs

@[simp] theorem reloadTile_wf (p : Prob) (e k g b : Nat) (s : State) (h : spWf zeroByte (memF s) = true) : spWf zeroByte (memF (reloadTile p e k g b s).2.2) = true := by
  simp [memF_fold, reloadTile, h]

@[simp] theorem reloadSeg_wf (p : Prob) (e off : Nat) (s : State) (h : spWf zeroByte (memF s) = true) : spWf zeroByte (memF (reloadSeg p e off s).2.2) = true := by
  unfold reloadSeg; simp +contextual [*, memF_fold, foldl_wf, foldl2_wf, foldl3_wf, foldlS_wf, foldlM_wf]

@[simp] theorem reloadUnit_wf (p : Prob) (staged : List (Nat × Nat)) (e off : Nat) (s : State) (h : spWf zeroByte (memF s) = true) : spWf zeroByte (memF (reloadUnit p staged e off s).2.2) = true := by
  unfold reloadUnit; dsimp only; (repeat' split) <;> (first | (simp [memF_fold, *]; done) | (simp_all [memF_fold]; done))

@[simp] theorem writeStream_wf (p : Prob) (off : Nat) (b : List Byte) (s : State) (h : spWf zeroByte (memF s) = true) : spWf zeroByte (memF (writeStream p off b s)) = true := by
  unfold writeStream; simp +contextual [*, memF_fold, foldl_wf, foldl2_wf, foldl3_wf, foldlS_wf, foldlM_wf]

@[simp] theorem writeRun_wf (c : Nat) (s : State) (h : spWf zeroByte (memF s) = true) : spWf zeroByte (memF (writeRun c s)) = true := by
  unfold writeRun; split
  · exact h
  · dsimp only; apply writeStream_wf; exact foldl_wf _ _ _ h (fun s e hs => memWrite_wf _ _ _ hs)

@[simp] theorem restoreRun_wf (c : Nat) (k : Ckpt) (s : State) (h : spWf zeroByte (memF s) = true) : spWf zeroByte (memF (restoreRun c k s)) = true := by
  unfold restoreRun; (repeat' split) <;> (first | (simp [memF_fold, *]; done) | (simp_all [memF_fold]; done))

@[simp] theorem streamReads_wf (c : Nat) (p : Prob) (off n : Nat) (s : State) (h : spWf zeroByte (memF s) = true) : spWf zeroByte (memF (streamReads c p off n s).2) = true := by
  unfold streamReads; simp +contextual [*, memF_fold, foldl_wf, foldl2_wf, foldl3_wf, foldlS_wf, foldlM_wf]

@[simp] theorem resumePoint_wf (c : Nat) (a : Anneal) (s : State) (h : spWf zeroByte (memF s) = true) : spWf zeroByte (memF (resumePoint c a s).2) = true := by
  unfold resumePoint; dsimp only; split
  · exact h
  · apply foldl2_wf _ _ (none, s) h; intro s k hs; split
    · exact hs
    · exact streamReads_wf _ _ _ _ _ hs

@[simp] theorem resumeRun_wf (c : Nat) (k : Cause) (x : Ctx) (a : Anneal) (s : State) (h : spWf zeroByte (memF s) = true) : spWf zeroByte (memF (resumeRun c k x a s)) = true := by
  unfold resumeRun; dsimp only; (repeat' split) <;> (first | (simp [memF_fold, *]; done) | (simp_all [memF_fold]; done))

theorem recovering_wf (c e : Nat) (f : Ctx → Cause → State → State) (s : State) (h : spWf zeroByte (memF s) = true)
    (hf : ∀ x k s, spWf zeroByte (memF s) = true → spWf zeroByte (memF (f x k s)) = true) : spWf zeroByte (memF (recovering c e f s)) = true := by
  unfold recovering; dsimp only; (repeat' split) <;> first
    | exact h
    | exact endWith_wf _ _ _ h
    | exact hf _ _ _ (disruptOr_wf _ _ _ h)

theorem reloadEnds_wf (c : Nat) (k : Cause) (r : Bool × Nat × State) (h : spWf zeroByte (memF r.2.2) = true) : spWf zeroByte (memF (reloadEnds c k r)) = true := by
  unfold reloadEnds; dsimp only; split
  · rw [recAdd_mem]; exact h
  · apply endWith_wf; rw [recAdd_mem]; exact h

theorem whileOn_wf (c : Nat) (f : State → State) (s : State) (h : spWf zeroByte (memF s) = true)
    (hf : ∀ s, spWf zeroByte (memF s) = true → spWf zeroByte (memF (f s)) = true) : spWf zeroByte (memF (whileOn c f s)) = true := by
  unfold whileOn; split
  · exact hf s h
  · exact h

@[simp] theorem recoverUnit_wf (c : Nat) (p : Prob) (w : Nat) (q : Nat × Nat) (s : State) (h : spWf zeroByte (memF s) = true) : spWf zeroByte (memF (recoverUnit c p w q s)) = true := by
  unfold recoverUnit; apply recovering_wf _ _ _ _ h; intro x k s hs
  apply reloadEnds_wf; apply reloadUnit_wf; rw [noteReload_mem]; exact hs

@[simp] theorem recoverCoeff_wf (c : Nat) (p : Prob) (w : Nat) (s : State) (h : spWf zeroByte (memF s) = true) : spWf zeroByte (memF (recoverCoeff c p w s)) = true := by
  unfold recoverCoeff
  cases homeAt s w with
  | none => simp only [Option.elim_none]; split
            · exact endWith_wf _ _ _ h
            · exact h
  | some q => exact recoverUnit_wf _ _ _ _ _ h

@[simp] theorem coeffReads_wf (c : Nat) (p : Prob) (src : Nat) (rs : List (Nat × Nat)) (s : State) (h : spWf zeroByte (memF s) = true) : spWf zeroByte (memF (coeffReads c p src rs s)) = true := by
  unfold coeffReads; dsimp only; (repeat' split) <;> (first | (simp [memF_fold, *]; done) | (simp_all [memF_fold]; done) | (apply foldl_wf <;> (first | (simp [memF_fold, *]; done) | (intro s a hs; (repeat' split) <;> (first | (simp [memF_fold, *]; done) | (simp_all [memF_fold]; done))))))

@[simp] theorem stageTile_wf (c : Nat) (p : Prob) (t : Nat × Nat) (s : State) (h : spWf zeroByte (memF s) = true) : spWf zeroByte (memF (stageTile c p t s)) = true := by
  unfold stageTile; (repeat' split) <;> (first | (simp +contextual [*, memF_fold, foldl_wf, foldl2_wf, foldl3_wf, foldlS_wf, foldlM_wf]; done))

@[simp] theorem stagedRead_wf (c : Nat) (p : Prob) (t : Nat × Nat × Nat) (s : State) (h : spWf zeroByte (memF s) = true) : spWf zeroByte (memF (stagedRead c p t s)) = true := by
  unfold stagedRead; (repeat' split) <;> (first | (simp +contextual [*, memF_fold, foldl_wf, foldl2_wf, foldl3_wf, foldlS_wf]; done) | (simp_all +contextual [memF_fold, foldl_wf, foldl2_wf, foldl3_wf, foldlS_wf]; done))

@[simp] theorem partReads_wf (c : Nat) (p : Prob) (ts : List (Nat × Nat × Nat)) (s : State) (h : spWf zeroByte (memF s) = true) : spWf zeroByte (memF (partReads c p ts s)) = true := by
  unfold partReads; split
  · apply foldl_wf _ _ _ h; intro s t hs; exact stagedRead_wf _ _ _ _ hs
  · exact coeffReads_wf _ _ _ _ _ h

@[simp] theorem tileReads_wf (c : Nat) (p : Prob) (ts : List (Nat × Nat)) (s : State) (h : spWf zeroByte (memF s) = true) : spWf zeroByte (memF (tileReads c p ts s)) = true := by
  simp [memF_fold, tileReads, h]

@[simp] theorem tableReads_wf (c : Nat) (p : Prob) (es : List Nat) (s : State) (h : spWf zeroByte (memF s) = true) : spWf zeroByte (memF (tableReads c p es s)) = true := by
  simp [memF_fold, tableReads, h]

@[simp] theorem rowReads_wf (c : Nat) (p : Prob) (e i : Nat) (s : State) (h : spWf zeroByte (memF s) = true) : spWf zeroByte (memF (rowReads c p e i s)) = true := by
  simp [memF_fold, rowReads, h]

@[simp] theorem recomputeRow_wf (c e i w : Nat) (a : Anneal) (s : State) (h : spWf zeroByte (memF s) = true) : spWf zeroByte (memF (recomputeRow c e i w a s)) = true := by
  simp [memF_fold, recomputeRow, h]

@[simp] theorem recoverField_wf (c e w : Nat) (s : State) (h : spWf zeroByte (memF s) = true) : spWf zeroByte (memF (recoverField c e w s)) = true := by
  unfold recoverField; apply recovering_wf _ _ _ _ h; intro x k s hs; split
  · exact hs
  · exact recomputeRow_wf _ _ _ _ _ _ hs

@[simp] theorem fieldReads_wf (c : Nat) (p : Prob) (es : List Nat) (s : State) (h : spWf zeroByte (memF s) = true) : spWf zeroByte (memF (fieldReads c p es s)) = true := by
  unfold fieldReads; apply foldl_wf _ _ _ h; intro s w hs; dsimp only
  have hr := noteRead_wf 0 w.2 s hs
  (repeat' split) <;> first | exact hs | exact hr | (rw [recAdd_mem]; exact hr) | exact recoverField_wf _ _ _ _ hr

@[simp] theorem wordReads_wf (c : Nat) (rs : List (Nat × Nat)) (s : State) (h : spWf zeroByte (memF s) = true) : spWf zeroByte (memF (wordReads c rs s).2) = true := by
  unfold wordReads; dsimp only; apply foldl2_wf _ _ ([], s) h; intro s w hs
  have hr := noteRead_wf 0 w s.2 hs
  (repeat' split) <;> first | exact hr | (rw [recAdd_mem]; exact hr)

@[simp] theorem recoverRun_wf (c w : Nat) (s : State) (h : spWf zeroByte (memF s) = true) : spWf zeroByte (memF (recoverRun c w s)) = true := by
  unfold recoverRun; apply recovering_wf _ _ _ _ h; intro x k s hs; split
  · exact hs
  · apply resumeRun_wf; rw [noteRecompute_mem]; exact hs

@[simp] theorem recoverPhase_wf (c w : Nat) (s : State) (h : spWf zeroByte (memF s) = true) : spWf zeroByte (memF (recoverPhase c w s)) = true := by
  unfold recoverPhase; apply recovering_wf _ _ _ _ h; intro x k s hs
  apply whileOn_wf _ _ _ hs; intro s hs; rw [redoPhase_mem, noteRecompute_mem]; exact hs

theorem readsOr_wf (f : Nat → State → State) (r : Option Nat × State) (h : spWf zeroByte (memF r.2) = true)
    (hf : ∀ w s, spWf zeroByte (memF s) = true → spWf zeroByte (memF (f w s)) = true) : spWf zeroByte (memF (readsOr f r).2) = true := by
  unfold readsOr; split
  · exact h
  · exact hf _ _ h

@[simp] theorem accPass_wf (c : Nat) (es : List Nat) (off n : Nat) (s : State) (h : spWf zeroByte (memF s) = true) : spWf zeroByte (memF (accPass c es off n s).2) = true := by
  unfold accPass; split
  · exact h
  · apply readsOr_wf _ _ _ (fun w s hs => recoverPhase_wf _ _ _ hs); apply wordReads_wf; apply foldl_wf _ _ _ h; intro s e hs; simpa using hs

@[simp] theorem stageIncr_wf (c : Nat) (p : Prob) (s : State) (h : spWf zeroByte (memF s) = true) : spWf zeroByte (memF (stageIncr c p s).2) = true := by
  unfold stageIncr; dsimp only; apply readsOr_wf _ _ _ (fun w s hs => recoverPhase_wf _ _ _ hs)
  apply wordReads_wf; apply foldl_wf _ _ _ h; intro s r hs; rw [armRun_mem, memF_mk]; exact hs

@[simp] theorem runReads_wf (c : Nat) (a : Anneal) (s : State) (h : spWf zeroByte (memF s) = true) : spWf zeroByte (memF (runReads c a s).2) = true := by
  unfold runReads; (try dsimp only); exact readsOr_wf _ _ (wordReads_wf _ _ _ h) (fun w s hs => recoverRun_wf _ _ _ hs)

@[simp] theorem formReads_wf (c : Nat) (p : Prob) (g : Nat) (again : Bool) (s : State) (h : spWf zeroByte (memF s) = true) : spWf zeroByte (memF (formReads c p g again s)) = true := by
  simp [memF_fold, formReads, h]

@[simp] theorem formKey_wf (c key : Nat) (again : Bool) (s : State) (h : spWf zeroByte (memF s) = true) : spWf zeroByte (memF (formKey c key again s)) = true := by
  unfold formKey; dsimp only; (repeat' split) <;> (first | (simp [memF_fold, *]; done) | (simp_all [memF_fold]; done))

@[simp] theorem reuseKey_wf (c e : Nat) (k : Kept) (s : State) (h : spWf zeroByte (memF s) = true) : spWf zeroByte (memF (reuseKey c e k s)) = true := by
  unfold reuseKey; dsimp only
  have hr := wordReads_wf c [(slateBase e + 0x1000000 + k.off, k.len)] s h
  split
  · exact hr
  · exact recovering_wf _ _ _ _ hr (fun x k s hs => whileOn_wf _ _ _ hs (fun s hs => formKey_wf _ _ _ _ (by rw [noteRecompute_mem]; exact hs)))

@[simp] theorem useKey_wf (c key : Nat) (s : State) (h : spWf zeroByte (memF s) = true) : spWf zeroByte (memF (useKey c key s)) = true := by
  unfold useKey; dsimp only; (repeat' split) <;> (first | (simp [memF_fold, *]; done) | (simp_all [memF_fold]; done))

@[simp] theorem formTiles_wf (c : Nat) (a : Anneal) (chooser : Bool) (s : State) (h : spWf zeroByte (memF s) = true) : spWf zeroByte (memF (formTiles c a chooser s)) = true := by
  unfold formTiles; apply foldl_wf _ _ _ h; intro s v hs; split
  · exact hs
  · exact useKey_wf _ _ _ hs

@[simp] theorem deliver_wf (e : Nat) (b : List Byte) (s : State) (h : spWf zeroByte (memF s) = true) : spWf zeroByte (memF (deliver e b s)) = true := by
  unfold deliver; simp +contextual [*, memF_fold, foldl_wf, foldl2_wf, foldl3_wf, foldlS_wf, foldlM_wf]

@[simp] theorem gatherSeg_wf (c : Nat) (a : Anneal) (g : Nat) (s : State) (h : spWf zeroByte (memF s) = true) : spWf zeroByte (memF (gatherSeg c a g s)) = true := by
  unfold gatherSeg; dsimp only
  have ht := tableReads_wf c a.prob ((segEngines a.prob g).drop 1) s h
  generalize tableReads c a.prob ((segEngines a.prob g).drop 1) s = t at ht ⊢
  have hp := fun l => partReads_wf c a.prob l t ht
  (repeat' split) <;> first | exact deliver_wf _ _ _ ht | exact deliver_wf _ _ _ (hp _) | exact ht | exact hp _

@[simp] theorem workWrites_wf (a : Anneal) (s : State) (h : spWf zeroByte (memF s) = true) : spWf zeroByte (memF (workWrites a s)) = true := by
  unfold workWrites; apply foldl_wf _ _ _ h; intro s v hs; dsimp only; rw [armRun_mem, memF_mk]; exact hs

@[simp] theorem phaseReads_wf (c : Nat) (a : Anneal) (s : State) (h : spWf zeroByte (memF s) = true) : spWf zeroByte (memF (phaseReads c a s).2) = true := by
  unfold phaseReads; (try dsimp only); exact readsOr_wf _ _ (wordReads_wf _ _ _ h) (fun w s hs => recoverPhase_wf _ _ _ hs)

@[simp] theorem recordReads_wf (c : Nat) (a : Anneal) (s : State) (h : spWf zeroByte (memF s) = true) : spWf zeroByte (memF (recordReads c a s).2) = true := by
  unfold recordReads; (try dsimp only); exact readsOr_wf _ _ (wordReads_wf _ _ _ h) (fun w s hs => recoverPhase_wf _ _ _ hs)

@[simp] theorem recoverHalf_wf (x : Ctx) (a : Anneal) (e w : Nat) (s : State) (h : spWf zeroByte (memF s) = true) : spWf zeroByte (memF (recoverHalf x a e w s)) = true := by
  unfold recoverHalf; dsimp only
  split
  · exact recovering_wf _ _ _ _ h (fun x k s hs => by rw [updRun_mem, noteRecompute_mem]; exact hs)
  · split
    · exact h
    · exact recoverPhase_wf _ _ _ h

@[simp] theorem recoverSram_wf (x : Ctx) (e w : Nat) (s : State) (h : spWf zeroByte (memF s) = true) : spWf zeroByte (memF (recoverSram x e w s)) = true := by
  unfold recoverSram; dsimp only; (repeat' split) <;> (first | (simp [memF_fold, *]; done) | (simp_all [memF_fold]; done))

@[simp] theorem enterWaiting_wf (c : Nat) (s : State) (h : spWf zeroByte (memF s) = true) : spWf zeroByte (memF (enterWaiting c s)) = true := by
  unfold enterWaiting; dsimp only; (repeat' split) <;> (first | (simp [memF_fold, *]; done) | (simp_all [memF_fold]; done))

@[simp] theorem takeArgs_wf (c : Nat) (b : List Byte) (s : State) (h : spWf zeroByte (memF s) = true) : spWf zeroByte (memF (takeArgs c b s)) = true := by
  unfold takeArgs; (repeat' split) <;> (first | (simp [memF_fold, *]; done) | (simp_all [memF_fold]; done))

@[simp] theorem argBlock_wf (x : Ctx) (a : Nat) (ranges : List (Nat × Nat)) (rs : List Cpl) (s : State) (h : spWf zeroByte (memF s) = true) : spWf zeroByte (memF (argBlock x a ranges rs s).2) = true := by
  unfold argBlock; (repeat' split) <;> (first | (simp +contextual [*, memF_fold, foldl_wf, foldl2_wf, foldl3_wf, foldlS_wf]; done) | (simp_all +contextual [memF_fold, foldl_wf, foldl2_wf, foldl3_wf, foldlS_wf]; done))

@[simp] theorem readArgs_wf (c : Nat) (rs : List Cpl) (s : State) (h : spWf zeroByte (memF s) = true) : spWf zeroByte (memF (readArgs c rs s)) = true := by
  unfold readArgs; dsimp only; (repeat' split) <;> (first | (simp [memF_fold, *]; done) | (simp_all [memF_fold]; done))

@[simp] theorem stallFire_wf (s : State) (h : spWf zeroByte (memF s) = true) : spWf zeroByte (memF (stallFire s)) = true := by
  unfold stallFire; dsimp only; (repeat' split) <;> (first | (simp [memF_fold, *]; done) | (simp_all [memF_fold]; done))

@[simp] theorem abortCtx_wf (c : Nat) (s : State) (h : spWf zeroByte (memF s) = true) : spWf zeroByte (memF (abortCtx c s)) = true := by
  unfold abortCtx; (repeat' split) <;> (first | (simp [memF_fold, *]; done) | (simp_all [memF_fold]; done))

@[simp] theorem abortWhere_wf (p : Ctx → Bool) (s : State) (h : spWf zeroByte (memF s) = true) : spWf zeroByte (memF (abortWhere p s)) = true := by
  unfold abortWhere; simp +contextual [*, memF_fold, foldl_wf, foldl2_wf, foldl3_wf, foldlS_wf, foldlM_wf]

@[simp] theorem abortWrite_wf (v : Nat) (s : State) (h : spWf zeroByte (memF s) = true) : spWf zeroByte (memF (abortWrite v s)) = true := by
  simp [memF_fold, abortWrite, h]

@[simp] theorem readImage_wf (x : Ctx) (rs : List Cpl) (s : State) (h : spWf zeroByte (memF s) = true) : spWf zeroByte (memF (readImage x rs s).2) = true := by
  unfold readImage; dsimp only; (repeat' split) <;> (first | (simp [memF_fold, *]; done) | (simp_all [memF_fold]; done))

@[simp] theorem writeParts_wf (ps : List (Nat × Nat)) (b : List Byte) (s : State) (h : spWf zeroByte (memF s) = true) : spWf zeroByte (memF (writeParts ps b s)) = true := by
  unfold writeParts; (repeat' split) <;> (first | (simp +contextual [*, memF_fold, foldl_wf, foldl2_wf, foldl3_wf, foldlS_wf]; done) | (simp_all +contextual [memF_fold, foldl_wf, foldl2_wf, foldl3_wf, foldlS_wf]; done))

@[simp] theorem placeConstants_wf (img : List Byte) (ms : List (List (Nat × Nat))) (s : State) (h : spWf zeroByte (memF s) = true) : spWf zeroByte (memF (placeConstants img ms s)) = true := by
  unfold placeConstants; apply foldl_wf _ _ _ h; intro s k hs; dsimp only
  exact writeParts_wf _ _ _ (memWrite_wf _ _ _ hs)

@[simp] theorem installEntry_wf (c : Nat) (rs : List Cpl) (s : State) (h : spWf zeroByte (memF s) = true) : spWf zeroByte (memF (installEntry c rs s)) = true := by
  unfold installEntry; dsimp only
  (repeat' split) <;> first
    | exact h
    | (simp [memF_fold, h]; done)
    | (apply endWith_wf; apply readImage_wf; simp [memF_fold, h]; done)
    | (apply finish_wf; rw [memF_mk, memF_fold]; apply placeConstants_wf; apply readImage_wf; simp [memF_fold, h])

@[simp] theorem removeEntry_wf (c : Nat) (s : State) (h : spWf zeroByte (memF s) = true) : spWf zeroByte (memF (removeEntry c s)) = true := by
  unfold removeEntry; (repeat' split) <;> (first | (simp [memF_fold, *]; done) | (simp_all [memF_fold]; done))

@[simp] theorem removeDone_wf (c : Nat) (s : State) (h : spWf zeroByte (memF s) = true) : spWf zeroByte (memF (removeDone c s)) = true := by
  unfold removeDone; (repeat' split) <;> (first | (simp [memF_fold, *]; done) | (simp_all [memF_fold]; done))

@[simp] theorem bufferEntry_wf (c : Nat) (rs : List Cpl) (s : State) (h : spWf zeroByte (memF s) = true) : spWf zeroByte (memF (bufferEntry c rs s)) = true := by
  unfold bufferEntry; dsimp only; (repeat' split) <;> (first | (simp [memF_fold, *]; done) | (simp_all [memF_fold]; done))

@[simp] theorem startEntry_wf (b i : Nat) (s : State) (h : spWf zeroByte (memF s) = true) : spWf zeroByte (memF (startEntry b i s)) = true := by
  unfold startEntry; dsimp only; (repeat' split) <;> (first | (simp [memF_fold, *]; done) | (simp_all [memF_fold]; done))

@[simp] theorem copyBlock_wf (c : Option Nat) (src dst : Nat) (a : List Nat × State) (h : spWf zeroByte (memF a.2) = true) : spWf zeroByte (memF (copyBlock c src dst a).2) = true := by
  unfold copyBlock; generalize (2 : Nat) ^ 21 = n; dsimp only; rw [memF_mk]
  rw [memF_fold, armRun_mem, memF_mk]
  apply foldlM_wf
  · apply spClear_wf
    rw [memF_fold, noteWritten_mem]; apply foldl2_wf _ _ ([], a.2) h; intro s e hs
    have hr := noteRead_wf 0 e.1 s.2 hs
    (repeat' split) <;> first | exact hr | (rw [recAdd_mem]; exact hr)
  · intro m e hm; exact spSet_wf _ _ _ _ hm

@[simp] theorem copyRegion_wf (c : Option Nat) (p q : Nat) (s : State) (h : spWf zeroByte (memF s) = true) : spWf zeroByte (memF (copyRegion c p q s).2) = true := by
  unfold copyRegion; apply foldl2_wf _ _ ([], s) h; intro s b hs; exact copyBlock_wf _ _ _ _ hs

@[simp] theorem adoptConst_wf (w : Nat) (s : State) (h : spWf zeroByte (memF s) = true) : spWf zeroByte (memF (adoptConst w s)) = true := by
  unfold adoptConst; (repeat' split) <;> (first | (simp +contextual [*, memF_fold, foldl_wf, foldl2_wf, foldl3_wf, foldlS_wf]; done) | (simp_all +contextual [memF_fold, foldl_wf, foldl2_wf, foldl3_wf, foldlS_wf]; done))

@[simp] theorem adoptWord_wf (e w : Nat) (s : State) (h : spWf zeroByte (memF s) = true) : spWf zeroByte (memF (adoptWord e w s)) = true := by
  unfold adoptWord; dsimp only; (repeat' split) <;> (first | (simp [memF_fold, *]; done) | (simp_all [memF_fold]; done))

@[simp] theorem substitute_wf (c : Option Nat) (p q e : Nat) (s : State) (h : spWf zeroByte (memF s) = true) : spWf zeroByte (memF (substitute c p q e s)) = true := by
  unfold substitute; simp +contextual [*, memF_fold, foldl_wf, foldl2_wf, foldl3_wf, foldlS_wf, foldlM_wf]

@[simp] theorem retireTile_wf (c : Option Nat) (p cause : Nat) (s : State) (h : spWf zeroByte (memF s) = true) : spWf zeroByte (memF (retireTile c p cause s)) = true := by
  unfold retireTile; dsimp only; split
  · apply foldl_wf
    · apply substitute_wf; exact h
    · intro s x hs; exact disrupt_getD_wf _ _ _ _ hs hs
  · apply foldl_wf
    · rw [raise_mem, updTile_mem]; exact h
    · intro s x hs; exact disrupt_getD_wf _ _ _ _ hs (endWith_wf _ _ _ hs)

@[simp] theorem failTile_wf (c p cause : Nat) (k : Cause) (s : State) (h : spWf zeroByte (memF s) = true) : spWf zeroByte (memF (failTile c p cause k s)) = true := by
  unfold failTile; (repeat' split) <;> (first | (simp [memF_fold, *]; done) | (simp_all [memF_fold]; done))

@[simp] theorem checkOutcome_wf (c e instr vec : Nat) (recovers : Bool) (s : State) (h : spWf zeroByte (memF s) = true) : spWf zeroByte (memF (checkOutcome c e instr vec recovers s).2) = true := by
  unfold checkOutcome; dsimp only; (repeat' split) <;> (first | (simp [memF_fold, *]; done) | (simp_all [memF_fold]; done))

@[simp] theorem tileFails_wf (c e : Nat) (s : State) (h : spWf zeroByte (memF s) = true) : spWf zeroByte (memF (tileFails c e s)) = true := by
  unfold tileFails; (repeat' split) <;> (first | (simp +contextual [*, memF_fold, foldl_wf, foldl2_wf, foldl3_wf, foldlS_wf]; done) | (simp_all +contextual [memF_fold, foldl_wf, foldl2_wf, foldl3_wf, foldlS_wf]; done))

@[simp] theorem failLater_wf (c e instr vec : Nat) (s : State) (h : spWf zeroByte (memF s) = true) : spWf zeroByte (memF (failLater c e instr vec s)) = true := by
  unfold failLater; (repeat' split) <;> (first | (simp +contextual [*, memF_fold, foldl_wf, foldl2_wf, foldl3_wf, foldlS_wf]; done) | (simp_all +contextual [memF_fold, foldl_wf, foldl2_wf, foldl3_wf, foldlS_wf]; done))

@[simp] theorem replaceTiles_wf (c : Nat) (s : State) (h : spWf zeroByte (memF s) = true) : spWf zeroByte (memF (replaceTiles c s)) = true := by
  unfold replaceTiles; (repeat' split) <;> (first | (simp +contextual [*, memF_fold, foldl_wf, foldl2_wf, foldl3_wf, foldlS_wf]; done) | (simp_all +contextual [memF_fold, foldl_wf, foldl2_wf, foldl3_wf, foldlS_wf]; done))

@[simp] theorem retireOrphan_wf (e : Nat) (s : State) (h : spWf zeroByte (memF s) = true) : spWf zeroByte (memF (retireOrphan e s)) = true := by
  unfold retireOrphan; (repeat' split) <;> (first | (simp +contextual [*, memF_fold, foldl_wf, foldl2_wf, foldl3_wf, foldlS_wf]; done) | (simp_all +contextual [memF_fold, foldl_wf, foldl2_wf, foldl3_wf, foldlS_wf]; done))

@[simp] theorem testedTile_wf (p n cause : Nat) (s : State) (h : spWf zeroByte (memF s) = true) : spWf zeroByte (memF (testedTile p n cause s)) = true := by
  unfold testedTile; dsimp only; (repeat' split) <;> (first | (simp [memF_fold, *]; done) | (simp_all [memF_fold]; done))

@[simp] theorem selftestEntry_wf (c n : Nat) (s : State) (h : spWf zeroByte (memF s) = true) : spWf zeroByte (memF (selftestEntry c n s)) = true := by
  unfold selftestEntry; dsimp only; (repeat' split) <;> (first | (simp [memF_fold, *]; done) | (simp_all [memF_fold]; done))

@[simp] theorem streamPass_wf (c : Ctx) (u : Cursor) (o : StreamOp) (a : Nat) (t : Tile) (up : Option (Nat × Bool)) (s : State) (h : spWf zeroByte (memF s) = true) : spWf zeroByte (memF (streamPass c u o a t up s)) = true := by
  unfold streamPass; dsimp only; (repeat' split) <;> (first | (simp [memF_fold, *]; done) | (simp_all [memF_fold]; done))

@[simp] theorem drainSlot_wf (c : Ctx) (u : Cursor) (dst : Nat) (o : DrainOp) (r : SlotRec) (s : State) (h : spWf zeroByte (memF s) = true) : spWf zeroByte (memF (drainSlot c u dst o r s)) = true := by
  simp [memF_fold, drainSlot, h]

@[simp] theorem pdrainSlot_wf (c : Ctx) (u : Cursor) (a : Nat) (o : PdrainOp) (s : State) (h : spWf zeroByte (memF s) = true) : spWf zeroByte (memF (pdrainSlot c u a o s)) = true := by
  simp [memF_fold, pdrainSlot, h]

@[simp] theorem vopRun_wf (c : Ctx) (u : Cursor) (d : Nat) (o : VopOp) (s : State) (h : spWf zeroByte (memF s) = true) : spWf zeroByte (memF (vopRun c u d o s)) = true := by
  simp [memF_fold, vopRun, h]

@[simp] theorem vcvtRun_wf (c : Ctx) (u : Cursor) (d : Nat) (o : VcvtOp) (s : State) (h : spWf zeroByte (memF s) = true) : spWf zeroByte (memF (vcvtRun c u d o s)) = true := by
  simp [memF_fold, vcvtRun, h]

@[simp] theorem pbuildStore_wf (kind d : Nat) (ts : List Int) (s : State) (h : spWf zeroByte (memF s) = true) : spWf zeroByte (memF (pbuildStore kind d ts s)) = true := by
  unfold pbuildStore; dsimp only; (repeat' split) <;> (first | (simp [memF_fold, *]; done) | (simp_all [memF_fold]; done) | (apply foldl_wf <;> (first | (simp [memF_fold, *]; done) | (intro s a hs; (repeat' split) <;> (first | (simp [memF_fold, *]; done) | (simp_all [memF_fold]; done))))))

@[simp] theorem pbuildRun_wf (c : Ctx) (u : Cursor) (a : Nat) (o : PbuildOp) (s : State) (h : spWf zeroByte (memF s) = true) : spWf zeroByte (memF (pbuildRun c u a o s)) = true := by
  simp [memF_fold, pbuildRun, h]

@[simp] theorem packageReads_wf (s : State) (x : Ctx) (p : Option Prob) (h : spWf zeroByte (memF s) = true) : spWf zeroByte (memF (packageReads s x p).2) = true := by
  unfold packageReads; (repeat' split) <;> (first | (simp +contextual [*, memF_fold, foldl_wf, foldl2_wf, foldl3_wf, foldlS_wf]; done) | (simp_all +contextual [memF_fold, foldl_wf, foldl2_wf, foldl3_wf, foldlS_wf]; done))

@[simp] theorem placeRange_wf (s : State) (r : Nat × Nat × List (Nat × Byte)) (h : spWf zeroByte (memF s) = true) : spWf zeroByte (memF (placeRange s r)) = true := by
  unfold placeRange; apply foldlS_wf _ _ (s, 0) h; intro a q ha; dsimp only; rw [armRun_mem, memF_mk]
  apply foldlM_wf
  · apply spClear_wf; rw [memF_fold, noteWritten_mem]; exact ha
  · intro m e hm; exact spSet_wf _ _ _ _ hm

@[simp] theorem placeRanges_wf (l : List (Nat × Nat × List (Nat × Byte))) (s : State) (h : spWf zeroByte (memF s) = true) : spWf zeroByte (memF (placeRanges l s)) = true := by
  unfold placeRanges; simp +contextual [*, memF_fold, foldl_wf, foldl2_wf, foldl3_wf, foldlS_wf, foldlM_wf]

@[simp] theorem mirrorPiece_wf (m : Mirror) (i : InMsg) (s : State) (h : spWf zeroByte (memF s) = true) : spWf zeroByte (memF (mirrorPiece m i s)) = true := by
  unfold mirrorPiece; (repeat' split) <;> (first | (simp +contextual [*, memF_fold, foldl_wf, foldl2_wf, foldl3_wf, foldlS_wf]; done) | (simp_all +contextual [memF_fold, foldl_wf, foldl2_wf, foldl3_wf, foldlS_wf]; done))

@[simp] theorem earlyPieces_wf (dev run : Nat) (s : State) (h : spWf zeroByte (memF s) = true) : spWf zeroByte (memF (earlyPieces dev run s)) = true := by
  unfold earlyPieces; dsimp only; apply foldl_wf
  · rw [updNet_mem]; exact h
  · intro s i hs; split
    · exact mirrorPiece_wf _ _ _ hs
    · exact hs

@[simp] theorem takeOffer_wf (dev run img pkg ck : Nat) (live : List Nat) (s : State) (h : spWf zeroByte (memF s) = true) : spWf zeroByte (memF (takeOffer dev run img pkg ck live s)) = true := by
  unfold takeOffer; dsimp only; apply earlyPieces_wf; rw [sendMsg_mem]; split
  · rw [updNet_mem]; exact h
  · exact h

@[simp] theorem mirrorMessage_wf (i : InMsg) (s : State) (h : spWf zeroByte (memF s) = true) : spWf zeroByte (memF (mirrorMessage i s).2) = true := by
  unfold mirrorMessage; dsimp only; (repeat' split) <;> (first | (simp [memF_fold, *]; done) | (simp_all [memF_fold]; done))

@[simp] theorem ploadFails_wf (c : Nat) (l : Loc) (s : State) (h : spWf zeroByte (memF s) = true) : spWf zeroByte (memF (ploadFails c l s)) = true := by
  simp [memF_fold, ploadFails, h]

@[simp] theorem ploadShare_wf (c : Nat) (x : Ctx) (m : MdRun) (o : PloadOp) (p : Prob) (own : List (List Nat)) (s : State) (h : spWf zeroByte (memF s) = true) : spWf zeroByte (memF (ploadShare c x m o p own s)) = true := by
  have hq : spWf zeroByte (memF (if mirrored s m = true then packageReads s x (some p) else (true, s)).2) = true := by
    split
    · exact packageReads_wf _ _ _ h
    · exact h
  unfold ploadShare; dsimp only
  generalize (if mirrored s m = true then packageReads s x (some p) else (true, s)) = q at hq ⊢
  have hs : ∀ (b : Prop) [Decidable b] (f : MdRun → MdRun) (l : List Nat) (k : Nat → List Byte), spWf zeroByte (memF (if b then
      l.foldl (fun s q => sendRun c q 1 mkTileDigest 0 (k q) s) (updMd c f q.2) else updMd c f q.2)) = true := by
    intro b _ f l k
    apply ite_wf
    · apply foldl_wf
      · rw [updMd_mem]; exact hq
      · intro s n hn; rw [sendRun_mem]; exact hn
    · rw [updMd_mem]; exact hq
  apply ite_wf
  · exact hq
  · apply ite_wf
    · apply foldl_wf _ _ _ (hs _ _ _ _); intro s n hn; rw [sendOffer_mem]; exact hn
    · exact hs _ _ _ _

@[simp] theorem placeProblem_wf (c : Nat) (p : Prob) (s : State) (h : spWf zeroByte (memF s) = true) : spWf zeroByte (memF (placeProblem c p s)) = true := by
  unfold placeProblem; dsimp only
  apply coeffReads_wf; exact foldl_wf _ _ _ h (fun s e hs => placeEngine_wf _ _ _ hs)

@[simp] theorem formRun_wf (c : Nat) (x : Ctx) (o : PloadOp) (p : Prob) (spins : List (List Nat)) (norm : Nat) (sums : List Int) (s : State) (h : spWf zeroByte (memF s) = true) : spWf zeroByte (memF (formRun c x o p spins norm sums s)) = true := by
  simp [memF_fold, formRun, h]

theorem ploadWaits_wf (c : Nat) (x : Ctx) (o : PloadOp) (p : Prob) (spins : List (List Nat)) (s t : State) (ht : ploadWaits c x o p spins s = some t)
    (h : spWf zeroByte (memF s) = true) : spWf zeroByte (memF t) = true := by
  unfold ploadWaits at ht; repeat' split at ht
  all_goals first | (injection ht with ht; subst ht; simp [memF_fold, h]; done) | simp at ht

@[simp] theorem ploadPlace_wf (c : Nat) (x : Ctx) (o : PloadOp) (p : Prob) (spins : List (List Nat)) (norm : Nat) (sums : List Int) (s : State) (h : spWf zeroByte (memF s) = true) : spWf zeroByte (memF (ploadPlace c x o p spins norm sums s)) = true := by
  unfold ploadPlace; dsimp only
  have hr : spWf zeroByte (memF (recAdd c 2 (readCheck 0 p.imageAddr p.imageLen s).2.1 (readCheck 0 p.imageAddr p.imageLen s).2.2)) = true := by
    rw [recAdd_mem]; exact readCheck_wf _ _ _ _ h
  (repeat' split) <;> first
    | exact endWith_wf _ _ _ hr
    | exact formRun_wf _ _ _ _ _ _ _ _ (placeProblem_wf _ _ _ hr)
    | exact placeProblem_wf _ _ _ hr

@[simp] theorem ploadGo_wf (c : Nat) (x : Ctx) (o : PloadOp) (p : Prob) (spins : List (List Nat)) (norm : Nat)
    (bad : Option Nat) (r : Option (List Int) × State) (h : spWf zeroByte (memF r.2) = true) : spWf zeroByte (memF (ploadGo c x o p spins norm bad r)) = true := by
  unfold ploadGo; split
  · exact h
  · split <;> simp [memF_fold, h]

theorem ploadShared_wf (c : Nat) (x : Ctx) (o : PloadOp) (p : Prob) (own : List (List Nat) × Nat) (w : Option State) (s : State)
    (hs : spWf zeroByte (memF s) = true) (h : ∀ t, w = some t → spWf zeroByte (memF t) = true) : spWf zeroByte (memF (ploadShared c x o p own w s)) = true := by
  cases w with
  | some t => exact h t rfl
  | none => unfold ploadShared; dsimp only; apply ploadGo_wf; simp [memF_fold, hs]

@[simp] theorem ploadChecked_wf (c : Nat) (x : Ctx) (o : PloadOp) (r : Except Loc Prob) (s : State) (h : spWf zeroByte (memF s) = true) :
    spWf zeroByte (memF (ploadChecked c x o r s)) = true := by
  cases r with
  | error l => unfold ploadChecked; dsimp only; exact ploadFails_wf _ _ _ h
  | ok p => unfold ploadChecked; dsimp only; exact ploadShared_wf _ _ _ _ _ _ _ h (fun t ht => ploadWaits_wf _ _ _ _ _ _ _ ht h)

@[simp] theorem ploadBegin_wf (c : Nat) (x : Ctx) (o : PloadOp) (s : State) (h : spWf zeroByte (memF s) = true) : spWf zeroByte (memF (ploadBegin c x o s)) = true := by
  unfold ploadBegin; exact ploadChecked_wf _ _ _ _ _ h

@[simp] theorem sendMirror_wf (c : Nat) (s : State) (h : spWf zeroByte (memF s) = true) : spWf zeroByte (memF (sendMirror c s)) = true := by
  unfold sendMirror; (repeat' split) <;> (first | (simp +contextual [*, memF_fold, foldl_wf, foldl2_wf, foldl3_wf, foldlS_wf]; done) | (simp_all +contextual [memF_fold, foldl_wf, foldl2_wf, foldl3_wf, foldlS_wf]; done))

@[simp] theorem ploadEnd_wf (c : Nat) (all : List TopEntry) (s : State) (h : spWf zeroByte (memF s) = true) : spWf zeroByte (memF (ploadEnd c all s)) = true := by
  simp [memF_fold, ploadEnd, h]

@[simp] theorem ploadOffers_wf (c : Nat) (s : State) (h : spWf zeroByte (memF s) = true) : spWf zeroByte (memF (ploadOffers c s)) = true := by
  unfold ploadOffers; dsimp only; (repeat' split) <;> (first | (simp [memF_fold, *]; done) | (simp_all [memF_fold]; done))

@[simp] theorem ploadStep_wf (c : Nat) (o : PloadOp) (x : Ctx) (s : State) (h : spWf zeroByte (memF s) = true) : spWf zeroByte (memF (ploadStep c o x s)) = true := by
  have hb : spWf zeroByte (memF (if ploadUnderway x o then s else ploadBegin c x o s)) = true := by
    split
    · exact h
    · exact ploadBegin_wf _ _ _ _ h
  unfold ploadStep; dsimp only
  generalize (if ploadUnderway x o then s else ploadBegin c x o s) = t at hb ⊢
  (repeat' split) <;> (first | (simp [memF_fold, *]; done) | (simp_all [memF_fold]; done))

@[simp] theorem gatherGo_wf (c : Nat) (a : Anneal) (s : State) (h : spWf zeroByte (memF s) = true) : spWf zeroByte (memF (gatherGo c a s)) = true := by
  unfold gatherGo; dsimp only
  have hf : ∀ l, spWf zeroByte (memF (fieldReads c a.prob l s)) = true := fun l => fieldReads_wf _ _ _ _ h
  have hg : ∀ (l : List Nat) (t : State), spWf zeroByte (memF t) = true →
      spWf zeroByte (memF (l.foldl (fun s g => if goesOn s c then gatherSeg c a g s else s) t)) = true := by
    intro l t ht; apply foldl_wf _ _ _ ht; intro s g hs; split
    · exact gatherSeg_wf _ _ _ _ hs
    · exact hs
  (repeat' split) <;> simp [memF_fold, hf, hg]

@[simp] theorem gatherStep_wf (c : Nat) (a : Anneal) (s : State) (h : spWf zeroByte (memF s) = true) : spWf zeroByte (memF (gatherStep c a s)) = true := by
  unfold gatherStep; dsimp only; (repeat' split) <;> (first | (simp [memF_fold, *]; done) | (simp_all [memF_fold]; done))

@[simp] theorem checkEach_wf (c : Nat) (recovers : Bool) (us : List (Nat × Nat)) (s : State) (h : spWf zeroByte (memF s) = true) : spWf zeroByte (memF (checkEach c recovers us s)) = true := by
  unfold checkEach; apply foldl_wf _ _ _ h; intro s u hs; split
  · exact checkOutcome_wf _ _ _ _ _ _ hs
  · exact hs

@[simp] theorem failEach_wf (c : Nat) (us : List (Nat × Nat)) (s : State) (h : spWf zeroByte (memF s) = true) : spWf zeroByte (memF (failEach c us s)) = true := by
  unfold failEach; apply foldl_wf _ _ _ h; intro s e hs; split
  · exact failLater_wf _ _ _ _ _ hs
  · exact hs

@[simp] theorem passCheck_wf (c : Nat) (known : Nat → Bool) (later : Bool) (us : List Upset) (s : State) (h : spWf zeroByte (memF s) = true) : spWf zeroByte (memF (passCheck c known later us s).2) = true := by
  simp [memF_fold, passCheck, h]

@[simp] theorem relaxPhase_wf (c : Nat) (a : Anneal) (us : List Upset) (s : State) (h : spWf zeroByte (memF s) = true) : spWf zeroByte (memF (relaxPhase c a us s)) = true := by
  unfold relaxPhase; split
  · rw [collAdvance_mem, updRun_mem]; exact h
  · dsimp only
    generalize working s c a = b
    have hw := phaseReads_wf c b s h
    generalize phaseReads c b s = w at hw ⊢
    have hf := formTiles_wf c b false w.2 hw
    generalize formTiles c b false w.2 = f at hf ⊢
    have hq : spWf zeroByte (memF (if goesOn f c = true then accPass c (visitEngines b) (crossLen a.prob) (2048 * a.prob.replicas) f else (false, f)).2) = true := by
      split
      · exact accPass_wf _ _ _ _ _ hf
      · exact hf
    generalize (if goesOn f c = true then accPass c (visitEngines b) (crossLen a.prob) (2048 * a.prob.replicas) f else (false, f)) = q at hq ⊢
    split
    · exact hw
    · split
      · exact hq
      · split
        · rw [collAdvance_mem]; first | exact setVisits_wf _ _ _ _ _ (passCheck_wf _ _ _ _ _ hq) | (rw [setVisits_mem]; exact passCheck_wf _ _ _ _ _ hq)
        · exact passCheck_wf _ _ _ _ _ hq

@[simp] theorem choosePhase_wf (c : Nat) (a : Anneal) (us : List Upset) (s : State) (h : spWf zeroByte (memF s) = true) : spWf zeroByte (memF (choosePhase c a us s)) = true := by
  unfold choosePhase; split
  · rw [collAdvance_mem, updRun_mem]; exact h
  · dsimp only
    generalize working s c a = b
    have hw := phaseReads_wf c b s h
    generalize phaseReads c b s = w at hw ⊢
    have hf := formTiles_wf c b true w.2 hw
    generalize formTiles c b true w.2 = f at hf ⊢
    have hq : spWf zeroByte (memF (if goesOn f c = true then accPass c (visitEngines b) (crossLen a.prob) (chooseLen b) f else (false, f)).2) = true := by
      split
      · exact accPass_wf _ _ _ _ _ hf
      · exact hf
    generalize (if goesOn f c = true then accPass c (visitEngines b) (crossLen a.prob) (chooseLen b) f else (false, f)) = q at hq ⊢
    split
    · exact hw
    · split
      · exact hq
      · split
        · rw [collAdvance_mem]; first | exact setVisits_wf _ _ _ _ _ (passCheck_wf _ _ _ _ _ hq) | (rw [setVisits_mem]; exact passCheck_wf _ _ _ _ _ hq)
        · exact passCheck_wf _ _ _ _ _ hq

@[simp] theorem auditPair_wf (c : Nat) (p : Prob) (ts : List (Nat × Nat)) (s : State) (h : spWf zeroByte (memF s) = true) : spWf zeroByte (memF (auditPair c p ts s)) = true := by
  unfold auditPair; apply foldl_wf _ _ _ h; intro s t hs; dsimp only; apply coeffReads_wf; split
  · exact stageTile_wf _ _ _ _ hs
  · exact hs

@[simp] theorem pairCheck_wf (c : Nat) (a : Anneal) (u : PairUpset) (s : State) (h : spWf zeroByte (memF s) = true) : spWf zeroByte (memF (pairCheck c a u s)) = true := by
  have hn : ∀ (l : List Nat) (f : State → Nat → State) (t : State), spWf zeroByte (memF t) = true →
      (∀ s e, memF (f s e) = memF s) → spWf zeroByte (memF (l.foldl f t)) = true :=
    fun l f t ht hf => foldl_wf _ _ _ ht (fun s e hs => by rw [hf]; exact hs)
  unfold pairCheck; dsimp only
  split
  · exact h
  · split
    · exact h
    · split
      · apply endWith_wf; exact hn _ _ _ h (fun s e => noteCheckFail_mem _ _ _ _ _)
      · rw [pairAgrees_mem]; exact hn _ _ _ h (fun s e => noteCheckFail_mem _ _ _ _ _)
  · split
    · exact h
    · split
      · apply endWith_wf; exact hn _ _ _ h (fun s e => noteCheckFail_mem _ _ _ _ _)
      · rw [updRun_mem]; apply foldl_wf
        · apply auditPair_wf; exact hn _ _ _ (hn _ _ _ h (fun s e => noteCheckFail_mem _ _ _ _ _)) (fun s e => noteCheckFail_mem _ _ _ _ _)
        · intro s e hs; split
          · exact tileFails_wf _ _ _ hs
          · exact hs

@[simp] theorem pairsCheck_wf (c : Nat) (a : Anneal) (us : List PairUpset) (s : State) (h : spWf zeroByte (memF s) = true) : spWf zeroByte (memF (pairsCheck c a us s).2) = true := by
  unfold pairsCheck; dsimp only
  have h0 : spWf zeroByte (memF (us.foldl (fun s u => if goesOn s c then pairCheck c a u s else s) s)) = true := by
    apply foldl_wf _ _ _ h; intro s u hs; split
    · exact pairCheck_wf _ _ _ _ hs
    · exact hs
  generalize us.foldl (fun s u => if goesOn s c then pairCheck c a u s else s) s = t at h0 ⊢
  (repeat' split) <;> first | exact h0 | exact replaceTiles_wf _ _ h0

@[simp] theorem deliverRecords_wf (a : Anneal) (s : State) (h : spWf zeroByte (memF s) = true) : spWf zeroByte (memF (deliverRecords a s)) = true := by
  unfold deliverRecords; simp +contextual [*, memF_fold, foldl_wf, foldl2_wf, foldl3_wf, foldlS_wf, foldlM_wf]

@[simp] theorem walkGo_wf (c : Nat) (x : Ctx) (a : Anneal) (s : State) (h : spWf zeroByte (memF s) = true) : spWf zeroByte (memF (walkGo c x a s)) = true := by
  simp [memF_fold, walkGo, h]

@[simp] theorem redoVisits_wf (c : Nat) (a : Anneal) (s : State) (h : spWf zeroByte (memF s) = true) : spWf zeroByte (memF (redoVisits c a s)) = true := by
  have hg : ∀ (l : List Nat) (t : State), spWf zeroByte (memF t) = true →
      spWf zeroByte (memF (if isShared a.prob = true then l.foldl (fun s g => if goesOn s c = true then gatherSeg c a g s else s) t else t)) = true := by
    intro l t ht; split
    · apply foldl_wf _ _ _ ht; intro s g hs; split
      · exact gatherSeg_wf _ _ _ _ hs
      · exact hs
    · exact ht
  have hf : ∀ (q : Prop) [Decidable q] (b : Anneal) k (t : State), spWf zeroByte (memF t) = true → spWf zeroByte (memF (if q then t else formTiles c b k t)) = true := by
    intro q _ b k t ht; split
    · exact ht
    · exact formTiles_wf _ _ _ _ ht
  unfold redoVisits; dsimp only
  apply hf; apply hf; apply workWrites_wf; apply hg; exact fieldReads_wf _ _ _ _ h

@[simp] theorem crossPass_wf (c : Nat) (a : Anneal) (us : List Upset) (s : State) (h : spWf zeroByte (memF s) = true) : spWf zeroByte (memF (crossPass c a us s).2) = true := by
  unfold crossPass; dsimp only
  generalize hr : (((pairTiles a).map fun t => ((segEngines a.prob t.1).filter (crossing s c a)).map fun e => (e, t)).flatten) = rs
  have ht : spWf zeroByte (memF (tableReads c a.prob ((homeEngines a.prob).filter (crossing s c a)) (partReads c a.prob rs s))) = true :=
    tableReads_wf _ _ _ _ (partReads_wf _ _ _ _ h)
  generalize tableReads c a.prob ((homeEngines a.prob).filter (crossing s c a)) (partReads c a.prob rs s) = t at ht ⊢
  have hq := accPass_wf c (((homeEngines a.prob).filter (crossing s c a)).filter (crosses a)) 0 (crossLen a.prob) t ht
  (repeat' split) <;> first | exact ht | exact hq | exact passCheck_wf _ _ _ _ _ hq

@[simp] theorem rollcallGo_wf (c : Nat) (x : Ctx) (a : Anneal) (ps : List PairUpset) (s : State) (h : spWf zeroByte (memF s) = true) : spWf zeroByte (memF (rollcallGo c x a ps s)) = true := by
  unfold rollcallGo; (repeat' split) <;> (first | (simp +contextual [*, memF_fold, foldl_wf, foldl2_wf, foldl3_wf, foldlS_wf]; done) | (simp_all +contextual [memF_fold, foldl_wf, foldl2_wf, foldl3_wf, foldlS_wf]; done))

@[simp] theorem rollcallPhase_wf (c : Nat) (x : Ctx) (a : Anneal) (us : List Upset) (ps : List PairUpset) (s : State) (h : spWf zeroByte (memF s) = true) : spWf zeroByte (memF (rollcallPhase c x a us ps s)) = true := by
  have h0 : spWf zeroByte (memF (if a.redo.isEmpty = true then s else redoVisits c a s)) = true := by
    split
    · exact h
    · exact redoVisits_wf _ _ _ h
  unfold rollcallPhase; dsimp only
  generalize (if a.redo.isEmpty = true then s else redoVisits c a s) = s0 at h0 ⊢
  generalize ({ a with visits := a.visits.filter fun v => crossing s0 c a (visitEng a.prob v.seg) } : Anneal) = b
  have hw := phaseReads_wf c b s0 h0
  generalize phaseReads c b s0 = w at hw ⊢
  have hk := crossPass_wf c a us w.2 hw
  generalize crossPass c a us w.2 = k at hk ⊢
  apply ite_wf _ _ _ h0
  apply ite_wf _ _ _ hw
  exact ite_wf _ _ _ (rollcallGo_wf _ _ _ _ _ hk) hk

@[simp] theorem discardPhase_wf (c phase : Nat) (s : State) (h : spWf zeroByte (memF s) = true) : spWf zeroByte (memF (discardPhase c phase s)) = true := by
  simp [memF_fold, discardPhase, h]

@[simp] theorem fieldupReads_wf (c : Nat) (a : Anneal) (ds : List Delta) (s : State) (h : spWf zeroByte (memF s) = true) : spWf zeroByte (memF (fieldupReads c a ds s)) = true := by
  unfold fieldupReads; dsimp only
  apply fieldReads_wf; apply tableReads_wf; apply tileReads_wf; exact h

@[simp] theorem productsStand_wf (c : Nat) (a : Anneal) (ds : List Delta) (s : State) (h : spWf zeroByte (memF s) = true) : spWf zeroByte (memF (productsStand c a ds s).2) = true := by
  unfold productsStand; (repeat' split) <;> (first | (simp +contextual [*, memF_fold, foldl_wf, foldl2_wf, foldl3_wf, foldlS_wf]; done) | (simp_all +contextual [memF_fold, foldl_wf, foldl2_wf, foldl3_wf, foldlS_wf]; done))

@[simp] theorem fieldupStands_wf (c : Nat) (a : Anneal) (ds : List Delta) (us : List Upset) (s : State) (h : spWf zeroByte (memF s) = true) : spWf zeroByte (memF (fieldupStands c a ds us s).2) = true := by
  unfold fieldupStands; (repeat' split) <;> (first | (simp [memF_fold, *]; done) | (simp_all [memF_fold]; done))

@[simp] theorem propagate_wf (c : Nat) (a : Anneal) (ds : List Delta) (us : List Upset) (s : State) (h : spWf zeroByte (memF s) = true) : spWf zeroByte (memF (propagate c a ds us s).2) = true := by
  unfold propagate; (repeat' split) <;> (first | (simp +contextual [*, memF_fold, foldl_wf, foldl2_wf, foldl3_wf, foldlS_wf]; done) | (simp_all +contextual [memF_fold, foldl_wf, foldl2_wf, foldl3_wf, foldlS_wf]; done))

@[simp] theorem commitPhase_wf (c : Nat) (f : Anneal → Anneal) (s : State) (h : spWf zeroByte (memF s) = true) : spWf zeroByte (memF (commitPhase c f s)) = true := by
  unfold commitPhase; (repeat' split) <;> (first | (simp [memF_fold, *]; done) | (simp_all [memF_fold]; done))

@[simp] theorem fieldupAlone_wf (c : Nat) (a : Anneal) (us : List Upset) (s : State) (h : spWf zeroByte (memF s) = true) : spWf zeroByte (memF (fieldupAlone c a us s)) = true := by
  unfold fieldupAlone; dsimp only
  have hk := propagate_wf c a (ownDeltas a) us s h
  (repeat' split) <;> first | exact hk | exact saturate_wf _ _ _ hk | (rw [saturate_mem]; exact hk) | exact commitPhase_wf _ _ _ hk

@[simp] theorem strictOver_wf (c : Nat) (a : Anneal) (ds : List Delta) (f : List (List (List Int))) (t : List Int) (s : State) (h : spWf zeroByte (memF s) = true) : spWf zeroByte (memF (strictOver c a ds f t s)) = true := by
  unfold strictOver; dsimp only; (repeat' split) <;> (first | (simp [memF_fold, *]; done) | (simp_all [memF_fold]; done))

@[simp] theorem fieldupStrict_wf (c : Nat) (x : Ctx) (a : Anneal) (us : List Upset) (s : State) (h : spWf zeroByte (memF s) = true) : spWf zeroByte (memF (fieldupStrict c x a us s)) = true := by
  unfold fieldupStrict; dsimp only
  have h0 : spWf zeroByte (memF (takeAccs c (match x.md with
      | some m => if m.shareSent then s else updMd c (fun m => { m with shareSent := true }) (sendAcc c (ownSet x a) s)
      | none => s))) = true := by
    rw [takeAccs_mem]; (repeat' split) <;> simp [memF_fold, h]
  generalize takeAccs c _ = s0 at h0 ⊢
  split
  · exact h0
  · split
    · rw [waitFor_mem]; exact h0
    · have hk : ∀ ds, spWf zeroByte (memF (propagate c a ds us s0).2) = true := fun ds => propagate_wf _ _ _ _ _ h0
      split
      · exact hk _
      · split
        · rw [combine_mem]; exact hk _
        · apply strictOver_wf; rw [combine_mem]; exact hk _

@[simp] theorem takeBackRun_wf (c : Nat) (marks : List (Nat × Nat)) (s : State) (h : spWf zeroByte (memF s) = true) : spWf zeroByte (memF (takeBackRun c marks s)) = true := by
  unfold takeBackRun; (repeat' split) <;> (first | (simp +contextual [*, memF_fold, foldl_wf, foldl2_wf, foldl3_wf, foldlS_wf]; done) | (simp_all +contextual [memF_fold, foldl_wf, foldl2_wf, foldl3_wf, foldlS_wf]; done))

@[simp] theorem fieldupFree_wf (c : Nat) (a : Anneal) (us : List Upset) (s : State) (h : spWf zeroByte (memF s) = true) : spWf zeroByte (memF (fieldupFree c a us s)) = true := by
  have h0 : spWf zeroByte (memF (takeAccs c s)) = true := by rw [takeAccs_mem]; exact h
  unfold fieldupFree; dsimp only
  generalize takeAccs c s = s0 at h0 ⊢
  cases (ctxOf s0 c).bind (·.md) with
  | none => exact h0
  | some m =>
    dsimp only
    have hk := propagate_wf c a (ownDeltas a ++ ((freeSets m fun _ _ => true).map (·.deltas)).flatten) us s0 h0
    generalize propagate c a _ us s0 = k at hk ⊢
    generalize applyFree _ _ _ _ = f
    split
    · exact hk
    · cases f with
      | none => dsimp only; rw [saturate_mem]; apply takeBackRun_wf; rw [tellSaturated_mem, updMd_mem]; exact hk
      | some f => dsimp only; apply commitPhase_wf; rw [updMd_mem]; exact hk

@[simp] theorem fieldupGo_wf (c : Nat) (x : Ctx) (a : Anneal) (us : List Upset) (s : State) (h : spWf zeroByte (memF s) = true) : spWf zeroByte (memF (fieldupGo c x a us s)) = true := by
  unfold fieldupGo; split
  · split
    · exact fieldupFree_wf _ _ _ _ h
    · exact fieldupStrict_wf _ _ _ _ _ h
  · exact fieldupAlone_wf _ _ _ _ h

@[simp] theorem fieldupPhase_wf (c : Nat) (x : Ctx) (a : Anneal) (us : List Upset) (s : State) (h : spWf zeroByte (memF s) = true) : spWf zeroByte (memF (fieldupPhase c x a us s)) = true := by
  unfold fieldupPhase; dsimp only
  have hw := recordReads_wf c a s h
  have hr := runReads_wf c a _ hw
  (repeat' split) <;> first | exact hw | exact hr | exact fieldupGo_wf _ _ _ _ _ hr

@[simp] theorem barrierSaturated_wf (c : Nat) (a : Anneal) (sets : List AccSet) (s : State) (h : spWf zeroByte (memF s) = true) : spWf zeroByte (memF (barrierSaturated c a sets s)) = true := by
  unfold barrierSaturated; (repeat' split) <;> (first | (simp +contextual [*, memF_fold, foldl_wf, foldl2_wf, foldl3_wf, foldlS_wf]; done) | (simp_all +contextual [memF_fold, foldl_wf, foldl2_wf, foldl3_wf, foldlS_wf]; done))

@[simp] theorem barrierStep_wf (c : Nat) (us : List Upset) (s : State) (h : spWf zeroByte (memF s) = true) : spWf zeroByte (memF (barrierStep c us s)) = true := by
  unfold barrierStep; dsimp only; (repeat' split) <;> (first | (simp [memF_fold, *]; done) | (simp_all [memF_fold]; done))

@[simp] theorem pwChange_wf (c : Nat) (a : Anneal) (w : List Nat × Nat) (s : State) (h : spWf zeroByte (memF s) = true) : spWf zeroByte (memF (pwChange c a w s)) = true := by
  unfold pwChange; dsimp only
  have h0 := fieldReads_wf c a.prob (homeEngines a.prob) s h
  generalize fieldReads c a.prob (homeEngines a.prob) s = t at h0 ⊢
  (repeat' split) <;> first
    | exact h0
    | (rw [spanSum_mem]; exact h0)
    | (apply discardPhase_wf; rw [spanSum_mem]; exact h0)
    | (rw [discardPhase_mem, spanSum_mem]; exact h0)
    | (apply writeRun_wf; rw [fieldWrites_mem, updRun_mem, spanSum_mem]; exact h0)

@[simp] theorem pwStep_wf (c : Nat) (a : Anneal) (s : State) (h : spWf zeroByte (memF s) = true) : spWf zeroByte (memF (pwStep c a s)) = true := by
  unfold pwStep; dsimp only; (repeat' split) <;> (first | (simp [memF_fold, *]; done) | (simp_all [memF_fold]; done))

@[simp] theorem takeCkpt_wf (c : Nat) (x : Ctx) (a : Anneal) (s : State) (h : spWf zeroByte (memF s) = true) : spWf zeroByte (memF (takeCkpt c x a s)) = true := by
  unfold takeCkpt; dsimp only; (repeat' split) <;> (first | (simp +contextual [*, memF_fold, foldl_wf, foldl2_wf, foldl3_wf, foldlS_wf, foldlM_wf]; done))

@[simp] theorem ckptPart_wf (c : Nat) (x : Ctx) (a : Anneal) (s : State) (h : spWf zeroByte (memF s) = true) : spWf zeroByte (memF (ckptPart c x a s)) = true := by
  unfold ckptPart; dsimp only; (repeat' split) <;> (first | (simp [memF_fold, *]; done) | (simp_all [memF_fold]; done))

@[simp] theorem sweepPart_wf (c : Nat) (s : State) (h : spWf zeroByte (memF s) = true) : spWf zeroByte (memF (sweepPart c s)) = true := by
  unfold sweepPart; dsimp only; (repeat' split) <;> (first | (simp [memF_fold, *]; done) | (simp_all [memF_fold]; done))

@[simp] theorem sweepParts_wf (c from_ : Nat) (s : State) (h : spWf zeroByte (memF s) = true) : spWf zeroByte (memF (sweepParts c from_ s)) = true := by
  unfold sweepParts; apply foldl_wf _ _ _ h; intro s i hs; (repeat' split) <;> first | exact hs | exact sweepPart_wf _ _ hs

@[simp] theorem sweependPhase_wf (c : Nat) (a : Anneal) (s : State) (h : spWf zeroByte (memF s) = true) : spWf zeroByte (memF (sweependPhase c a s)) = true := by
  unfold sweependPhase; dsimp only; (repeat' split) <;> (first | (simp [memF_fold, *]; done) | (simp_all [memF_fold]; done))

@[simp] theorem resultSpanned_wf (c : Nat) (x : Ctx) (a : Anneal) (da : Nat) (s : State) (h : spWf zeroByte (memF s) = true) : spWf zeroByte (memF (resultSpanned c x a da s)) = true := by
  unfold resultSpanned; dsimp only; split
  · rw [combine_mem]; exact h
  · rw [collAdvance_mem]; apply writeResult_wf; rw [updRun_mem, combine_mem]; exact h

@[simp] theorem endTogether_wf (c : Nat) (v : List Int) (s : State) (h : spWf zeroByte (memF s) = true) : spWf zeroByte (memF (endTogether c v s)) = true := by
  unfold endTogether; dsimp only; split
  · split
    · exact h
    · rw [addCause_mem, updRun_mem]; exact takeBackRun_wf _ _ _ h
  · exact h

@[simp] theorem endsTold_wf (c : Nat) (a : Anneal) (s : State) (h : spWf zeroByte (memF s) = true) : spWf zeroByte (memF (endsTold c a s).2) = true := by
  unfold endsTold; split
  · exact h
  · dsimp only; split
    · rw [combine_mem]; exact h
    · rw [updRun_mem]; apply endTogether_wf; rw [combine_mem]; exact h

@[simp] theorem resultGo_wf (c : Nat) (x : Ctx) (a : Anneal) (da : Nat) (s : State) (h : spWf zeroByte (memF s) = true) : spWf zeroByte (memF (resultGo c x a da s)) = true := by
  unfold resultGo; dsimp only; (repeat' split) <;> (first | (simp [memF_fold, *]; done) | (simp_all [memF_fold]; done))

@[simp] theorem resultPhase_wf (c : Nat) (x : Ctx) (a : Anneal) (da : Nat) (s : State) (h : spWf zeroByte (memF s) = true) : spWf zeroByte (memF (resultPhase c x a da s)) = true := by
  unfold resultPhase; dsimp only; (repeat' split) <;> (first | (simp [memF_fold, *]; done) | (simp_all [memF_fold]; done))

@[simp] theorem groupReads_wf (c : Nat) (rs : List (Nat × Nat × Nat)) (s : State) (h : spWf zeroByte (memF s) = true) : spWf zeroByte (memF (groupReads c rs s).2) = true := by
  unfold groupReads; simp +contextual [*, memF_fold, foldl_wf, foldl2_wf, foldl3_wf, foldlS_wf, foldlM_wf]

@[simp] theorem redWrite_wf (c : Nat) (ps : List (Nat × RedOp × Cursor × Nat)) (b : List Byte) (sat : Bool) (s : State) (h : spWf zeroByte (memF s) = true) : spWf zeroByte (memF (redWrite c ps b sat s)) = true := by
  unfold redWrite; simp +contextual [*, memF_fold, foldl_wf, foldl2_wf, foldl3_wf, foldlS_wf, foldlM_wf]

@[simp] theorem redGroup_wf (c : Nat) (x : Ctx) (o : RedOp) (es : List Nat) (s : State) (h : spWf zeroByte (memF s) = true) : spWf zeroByte (memF (redGroup c x o es s)) = true := by
  unfold redGroup; dsimp only; (repeat' split) <;> (first | (simp [memF_fold, *]; done) | (simp_all [memF_fold]; done) | (apply foldl_wf <;> (first | (simp [memF_fold, *]; done) | (intro s a hs; (repeat' split) <;> (first | (simp [memF_fold, *]; done) | (simp_all [memF_fold]; done))))))

@[simp] theorem bcastWrite_wf (c : Nat) (ps : List (Nat × BcastOp × Cursor × Nat)) (root : Option Nat) (b : List Byte) (s : State) (h : spWf zeroByte (memF s) = true) : spWf zeroByte (memF (bcastWrite c ps root b s)) = true := by
  unfold bcastWrite; apply foldl_wf _ _ _ h; intro s p hs; rw [advance_mem]; split
  · exact hs
  · exact memWrite_wf _ _ _ hs

@[simp] theorem bcastGroup_wf (c : Nat) (x : Ctx) (o : BcastOp) (es : List Nat) (s : State) (h : spWf zeroByte (memF s) = true) : spWf zeroByte (memF (bcastGroup c x o es s)) = true := by
  have hr := fun q => groupReads_wf c q s h
  have hf := fun q (f : State → Nat → State) (l : List Nat) (hf : ∀ s q, memF (f s q) = memF s) =>
    foldl_wf f l (groupReads c q s).2 (hr q) (fun s a hs => by rw [hf]; exact hs)
  unfold bcastGroup; dsimp only
  (repeat' split) <;> first
    | exact h
    | exact hr _
    | (rw [waitAt_mem]; exact h)
    | (rw [groupAdvance_mem]; exact h)
    | (apply bcastWrite_wf; rw [countSent_mem]; exact hr _)
    | (apply bcastWrite_wf; rw [countSent_mem, waitAt_mem, dropRun_mem]; exact h)
    | (apply bcastWrite_wf; rw [countSent_mem]; exact hf _ _ _ (fun s q => sendRun_mem _ _ _ _ _ _ s))

@[simp] theorem lengthsDiffer_wf (c : Nat) (u : Cursor) (o : LrecvOp) (num : Nat) (s : State) (h : spWf zeroByte (memF s) = true) : spWf zeroByte (memF (lengthsDiffer c u o num s)) = true := by
  simp [memF_fold, lengthsDiffer, h]

@[simp] theorem takeFrame_wf (c e : Nat) (m : MdRun) (o : LrecvOp) (base a n : Nat) (r : Bool × State) (j : Nat) (h : spWf zeroByte (memF r.2) = true) : spWf zeroByte (memF (takeFrame c e m o base a n r j).2) = true := by
  unfold takeFrame; dsimp only
  have hr : ∀ f, spWf zeroByte (memF (engReads c e [(f, 65536)] r.2).2) = true := fun f => engReads_wf _ _ _ _ h
  split
  · exact h
  · split
    · exact hr _
    · rw [setSent_mem]; apply memWrite_wf; rw [dropFrame_mem]; exact hr _

@[simp] theorem lrecvFrames_wf (c : Nat) (x : Ctx) (u : Cursor) (i : Nat) (o : LrecvOp) (s : State) (h : spWf zeroByte (memF s) = true) : spWf zeroByte (memF (lrecvFrames c x u i o s)) = true := by
  unfold lrecvFrames
  split
  · exact h
  · dsimp only
    split
    · exact h
    · split
      · exact lengthsDiffer_wf _ _ _ _ _ h
      · have hr : ∀ m base a n (l : List Nat), spWf zeroByte (memF (l.foldl (takeFrame c u.eng m o base a n) (true, s)).2) = true :=
          fun m base a n l => foldl2_wf _ l (true, s) h (fun r j hr => takeFrame_wf _ _ _ _ _ _ _ _ _ hr)
        split
        · rw [lrecvFrames.lrecvOver_mem]; exact hr _ _ _ _ _
        · exact hr _ _ _ _ _

@[simp] theorem issueCert_wf (c : Nat) (x : Ctx) (da : Nat) (s : State) (h : spWf zeroByte (memF s) = true) : spWf zeroByte (memF (issueCert c x da s)) = true := by
  unfold issueCert; dsimp only; (repeat' split) <;> (first | (simp [memF_fold, *]; done) | (simp_all [memF_fold]; done))

@[simp] theorem grant_wf (c : Nat) (s : State) (h : spWf zeroByte (memF s) = true) : spWf zeroByte (memF (grant c s)) = true := by
  unfold grant; (repeat' split) <;> (first | (simp [memF_fold, *]; done) | (simp_all [memF_fold]; done))

@[simp] theorem takeStart_wf (c p : Nat) (b : StartBody) (s : State) (h : spWf zeroByte (memF s) = true) : spWf zeroByte (memF (takeStart c p b s)) = true := by
  unfold takeStart; dsimp only; (repeat' split) <;> (first | (simp [memF_fold, *]; done) | (simp_all [memF_fold]; done))

@[simp] theorem takeEarly_wf (c : Nat) (s : State) (h : spWf zeroByte (memF s) = true) : spWf zeroByte (memF (takeEarly c s)) = true := by
  unfold takeEarly; dsimp only; (repeat' split) <;> (first | (simp [memF_fold, *]; done) | (simp_all [memF_fold]; done) | (apply foldl_wf <;> (first | (simp [memF_fold, *]; done) | (intro s a hs; (repeat' split) <;> (first | (simp [memF_fold, *]; done) | (simp_all [memF_fold]; done))))))

@[simp] theorem sendStarts_wf (c : Nat) (s : State) (h : spWf zeroByte (memF s) = true) : spWf zeroByte (memF (sendStarts c s)) = true := by
  unfold sendStarts; dsimp only; (repeat' split) <;> (first | (simp +contextual [*, memF_fold, foldl_wf, foldl2_wf, foldl3_wf, foldlS_wf, foldlM_wf]; done))

@[simp] theorem offerPackage_wf (c : Nat) (s : State) (h : spWf zeroByte (memF s) = true) : spWf zeroByte (memF (offerPackage c s)) = true := by
  unfold offerPackage; (repeat' split) <;> (first | (simp +contextual [*, memF_fold, foldl_wf, foldl2_wf, foldl3_wf, foldlS_wf]; done) | (simp_all +contextual [memF_fold, foldl_wf, foldl2_wf, foldl3_wf, foldlS_wf]; done))

@[simp] theorem startMulti_wf (c : Nat) (s : State) (h : spWf zeroByte (memF s) = true) : spWf zeroByte (memF (startMulti c s)) = true := by
  unfold startMulti; dsimp only; (repeat' split) <;> (first | (simp [memF_fold, *]; done) | (simp_all [memF_fold]; done))

@[simp] theorem inputGet_wf (x : Ctx) (dev : Bool) (a n i : Nat) (rs : List Cpl) (s : State) (h : spWf zeroByte (memF s) = true) : spWf zeroByte (memF (inputGet x dev a n i rs s).2) = true := by
  unfold inputGet; dsimp only; (repeat' split) <;> (first | (simp [memF_fold, *]; done) | (simp_all [memF_fold]; done))

@[simp] theorem moveInput_wf (x : Ctx) (i : Nat) (e : Input) (rs ds : List Cpl) (s : State) (h : spWf zeroByte (memF s) = true) : spWf zeroByte (memF (moveInput x i e rs ds s).2) = true := by
  unfold moveInput; dsimp only
  have hr := inputGet_wf x e.srcDev e.src e.len i rs s h
  generalize inputGet x e.srcDev e.src e.len i rs s = r at hr ⊢
  split
  · exact hr
  · have hm := memWrite_wf e.dst
    split
    · exact hm _ _ hr
    · split <;> exact inputGet_wf _ _ _ _ _ _ _ (hm _ _ hr)

@[simp] theorem moveInputs_wf (x : Ctx) (is : List (Nat × Input)) (rs ds : List (List Cpl)) (s : State) (h : spWf zeroByte (memF s) = true) :
    spWf zeroByte (memF (moveInputs x is rs ds s).2) = true := by
  induction is generalizing rs ds s with
  | nil => simp [memF_fold, moveInputs, h]
  | cons i is ih => unfold moveInputs; dsimp only; (repeat' split) <;> simp [memF_fold, ih, h]

@[simp] theorem feed_wf (c : Nat) (s : State) (h : spWf zeroByte (memF s) = true) : spWf zeroByte (memF (feed c s)) = true := by
  unfold feed; dsimp only; (repeat' split) <;> (first | (simp [memF_fold, *]; done) | (simp_all [memF_fold]; done))

@[simp] theorem takeSeed_wf (c : Nat) (s : State) (h : spWf zeroByte (memF s) = true) : spWf zeroByte (memF (takeSeed c s)) = true := by
  simp [memF_fold, takeSeed, h]

@[simp] theorem seedAndFeed_wf (c : Nat) (s : State) (h : spWf zeroByte (memF s) = true) : spWf zeroByte (memF (seedAndFeed c s)) = true := by
  unfold seedAndFeed; (repeat' split) <;> (first | (simp [memF_fold, *]; done) | (simp_all [memF_fold]; done))

@[simp] theorem inputsDone_wf (c : Nat) (bs : List (List Byte × List Byte)) (s : State) (h : spWf zeroByte (memF s) = true) : spWf zeroByte (memF (inputsDone c bs s)) = true := by
  unfold inputsDone; dsimp only; (repeat' split) <;> (first | (simp [memF_fold, *]; done) | (simp_all [memF_fold]; done))

@[simp] theorem inputsMoved_wf (c : Nat) (rs ds : List (List Cpl)) (s : State) (h : spWf zeroByte (memF s) = true) : spWf zeroByte (memF (inputsMoved c rs ds s)) = true := by
  unfold inputsMoved; dsimp only; (repeat' split) <;> (first | (simp [memF_fold, *]; done) | (simp_all [memF_fold]; done))

@[simp] theorem moveCells_wf (src dst n : Nat) (s : State) (h : spWf zeroByte (memF s) = true) : spWf zeroByte (memF (moveCells src dst n s)) = true := by
  unfold moveCells; rw [armRun_mem, memF_mk]
  exact foldlM_wf _ _ _ (spClear_wf _ _ _ _ h) (fun m e hm => spSet_wf _ _ _ _ hm)

@[simp] theorem accOut_wf (e a n dst : Nat) (s : State) (h : spWf zeroByte (memF s) = true) : spWf zeroByte (memF (accOut e a n dst s)) = true := by
  unfold accOut; rw [armRun_mem, memF_mk]
  exact foldlM_wf _ _ _ (spClear_wf _ _ _ _ h) (fun m e hm => spWrite_wf _ _ _ hm)

@[simp] theorem spillEngine_wf (x : Ctx) (slot e : Nat) (s : State) (h : spWf zeroByte (memF s) = true) : spWf zeroByte (memF (spillEngine x slot e s)) = true := by
  unfold spillEngine; dsimp only
  apply writeCanon_wf
  apply foldl_wf
  · exact foldl_wf _ _ _ h (fun s r hs => moveCells_wf _ _ _ _ hs)
  · intro s r hs; exact accOut_wf _ _ _ _ _ hs

@[simp] theorem spillCheck_wf (x : Ctx) (e : Nat) (s : State) (h : spWf zeroByte (memF s) = true) : spWf zeroByte (memF (spillCheck x e s).2) = true := by
  unfold spillCheck; dsimp only; (repeat' split) <;> (first | (simp [memF_fold, *]; done) | (simp_all [memF_fold]; done))

@[simp] theorem spillChecks_wf (c : Nat) (x : Ctx) (es : List Nat) (s : State) (h : spWf zeroByte (memF s) = true) : spWf zeroByte (memF (spillChecks c x es s).2) = true := by
  unfold spillChecks; apply foldl2_wf _ _ (true, s) h; intro s e hs; split
  · exact spillCheck_wf _ _ _ hs
  · exact hs

@[simp] theorem spill_wf (c : Nat) (s : State) (h : spWf zeroByte (memF s) = true) : spWf zeroByte (memF (spill c s)) = true := by
  unfold spill; dsimp only
  cases ctxOf s c with
  | none => exact h
  | some x =>
    dsimp only
    cases ha : x.anneal with
    | none =>
      dsimp only
      have h1 := spillChecks_wf c x (ctxEngines s x) s h
      generalize spillChecks c x (ctxEngines s x) s = r at h1 ⊢
      split
      · exact h1
      · rw [updCtx_mem]; exact foldl_wf _ _ _ h1 (fun s e hs => spillEngine_wf _ _ _ _ hs)
    | some a =>
      dsimp only
      have h1 := spillChecks_wf c x (ctxEngines s x) _ (fieldReads_wf c a.prob ((ctxEngines s x).filter fun e => decide (e < eUse a.prob.segCount a.prob.engReq)) s h)
      generalize spillChecks c x (ctxEngines s x) _ = r at h1 ⊢
      split
      · exact h1
      · rw [updCtx_mem]; exact foldl_wf _ _ _ h1 (fun s e hs => spillEngine_wf _ _ _ _ hs)

@[simp] theorem fillEngine_wf (x : Ctx) (k e : Nat) (s : State) (h : spWf zeroByte (memF s) = true) : spWf zeroByte (memF (fillEngine x k e s)) = true := by
  unfold fillEngine; dsimp only; rw [armRun_mem, memF_mk]
  show spWf zeroByte (memF _) = true
  apply foldl_wf
  · apply foldl_wf
    · apply foldl_wf _ _ _ h; intro s r hs; rw [memF_mk]; exact moveCells_wf _ _ _ _ hs
    · intro s r hs; rw [armRun_mem, memF_mk]; exact foldlM_wf _ _ _ (spClear_wf _ _ _ _ hs) (fun m e hm => spSet_wf _ _ _ _ hm)
  · intro s r hs; rw [accBack_mem]; exact hs

@[simp] theorem fillReads_wf (c : Nat) (x : Ctx) (k : Nat) (es : List Nat) (s : State) (h : spWf zeroByte (memF s) = true) : spWf zeroByte (memF (fillReads c x k es s).2) = true := by
  unfold fillReads; apply foldl2_wf _ _ (none, s) h; intro s e hs; dsimp only; exact wordReads_wf _ _ _ hs

@[simp] theorem fillBack_wf (c : Nat) (s : State) (h : spWf zeroByte (memF s) = true) : spWf zeroByte (memF (fillBack c s)) = true := by
  unfold fillBack; dsimp only
  split
  · exact h
  · have hr := fillReads_wf c (by assumption) ((by assumption : Ctx).swSlot.getD 0) (ctxEngines s (by assumption)) s h
    split
    · exact endWith_wf _ _ _ hr
    · rw [updCtx_mem]; exact foldl_wf _ _ _ hr (fun s e hs => fillEngine_wf _ _ _ _ hs)

@[simp] theorem resume_wf (c : Nat) (s : State) (h : spWf zeroByte (memF s) = true) : spWf zeroByte (memF (resume c s)) = true := by
  unfold resume; (repeat' split) <;> (first | (simp [memF_fold, *]; done) | (simp_all [memF_fold]; done))

@[simp] theorem cqHeadWrite_wf (q v : Nat) (s : State) (h : spWf zeroByte (memF s) = true) : spWf zeroByte (memF (cqHeadWrite q v s)) = true := by
  simp [memF_fold, cqHeadWrite, h]

@[simp] theorem rearm_wf (q : Nat) (s : State) (h : spWf zeroByte (memF s) = true) : spWf zeroByte (memF (rearm q s)) = true := by
  unfold rearm; (repeat' split) <;> (first | (simp [memF_fold, *]; done) | (simp_all [memF_fold]; done))

@[simp] theorem beginMaint_wf (drain : Bool) (s : State) (h : spWf zeroByte (memF s) = true) : spWf zeroByte (memF (beginMaint drain s)) = true := by
  unfold beginMaint; dsimp only; (repeat' split) <;> (first | (simp [memF_fold, *]; done) | (simp_all [memF_fold]; done))

@[simp] theorem request_wf (service drain : Bool) (s : State) (h : spWf zeroByte (memF s) = true) : spWf zeroByte (memF (request service drain s)) = true := by
  unfold request; (repeat' split) <;> (first | (simp [memF_fold, *]; done) | (simp_all [memF_fold]; done))

@[simp] theorem stateReqWrite_wf (v : Nat) (s : State) (h : spWf zeroByte (memF s) = true) : spWf zeroByte (memF (stateReqWrite v s)) = true := by
  simp [memF_fold, stateReqWrite, h]

@[simp] theorem applyHeld_wf (s : State) (h : spWf zeroByte (memF s) = true) : spWf zeroByte (memF (applyHeld s)) = true := by
  unfold applyHeld; (repeat' split) <;> (first | (simp [memF_fold, *]; done) | (simp_all [memF_fold]; done))

@[simp] theorem enterService_wf (s : State) (h : spWf zeroByte (memF s) = true) : spWf zeroByte (memF (enterService s)) = true := by
  simp [memF_fold, enterService, h]

@[simp] theorem releaseArgs_wf (x : Ctx) (rs : List Cpl) (s : State) (h : spWf zeroByte (memF s) = true) : spWf zeroByte (memF (releaseArgs x rs s).2) = true := by
  unfold releaseArgs; dsimp only; (repeat' split) <;> (first | (simp [memF_fold, *]; done) | (simp_all [memF_fold]; done))

@[simp] theorem registerEntry_wf (c : Nat) (rs : List Cpl) (s : State) (h : spWf zeroByte (memF s) = true) : spWf zeroByte (memF (registerEntry c rs s)) = true := by
  unfold registerEntry; dsimp only; (repeat' split) <;> (first | (simp [memF_fold, *]; done) | (simp_all [memF_fold]; done))

@[simp] theorem deregisterEntry_wf (c : Nat) (s : State) (h : spWf zeroByte (memF s) = true) : spWf zeroByte (memF (deregisterEntry c s)) = true := by
  unfold deregisterEntry; (repeat' split) <;> (first | (simp [memF_fold, *]; done) | (simp_all [memF_fold]; done))

@[simp] theorem startRelease_wf (q : Nat) (p : BellProg) (j : Nat) (s : State) (h : spWf zeroByte (memF s) = true) : spWf zeroByte (memF (startRelease q p j s)) = true := by
  unfold startRelease; dsimp only; (repeat' split) <;> (first | (simp [memF_fold, *]; done) | (simp_all [memF_fold]; done))

@[simp] theorem auditReload_wf (j : AuditJob) (w : Nat) (hh : Option (Nat × Nat)) (s : State) (h : spWf zeroByte (memF s) = true) : spWf zeroByte (memF (auditReload j w hh s).2) = true := by
  cases hh with
  | none => exact h
  | some e => unfold auditReload; dsimp only; split
              · exact h
              · rw [jobCorrected_mem]; apply reloadUnit_wf; rw [jobRec_mem, bump_mem]; exact h

@[simp] theorem auditWord_wf (j : AuditJob) (w : Nat) (s : State) (h : spWf zeroByte (memF s) = true) : spWf zeroByte (memF (auditWord j w s).2) = true := by
  unfold auditWord; dsimp only
  have hr := noteRead_wf 3 w s h
  split
  · exact hr
  · simpa [memF_fold] using hr
  · exact auditReload_wf _ _ _ _ hr

@[simp] theorem auditReads_wf (j : AuditJob) (n : Nat) (s : State) (h : spWf zeroByte (memF s) = true) : spWf zeroByte (memF (auditReads j n s).2) = true := by
  unfold auditReads; dsimp only
  have key : ∀ (l : List Nat), spWf zeroByte (memF (l.foldl (fun (a : Bool × State) w => (a.1 && (auditWord j w a.2).1, (auditWord j w a.2).2)) (true, s)).2) = true :=
    fun l => foldl2_wf _ l (true, s) h (fun s a hs => auditWord_wf _ _ _ hs)
  apply foldl_wf
  · apply readCheck_wf; exact key _
  · intro s a hs; simpa [memF_fold] using hs

@[simp] theorem auditOver_wf (j : AuditJob) (status : Nat) (vals : List AuditVal) (s : State) (h : spWf zeroByte (memF s) = true) : spWf zeroByte (memF (auditOver j status vals s)) = true := by
  unfold auditOver; dsimp only; (repeat' split) <;> (first | (simp [memF_fold, *]; done) | (simp_all [memF_fold]; done))

@[simp] theorem auditUnreadable_wf (j : AuditJob) (s : State) (h : spWf zeroByte (memF s) = true) : spWf zeroByte (memF (auditUnreadable j s)) = true := by
  unfold auditUnreadable; dsimp only; (repeat' split) <;> (first | (simp [memF_fold, *]; done) | (simp_all [memF_fold]; done))

@[simp] theorem passOver_wf (j : AuditJob) (es : List TopEntry) (v : List Int) (s : State) (h : spWf zeroByte (memF s) = true) : spWf zeroByte (memF (passOver j es v s)) = true := by
  unfold passOver; dsimp only; (repeat' split) <;> (first | (simp [memF_fold, *]; done) | (simp_all [memF_fold]; done))

@[simp] theorem auditStep_wf (d1 d2 : Int) (s : State) (h : spWf zeroByte (memF s) = true) : spWf zeroByte (memF (auditStep d1 d2 s)) = true := by
  unfold auditStep; dsimp only; (repeat' split) <;> (first | (simp [memF_fold, *]; done) | (simp_all [memF_fold]; done))

@[simp] theorem auditSteps_wf (d1 d2 : Int) (s : State) (h : spWf zeroByte (memF s) = true) : spWf zeroByte (memF (auditSteps d1 d2 s)) = true := by
  unfold auditSteps; exact iter_wf _ _ _ h (fun k s hs => auditStep_wf _ _ s hs)

@[simp] theorem ringRdWrite_wf (v : Nat) (s : State) (h : spWf zeroByte (memF s) = true) : spWf zeroByte (memF (ringRdWrite v s)) = true := by
  simp [memF_fold, ringRdWrite, h]

theorem fromPeer_wf (runId p : Nat) (f : Nat → State → State) (hf : ∀ c s, spWf zeroByte (memF s) = true → spWf zeroByte (memF (f c s)) = true) (s : State) (h : spWf zeroByte (memF s) = true) : spWf zeroByte (memF (fromPeer runId p f s)) = true := by
  unfold fromPeer; (repeat' split) <;> simp [memF_fold, h, hf]

@[simp] theorem startArrives_wf (src : Nat) (b : StartBody) (s : State) (h : spWf zeroByte (memF s) = true) : spWf zeroByte (memF (startArrives src b s)) = true := by
  unfold startArrives; (repeat' split) <;> (first | (simp [memF_fold, *]; done) | (simp_all [memF_fold]; done))

@[simp] theorem runLost_wf (c d : Nat) (s : State) (h : spWf zeroByte (memF s) = true) : spWf zeroByte (memF (runLost c d s)) = true := by
  unfold runLost; dsimp only; (repeat' split) <;> first | (simp [memF_fold, h]; done) | (exact disrupt_wf _ _ _ _ (by assumption) h)

@[simp] theorem failRun_wf (c d : Nat) (s : State) (h : spWf zeroByte (memF s) = true) : spWf zeroByte (memF (failRun c d s)) = true := by
  unfold failRun; (repeat' split) <;> (first | (simp +contextual [*, memF_fold, foldl_wf, foldl2_wf, foldl3_wf, foldlS_wf, foldlM_wf]; done))

@[simp] theorem noticeLost_wf (c d : Nat) (s : State) (h : spWf zeroByte (memF s) = true) : spWf zeroByte (memF (noticeLost c d s)) = true := by
  unfold noticeLost; (repeat' split) <;> (first | (simp [memF_fold, *]; done) | (simp_all [memF_fold]; done))

@[simp] theorem peerMissed_wf (c p : Nat) (s : State) (h : spWf zeroByte (memF s) = true) : spWf zeroByte (memF (peerMissed c p s)) = true := by
  unfold peerMissed; (repeat' split) <;> (first | (simp +contextual [*, memF_fold, foldl_wf, foldl2_wf, foldl3_wf, foldlS_wf, foldlM_wf]; done))

@[simp] theorem collectEnd_wf (c : Nat) (s : State) (h : spWf zeroByte (memF s) = true) : spWf zeroByte (memF (collectEnd c s)) = true := by
  unfold collectEnd; dsimp only; (repeat' split) <;> first
    | exact h
    | exact failRun_wf _ _ _ h
    | (rw [foldl_mem]
       · simp [memF_fold, h]
       · intro s a; simp)

@[simp] theorem clearEngine_wf (x : Ctx) (s : State) (e : Nat) (h : spWf zeroByte (memF s) = true) : spWf zeroByte (memF (clearEngine x s e)) = true := by
  unfold clearEngine; dsimp only; rw [memF_mk]
  show spWf zeroByte (memF _) = true
  apply foldl_wf
  · apply foldl_wf _ _ _ h; intro s r hs; rw [memF_mk]; exact spClear_wf _ _ _ _ hs
  · intro s r hs; exact hs

@[simp] theorem startAgain_wf (c : Nat) (x : Ctx) (s : State) (h : spWf zeroByte (memF s) = true) : spWf zeroByte (memF (startAgain c x s)) = true := by
  unfold startAgain; simp +contextual [*, memF_fold, foldl_wf, foldl2_wf, foldl3_wf, foldlS_wf, foldlM_wf]

@[simp] theorem takeFailover_wf (c d sp k : Nat) (s : State) (h : spWf zeroByte (memF s) = true) : spWf zeroByte (memF (takeFailover c d sp k s)) = true := by
  unfold takeFailover; (repeat' split) <;> (first | (simp [memF_fold, *]; done) | (simp_all [memF_fold]; done))

@[simp] theorem failoverArrives_wf (c d sp k : Nat) (s : State) (h : spWf zeroByte (memF s) = true) : spWf zeroByte (memF (failoverArrives c d sp k s)) = true := by
  unfold failoverArrives; (repeat' split) <;> (first | (simp [memF_fold, *]; done) | (simp_all [memF_fold]; done))

@[simp] theorem tryFailover_wf (c : Nat) (s : State) (h : spWf zeroByte (memF s) = true) : spWf zeroByte (memF (tryFailover c s)) = true := by
  unfold tryFailover; dsimp only; (repeat' split) <;> (first | (simp +contextual [*, memF_fold, foldl_wf, foldl2_wf, foldl3_wf, foldlS_wf, foldlM_wf]; done))

@[simp] theorem claimAnswer_wf (c src runId d sp : Nat) (s : State) (h : spWf zeroByte (memF s) = true) : spWf zeroByte (memF (claimAnswer c src runId d sp s)) = true := by
  unfold claimAnswer; split
  · exact failRun_wf _ _ _ h
  · exact tryFailover_wf _ _ (by simp [memF_fold, h])

@[simp] theorem failoverNotice_wf (src runId d sp k : Nat) (s : State) (h : spWf zeroByte (memF s) = true) : spWf zeroByte (memF (failoverNotice src runId d sp k s)) = true := by
  unfold failoverNotice; (repeat' split) <;> (first | (simp [memF_fold, *]; done) | (simp_all [memF_fold]; done))

@[simp] theorem sendShare_wf (dst dev runId k : Nat) (s : State) (h : spWf zeroByte (memF s) = true) : spWf zeroByte (memF (sendShare dst dev runId k s)) = true := by
  unfold sendShare; (repeat' split) <;> (first | (simp +contextual [*, memF_fold, foldl_wf, foldl2_wf, foldl3_wf, foldlS_wf, foldlM_wf]; done))

@[simp] theorem sendMirrorTo_wf (c n : Nat) (s : State) (h : spWf zeroByte (memF s) = true) : spWf zeroByte (memF (sendMirrorTo c n s)) = true := by
  have hk : ∀ (l : List Ckpt) r d (t : State), spWf zeroByte (memF t) = true →
      spWf zeroByte (memF (l.foldl (fun s k => sendPieces r d mkCkpt k.num (encCkpt k) s) t)) = true :=
    fun l r d t ht => foldl_wf _ _ _ ht (fun s k hs => by rw [sendPieces_mem]; exact hs)
  unfold sendMirrorTo
  split
  · exact h
  · split
    · exact h
    · dsimp only; split
      · exact h
      · split
        · rw [sendPieces_mem, sendOffer_mem]; exact h
        · rename_i a _
          have hr := engReads_wf c 0 [(a.prob.imageAddr, a.prob.imageLen)] s h
          split
          · exact hr
          · split
            · rw [sendOffer_mem]; exact hr
            · apply hk; rw [sendPieces_mem, sendPieces_mem, sendOffer_mem]; exact hr

@[simp] theorem sendAgain_wf (src run old : Nat) (all : Bool) (s : State) (h : spWf zeroByte (memF s) = true) : spWf zeroByte (memF (sendAgain src run old all s)) = true := by
  have h0 : spWf zeroByte (memF (if (all && !(s.net.spares.any fun e => decide (e.1 = src))) = true then
      updNet (fun n => { n with spares := (src, old) :: n.spares }) s else s)) = true := by
    split
    · rw [updNet_mem]; exact h
    · exact h
  unfold sendAgain; dsimp only
  generalize (if (all && !(s.net.spares.any fun e => decide (e.1 = src))) = true then
      updNet (fun n => { n with spares := (src, old) :: n.spares }) s else s) = t at h0 ⊢
  have h1 : ∀ (l : List Ctx), spWf zeroByte (memF (l.foldl (fun s x => sendMirrorTo x.id src s) t)) = true :=
    fun l => foldl_wf _ _ _ h0 (fun s x hs => sendMirrorTo_wf _ _ _ hs)
  split
  · rw [sendMsg_mem]; exact h1 _
  · exact h1 _

@[simp] theorem bulkMessage_wf (i : InMsg) (s : State) (h : spWf zeroByte (memF s) = true) : spWf zeroByte (memF (bulkMessage i s).2) = true := by
  unfold bulkMessage; dsimp only; (repeat' split) <;> (first | (simp [memF_fold, *]; done) | (simp_all [memF_fold]; done))

@[simp] theorem spareRun_wf (c : Nat) (x : Ctx) (o : PloadOp) (k : Ckpt) (q : Prob) (s : State) (h : spWf zeroByte (memF s) = true) : spWf zeroByte (memF (spareRun c x o k q s)) = true := by
  unfold spareRun; apply restoreRun_wf; rw [updCtx_mem]; exact foldl_wf _ _ _ h (fun s e hs => placeEngine_wf _ _ _ hs)

@[simp] theorem spareImage_wf (k : Claim) (o : PloadOp) (s : State) (h : spWf zeroByte (memF s) = true) : spWf zeroByte (memF (spareImage k o s)) = true := by
  simp [memF_fold, spareImage, h]

theorem spareLoaded_wf (c : Nat) (k : Claim) (p : Package) (x : Ctx) (o : PloadOp) (r : Except Loc Prob) (s t : State)
    (ht : spareLoaded c k p x o r s = some t) (h : spWf zeroByte (memF s) = true) : spWf zeroByte (memF t) = true := by
  cases r with
  | error l => simp [spareLoaded] at ht
  | ok q =>
    unfold spareLoaded at ht
    dsimp only at ht
    split at ht
    · simp at ht
    · injection ht with ht; rw [← ht]; exact spareRun_wf _ _ _ _ _ _ h

theorem spareTake_wf (c : Nat) (k : Claim) (p : Package) (o : PloadOp) (s t : State)
    (ht : spareTake c k p o s = some t) (h : spWf zeroByte (memF s) = true) : spWf zeroByte (memF t) = true := by
  unfold spareTake at ht
  cases hc : ctxOf s c with
  | none => rw [hc] at ht; simp at ht
  | some x => rw [hc] at ht; exact spareLoaded_wf _ _ _ _ _ _ _ _ ht h

theorem spareLoad_wf (c : Nat) (k : Claim) (p : Package) (s t : State) (ht : spareLoad c k p s = some t)
    (h : spWf zeroByte (memF s) = true) : spWf zeroByte (memF t) = true := by
  unfold spareLoad at ht
  split at ht
  · cases ht
  · exact spareTake_wf _ _ _ _ _ _ ht (spareImage_wf _ _ _ h)

@[simp] theorem startRebuild_wf (k : Claim) (s : State) (h : spWf zeroByte (memF s) = true) : spWf zeroByte (memF (startRebuild k s)) = true := by
  unfold startRebuild; (repeat' split) <;> (first | (simp +contextual [*, memF_fold, foldl_wf, foldl2_wf, foldl3_wf, foldlS_wf]; done) | (simp_all +contextual [memF_fold, foldl_wf, foldl2_wf, foldl3_wf, foldlS_wf]; done))

@[simp] theorem spareInstall_wf (c : Nat) (k : Claim) (s : State) (h : spWf zeroByte (memF s) = true) : spWf zeroByte (memF (spareInstall c k s)) = true := by
  unfold spareInstall; dsimp only
  cases freeProgram s with
  | none => dsimp only; rw [spareRefuses_mem]; exact h
  | some i =>
    dsimp only
    have h1 : ∀ ms, spWf zeroByte (memF ({ s with progs := s.progs ++ [⟨i, (claimPackage s k).image, treeDigest (claimPackage s k).image, false, ms⟩] } : State)) = true := fun _ => h
    have hp := placeRanges_wf (claimPackage s k).ranges _ (placeConstants_wf (claimPackage s k).image (masterPlaces s (claimPackage s k).image) _ (h1 (masterPlaces s (claimPackage s k).image)))
    generalize placeRanges _ _ = s1 at hp ⊢
    have h2 : ∀ l n, spWf zeroByte (memF ({ s1 with ctxs := l, order := n } : State)) = true := fun _ _ => hp
    generalize hq : (if imgMode (claimPackage s k).image = 3 then some _ else spareLoad _ _ _ _) = r
    have hr : ∀ t, r = some t → spWf zeroByte (memF t) = true := by
      intro t ht
      rw [← hq] at ht
      split at ht
      · injection ht with ht; rw [← ht]; exact h2 _ _
      · exact spareLoad_wf _ _ _ _ _ ht (h2 _ _)
    split
    · rw [spareRefuses_mem]; exact h
    · cases r with
      | none => dsimp only; rw [spareRefuses_mem]; exact h
      | some t => dsimp only; apply sendStarts_wf; rw [spareCleared_mem]; exact startRebuild_wf _ _ (hr t rfl)

@[simp] theorem survivorRestore_wf (c : Nat) (s : State) (h : spWf zeroByte (memF s) = true) : spWf zeroByte (memF (survivorRestore c s)) = true := by
  unfold survivorRestore
  (repeat' split) <;> first
    | exact h
    | (apply sendStarts_wf; rw [clearDelivered_mem, clearFrames_mem]; exact h)
    | exact runLost_wf _ _ _ h
    | (apply sendStarts_wf; exact restoreRun_wf _ _ _ h)

@[simp] theorem claimUnsent_wf (o : OutMsg) (s : State) (h : spWf zeroByte (memF s) = true) : spWf zeroByte (memF (claimUnsent o s)) = true := by
  unfold claimUnsent; (repeat' split) <;> (first | (simp [memF_fold, *]; done) | (simp_all [memF_fold]; done))

@[simp] theorem resendMsg_wf (o : OutMsg) (s : State) (h : spWf zeroByte (memF s) = true) : spWf zeroByte (memF (resendMsg o s)) = true := by
  have key : ∀ u, memF u = memF s → ∀ fs : List QFlit, spWf zeroByte (memF (recRuns o.dst 6 (fs.foldl (fun s f => routeFlit f none s) u))) = true := by
    intro u hu fs; rw [recRuns_mem, foldl_mem]
    · rw [hu]; exact h
    · intro s a; simp
  unfold resendMsg; dsimp only; split
  · exact key _ (by simp) _
  · apply claimUnsent_wf; (repeat' split) <;> simp [memF_fold, h]

@[simp] theorem peerLength_wf (c : Nat) (s : State) (h : spWf zeroByte (memF s) = true) : spWf zeroByte (memF (peerLength c s)) = true := by
  simp [memF_fold, peerLength, h]

@[simp] theorem runMessage_wf (c : Nat) (i : InMsg) (s : State) (h : spWf zeroByte (memF s) = true) : spWf zeroByte (memF (runMessage c i s)) = true := by
  unfold runMessage; dsimp only; (repeat' split) <;> (first | (simp [memF_fold, *]; done) | (simp_all [memF_fold]; done))

theorem orElse_wf (q : Bool × State) (t : State) (hq : spWf zeroByte (memF q.2) = true) (ht : spWf zeroByte (memF t) = true) :
    spWf zeroByte (memF (if q.1 then q.2 else t)) = true := by split <;> assumption

@[simp] theorem deliverMsg_wf (i : InMsg) (s : State) (h : spWf zeroByte (memF s) = true) : spWf zeroByte (memF (deliverMsg i s)) = true := by
  have hb : ∀ s, spWf zeroByte (memF s) = true → spWf zeroByte (memF (if i.cls = 3 then bulkMessage i s else (false, s)).2) = true := by
    intro s hs; split
    · exact bulkMessage_wf _ _ hs
    · exact hs
  unfold deliverMsg; dsimp only
  split
  · split
    · rw [lateMessage_mem]; exact h
    · rw [keepMsg_mem]; apply memWrite_wf; rw [frameHeard_mem]; exact h
    · rw [frameHeard_mem]; exact h
  · split
    · rw [lateMessage_mem]; exact h
    · split
      · exact h
      · split
        · apply fromPeer_wf _ _ _ ?_ _ h; intro c s hs
          exact orElse_wf _ _ (hb s hs) (runMessage_wf _ _ _ hs)
        · apply orElse_wf _ _ (hb s h)
          · split
            · exact runMessage_wf _ _ _ h
            · rw [keepMsg_mem]; exact h

@[simp] theorem dataArrives_wf (f : QFlit) (s : State) (h : spWf zeroByte (memF s) = true) : spWf zeroByte (memF (dataArrives f s)) = true := by
  unfold dataArrives; dsimp only; (repeat' split) <;> (first | (simp [memF_fold, *]; done) | (simp_all [memF_fold]; done))

@[simp] theorem ctrlMessage_wf (src : Nat) (d : List Byte) (s : State) (h : spWf zeroByte (memF s) = true) : spWf zeroByte (memF (ctrlMessage src d s)) = true := by
  unfold ctrlMessage; dsimp only
  (repeat' split) <;> first
    | exact h
    | (rw [lateMessage_mem]; exact h)
    | exact startArrives_wf _ _ _ h
    | (rw [claimArrives_mem]; exact h)
    | (apply failoverNotice_wf; rw [frameHeard_mem]; exact h)
    | (apply fromPeer_wf _ _ _ ?_ _ h; intro c s hs; first | exact hs | (rw [updMd_mem]; exact hs) | exact noticeLost_wf _ _ _ hs)

@[simp] theorem ctrlArrives_wf (f : QFlit) (s : State) (h : spWf zeroByte (memF s) = true) : spWf zeroByte (memF (ctrlArrives f s)) = true := by
  unfold ctrlArrives; dsimp only; (repeat' split) <;> (first | (simp [memF_fold, *]; done) | (simp_all [memF_fold]; done))

@[simp] theorem takeData_wf (l : Nat) (f : QFlit) (s : State) (h : spWf zeroByte (memF s) = true) : spWf zeroByte (memF (takeData l f s)) = true := by
  unfold takeData; (repeat' split) <;> (first | (simp [memF_fold, *]; done) | (simp_all [memF_fold]; done))

@[simp] theorem takeHeld_wf (l : Nat) (s : State) (h : spWf zeroByte (memF s) = true) : spWf zeroByte (memF (takeHeld l s)) = true := by
  unfold takeHeld; simp +contextual [*, memF_fold, foldl_wf, foldl2_wf, foldl3_wf, foldlS_wf, foldlM_wf]

@[simp] theorem flitAccepted_wf (l : Nat) (f0 : QFlit) (s : State) (h : spWf zeroByte (memF s) = true) : spWf zeroByte (memF (flitAccepted l f0 s)) = true := by
  unfold flitAccepted; dsimp only; (repeat' split) <;> (first | (simp [memF_fold, *]; done) | (simp_all [memF_fold]; done))

@[simp] theorem takeSeq_wf (l seq : Nat) (f : QFlit) (s : State) (h : spWf zeroByte (memF s) = true) : spWf zeroByte (memF (takeSeq l seq f s)) = true := by
  unfold takeSeq; dsimp only; (repeat' split) <;> (first | (simp [memF_fold, *]; done) | (simp_all [memF_fold]; done))

@[simp] theorem flitArrives_wf (l : Nat) (b : List Byte) (s : State) (h : spWf zeroByte (memF s) = true) : spWf zeroByte (memF (flitArrives l b s)) = true := by
  unfold flitArrives; dsimp only; (repeat' split) <;> (first | (simp [memF_fold, *]; done) | (simp_all [memF_fold]; done))

@[simp] theorem receive_wf (l : Nat) (b : Option (List Byte)) (s : State) (h : spWf zeroByte (memF s) = true) : spWf zeroByte (memF (receive l b s)) = true := by
  unfold receive; (repeat' split) <;> (first | (simp [memF_fold, *]; done) | (simp_all [memF_fold]; done))

@[simp] theorem takeFlit_wf (l : Nat) (s : State) (h : spWf zeroByte (memF s) = true) : spWf zeroByte (memF (takeFlit l s)) = true := by
  simp [memF_fold, takeFlit, h]

@[simp] theorem coldReset_wf (ph : BootPhase) (s : State) (h : spWf zeroByte (memF s) = true) : spWf zeroByte (memF (coldReset ph s)) = true := by
  rfl

@[simp] theorem holdReset_wf (s : State) (h : spWf zeroByte (memF s) = true) : spWf zeroByte (memF (holdReset s)) = true := by
  simp [memF_fold, holdReset, h]

@[simp] theorem startUp_wf (kat : Nat) (s : State) (h : spWf zeroByte (memF s) = true) : spWf zeroByte (memF (startUp kat s)) = true := by
  unfold startUp; dsimp only; (repeat' split) <;> (first | (simp [memF_fold, *]; done) | (simp_all [memF_fold]; done))

@[simp] theorem railBad_wf (rail : Nat) (s : State) (h : spWf zeroByte (memF s) = true) : spWf zeroByte (memF (railBad rail s)) = true := by
  unfold railBad; (repeat' split) <;> (first | (simp +contextual [*, memF_fold, foldl_wf, foldl2_wf, foldl3_wf, foldlS_wf]; done) | (simp_all +contextual [memF_fold, foldl_wf, foldl2_wf, foldl3_wf, foldlS_wf]; done))

@[simp] theorem bootInstalled_wf (b : List Byte) (s : State) (h : spWf zeroByte (memF s) = true) : spWf zeroByte (memF (bootInstalled b s)) = true := by
  unfold bootInstalled; simp [memF_fold, h]

@[simp] theorem installImage_wf (b : List Byte) (s : State) (h : spWf zeroByte (memF s) = true) : spWf zeroByte (memF (installImage b s)) = true := by
  unfold installImage; dsimp only; split <;> simp [memF_fold, h]

@[simp] theorem recoveryWrite_wf (v : Nat) (s : State) (h : spWf zeroByte (memF s) = true) : spWf zeroByte (memF (recoveryWrite v s)) = true := by
  unfold recoveryWrite; dsimp only; (repeat' split) <;> (first | (simp [memF_fold, *]; done) | (simp_all [memF_fold]; done))

@[simp] theorem warmBase_wf (s : State) (h : spWf zeroByte (memF s) = true) : spWf zeroByte (memF (warmBase s)) = true := by
  simp [memF_fold, warmBase, h]

@[simp] theorem warmReset_wf (warm : Bool) (s : State) (h : spWf zeroByte (memF s) = true) : spWf zeroByte (memF (warmReset warm s)) = true := by
  simp [memF_fold, warmReset, h]

@[simp] theorem warmRanked_wf (s : State) (h : spWf zeroByte (memF s) = true) : spWf zeroByte (memF (warmRanked s)) = true := by
  unfold warmRanked; dsimp only; (repeat' split) <;> (first | (simp [memF_fold, *]; done) | (simp_all [memF_fold]; done))

@[simp] theorem keyBytes_wf (a n : Nat) (s : State) (h : spWf zeroByte (memF s) = true) : spWf zeroByte (memF (keyBytes a n s).2) = true := by
  unfold keyBytes; dsimp only; (repeat' split) <;> (first | (simp [memF_fold, *]; done) | (simp_all [memF_fold]; done))

@[simp] theorem lcToken_wf (n : Nat) (s : State) (h : spWf zeroByte (memF s) = true) : spWf zeroByte (memF (lcToken n s).2) = true := by
  unfold lcToken
  by_cases hn : n = 3
  · rw [if_pos hn, tokenRead_snd]; exact keyBytes_wf _ _ _ h
  · rw [if_neg hn]; exact h

@[simp] theorem lcReset_wf (s : State) (h : spWf zeroByte (memF s) = true) : spWf zeroByte (memF (lcReset s)) = true := by
  unfold lcReset; simp [memF_fold, h]

@[simp] theorem lcMove_wf (n : Nat) (s : State) (h : spWf zeroByte (memF s) = true) : spWf zeroByte (memF (lcMove n s)) = true := by
  unfold lcMove; dsimp only; split <;> simp [memF_fold, h]

@[simp] theorem lcReq_wf (v : Nat) (s : State) (h : spWf zeroByte (memF s) = true) : spWf zeroByte (memF (lcReq v s)) = true := by
  unfold lcReq; dsimp only; (repeat' split) <;> simp [memF_fold, h]

@[simp] theorem tamperDrain_wf (s : State) (h : spWf zeroByte (memF s) = true) : spWf zeroByte (memF (tamperDrain s)) = true := by
  unfold tamperDrain; (repeat' split) <;> (first | (simp +contextual [*, memF_fold, foldl_wf, foldl2_wf, foldl3_wf, foldlS_wf]; done) | (simp_all +contextual [memF_fold, foldl_wf, foldl2_wf, foldl3_wf, foldlS_wf]; done))

@[simp] theorem tamperStop_wf (s : State) (h : spWf zeroByte (memF s) = true) : spWf zeroByte (memF (tamperStop s)) = true := by
  simp [memF_fold, tamperStop, h]

@[simp] theorem tamper_wf (src : Nat) (s : State) (h : spWf zeroByte (memF s) = true) : spWf zeroByte (memF (tamper src s)) = true := by
  unfold tamper; dsimp only; (repeat' split) <;> (first | (simp [memF_fold, *]; done) | (simp_all [memF_fold]; done))

@[simp] theorem keyWritten_wf (slot i : Nat) (e k : List Byte) (s : State) (h : spWf zeroByte (memF s) = true) :
    spWf zeroByte (memF (keyWritten slot i e k s)) = true := by
  unfold keyWritten; simp [memF_fold, h]

@[simp] theorem writeKey_wf (slot : Nat) (kek k : List Byte) (s : State) (h : spWf zeroByte (memF s) = true) : spWf zeroByte (memF (writeKey slot kek k s)) = true := by
  unfold writeKey; dsimp only; split <;> simp [memF_fold, h]

@[simp] theorem provisionWith_wf (slot : Nat) (r : Option (List Byte) × State) (h : spWf zeroByte (memF r.2) = true) : spWf zeroByte (memF (provisionWith slot r)) = true := by
  unfold provisionWith; split <;> simp [memF_fold, h]

@[simp] theorem provision_wf (slot : Nat) (s : State) (h : spWf zeroByte (memF s) = true) : spWf zeroByte (memF (provision slot s)) = true := by
  unfold provision; exact provisionWith_wf _ _ (keyBytes_wf _ _ _ h)

@[simp] theorem provWrite_wf (v : Nat) (s : State) (h : spWf zeroByte (memF s) = true) : spWf zeroByte (memF (provWrite v s)) = true := by
  unfold provWrite; (repeat' split) <;> (first | (simp [memF_fold, *]; done) | (simp_all [memF_fold]; done))

@[simp] theorem serveReq_wf (s : State) (r : EntReq) (h : spWf zeroByte (memF s) = true) : spWf zeroByte (memF (serveReq s r)) = true := by
  unfold serveReq; (repeat' split) <;> (first | (simp [memF_fold, *]; done) | (simp_all [memF_fold]; done))

@[simp] theorem serveWaiting_wf (i : Nat) (s : State) (h : spWf zeroByte (memF s) = true) : spWf zeroByte (memF (serveWaiting i s)) = true := by
  unfold serveWaiting; dsimp only; (repeat' split) <;> (first | (simp [memF_fold, *]; done) | (simp_all [memF_fold]; done) | (apply foldl_wf <;> (first | (simp [memF_fold, *]; done) | (intro s a hs; (repeat' split) <;> (first | (simp [memF_fold, *]; done) | (simp_all [memF_fold]; done))))))

@[simp] theorem giveBlock_wf (b : List Byte) (s : State) (h : spWf zeroByte (memF s) = true) : spWf zeroByte (memF (giveBlock b s)) = true := by
  unfold giveBlock; dsimp only; (repeat' split) <;> (first | (simp [memF_fold, *]; done) | (simp_all [memF_fold]; done))

@[simp] theorem reqClient_wf (r : EntReq) (s : State) (h : spWf zeroByte (memF s) = true) : spWf zeroByte (memF (reqClient r s)) = true := by
  unfold reqClient; (repeat' split) <;> (first | (simp [memF_fold, *]; done) | (simp_all [memF_fold]; done))

@[simp] theorem reqTimeout_wf (k : Nat) (r : EntReq) (s : State) (h : spWf zeroByte (memF s) = true) : spWf zeroByte (memF (reqTimeout k r s)) = true := by
  unfold reqTimeout; dsimp only; (repeat' split) <;> (first | (simp [memF_fold, *]; done) | (simp_all [memF_fold]; done))

@[simp] theorem drawBootId_wf (s : State) (h : spWf zeroByte (memF s) = true) : spWf zeroByte (memF (drawBootId s)) = true := by
  simp [memF_fold, drawBootId, h]

@[simp] theorem scrubRecover_wf (x : Ctx) (e w : Nat) (s : State) (h : spWf zeroByte (memF s) = true) : spWf zeroByte (memF (scrubRecover x e w s)) = true := by
  unfold scrubRecover; (repeat' split) <;> (first | (simp [memF_fold, *]; done) | (simp_all [memF_fold]; done))

@[simp] theorem scrubBad_wf (w : Nat) (s : State) (h : spWf zeroByte (memF s) = true) : spWf zeroByte (memF (scrubBad w s)) = true := by
  unfold scrubBad; simp +contextual [*, memF_fold, foldl_wf, foldl2_wf, foldl3_wf, foldlS_wf, foldlM_wf]

@[simp] theorem scrubWord_wf (k w : Nat) (s : State) (h : spWf zeroByte (memF s) = true) : spWf zeroByte (memF (scrubWord k w s)) = true := by
  unfold scrubWord; dsimp only; (repeat' split) <;> (first | (simp [memF_fold, *]; done) | (simp_all [memF_fold]; done))

@[simp] theorem scrubNext_wf (k : Nat) (s : State) (h : spWf zeroByte (memF s) = true) : spWf zeroByte (memF (scrubNext k s)) = true := by
  unfold scrubNext; dsimp only; (repeat' split) <;> (first | (simp [memF_fold, *]; done) | (simp_all [memF_fold]; done))

@[simp] theorem queHook_wf (page : Nat) (t : Txn) (rej : Bool) (s : State) (h : spWf zeroByte (memF s) = true) : spWf zeroByte (memF (queHook page t rej s)) = true := by
  simp [memF_fold, queHook, h]

@[simp] theorem applyHook_wf (page : Nat) (t : Txn) (s0 s : State) (h : spWf zeroByte (memF s) = true) : spWf zeroByte (memF (applyHook page t s0 s)) = true := by
  unfold applyHook; (repeat' split) <;> (first | (simp [memF_fold, *]; done) | (simp_all [memF_fold]; done))

@[simp] theorem applyTxn_wf (page : Nat) (s : State) (h : spWf zeroByte (memF s) = true) : spWf zeroByte (memF (applyTxn page s)) = true := by
  simp [memF_fold, applyTxn, h]

@[simp] theorem settleTxn_wf (page : Nat) (s : State) (h : spWf zeroByte (memF s) = true) : spWf zeroByte (memF (settleTxn page s)) = true := by
  unfold settleTxn; dsimp only; (repeat' split) <;> (first | (simp [memF_fold, *]; done) | (simp_all [memF_fold]; done))

@[simp] theorem pendingSafe_wf (page : Nat) (t : Txn) (s : State) (h : spWf zeroByte (memF s) = true) : spWf zeroByte (memF (pendingSafe page t s)) = true := by
  unfold pendingSafe; (repeat' split) <;> (first | (simp +contextual [*, memF_fold, foldl_wf, foldl2_wf, foldl3_wf, foldlS_wf]; done) | (simp_all +contextual [memF_fold, foldl_wf, foldl2_wf, foldl3_wf, foldlS_wf]; done))

@[simp] theorem reachSafe_wf (page : Nat) (s : State) (h : spWf zeroByte (memF s) = true) : spWf zeroByte (memF (reachSafe page s)) = true := by
  unfold reachSafe; dsimp only; (repeat' split) <;> (first | (simp [memF_fold, *]; done) | (simp_all [memF_fold]; done))

@[simp] theorem txnCommit_wf (a : Agent) (page : Nat) (s : State) (h : spWf zeroByte (memF s) = true) : spWf zeroByte (memF (txnCommit a page s)) = true := by
  unfold txnCommit; dsimp only; (repeat' split) <;> (first | (simp [memF_fold, *]; done) | (simp_all [memF_fold]; done))

@[simp] theorem txnCommand_wf (a : Agent) (page cmd : Nat) (s : State) (h : spWf zeroByte (memF s) = true) : spWf zeroByte (memF (txnCommand a page cmd s)) = true := by
  unfold txnCommand; (repeat' split) <;> (first | (simp [memF_fold, *]; done) | (simp_all [memF_fold]; done))

@[simp] theorem rwtPut_wf (a : Agent) (page off v : Nat) (s : State) (h : spWf zeroByte (memF s) = true) : spWf zeroByte (memF (rwtPut a page off v s)) = true := by
  unfold rwtPut; dsimp only; (repeat' split) <;> (first | (simp [memF_fold, *]; done) | (simp_all [memF_fold]; done))

@[simp] theorem grpApply_wf (s : State) (h : spWf zeroByte (memF s) = true) : spWf zeroByte (memF (grpApply s)) = true := by
  unfold grpApply; simp +contextual [*, memF_fold, foldl_wf, foldl2_wf, foldl3_wf, foldlS_wf, foldlM_wf]

@[simp] theorem atSafe_wf (page : Nat) (s : State) (h : spWf zeroByte (memF s) = true) : spWf zeroByte (memF (atSafe page s)) = true := by
  unfold atSafe; (repeat' split) <;> (first | (simp [memF_fold, *]; done) | (simp_all [memF_fold]; done))

theorem guarded_wf (a : Agent) (page : Nat) (f : State → State) (hf : ∀ s, spWf zeroByte (memF s) = true → spWf zeroByte (memF (f s)) = true) (s : State) (h : spWf zeroByte (memF s) = true) : spWf zeroByte (memF (guarded a page f s)) = true := by
  unfold guarded; (repeat' split) <;> simp [memF_fold, h, hf]

@[simp] theorem queCtrl_wf (q v : Nat) (s : State) (h : spWf zeroByte (memF s) = true) : spWf zeroByte (memF (queCtrl q v s)) = true := by
  unfold queCtrl; dsimp only; (repeat' split) <;> (first | (simp [memF_fold, *]; done) | (simp_all [memF_fold]; done))

@[simp] theorem ctrlWrite_wf (page v : Nat) (s : State) (h : spWf zeroByte (memF s) = true) : spWf zeroByte (memF (ctrlWrite page v s)) = true := by
  unfold ctrlWrite; dsimp only; (repeat' split) <;> (first | (simp [memF_fold, *]; done) | (simp_all [memF_fold]; done))

@[simp] theorem calStore_wf (s : State) (h : spWf zeroByte (memF s) = true) : spWf zeroByte (memF (calStore s)) = true := by
  simp [memF_fold, calStore, h]

@[simp] theorem calOut_wf (b : List Byte) (s : State) (h : spWf zeroByte (memF s) = true) : spWf zeroByte (memF (calOut b s)) = true := by
  unfold calOut; dsimp only; (repeat' split) <;> (first | (simp [memF_fold, *]; done) | (simp_all [memF_fold]; done))

@[simp] theorem calCommand_wf (cmd : Nat) (lm links : List Byte) (s : State) (h : spWf zeroByte (memF s) = true) : spWf zeroByte (memF (calCommand cmd lm links s)) = true := by
  unfold calCommand; (repeat' split) <;> (first | (simp [memF_fold, *]; done) | (simp_all [memF_fold]; done))

@[simp] theorem calWrite_wf (v : Nat) (s : State) (h : spWf zeroByte (memF s) = true) : spWf zeroByte (memF (calWrite v s)) = true := by
  simp [memF_fold, calWrite, h]

@[simp] theorem semOpWrite_wf (v : Nat) (s : State) (h : spWf zeroByte (memF s) = true) : spWf zeroByte (memF (semOpWrite v s)) = true := by
  simp [memF_fold, semOpWrite, h]

theorem memPageWrite_wf (page base o v : Nat) (s t : State) (ht : memPageWrite page base o v s = some t) (h : spWf zeroByte (memF s) = true) :
    spWf zeroByte (memF t) = true := by
  unfold memPageWrite at ht
  repeat' split at ht
  all_goals first | (injection ht with ht; subst ht; simp [memF_fold, h]; done) | simp at ht

theorem pick_wf (c : Prop) [Decidable c] (a t : State) (r : Option State) (ht : (if c then some a else r) = some t)
    (ha : spWf zeroByte (memF a) = true) (hr : r = some t → spWf zeroByte (memF t) = true) : spWf zeroByte (memF t) = true := by
  split at ht
  · rw [← Option.some.inj ht]; exact ha
  · exact hr ht

theorem actionWrite_wf (a : Agent) (ty : PageTy) (page o v : Nat) (s t : State) (ht : actionWrite a ty page o v s = some t)
    (h : spWf zeroByte (memF s) = true) : spWf zeroByte (memF t) = true := by
  unfold actionWrite at ht
  cases ty <;> dsimp only at ht
  case eng => exact memPageWrite_wf _ _ _ _ _ _ ht h
  case bm => exact memPageWrite_wf _ _ _ _ _ _ ht h
  case lm => exact memPageWrite_wf _ _ _ _ _ _ ht h
  case txn => exact pick_wf _ _ _ _ ht (by rw [grpCommand_mem]; exact h) (fun e => by cases e)
  case cfe => exact pick_wf _ _ _ _ ht (stateReqWrite_wf _ _ h) (fun e => pick_wf _ _ _ _ e (abortWrite_wf _ _ h) (fun e => by cases e))
  case que => exact pick_wf _ _ _ _ ht (by rw [tailWrite_mem]; exact h) (fun e => pick_wf _ _ _ _ e (cqHeadWrite_wf _ _ _ h) (fun e => by cases e))
  case sync => exact pick_wf _ _ _ _ ht (semOpWrite_wf _ _ h) (fun e => by cases e)
  case cert => exact pick_wf _ _ _ _ ht (ringRdWrite_wf _ _ h) (fun e => by cases e)
  case power => exact pick_wf _ _ _ _ ht (by rw [setReg_mem]; exact h) (fun e => by cases e)
  case cal => exact pick_wf _ _ _ _ ht (calWrite_wf _ _ h) (fun e => by cases e)
  case sec => exact pick_wf _ _ _ _ ht (lcReq_wf _ _ h) (fun e => pick_wf _ _ _ _ e (ite_wf _ _ _ (by rw [setReg_mem]; exact h) h)
      (fun e => pick_wf _ _ _ _ e (by rw [revokeWrite_mem]; exact h) (fun e => pick_wf _ _ _ _ e (by rw [svnWrite_mem]; exact h) (fun e => by cases e))))
  case key => exact pick_wf _ _ _ _ ht (provWrite_wf _ _ h) (fun e => pick_wf _ _ _ _ e (by rw [attPlain_mem]; exact h) (fun e => by cases e))
  case entropy => exact pick_wf _ _ _ _ ht (by rw [hReqWrite_mem]; exact h) (fun e => pick_wf _ _ _ _ e (by rw [patternWrite_mem]; exact h) (fun e => by cases e))
  case boot => exact pick_wf _ _ _ _ ht (recoveryWrite_wf _ _ h) (fun e => by cases e)
  all_goals cases ht

@[simp] theorem ownWrite_wf (a : Agent) (t : PageTy) (page o v : Nat) (s : State) (h : spWf zeroByte (memF s) = true) : spWf zeroByte (memF (ownWrite a t page o v s)) = true := by
  unfold ownWrite; (repeat' split) <;> first | exact h | (simp [memF_fold, h]; done) | exact actionWrite_wf _ _ _ _ _ _ _ (by assumption) h

@[simp] theorem txnCtrl_wf (a : Agent) (page v : Nat) (s : State) (h : spWf zeroByte (memF s) = true) : spWf zeroByte (memF (txnCtrl a page v s)) = true := by
  unfold txnCtrl; (repeat' split) <;> (first | (simp [memF_fold, *]; done) | (simp_all [memF_fold]; done))

@[simp] theorem headWrite_wf (a : Agent) (page o v : Nat) (s : State) (h : spWf zeroByte (memF s) = true) : spWf zeroByte (memF (headWrite a page o v s)) = true := by
  unfold headWrite; (repeat' split) <;> (first | (simp [memF_fold, *]; done) | (simp_all [memF_fold]; done))

@[simp] theorem barWrite_wf (a : Agent) (off v : Nat) (s : State) (h : spWf zeroByte (memF s) = true) : spWf zeroByte (memF (barWrite a off v s)) = true := by
  have hg : spWf zeroByte (memF (guarded a (pageOf off) (fun s => if regOf off < 0x040 then headWrite a (pageOf off) (regOf off) v s
      else ownWrite a (tyOf (pageOf off)) (pageOf off) (regOf off) v s) s)) = true := by
    apply guarded_wf _ _ _ ?_ _ h; intro s hs; split
    · exact headWrite_wf _ _ _ _ _ hs
    · exact ownWrite_wf _ _ _ _ _ _ hs
  unfold barWrite; dsimp only; rw [touched_mem]; exact hg

@[simp] theorem bar2Get_wf (a n : Nat) (s : State) (h : spWf zeroByte (memF s) = true) : spWf zeroByte (memF (bar2Get a n s)) = true := by
  simp [memF_fold, bar2Get, h]

@[simp] theorem recoveryGet_wf (o n : Nat) (s : State) (h : spWf zeroByte (memF s) = true) : spWf zeroByte (memF (recoveryGet o n s)) = true := by
  simp [memF_fold, recoveryGet, h]

@[simp] theorem bar2Read_wf (o n : Nat) (s : State) (h : spWf zeroByte (memF s) = true) : spWf zeroByte (memF (bar2Read o n s)) = true := by
  unfold bar2Read; (repeat' split) <;> (first | (simp [memF_fold, *]; done) | (simp_all [memF_fold]; done))

theorem putBytes_wf (bs : List (Nat × Byte)) (m : Sparse Byte) (h : spWf zeroByte m = true) : spWf zeroByte (putBytes bs m) = true := by
  unfold putBytes; exact foldlM_wf _ _ _ h (fun m e hm => spSet_wf _ _ _ _ hm)

theorem partRead_wf (b : Bool) (w : Nat) (s : State) (h : spWf zeroByte (memF s) = true) :
    spWf zeroByte (memF (if b then (RdClass.clean, s) else noteRead 2 w s).2) = true := by
  cases b
  · exact noteRead_wf _ _ _ h
  · exact h

@[simp] theorem writeSome_wf (bs : List (Nat × Byte)) (s : State) (w : Nat) (h : spWf zeroByte (memF s) = true) : spWf zeroByte (memF (writeSome bs s w)) = true := by
  unfold writeSome; dsimp only
  have h0 : spWf zeroByte (memF (noteWritten w (wordLen w) s)) = true := by simpa [memF_fold] using h
  generalize noteWritten w (wordLen w) s = s0 at h0 ⊢
  split
  · rw [wroteWord_mem, memF_mk]; exact putBytes_wf _ _ h0
  · have hr := partRead_wf (decide (markOf s0 w = noMark w)) w s0 h0
    simp only [decide_eq_true_eq] at hr
    generalize (if markOf s0 w = noMark w then (RdClass.clean, s0) else noteRead 2 w s0) = r at hr ⊢
    have hb : spWf zeroByte (memF (bump (ctlOf s0 w).1 ((ctlOf s0 w).2.1 + 0x09C) r.2)) = true := by rw [bump_mem]; exact hr
    generalize bump (ctlOf s0 w).1 ((ctlOf s0 w).2.1 + 0x09C) r.2 = q at hb ⊢
    split
    · rw [wroteWord_mem, memF_mk]; exact putBytes_wf _ _ hb
    · rw [wroteWord_mem, memF_mk]; exact putBytes_wf _ _ hb
    · rw [poisonWord_mem, memF_mk]; exact putBytes_wf _ _ (spWrite_wf _ _ _ hb)

@[simp] theorem bar2Put_wf (a : Nat) (d : List (Option Byte)) (s : State) (h : spWf zeroByte (memF s) = true) : spWf zeroByte (memF (bar2Put a d s)) = true := by
  unfold bar2Put; simp +contextual [*, memF_fold, foldl_wf, foldl2_wf, foldl3_wf, foldlS_wf, foldlM_wf]

@[simp] theorem bar2Write_wf (o : Nat) (d : List (Option Byte)) (s : State) (h : spWf zeroByte (memF s) = true) : spWf zeroByte (memF (bar2Write o d s)) = true := by
  unfold bar2Write; (repeat' split) <;> (first | (simp [memF_fold, *]; done) | (simp_all [memF_fold]; done))

@[simp] theorem i3cWrite_wf (off v : Nat) (s : State) (h : spWf zeroByte (memF s) = true) : spWf zeroByte (memF (i3cWrite off v s)) = true := by
  unfold i3cWrite; dsimp only; (repeat' split) <;> (first | (simp [memF_fold, *]; done) | (simp_all [memF_fold]; done))

end Sys2Proof.Machine
end

