-- ==== Sys2Proof/Laws/Ops.lean ====
section
/-!
SUPPORT. What each shared operation does, said once: registers read back, guarded commands that act, writes that reach their page.
-/
namespace Sys2Proof.Machine

/-! ## Registers -/

/-- A register of a page read after a write: the value where it is that register, else the old one. -/
theorem reg_setReg (p o q r v : Nat) (s : State) :
    reg (setReg p o v s) q r = if rk q r = rk p o then v % 2 ^ 32 else reg s q r := by
  simp only [reg, setReg, spGet_set]
  split <;> simp

/-- The register that was written. -/
theorem reg_setReg_same (p o v : Nat) (s : State) : reg (setReg p o v s) p o = v % 2 ^ 32 := by simp [reg_setReg]

/-- Another register. -/
theorem reg_setReg_other (p o q r v : Nat) (s : State) (h : rk q r ≠ rk p o) : reg (setReg p o v s) q r = reg s q r := by
  simp [reg_setReg, h]

/-- Setting a bit leaves another register alone. -/
theorem reg_setBit_other (p o i q r : Nat) (b : Bool) (s : State) (h : rk q r ≠ rk p o) :
    reg (setBit p o i b s) q r = reg s q r := reg_setReg_other _ _ _ _ _ _ h

/-- Two registers of pages with offsets below 4 KiB are one register only where page and offset agree. -/
theorem rk_inj (p q o r : Nat) (ho : o < 0x1000) (hr : r < 0x1000) (h : rk p o = rk q r) : p = q ∧ o = r := by
  unfold rk at h; omega

/-- A register's page and offset. -/
theorem pageOf_rk (p o : Nat) (h : o < 0x1000) : pageOf (rk p o) = p := by unfold pageOf rk; omega

theorem regOf_rk (p o : Nat) (h : o < 0x1000) : regOf (rk p o) = o := by unfold regOf rk; omega

/-- A counter that counts changes registers, and sends what an event it raises sends: nothing else. -/
theorem eventMessage_only (page : Nat) (b : Bool) (s : State) :
    eventMessage page b s = { s with out := (eventMessage page b s).out } := by
  unfold eventMessage msix emit; (repeat' split) <;> rfl

theorem raise_only (page bit : Nat) (s : State) :
    raise page bit s = { s with regs := (raise page bit s).regs, out := (raise page bit s).out } := by
  unfold raise raiseMask; rw [eventMessage_only]; simp only [setReg]

theorem bump_only (page off : Nat) (s : State) :
    bump page off s = { s with regs := (bump page off s).regs, out := (bump page off s).out } := by
  unfold bump bumpN; dsimp only; split
  · unfold noteSat; rw [raise_only]; simp only [setReg, setBit]
  · simp only [setReg]

@[simp] theorem bump_bells (page off : Nat) (s : State) : (bump page off s).bells = s.bells := by rw [bump_only]
@[simp] theorem bump_ctxs (page off : Nat) (s : State) : (bump page off s).ctxs = s.ctxs := by rw [bump_only]

/-- The stall watch looks at nothing that it keeps itself, so a second look at once changes nothing. -/
theorem syncTouch_twice (s : State) : syncTouch (syncTouch s) = syncTouch s := by
  have h : ∀ v, stallCond { s with stallSince := v } = stallCond s := fun _ => rfl
  unfold syncTouch trackStall; simp only [h]

/-! ## Commands that act -/

/-- A command whose unit exists and whose guard holds acts. -/
theorem act_runs (s t : State) (unit g : Bool) (hu : unit = true) (hg : g = true) : act unit g s t = .next t := by
  simp [act, hu, hg]

/-- The same for a command of the front end, whose queues then move. -/
theorem actCfe_runs (s t : State) (unit g : Bool) (hu : unit = true) (hg : g = true) : actCfe unit g s t = .next (pump t) := by
  simp [actCfe, act, hu, hg]

/-- A condition on a context that is there. -/
theorem ctxIs_of (s : State) (c : Nat) (p : Ctx → Bool) (x : Ctx) (h : ctxMeets s c p x) : ctxIs s c p = true := by
  obtain ⟨-, h2, h3⟩ := h
  simp [ctxIs, h2, h3]

/-- A command on a context that meets its condition. -/
theorem ctxMeets_runs (s s0 : State) (c : Nat) (p : Ctx → Bool) (x : Ctx) (t : State) (h : ctxMeets s0 c p x) :
    actCfe (decide (c < 4096)) (ctxIs s0 c p) s t = .next (pump t) :=
  actCfe_runs _ _ _ _ (by simpa using h.1) (ctxIs_of _ _ _ _ h)

/-- An instruction that stands at its engine runs. -/
theorem standsAt_runs (s : State) (x : EngRef) (op : EngOp) (c : Ctx) (u : Cursor) (f : Ctx → Cursor → Nat → State → State)
    (h : standsAt s x op c u) : engAct x op s f = .next (pump (f c u (curIdx s c x.eng) s)) := by
  obtain ⟨h1, h2, h3, h4⟩ := h
  simp [engAct, actCfe, act, h1, ctxIs, h2, h4, engRun, h3]

/-- A collective that every participant stands at runs. -/
theorem allStandAt_runs (s : State) (c : Nat) (op : EngOp) (x : Ctx) (f : Ctx → State → State) (h : allStandAt s c op x) :
    collAct c op s f = .next (pump (f x s)) := by
  obtain ⟨h1, h2, h3⟩ := h
  simp [collAct, actCfe, act, h1, ctxIs, h2, h3]

/-- A collective of a loaded problem runs. -/
theorem annealsAt_runs (s : State) (c : Nat) (op : EngOp) (x : Ctx) (a : Anneal) (f : Ctx → Anneal → State → State)
    (h : annealsAt s c op x a) : runAct c op s f = .next (pump (f x a s)) := by
  obtain ⟨h1, h2⟩ := h
  simp [runAct, allStandAt_runs _ _ _ _ _ h1, h2]

/-! ## Register writes -/

/-- A guarded effect on a page that the agent may write. -/
theorem guarded_runs (a : Agent) (page : Nat) (f : State → State) (s : State) (h : accepts s a page) : guarded a page f s = f s := by
  obtain ⟨-, h2, h3, h4⟩ := h
  have : (pageAt page).isNone = false := by cases e : pageAt page <;> simp_all
  simp [guarded, this, h3, h4]

/-- A page that is not the SYNC page has no stall watch. -/
@[simp] theorem touched_other (a : Agent) (page : Nat) (s : State) (h : tyOf page ≠ .sync) : touched a page s = s := by
  simp [touched, h]

/-- The stall watch keeps every register. -/
@[simp] theorem reg_touched (a : Agent) (page : Nat) (s : State) (q o : Nat) : reg (touched a page s) q o = reg s q o := by
  unfold touched; split <;> rfl

theorem guardBy_runs (a : Agent) (page : Nat) (f : State → State) (s : State) (h : accepts s a page) :
    guardBy true a page f s = .next (touched a page (f s)) := by
  simp [guardBy, act, h.1, guarded_runs a page f s h]

/-- A write that reaches a register of a page's own. -/
theorem writeBy_own (a : Agent) (page o v : Nat) (s : State) (h : accepts s a page) (h1 : o < 0x1000) (h2 : 0x040 ≤ o) :
    writeBy true a page o v s = .next (touched a page (ownWrite a (tyOf page) page o v s)) := by
  simp [writeBy, act, h.1, barWrite, pageOf_rk _ _ h1, regOf_rk _ _ h1, guarded_runs a page _ s h, Nat.not_lt.2 h2]

/-- A write that reaches a register of the common header. -/
theorem writeBy_head (a : Agent) (page o v : Nat) (s : State) (h : accepts s a page) (h1 : o < 0x040) :
    writeBy true a page o v s = .next (touched a page (headWrite a page o v s)) := by
  simp [writeBy, act, h.1, barWrite, pageOf_rk page o (by omega), regOf_rk page o (by omega), guarded_runs a page _ s h, h1]

/-- The pages of the six queues. -/
theorem tyOf_que (q : Nat) (h : q < 6) : tyOf (pgQue q) = .que := by
  have : ∀ q : Fin 6, tyOf (pgQue q.1) = .que := by decide
  exact this ⟨q, h⟩

theorem instOf_que (q : Nat) (h : q < 6) : instOf (pgQue q) = q := by
  have : ∀ q : Fin 6, instOf (pgQue q.1) = q.1 := by decide
  exact this ⟨q, h⟩

end Sys2Proof.Machine
end

