-- ==== Sys2Proof/Laws/State.lean ====
section
/-!
SUPPORT. What each update of the state does to each field: the field it sets, and that it leaves every other.
-/
namespace Sys2Proof.Machine

/-! ## emit -/

@[simp] theorem pending_emit (o : BusOut) (s : State) : (emit o s).pending = s.pending := rfl
@[simp] theorem now_emit (o : BusOut) (s : State) : (emit o s).now = s.now := rfl
@[simp] theorem nowFrac_emit (o : BusOut) (s : State) : (emit o s).nowFrac = s.nowFrac := rfl
@[simp] theorem free_emit (o : BusOut) (s : State) : (emit o s).free = s.free := rfl
@[simp] theorem out_emit (o : BusOut) (s : State) : (emit o s).out = o :: s.out := rfl
@[simp] theorem regs_emit (o : BusOut) (s : State) : (emit o s).regs = s.regs := rfl
@[simp] theorem wide_emit (o : BusOut) (s : State) : (emit o s).wide = s.wide := rfl
@[simp] theorem txns_emit (o : BusOut) (s : State) : (emit o s).txns = s.txns := rfl
@[simp] theorem group_emit (o : BusOut) (s : State) : (emit o s).group = s.group := rfl
@[simp] theorem mem_emit (o : BusOut) (s : State) : (emit o s).mem = s.mem := rfl
@[simp] theorem acc_emit (o : BusOut) (s : State) : (emit o s).acc = s.acc := rfl
@[simp] theorem slots_emit (o : BusOut) (s : State) : (emit o s).slots = s.slots := rfl
@[simp] theorem tiles_emit (o : BusOut) (s : State) : (emit o s).tiles = s.tiles := rfl
@[simp] theorem partials_emit (o : BusOut) (s : State) : (emit o s).partials = s.partials := rfl
@[simp] theorem marks_emit (o : BusOut) (s : State) : (emit o s).marks = s.marks := rfl
@[simp] theorem written_emit (o : BusOut) (s : State) : (emit o s).written = s.written := rfl
@[simp] theorem logs_emit (o : BusOut) (s : State) : (emit o s).logs = s.logs := rfl
@[simp] theorem scrubs_emit (o : BusOut) (s : State) : (emit o s).scrubs = s.scrubs := rfl
@[simp] theorem scrubHits_emit (o : BusOut) (s : State) : (emit o s).scrubHits = s.scrubHits := rfl
@[simp] theorem tileSt_emit (o : BusOut) (s : State) : (emit o s).tileSt = s.tileSt := rfl
@[simp] theorem substs_emit (o : BusOut) (s : State) : (emit o s).substs = s.substs := rfl
@[simp] theorem failing_emit (o : BusOut) (s : State) : (emit o s).failing = s.failing := rfl
@[simp] theorem selftestDue_emit (o : BusOut) (s : State) : (emit o s).selftestDue = s.selftestDue := rfl
@[simp] theorem repairQueue_emit (o : BusOut) (s : State) : (emit o s).repairQueue = s.repairQueue := rfl
@[simp] theorem queues_emit (o : BusOut) (s : State) : (emit o s).queues = s.queues := rfl
@[simp] theorem undelivered_emit (o : BusOut) (s : State) : (emit o s).undelivered = s.undelivered := rfl
@[simp] theorem ctxs_emit (o : BusOut) (s : State) : (emit o s).ctxs = s.ctxs := rfl
@[simp] theorem order_emit (o : BusOut) (s : State) : (emit o s).order = s.order := rfl
@[simp] theorem stamp_emit (o : BusOut) (s : State) : (emit o s).stamp = s.stamp := rfl
@[simp] theorem progs_emit (o : BusOut) (s : State) : (emit o s).progs = s.progs := rfl
@[simp] theorem sems_emit (o : BusOut) (s : State) : (emit o s).sems = s.sems := rfl
@[simp] theorem stateReq_emit (o : BusOut) (s : State) : (emit o s).stateReq = s.stateReq := rfl
@[simp] theorem heldReq_emit (o : BusOut) (s : State) : (emit o s).heldReq = s.heldReq := rfl
@[simp] theorem stallSince_emit (o : BusOut) (s : State) : (emit o s).stallSince = s.stallSince := rfl
@[simp] theorem bells_emit (o : BusOut) (s : State) : (emit o s).bells = s.bells := rfl
@[simp] theorem audits_emit (o : BusOut) (s : State) : (emit o s).audits = s.audits := rfl
@[simp] theorem auditRun_emit (o : BusOut) (s : State) : (emit o s).auditRun = s.auditRun := rfl
@[simp] theorem auditStarted_emit (o : BusOut) (s : State) : (emit o s).auditStarted = s.auditStarted := rfl
@[simp] theorem cert_emit (o : BusOut) (s : State) : (emit o s).cert = s.cert := rfl
@[simp] theorem links_emit (o : BusOut) (s : State) : (emit o s).links = s.links := rfl
@[simp] theorem net_emit (o : BusOut) (s : State) : (emit o s).net = s.net := rfl
@[simp] theorem flash_emit (o : BusOut) (s : State) : (emit o s).flash = s.flash := rfl
@[simp] theorem fuses_emit (o : BusOut) (s : State) : (emit o s).fuses = s.fuses := rfl
@[simp] theorem sec_emit (o : BusOut) (s : State) : (emit o s).sec = s.sec := rfl
@[simp] theorem ent_emit (o : BusOut) (s : State) : (emit o s).ent = s.ent := rfl
@[simp] theorem power_emit (o : BusOut) (s : State) : (emit o s).power = s.power := rfl
@[simp] theorem margins_emit (o : BusOut) (s : State) : (emit o s).margins = s.margins := rfl
@[simp] theorem sensors_emit (o : BusOut) (s : State) : (emit o s).sensors = s.sensors := rfl
@[simp] theorem issueHold_emit (o : BusOut) (s : State) : (emit o s).issueHold = s.issueHold := rfl
@[simp] theorem thermTripped_emit (o : BusOut) (s : State) : (emit o s).thermTripped = s.thermTripped := rfl
@[simp] theorem boot_emit (o : BusOut) (s : State) : (emit o s).boot = s.boot := rfl
@[simp] theorem calNow_emit (o : BusOut) (s : State) : (emit o s).calNow = s.calNow := rfl
@[simp] theorem pcieUp_emit (o : BusOut) (s : State) : (emit o s).pcieUp = s.pcieUp := rfl
@[simp] theorem sysmap_emit (o : BusOut) (s : State) : (emit o s).sysmap = s.sysmap := rfl
@[simp] theorem pciCfg_emit (o : BusOut) (s : State) : (emit o s).pciCfg = s.pciCfg := rfl
@[simp] theorem i3c_emit (o : BusOut) (s : State) : (emit o s).i3c = s.i3c := rfl
@[simp] theorem ppsLast_emit (o : BusOut) (s : State) : (emit o s).ppsLast = s.ppsLast := rfl
@[simp] theorem ptmLast_emit (o : BusOut) (s : State) : (emit o s).ptmLast = s.ptmLast := rfl

/-! ## setReg -/

@[simp] theorem pending_setReg (p o v : Nat) (s : State) : (setReg p o v s).pending = s.pending := rfl
@[simp] theorem now_setReg (p o v : Nat) (s : State) : (setReg p o v s).now = s.now := rfl
@[simp] theorem nowFrac_setReg (p o v : Nat) (s : State) : (setReg p o v s).nowFrac = s.nowFrac := rfl
@[simp] theorem free_setReg (p o v : Nat) (s : State) : (setReg p o v s).free = s.free := rfl
@[simp] theorem out_setReg (p o v : Nat) (s : State) : (setReg p o v s).out = s.out := rfl
@[simp] theorem regs_setReg (p o v : Nat) (s : State) : (setReg p o v s).regs = spSet regReset (rk p o) (BitVec.ofNat 32 v) s.regs := rfl
@[simp] theorem wide_setReg (p o v : Nat) (s : State) : (setReg p o v s).wide = s.wide := rfl
@[simp] theorem txns_setReg (p o v : Nat) (s : State) : (setReg p o v s).txns = s.txns := rfl
@[simp] theorem group_setReg (p o v : Nat) (s : State) : (setReg p o v s).group = s.group := rfl
@[simp] theorem mem_setReg (p o v : Nat) (s : State) : (setReg p o v s).mem = s.mem := rfl
@[simp] theorem acc_setReg (p o v : Nat) (s : State) : (setReg p o v s).acc = s.acc := rfl
@[simp] theorem slots_setReg (p o v : Nat) (s : State) : (setReg p o v s).slots = s.slots := rfl
@[simp] theorem tiles_setReg (p o v : Nat) (s : State) : (setReg p o v s).tiles = s.tiles := rfl
@[simp] theorem partials_setReg (p o v : Nat) (s : State) : (setReg p o v s).partials = s.partials := rfl
@[simp] theorem marks_setReg (p o v : Nat) (s : State) : (setReg p o v s).marks = s.marks := rfl
@[simp] theorem written_setReg (p o v : Nat) (s : State) : (setReg p o v s).written = s.written := rfl
@[simp] theorem logs_setReg (p o v : Nat) (s : State) : (setReg p o v s).logs = s.logs := rfl
@[simp] theorem scrubs_setReg (p o v : Nat) (s : State) : (setReg p o v s).scrubs = s.scrubs := rfl
@[simp] theorem scrubHits_setReg (p o v : Nat) (s : State) : (setReg p o v s).scrubHits = s.scrubHits := rfl
@[simp] theorem tileSt_setReg (p o v : Nat) (s : State) : (setReg p o v s).tileSt = s.tileSt := rfl
@[simp] theorem substs_setReg (p o v : Nat) (s : State) : (setReg p o v s).substs = s.substs := rfl
@[simp] theorem failing_setReg (p o v : Nat) (s : State) : (setReg p o v s).failing = s.failing := rfl
@[simp] theorem selftestDue_setReg (p o v : Nat) (s : State) : (setReg p o v s).selftestDue = s.selftestDue := rfl
@[simp] theorem repairQueue_setReg (p o v : Nat) (s : State) : (setReg p o v s).repairQueue = s.repairQueue := rfl
@[simp] theorem queues_setReg (p o v : Nat) (s : State) : (setReg p o v s).queues = s.queues := rfl
@[simp] theorem undelivered_setReg (p o v : Nat) (s : State) : (setReg p o v s).undelivered = s.undelivered := rfl
@[simp] theorem ctxs_setReg (p o v : Nat) (s : State) : (setReg p o v s).ctxs = s.ctxs := rfl
@[simp] theorem order_setReg (p o v : Nat) (s : State) : (setReg p o v s).order = s.order := rfl
@[simp] theorem stamp_setReg (p o v : Nat) (s : State) : (setReg p o v s).stamp = s.stamp := rfl
@[simp] theorem progs_setReg (p o v : Nat) (s : State) : (setReg p o v s).progs = s.progs := rfl
@[simp] theorem sems_setReg (p o v : Nat) (s : State) : (setReg p o v s).sems = s.sems := rfl
@[simp] theorem stateReq_setReg (p o v : Nat) (s : State) : (setReg p o v s).stateReq = s.stateReq := rfl
@[simp] theorem heldReq_setReg (p o v : Nat) (s : State) : (setReg p o v s).heldReq = s.heldReq := rfl
@[simp] theorem stallSince_setReg (p o v : Nat) (s : State) : (setReg p o v s).stallSince = s.stallSince := rfl
@[simp] theorem bells_setReg (p o v : Nat) (s : State) : (setReg p o v s).bells = s.bells := rfl
@[simp] theorem audits_setReg (p o v : Nat) (s : State) : (setReg p o v s).audits = s.audits := rfl
@[simp] theorem auditRun_setReg (p o v : Nat) (s : State) : (setReg p o v s).auditRun = s.auditRun := rfl
@[simp] theorem auditStarted_setReg (p o v : Nat) (s : State) : (setReg p o v s).auditStarted = s.auditStarted := rfl
@[simp] theorem cert_setReg (p o v : Nat) (s : State) : (setReg p o v s).cert = s.cert := rfl
@[simp] theorem links_setReg (p o v : Nat) (s : State) : (setReg p o v s).links = s.links := rfl
@[simp] theorem net_setReg (p o v : Nat) (s : State) : (setReg p o v s).net = s.net := rfl
@[simp] theorem flash_setReg (p o v : Nat) (s : State) : (setReg p o v s).flash = s.flash := rfl
@[simp] theorem fuses_setReg (p o v : Nat) (s : State) : (setReg p o v s).fuses = s.fuses := rfl
@[simp] theorem sec_setReg (p o v : Nat) (s : State) : (setReg p o v s).sec = s.sec := rfl
@[simp] theorem ent_setReg (p o v : Nat) (s : State) : (setReg p o v s).ent = s.ent := rfl
@[simp] theorem power_setReg (p o v : Nat) (s : State) : (setReg p o v s).power = s.power := rfl
@[simp] theorem margins_setReg (p o v : Nat) (s : State) : (setReg p o v s).margins = s.margins := rfl
@[simp] theorem sensors_setReg (p o v : Nat) (s : State) : (setReg p o v s).sensors = s.sensors := rfl
@[simp] theorem issueHold_setReg (p o v : Nat) (s : State) : (setReg p o v s).issueHold = s.issueHold := rfl
@[simp] theorem thermTripped_setReg (p o v : Nat) (s : State) : (setReg p o v s).thermTripped = s.thermTripped := rfl
@[simp] theorem boot_setReg (p o v : Nat) (s : State) : (setReg p o v s).boot = s.boot := rfl
@[simp] theorem calNow_setReg (p o v : Nat) (s : State) : (setReg p o v s).calNow = s.calNow := rfl
@[simp] theorem pcieUp_setReg (p o v : Nat) (s : State) : (setReg p o v s).pcieUp = s.pcieUp := rfl
@[simp] theorem sysmap_setReg (p o v : Nat) (s : State) : (setReg p o v s).sysmap = s.sysmap := rfl
@[simp] theorem pciCfg_setReg (p o v : Nat) (s : State) : (setReg p o v s).pciCfg = s.pciCfg := rfl
@[simp] theorem i3c_setReg (p o v : Nat) (s : State) : (setReg p o v s).i3c = s.i3c := rfl
@[simp] theorem ppsLast_setReg (p o v : Nat) (s : State) : (setReg p o v s).ppsLast = s.ppsLast := rfl
@[simp] theorem ptmLast_setReg (p o v : Nat) (s : State) : (setReg p o v s).ptmLast = s.ptmLast := rfl

/-! ## setBit -/

@[simp] theorem pending_setBit (p o i : Nat) (b : Bool) (s : State) : (setBit p o i b s).pending = s.pending := rfl
@[simp] theorem now_setBit (p o i : Nat) (b : Bool) (s : State) : (setBit p o i b s).now = s.now := rfl
@[simp] theorem nowFrac_setBit (p o i : Nat) (b : Bool) (s : State) : (setBit p o i b s).nowFrac = s.nowFrac := rfl
@[simp] theorem free_setBit (p o i : Nat) (b : Bool) (s : State) : (setBit p o i b s).free = s.free := rfl
@[simp] theorem out_setBit (p o i : Nat) (b : Bool) (s : State) : (setBit p o i b s).out = s.out := rfl
@[simp] theorem wide_setBit (p o i : Nat) (b : Bool) (s : State) : (setBit p o i b s).wide = s.wide := rfl
@[simp] theorem txns_setBit (p o i : Nat) (b : Bool) (s : State) : (setBit p o i b s).txns = s.txns := rfl
@[simp] theorem group_setBit (p o i : Nat) (b : Bool) (s : State) : (setBit p o i b s).group = s.group := rfl
@[simp] theorem mem_setBit (p o i : Nat) (b : Bool) (s : State) : (setBit p o i b s).mem = s.mem := rfl
@[simp] theorem acc_setBit (p o i : Nat) (b : Bool) (s : State) : (setBit p o i b s).acc = s.acc := rfl
@[simp] theorem slots_setBit (p o i : Nat) (b : Bool) (s : State) : (setBit p o i b s).slots = s.slots := rfl
@[simp] theorem tiles_setBit (p o i : Nat) (b : Bool) (s : State) : (setBit p o i b s).tiles = s.tiles := rfl
@[simp] theorem partials_setBit (p o i : Nat) (b : Bool) (s : State) : (setBit p o i b s).partials = s.partials := rfl
@[simp] theorem marks_setBit (p o i : Nat) (b : Bool) (s : State) : (setBit p o i b s).marks = s.marks := rfl
@[simp] theorem written_setBit (p o i : Nat) (b : Bool) (s : State) : (setBit p o i b s).written = s.written := rfl
@[simp] theorem logs_setBit (p o i : Nat) (b : Bool) (s : State) : (setBit p o i b s).logs = s.logs := rfl
@[simp] theorem scrubs_setBit (p o i : Nat) (b : Bool) (s : State) : (setBit p o i b s).scrubs = s.scrubs := rfl
@[simp] theorem scrubHits_setBit (p o i : Nat) (b : Bool) (s : State) : (setBit p o i b s).scrubHits = s.scrubHits := rfl
@[simp] theorem tileSt_setBit (p o i : Nat) (b : Bool) (s : State) : (setBit p o i b s).tileSt = s.tileSt := rfl
@[simp] theorem substs_setBit (p o i : Nat) (b : Bool) (s : State) : (setBit p o i b s).substs = s.substs := rfl
@[simp] theorem failing_setBit (p o i : Nat) (b : Bool) (s : State) : (setBit p o i b s).failing = s.failing := rfl
@[simp] theorem selftestDue_setBit (p o i : Nat) (b : Bool) (s : State) : (setBit p o i b s).selftestDue = s.selftestDue := rfl
@[simp] theorem repairQueue_setBit (p o i : Nat) (b : Bool) (s : State) : (setBit p o i b s).repairQueue = s.repairQueue := rfl
@[simp] theorem queues_setBit (p o i : Nat) (b : Bool) (s : State) : (setBit p o i b s).queues = s.queues := rfl
@[simp] theorem undelivered_setBit (p o i : Nat) (b : Bool) (s : State) : (setBit p o i b s).undelivered = s.undelivered := rfl
@[simp] theorem ctxs_setBit (p o i : Nat) (b : Bool) (s : State) : (setBit p o i b s).ctxs = s.ctxs := rfl
@[simp] theorem order_setBit (p o i : Nat) (b : Bool) (s : State) : (setBit p o i b s).order = s.order := rfl
@[simp] theorem stamp_setBit (p o i : Nat) (b : Bool) (s : State) : (setBit p o i b s).stamp = s.stamp := rfl
@[simp] theorem progs_setBit (p o i : Nat) (b : Bool) (s : State) : (setBit p o i b s).progs = s.progs := rfl
@[simp] theorem sems_setBit (p o i : Nat) (b : Bool) (s : State) : (setBit p o i b s).sems = s.sems := rfl
@[simp] theorem stateReq_setBit (p o i : Nat) (b : Bool) (s : State) : (setBit p o i b s).stateReq = s.stateReq := rfl
@[simp] theorem heldReq_setBit (p o i : Nat) (b : Bool) (s : State) : (setBit p o i b s).heldReq = s.heldReq := rfl
@[simp] theorem stallSince_setBit (p o i : Nat) (b : Bool) (s : State) : (setBit p o i b s).stallSince = s.stallSince := rfl
@[simp] theorem bells_setBit (p o i : Nat) (b : Bool) (s : State) : (setBit p o i b s).bells = s.bells := rfl
@[simp] theorem audits_setBit (p o i : Nat) (b : Bool) (s : State) : (setBit p o i b s).audits = s.audits := rfl
@[simp] theorem auditRun_setBit (p o i : Nat) (b : Bool) (s : State) : (setBit p o i b s).auditRun = s.auditRun := rfl
@[simp] theorem auditStarted_setBit (p o i : Nat) (b : Bool) (s : State) : (setBit p o i b s).auditStarted = s.auditStarted := rfl
@[simp] theorem cert_setBit (p o i : Nat) (b : Bool) (s : State) : (setBit p o i b s).cert = s.cert := rfl
@[simp] theorem links_setBit (p o i : Nat) (b : Bool) (s : State) : (setBit p o i b s).links = s.links := rfl
@[simp] theorem net_setBit (p o i : Nat) (b : Bool) (s : State) : (setBit p o i b s).net = s.net := rfl
@[simp] theorem flash_setBit (p o i : Nat) (b : Bool) (s : State) : (setBit p o i b s).flash = s.flash := rfl
@[simp] theorem fuses_setBit (p o i : Nat) (b : Bool) (s : State) : (setBit p o i b s).fuses = s.fuses := rfl
@[simp] theorem sec_setBit (p o i : Nat) (b : Bool) (s : State) : (setBit p o i b s).sec = s.sec := rfl
@[simp] theorem ent_setBit (p o i : Nat) (b : Bool) (s : State) : (setBit p o i b s).ent = s.ent := rfl
@[simp] theorem power_setBit (p o i : Nat) (b : Bool) (s : State) : (setBit p o i b s).power = s.power := rfl
@[simp] theorem margins_setBit (p o i : Nat) (b : Bool) (s : State) : (setBit p o i b s).margins = s.margins := rfl
@[simp] theorem sensors_setBit (p o i : Nat) (b : Bool) (s : State) : (setBit p o i b s).sensors = s.sensors := rfl
@[simp] theorem issueHold_setBit (p o i : Nat) (b : Bool) (s : State) : (setBit p o i b s).issueHold = s.issueHold := rfl
@[simp] theorem thermTripped_setBit (p o i : Nat) (b : Bool) (s : State) : (setBit p o i b s).thermTripped = s.thermTripped := rfl
@[simp] theorem boot_setBit (p o i : Nat) (b : Bool) (s : State) : (setBit p o i b s).boot = s.boot := rfl
@[simp] theorem calNow_setBit (p o i : Nat) (b : Bool) (s : State) : (setBit p o i b s).calNow = s.calNow := rfl
@[simp] theorem pcieUp_setBit (p o i : Nat) (b : Bool) (s : State) : (setBit p o i b s).pcieUp = s.pcieUp := rfl
@[simp] theorem sysmap_setBit (p o i : Nat) (b : Bool) (s : State) : (setBit p o i b s).sysmap = s.sysmap := rfl
@[simp] theorem pciCfg_setBit (p o i : Nat) (b : Bool) (s : State) : (setBit p o i b s).pciCfg = s.pciCfg := rfl
@[simp] theorem i3c_setBit (p o i : Nat) (b : Bool) (s : State) : (setBit p o i b s).i3c = s.i3c := rfl
@[simp] theorem ppsLast_setBit (p o i : Nat) (b : Bool) (s : State) : (setBit p o i b s).ppsLast = s.ppsLast := rfl
@[simp] theorem ptmLast_setBit (p o i : Nat) (b : Bool) (s : State) : (setBit p o i b s).ptmLast = s.ptmLast := rfl

/-! ## setWide -/

@[simp] theorem pending_setWide (p o v : Nat) (s : State) : (setWide p o v s).pending = s.pending := rfl
@[simp] theorem now_setWide (p o v : Nat) (s : State) : (setWide p o v s).now = s.now := rfl
@[simp] theorem nowFrac_setWide (p o v : Nat) (s : State) : (setWide p o v s).nowFrac = s.nowFrac := rfl
@[simp] theorem free_setWide (p o v : Nat) (s : State) : (setWide p o v s).free = s.free := rfl
@[simp] theorem out_setWide (p o v : Nat) (s : State) : (setWide p o v s).out = s.out := rfl
@[simp] theorem regs_setWide (p o v : Nat) (s : State) : (setWide p o v s).regs = s.regs := rfl
@[simp] theorem wide_setWide (p o v : Nat) (s : State) : (setWide p o v s).wide = spSet zeroDWord (rk p o) (BitVec.ofNat 64 v) s.wide := rfl
@[simp] theorem txns_setWide (p o v : Nat) (s : State) : (setWide p o v s).txns = s.txns := rfl
@[simp] theorem group_setWide (p o v : Nat) (s : State) : (setWide p o v s).group = s.group := rfl
@[simp] theorem mem_setWide (p o v : Nat) (s : State) : (setWide p o v s).mem = s.mem := rfl
@[simp] theorem acc_setWide (p o v : Nat) (s : State) : (setWide p o v s).acc = s.acc := rfl
@[simp] theorem slots_setWide (p o v : Nat) (s : State) : (setWide p o v s).slots = s.slots := rfl
@[simp] theorem tiles_setWide (p o v : Nat) (s : State) : (setWide p o v s).tiles = s.tiles := rfl
@[simp] theorem partials_setWide (p o v : Nat) (s : State) : (setWide p o v s).partials = s.partials := rfl
@[simp] theorem marks_setWide (p o v : Nat) (s : State) : (setWide p o v s).marks = s.marks := rfl
@[simp] theorem written_setWide (p o v : Nat) (s : State) : (setWide p o v s).written = s.written := rfl
@[simp] theorem logs_setWide (p o v : Nat) (s : State) : (setWide p o v s).logs = s.logs := rfl
@[simp] theorem scrubs_setWide (p o v : Nat) (s : State) : (setWide p o v s).scrubs = s.scrubs := rfl
@[simp] theorem scrubHits_setWide (p o v : Nat) (s : State) : (setWide p o v s).scrubHits = s.scrubHits := rfl
@[simp] theorem tileSt_setWide (p o v : Nat) (s : State) : (setWide p o v s).tileSt = s.tileSt := rfl
@[simp] theorem substs_setWide (p o v : Nat) (s : State) : (setWide p o v s).substs = s.substs := rfl
@[simp] theorem failing_setWide (p o v : Nat) (s : State) : (setWide p o v s).failing = s.failing := rfl
@[simp] theorem selftestDue_setWide (p o v : Nat) (s : State) : (setWide p o v s).selftestDue = s.selftestDue := rfl
@[simp] theorem repairQueue_setWide (p o v : Nat) (s : State) : (setWide p o v s).repairQueue = s.repairQueue := rfl
@[simp] theorem queues_setWide (p o v : Nat) (s : State) : (setWide p o v s).queues = s.queues := rfl
@[simp] theorem undelivered_setWide (p o v : Nat) (s : State) : (setWide p o v s).undelivered = s.undelivered := rfl
@[simp] theorem ctxs_setWide (p o v : Nat) (s : State) : (setWide p o v s).ctxs = s.ctxs := rfl
@[simp] theorem order_setWide (p o v : Nat) (s : State) : (setWide p o v s).order = s.order := rfl
@[simp] theorem stamp_setWide (p o v : Nat) (s : State) : (setWide p o v s).stamp = s.stamp := rfl
@[simp] theorem progs_setWide (p o v : Nat) (s : State) : (setWide p o v s).progs = s.progs := rfl
@[simp] theorem sems_setWide (p o v : Nat) (s : State) : (setWide p o v s).sems = s.sems := rfl
@[simp] theorem stateReq_setWide (p o v : Nat) (s : State) : (setWide p o v s).stateReq = s.stateReq := rfl
@[simp] theorem heldReq_setWide (p o v : Nat) (s : State) : (setWide p o v s).heldReq = s.heldReq := rfl
@[simp] theorem stallSince_setWide (p o v : Nat) (s : State) : (setWide p o v s).stallSince = s.stallSince := rfl
@[simp] theorem bells_setWide (p o v : Nat) (s : State) : (setWide p o v s).bells = s.bells := rfl
@[simp] theorem audits_setWide (p o v : Nat) (s : State) : (setWide p o v s).audits = s.audits := rfl
@[simp] theorem auditRun_setWide (p o v : Nat) (s : State) : (setWide p o v s).auditRun = s.auditRun := rfl
@[simp] theorem auditStarted_setWide (p o v : Nat) (s : State) : (setWide p o v s).auditStarted = s.auditStarted := rfl
@[simp] theorem cert_setWide (p o v : Nat) (s : State) : (setWide p o v s).cert = s.cert := rfl
@[simp] theorem links_setWide (p o v : Nat) (s : State) : (setWide p o v s).links = s.links := rfl
@[simp] theorem net_setWide (p o v : Nat) (s : State) : (setWide p o v s).net = s.net := rfl
@[simp] theorem flash_setWide (p o v : Nat) (s : State) : (setWide p o v s).flash = s.flash := rfl
@[simp] theorem fuses_setWide (p o v : Nat) (s : State) : (setWide p o v s).fuses = s.fuses := rfl
@[simp] theorem sec_setWide (p o v : Nat) (s : State) : (setWide p o v s).sec = s.sec := rfl
@[simp] theorem ent_setWide (p o v : Nat) (s : State) : (setWide p o v s).ent = s.ent := rfl
@[simp] theorem power_setWide (p o v : Nat) (s : State) : (setWide p o v s).power = s.power := rfl
@[simp] theorem margins_setWide (p o v : Nat) (s : State) : (setWide p o v s).margins = s.margins := rfl
@[simp] theorem sensors_setWide (p o v : Nat) (s : State) : (setWide p o v s).sensors = s.sensors := rfl
@[simp] theorem issueHold_setWide (p o v : Nat) (s : State) : (setWide p o v s).issueHold = s.issueHold := rfl
@[simp] theorem thermTripped_setWide (p o v : Nat) (s : State) : (setWide p o v s).thermTripped = s.thermTripped := rfl
@[simp] theorem boot_setWide (p o v : Nat) (s : State) : (setWide p o v s).boot = s.boot := rfl
@[simp] theorem calNow_setWide (p o v : Nat) (s : State) : (setWide p o v s).calNow = s.calNow := rfl
@[simp] theorem pcieUp_setWide (p o v : Nat) (s : State) : (setWide p o v s).pcieUp = s.pcieUp := rfl
@[simp] theorem sysmap_setWide (p o v : Nat) (s : State) : (setWide p o v s).sysmap = s.sysmap := rfl
@[simp] theorem pciCfg_setWide (p o v : Nat) (s : State) : (setWide p o v s).pciCfg = s.pciCfg := rfl
@[simp] theorem i3c_setWide (p o v : Nat) (s : State) : (setWide p o v s).i3c = s.i3c := rfl
@[simp] theorem ppsLast_setWide (p o v : Nat) (s : State) : (setWide p o v s).ppsLast = s.ppsLast := rfl
@[simp] theorem ptmLast_setWide (p o v : Nat) (s : State) : (setWide p o v s).ptmLast = s.ptmLast := rfl

/-! ## setTxn -/

@[simp] theorem pending_setTxn (p : Nat) (t : Txn) (s : State) : (setTxn p t s).pending = s.pending := rfl
@[simp] theorem now_setTxn (p : Nat) (t : Txn) (s : State) : (setTxn p t s).now = s.now := rfl
@[simp] theorem nowFrac_setTxn (p : Nat) (t : Txn) (s : State) : (setTxn p t s).nowFrac = s.nowFrac := rfl
@[simp] theorem free_setTxn (p : Nat) (t : Txn) (s : State) : (setTxn p t s).free = s.free := rfl
@[simp] theorem out_setTxn (p : Nat) (t : Txn) (s : State) : (setTxn p t s).out = s.out := rfl
@[simp] theorem regs_setTxn (p : Nat) (t : Txn) (s : State) : (setTxn p t s).regs = s.regs := rfl
@[simp] theorem wide_setTxn (p : Nat) (t : Txn) (s : State) : (setTxn p t s).wide = s.wide := rfl
@[simp] theorem txns_setTxn (p : Nat) (t : Txn) (s : State) : (setTxn p t s).txns = spSet txnIdle p t s.txns := rfl
@[simp] theorem group_setTxn (p : Nat) (t : Txn) (s : State) : (setTxn p t s).group = s.group := rfl
@[simp] theorem mem_setTxn (p : Nat) (t : Txn) (s : State) : (setTxn p t s).mem = s.mem := rfl
@[simp] theorem acc_setTxn (p : Nat) (t : Txn) (s : State) : (setTxn p t s).acc = s.acc := rfl
@[simp] theorem slots_setTxn (p : Nat) (t : Txn) (s : State) : (setTxn p t s).slots = s.slots := rfl
@[simp] theorem tiles_setTxn (p : Nat) (t : Txn) (s : State) : (setTxn p t s).tiles = s.tiles := rfl
@[simp] theorem partials_setTxn (p : Nat) (t : Txn) (s : State) : (setTxn p t s).partials = s.partials := rfl
@[simp] theorem marks_setTxn (p : Nat) (t : Txn) (s : State) : (setTxn p t s).marks = s.marks := rfl
@[simp] theorem written_setTxn (p : Nat) (t : Txn) (s : State) : (setTxn p t s).written = s.written := rfl
@[simp] theorem logs_setTxn (p : Nat) (t : Txn) (s : State) : (setTxn p t s).logs = s.logs := rfl
@[simp] theorem scrubs_setTxn (p : Nat) (t : Txn) (s : State) : (setTxn p t s).scrubs = s.scrubs := rfl
@[simp] theorem scrubHits_setTxn (p : Nat) (t : Txn) (s : State) : (setTxn p t s).scrubHits = s.scrubHits := rfl
@[simp] theorem tileSt_setTxn (p : Nat) (t : Txn) (s : State) : (setTxn p t s).tileSt = s.tileSt := rfl
@[simp] theorem substs_setTxn (p : Nat) (t : Txn) (s : State) : (setTxn p t s).substs = s.substs := rfl
@[simp] theorem failing_setTxn (p : Nat) (t : Txn) (s : State) : (setTxn p t s).failing = s.failing := rfl
@[simp] theorem selftestDue_setTxn (p : Nat) (t : Txn) (s : State) : (setTxn p t s).selftestDue = s.selftestDue := rfl
@[simp] theorem repairQueue_setTxn (p : Nat) (t : Txn) (s : State) : (setTxn p t s).repairQueue = s.repairQueue := rfl
@[simp] theorem queues_setTxn (p : Nat) (t : Txn) (s : State) : (setTxn p t s).queues = s.queues := rfl
@[simp] theorem undelivered_setTxn (p : Nat) (t : Txn) (s : State) : (setTxn p t s).undelivered = s.undelivered := rfl
@[simp] theorem ctxs_setTxn (p : Nat) (t : Txn) (s : State) : (setTxn p t s).ctxs = s.ctxs := rfl
@[simp] theorem order_setTxn (p : Nat) (t : Txn) (s : State) : (setTxn p t s).order = s.order := rfl
@[simp] theorem stamp_setTxn (p : Nat) (t : Txn) (s : State) : (setTxn p t s).stamp = s.stamp := rfl
@[simp] theorem progs_setTxn (p : Nat) (t : Txn) (s : State) : (setTxn p t s).progs = s.progs := rfl
@[simp] theorem sems_setTxn (p : Nat) (t : Txn) (s : State) : (setTxn p t s).sems = s.sems := rfl
@[simp] theorem stateReq_setTxn (p : Nat) (t : Txn) (s : State) : (setTxn p t s).stateReq = s.stateReq := rfl
@[simp] theorem heldReq_setTxn (p : Nat) (t : Txn) (s : State) : (setTxn p t s).heldReq = s.heldReq := rfl
@[simp] theorem stallSince_setTxn (p : Nat) (t : Txn) (s : State) : (setTxn p t s).stallSince = s.stallSince := rfl
@[simp] theorem bells_setTxn (p : Nat) (t : Txn) (s : State) : (setTxn p t s).bells = s.bells := rfl
@[simp] theorem audits_setTxn (p : Nat) (t : Txn) (s : State) : (setTxn p t s).audits = s.audits := rfl
@[simp] theorem auditRun_setTxn (p : Nat) (t : Txn) (s : State) : (setTxn p t s).auditRun = s.auditRun := rfl
@[simp] theorem auditStarted_setTxn (p : Nat) (t : Txn) (s : State) : (setTxn p t s).auditStarted = s.auditStarted := rfl
@[simp] theorem cert_setTxn (p : Nat) (t : Txn) (s : State) : (setTxn p t s).cert = s.cert := rfl
@[simp] theorem links_setTxn (p : Nat) (t : Txn) (s : State) : (setTxn p t s).links = s.links := rfl
@[simp] theorem net_setTxn (p : Nat) (t : Txn) (s : State) : (setTxn p t s).net = s.net := rfl
@[simp] theorem flash_setTxn (p : Nat) (t : Txn) (s : State) : (setTxn p t s).flash = s.flash := rfl
@[simp] theorem fuses_setTxn (p : Nat) (t : Txn) (s : State) : (setTxn p t s).fuses = s.fuses := rfl
@[simp] theorem sec_setTxn (p : Nat) (t : Txn) (s : State) : (setTxn p t s).sec = s.sec := rfl
@[simp] theorem ent_setTxn (p : Nat) (t : Txn) (s : State) : (setTxn p t s).ent = s.ent := rfl
@[simp] theorem power_setTxn (p : Nat) (t : Txn) (s : State) : (setTxn p t s).power = s.power := rfl
@[simp] theorem margins_setTxn (p : Nat) (t : Txn) (s : State) : (setTxn p t s).margins = s.margins := rfl
@[simp] theorem sensors_setTxn (p : Nat) (t : Txn) (s : State) : (setTxn p t s).sensors = s.sensors := rfl
@[simp] theorem issueHold_setTxn (p : Nat) (t : Txn) (s : State) : (setTxn p t s).issueHold = s.issueHold := rfl
@[simp] theorem thermTripped_setTxn (p : Nat) (t : Txn) (s : State) : (setTxn p t s).thermTripped = s.thermTripped := rfl
@[simp] theorem boot_setTxn (p : Nat) (t : Txn) (s : State) : (setTxn p t s).boot = s.boot := rfl
@[simp] theorem calNow_setTxn (p : Nat) (t : Txn) (s : State) : (setTxn p t s).calNow = s.calNow := rfl
@[simp] theorem pcieUp_setTxn (p : Nat) (t : Txn) (s : State) : (setTxn p t s).pcieUp = s.pcieUp := rfl
@[simp] theorem sysmap_setTxn (p : Nat) (t : Txn) (s : State) : (setTxn p t s).sysmap = s.sysmap := rfl
@[simp] theorem pciCfg_setTxn (p : Nat) (t : Txn) (s : State) : (setTxn p t s).pciCfg = s.pciCfg := rfl
@[simp] theorem i3c_setTxn (p : Nat) (t : Txn) (s : State) : (setTxn p t s).i3c = s.i3c := rfl
@[simp] theorem ppsLast_setTxn (p : Nat) (t : Txn) (s : State) : (setTxn p t s).ppsLast = s.ppsLast := rfl
@[simp] theorem ptmLast_setTxn (p : Nat) (t : Txn) (s : State) : (setTxn p t s).ptmLast = s.ptmLast := rfl

/-! ## setMark -/

@[simp] theorem pending_setMark (w : Nat) (m : Mark) (s : State) : (setMark w m s).pending = s.pending := rfl
@[simp] theorem now_setMark (w : Nat) (m : Mark) (s : State) : (setMark w m s).now = s.now := rfl
@[simp] theorem nowFrac_setMark (w : Nat) (m : Mark) (s : State) : (setMark w m s).nowFrac = s.nowFrac := rfl
@[simp] theorem free_setMark (w : Nat) (m : Mark) (s : State) : (setMark w m s).free = s.free := rfl
@[simp] theorem out_setMark (w : Nat) (m : Mark) (s : State) : (setMark w m s).out = s.out := rfl
@[simp] theorem regs_setMark (w : Nat) (m : Mark) (s : State) : (setMark w m s).regs = s.regs := rfl
@[simp] theorem wide_setMark (w : Nat) (m : Mark) (s : State) : (setMark w m s).wide = s.wide := rfl
@[simp] theorem txns_setMark (w : Nat) (m : Mark) (s : State) : (setMark w m s).txns = s.txns := rfl
@[simp] theorem group_setMark (w : Nat) (m : Mark) (s : State) : (setMark w m s).group = s.group := rfl
@[simp] theorem mem_setMark (w : Nat) (m : Mark) (s : State) : (setMark w m s).mem = s.mem := rfl
@[simp] theorem acc_setMark (w : Nat) (m : Mark) (s : State) : (setMark w m s).acc = s.acc := rfl
@[simp] theorem slots_setMark (w : Nat) (m : Mark) (s : State) : (setMark w m s).slots = s.slots := rfl
@[simp] theorem tiles_setMark (w : Nat) (m : Mark) (s : State) : (setMark w m s).tiles = s.tiles := rfl
@[simp] theorem partials_setMark (w : Nat) (m : Mark) (s : State) : (setMark w m s).partials = s.partials := rfl
@[simp] theorem marks_setMark (w : Nat) (m : Mark) (s : State) : (setMark w m s).marks = spSet noMark w m s.marks := rfl
@[simp] theorem written_setMark (w : Nat) (m : Mark) (s : State) : (setMark w m s).written = s.written := rfl
@[simp] theorem logs_setMark (w : Nat) (m : Mark) (s : State) : (setMark w m s).logs = s.logs := rfl
@[simp] theorem scrubs_setMark (w : Nat) (m : Mark) (s : State) : (setMark w m s).scrubs = s.scrubs := rfl
@[simp] theorem scrubHits_setMark (w : Nat) (m : Mark) (s : State) : (setMark w m s).scrubHits = s.scrubHits := rfl
@[simp] theorem tileSt_setMark (w : Nat) (m : Mark) (s : State) : (setMark w m s).tileSt = s.tileSt := rfl
@[simp] theorem substs_setMark (w : Nat) (m : Mark) (s : State) : (setMark w m s).substs = s.substs := rfl
@[simp] theorem failing_setMark (w : Nat) (m : Mark) (s : State) : (setMark w m s).failing = s.failing := rfl
@[simp] theorem selftestDue_setMark (w : Nat) (m : Mark) (s : State) : (setMark w m s).selftestDue = s.selftestDue := rfl
@[simp] theorem repairQueue_setMark (w : Nat) (m : Mark) (s : State) : (setMark w m s).repairQueue = s.repairQueue := rfl
@[simp] theorem queues_setMark (w : Nat) (m : Mark) (s : State) : (setMark w m s).queues = s.queues := rfl
@[simp] theorem undelivered_setMark (w : Nat) (m : Mark) (s : State) : (setMark w m s).undelivered = s.undelivered := rfl
@[simp] theorem ctxs_setMark (w : Nat) (m : Mark) (s : State) : (setMark w m s).ctxs = s.ctxs := rfl
@[simp] theorem order_setMark (w : Nat) (m : Mark) (s : State) : (setMark w m s).order = s.order := rfl
@[simp] theorem stamp_setMark (w : Nat) (m : Mark) (s : State) : (setMark w m s).stamp = s.stamp := rfl
@[simp] theorem progs_setMark (w : Nat) (m : Mark) (s : State) : (setMark w m s).progs = s.progs := rfl
@[simp] theorem sems_setMark (w : Nat) (m : Mark) (s : State) : (setMark w m s).sems = s.sems := rfl
@[simp] theorem stateReq_setMark (w : Nat) (m : Mark) (s : State) : (setMark w m s).stateReq = s.stateReq := rfl
@[simp] theorem heldReq_setMark (w : Nat) (m : Mark) (s : State) : (setMark w m s).heldReq = s.heldReq := rfl
@[simp] theorem stallSince_setMark (w : Nat) (m : Mark) (s : State) : (setMark w m s).stallSince = s.stallSince := rfl
@[simp] theorem bells_setMark (w : Nat) (m : Mark) (s : State) : (setMark w m s).bells = s.bells := rfl
@[simp] theorem audits_setMark (w : Nat) (m : Mark) (s : State) : (setMark w m s).audits = s.audits := rfl
@[simp] theorem auditRun_setMark (w : Nat) (m : Mark) (s : State) : (setMark w m s).auditRun = s.auditRun := rfl
@[simp] theorem auditStarted_setMark (w : Nat) (m : Mark) (s : State) : (setMark w m s).auditStarted = s.auditStarted := rfl
@[simp] theorem cert_setMark (w : Nat) (m : Mark) (s : State) : (setMark w m s).cert = s.cert := rfl
@[simp] theorem links_setMark (w : Nat) (m : Mark) (s : State) : (setMark w m s).links = s.links := rfl
@[simp] theorem net_setMark (w : Nat) (m : Mark) (s : State) : (setMark w m s).net = s.net := rfl
@[simp] theorem flash_setMark (w : Nat) (m : Mark) (s : State) : (setMark w m s).flash = s.flash := rfl
@[simp] theorem fuses_setMark (w : Nat) (m : Mark) (s : State) : (setMark w m s).fuses = s.fuses := rfl
@[simp] theorem sec_setMark (w : Nat) (m : Mark) (s : State) : (setMark w m s).sec = s.sec := rfl
@[simp] theorem ent_setMark (w : Nat) (m : Mark) (s : State) : (setMark w m s).ent = s.ent := rfl
@[simp] theorem power_setMark (w : Nat) (m : Mark) (s : State) : (setMark w m s).power = s.power := rfl
@[simp] theorem margins_setMark (w : Nat) (m : Mark) (s : State) : (setMark w m s).margins = s.margins := rfl
@[simp] theorem sensors_setMark (w : Nat) (m : Mark) (s : State) : (setMark w m s).sensors = s.sensors := rfl
@[simp] theorem issueHold_setMark (w : Nat) (m : Mark) (s : State) : (setMark w m s).issueHold = s.issueHold := rfl
@[simp] theorem thermTripped_setMark (w : Nat) (m : Mark) (s : State) : (setMark w m s).thermTripped = s.thermTripped := rfl
@[simp] theorem boot_setMark (w : Nat) (m : Mark) (s : State) : (setMark w m s).boot = s.boot := rfl
@[simp] theorem calNow_setMark (w : Nat) (m : Mark) (s : State) : (setMark w m s).calNow = s.calNow := rfl
@[simp] theorem pcieUp_setMark (w : Nat) (m : Mark) (s : State) : (setMark w m s).pcieUp = s.pcieUp := rfl
@[simp] theorem sysmap_setMark (w : Nat) (m : Mark) (s : State) : (setMark w m s).sysmap = s.sysmap := rfl
@[simp] theorem pciCfg_setMark (w : Nat) (m : Mark) (s : State) : (setMark w m s).pciCfg = s.pciCfg := rfl
@[simp] theorem i3c_setMark (w : Nat) (m : Mark) (s : State) : (setMark w m s).i3c = s.i3c := rfl
@[simp] theorem ppsLast_setMark (w : Nat) (m : Mark) (s : State) : (setMark w m s).ppsLast = s.ppsLast := rfl
@[simp] theorem ptmLast_setMark (w : Nat) (m : Mark) (s : State) : (setMark w m s).ptmLast = s.ptmLast := rfl

/-! ## semSet -/

@[simp] theorem pending_semSet (n v : Nat) (s : State) : (semSet n v s).pending = s.pending := rfl
@[simp] theorem now_semSet (n v : Nat) (s : State) : (semSet n v s).now = s.now := rfl
@[simp] theorem nowFrac_semSet (n v : Nat) (s : State) : (semSet n v s).nowFrac = s.nowFrac := rfl
@[simp] theorem free_semSet (n v : Nat) (s : State) : (semSet n v s).free = s.free := rfl
@[simp] theorem out_semSet (n v : Nat) (s : State) : (semSet n v s).out = s.out := rfl
@[simp] theorem regs_semSet (n v : Nat) (s : State) : (semSet n v s).regs = s.regs := rfl
@[simp] theorem wide_semSet (n v : Nat) (s : State) : (semSet n v s).wide = s.wide := rfl
@[simp] theorem txns_semSet (n v : Nat) (s : State) : (semSet n v s).txns = s.txns := rfl
@[simp] theorem group_semSet (n v : Nat) (s : State) : (semSet n v s).group = s.group := rfl
@[simp] theorem mem_semSet (n v : Nat) (s : State) : (semSet n v s).mem = s.mem := rfl
@[simp] theorem acc_semSet (n v : Nat) (s : State) : (semSet n v s).acc = s.acc := rfl
@[simp] theorem slots_semSet (n v : Nat) (s : State) : (semSet n v s).slots = s.slots := rfl
@[simp] theorem tiles_semSet (n v : Nat) (s : State) : (semSet n v s).tiles = s.tiles := rfl
@[simp] theorem partials_semSet (n v : Nat) (s : State) : (semSet n v s).partials = s.partials := rfl
@[simp] theorem marks_semSet (n v : Nat) (s : State) : (semSet n v s).marks = s.marks := rfl
@[simp] theorem written_semSet (n v : Nat) (s : State) : (semSet n v s).written = s.written := rfl
@[simp] theorem logs_semSet (n v : Nat) (s : State) : (semSet n v s).logs = s.logs := rfl
@[simp] theorem scrubs_semSet (n v : Nat) (s : State) : (semSet n v s).scrubs = s.scrubs := rfl
@[simp] theorem scrubHits_semSet (n v : Nat) (s : State) : (semSet n v s).scrubHits = s.scrubHits := rfl
@[simp] theorem tileSt_semSet (n v : Nat) (s : State) : (semSet n v s).tileSt = s.tileSt := rfl
@[simp] theorem substs_semSet (n v : Nat) (s : State) : (semSet n v s).substs = s.substs := rfl
@[simp] theorem failing_semSet (n v : Nat) (s : State) : (semSet n v s).failing = s.failing := rfl
@[simp] theorem selftestDue_semSet (n v : Nat) (s : State) : (semSet n v s).selftestDue = s.selftestDue := rfl
@[simp] theorem repairQueue_semSet (n v : Nat) (s : State) : (semSet n v s).repairQueue = s.repairQueue := rfl
@[simp] theorem queues_semSet (n v : Nat) (s : State) : (semSet n v s).queues = s.queues := rfl
@[simp] theorem undelivered_semSet (n v : Nat) (s : State) : (semSet n v s).undelivered = s.undelivered := rfl
@[simp] theorem ctxs_semSet (n v : Nat) (s : State) : (semSet n v s).ctxs = s.ctxs := rfl
@[simp] theorem order_semSet (n v : Nat) (s : State) : (semSet n v s).order = s.order := rfl
@[simp] theorem stamp_semSet (n v : Nat) (s : State) : (semSet n v s).stamp = s.stamp := rfl
@[simp] theorem progs_semSet (n v : Nat) (s : State) : (semSet n v s).progs = s.progs := rfl
@[simp] theorem sems_semSet (n v : Nat) (s : State) : (semSet n v s).sems = spSet zeroDWord n (BitVec.ofNat 64 v) s.sems := rfl
@[simp] theorem stateReq_semSet (n v : Nat) (s : State) : (semSet n v s).stateReq = s.stateReq := rfl
@[simp] theorem heldReq_semSet (n v : Nat) (s : State) : (semSet n v s).heldReq = s.heldReq := rfl
@[simp] theorem stallSince_semSet (n v : Nat) (s : State) : (semSet n v s).stallSince = s.stallSince := rfl
@[simp] theorem bells_semSet (n v : Nat) (s : State) : (semSet n v s).bells = s.bells := rfl
@[simp] theorem audits_semSet (n v : Nat) (s : State) : (semSet n v s).audits = s.audits := rfl
@[simp] theorem auditRun_semSet (n v : Nat) (s : State) : (semSet n v s).auditRun = s.auditRun := rfl
@[simp] theorem auditStarted_semSet (n v : Nat) (s : State) : (semSet n v s).auditStarted = s.auditStarted := rfl
@[simp] theorem cert_semSet (n v : Nat) (s : State) : (semSet n v s).cert = s.cert := rfl
@[simp] theorem links_semSet (n v : Nat) (s : State) : (semSet n v s).links = s.links := rfl
@[simp] theorem net_semSet (n v : Nat) (s : State) : (semSet n v s).net = s.net := rfl
@[simp] theorem flash_semSet (n v : Nat) (s : State) : (semSet n v s).flash = s.flash := rfl
@[simp] theorem fuses_semSet (n v : Nat) (s : State) : (semSet n v s).fuses = s.fuses := rfl
@[simp] theorem sec_semSet (n v : Nat) (s : State) : (semSet n v s).sec = s.sec := rfl
@[simp] theorem ent_semSet (n v : Nat) (s : State) : (semSet n v s).ent = s.ent := rfl
@[simp] theorem power_semSet (n v : Nat) (s : State) : (semSet n v s).power = s.power := rfl
@[simp] theorem margins_semSet (n v : Nat) (s : State) : (semSet n v s).margins = s.margins := rfl
@[simp] theorem sensors_semSet (n v : Nat) (s : State) : (semSet n v s).sensors = s.sensors := rfl
@[simp] theorem issueHold_semSet (n v : Nat) (s : State) : (semSet n v s).issueHold = s.issueHold := rfl
@[simp] theorem thermTripped_semSet (n v : Nat) (s : State) : (semSet n v s).thermTripped = s.thermTripped := rfl
@[simp] theorem boot_semSet (n v : Nat) (s : State) : (semSet n v s).boot = s.boot := rfl
@[simp] theorem calNow_semSet (n v : Nat) (s : State) : (semSet n v s).calNow = s.calNow := rfl
@[simp] theorem pcieUp_semSet (n v : Nat) (s : State) : (semSet n v s).pcieUp = s.pcieUp := rfl
@[simp] theorem sysmap_semSet (n v : Nat) (s : State) : (semSet n v s).sysmap = s.sysmap := rfl
@[simp] theorem pciCfg_semSet (n v : Nat) (s : State) : (semSet n v s).pciCfg = s.pciCfg := rfl
@[simp] theorem i3c_semSet (n v : Nat) (s : State) : (semSet n v s).i3c = s.i3c := rfl
@[simp] theorem ppsLast_semSet (n v : Nat) (s : State) : (semSet n v s).ppsLast = s.ppsLast := rfl
@[simp] theorem ptmLast_semSet (n v : Nat) (s : State) : (semSet n v s).ptmLast = s.ptmLast := rfl

/-! ## updCtx -/

@[simp] theorem pending_updCtx (c : Nat) (f : Ctx → Ctx) (s : State) : (updCtx c f s).pending = s.pending := rfl
@[simp] theorem now_updCtx (c : Nat) (f : Ctx → Ctx) (s : State) : (updCtx c f s).now = s.now := rfl
@[simp] theorem nowFrac_updCtx (c : Nat) (f : Ctx → Ctx) (s : State) : (updCtx c f s).nowFrac = s.nowFrac := rfl
@[simp] theorem free_updCtx (c : Nat) (f : Ctx → Ctx) (s : State) : (updCtx c f s).free = s.free := rfl
@[simp] theorem out_updCtx (c : Nat) (f : Ctx → Ctx) (s : State) : (updCtx c f s).out = s.out := rfl
@[simp] theorem regs_updCtx (c : Nat) (f : Ctx → Ctx) (s : State) : (updCtx c f s).regs = s.regs := rfl
@[simp] theorem wide_updCtx (c : Nat) (f : Ctx → Ctx) (s : State) : (updCtx c f s).wide = s.wide := rfl
@[simp] theorem txns_updCtx (c : Nat) (f : Ctx → Ctx) (s : State) : (updCtx c f s).txns = s.txns := rfl
@[simp] theorem group_updCtx (c : Nat) (f : Ctx → Ctx) (s : State) : (updCtx c f s).group = s.group := rfl
@[simp] theorem mem_updCtx (c : Nat) (f : Ctx → Ctx) (s : State) : (updCtx c f s).mem = s.mem := rfl
@[simp] theorem acc_updCtx (c : Nat) (f : Ctx → Ctx) (s : State) : (updCtx c f s).acc = s.acc := rfl
@[simp] theorem slots_updCtx (c : Nat) (f : Ctx → Ctx) (s : State) : (updCtx c f s).slots = s.slots := rfl
@[simp] theorem tiles_updCtx (c : Nat) (f : Ctx → Ctx) (s : State) : (updCtx c f s).tiles = s.tiles := rfl
@[simp] theorem partials_updCtx (c : Nat) (f : Ctx → Ctx) (s : State) : (updCtx c f s).partials = s.partials := rfl
@[simp] theorem marks_updCtx (c : Nat) (f : Ctx → Ctx) (s : State) : (updCtx c f s).marks = s.marks := rfl
@[simp] theorem written_updCtx (c : Nat) (f : Ctx → Ctx) (s : State) : (updCtx c f s).written = s.written := rfl
@[simp] theorem logs_updCtx (c : Nat) (f : Ctx → Ctx) (s : State) : (updCtx c f s).logs = s.logs := rfl
@[simp] theorem scrubs_updCtx (c : Nat) (f : Ctx → Ctx) (s : State) : (updCtx c f s).scrubs = s.scrubs := rfl
@[simp] theorem scrubHits_updCtx (c : Nat) (f : Ctx → Ctx) (s : State) : (updCtx c f s).scrubHits = s.scrubHits := rfl
@[simp] theorem tileSt_updCtx (c : Nat) (f : Ctx → Ctx) (s : State) : (updCtx c f s).tileSt = s.tileSt := rfl
@[simp] theorem substs_updCtx (c : Nat) (f : Ctx → Ctx) (s : State) : (updCtx c f s).substs = s.substs := rfl
@[simp] theorem failing_updCtx (c : Nat) (f : Ctx → Ctx) (s : State) : (updCtx c f s).failing = s.failing := rfl
@[simp] theorem selftestDue_updCtx (c : Nat) (f : Ctx → Ctx) (s : State) : (updCtx c f s).selftestDue = s.selftestDue := rfl
@[simp] theorem repairQueue_updCtx (c : Nat) (f : Ctx → Ctx) (s : State) : (updCtx c f s).repairQueue = s.repairQueue := rfl
@[simp] theorem queues_updCtx (c : Nat) (f : Ctx → Ctx) (s : State) : (updCtx c f s).queues = s.queues := rfl
@[simp] theorem undelivered_updCtx (c : Nat) (f : Ctx → Ctx) (s : State) : (updCtx c f s).undelivered = s.undelivered := rfl
@[simp] theorem ctxs_updCtx (c : Nat) (f : Ctx → Ctx) (s : State) : (updCtx c f s).ctxs = s.ctxs.map fun x => if x.id = c then f x else x := rfl
@[simp] theorem order_updCtx (c : Nat) (f : Ctx → Ctx) (s : State) : (updCtx c f s).order = s.order := rfl
@[simp] theorem stamp_updCtx (c : Nat) (f : Ctx → Ctx) (s : State) : (updCtx c f s).stamp = s.stamp := rfl
@[simp] theorem progs_updCtx (c : Nat) (f : Ctx → Ctx) (s : State) : (updCtx c f s).progs = s.progs := rfl
@[simp] theorem sems_updCtx (c : Nat) (f : Ctx → Ctx) (s : State) : (updCtx c f s).sems = s.sems := rfl
@[simp] theorem stateReq_updCtx (c : Nat) (f : Ctx → Ctx) (s : State) : (updCtx c f s).stateReq = s.stateReq := rfl
@[simp] theorem heldReq_updCtx (c : Nat) (f : Ctx → Ctx) (s : State) : (updCtx c f s).heldReq = s.heldReq := rfl
@[simp] theorem stallSince_updCtx (c : Nat) (f : Ctx → Ctx) (s : State) : (updCtx c f s).stallSince = s.stallSince := rfl
@[simp] theorem bells_updCtx (c : Nat) (f : Ctx → Ctx) (s : State) : (updCtx c f s).bells = s.bells := rfl
@[simp] theorem audits_updCtx (c : Nat) (f : Ctx → Ctx) (s : State) : (updCtx c f s).audits = s.audits := rfl
@[simp] theorem auditRun_updCtx (c : Nat) (f : Ctx → Ctx) (s : State) : (updCtx c f s).auditRun = s.auditRun := rfl
@[simp] theorem auditStarted_updCtx (c : Nat) (f : Ctx → Ctx) (s : State) : (updCtx c f s).auditStarted = s.auditStarted := rfl
@[simp] theorem cert_updCtx (c : Nat) (f : Ctx → Ctx) (s : State) : (updCtx c f s).cert = s.cert := rfl
@[simp] theorem links_updCtx (c : Nat) (f : Ctx → Ctx) (s : State) : (updCtx c f s).links = s.links := rfl
@[simp] theorem net_updCtx (c : Nat) (f : Ctx → Ctx) (s : State) : (updCtx c f s).net = s.net := rfl
@[simp] theorem flash_updCtx (c : Nat) (f : Ctx → Ctx) (s : State) : (updCtx c f s).flash = s.flash := rfl
@[simp] theorem fuses_updCtx (c : Nat) (f : Ctx → Ctx) (s : State) : (updCtx c f s).fuses = s.fuses := rfl
@[simp] theorem sec_updCtx (c : Nat) (f : Ctx → Ctx) (s : State) : (updCtx c f s).sec = s.sec := rfl
@[simp] theorem ent_updCtx (c : Nat) (f : Ctx → Ctx) (s : State) : (updCtx c f s).ent = s.ent := rfl
@[simp] theorem power_updCtx (c : Nat) (f : Ctx → Ctx) (s : State) : (updCtx c f s).power = s.power := rfl
@[simp] theorem margins_updCtx (c : Nat) (f : Ctx → Ctx) (s : State) : (updCtx c f s).margins = s.margins := rfl
@[simp] theorem sensors_updCtx (c : Nat) (f : Ctx → Ctx) (s : State) : (updCtx c f s).sensors = s.sensors := rfl
@[simp] theorem issueHold_updCtx (c : Nat) (f : Ctx → Ctx) (s : State) : (updCtx c f s).issueHold = s.issueHold := rfl
@[simp] theorem thermTripped_updCtx (c : Nat) (f : Ctx → Ctx) (s : State) : (updCtx c f s).thermTripped = s.thermTripped := rfl
@[simp] theorem boot_updCtx (c : Nat) (f : Ctx → Ctx) (s : State) : (updCtx c f s).boot = s.boot := rfl
@[simp] theorem calNow_updCtx (c : Nat) (f : Ctx → Ctx) (s : State) : (updCtx c f s).calNow = s.calNow := rfl
@[simp] theorem pcieUp_updCtx (c : Nat) (f : Ctx → Ctx) (s : State) : (updCtx c f s).pcieUp = s.pcieUp := rfl
@[simp] theorem sysmap_updCtx (c : Nat) (f : Ctx → Ctx) (s : State) : (updCtx c f s).sysmap = s.sysmap := rfl
@[simp] theorem pciCfg_updCtx (c : Nat) (f : Ctx → Ctx) (s : State) : (updCtx c f s).pciCfg = s.pciCfg := rfl
@[simp] theorem i3c_updCtx (c : Nat) (f : Ctx → Ctx) (s : State) : (updCtx c f s).i3c = s.i3c := rfl
@[simp] theorem ppsLast_updCtx (c : Nat) (f : Ctx → Ctx) (s : State) : (updCtx c f s).ppsLast = s.ppsLast := rfl
@[simp] theorem ptmLast_updCtx (c : Nat) (f : Ctx → Ctx) (s : State) : (updCtx c f s).ptmLast = s.ptmLast := rfl

/-! ## freeCtx -/

@[simp] theorem pending_freeCtx (c : Nat) (s : State) : (freeCtx c s).pending = s.pending := rfl
@[simp] theorem now_freeCtx (c : Nat) (s : State) : (freeCtx c s).now = s.now := rfl
@[simp] theorem nowFrac_freeCtx (c : Nat) (s : State) : (freeCtx c s).nowFrac = s.nowFrac := rfl
@[simp] theorem free_freeCtx (c : Nat) (s : State) : (freeCtx c s).free = s.free := rfl
@[simp] theorem out_freeCtx (c : Nat) (s : State) : (freeCtx c s).out = s.out := rfl
@[simp] theorem regs_freeCtx (c : Nat) (s : State) : (freeCtx c s).regs = s.regs := rfl
@[simp] theorem wide_freeCtx (c : Nat) (s : State) : (freeCtx c s).wide = s.wide := rfl
@[simp] theorem txns_freeCtx (c : Nat) (s : State) : (freeCtx c s).txns = s.txns := rfl
@[simp] theorem group_freeCtx (c : Nat) (s : State) : (freeCtx c s).group = s.group := rfl
@[simp] theorem mem_freeCtx (c : Nat) (s : State) : (freeCtx c s).mem = s.mem := rfl
@[simp] theorem acc_freeCtx (c : Nat) (s : State) : (freeCtx c s).acc = s.acc := rfl
@[simp] theorem slots_freeCtx (c : Nat) (s : State) : (freeCtx c s).slots = s.slots := rfl
@[simp] theorem tiles_freeCtx (c : Nat) (s : State) : (freeCtx c s).tiles = s.tiles := rfl
@[simp] theorem partials_freeCtx (c : Nat) (s : State) : (freeCtx c s).partials = s.partials := rfl
@[simp] theorem marks_freeCtx (c : Nat) (s : State) : (freeCtx c s).marks = s.marks := rfl
@[simp] theorem written_freeCtx (c : Nat) (s : State) : (freeCtx c s).written = s.written := rfl
@[simp] theorem logs_freeCtx (c : Nat) (s : State) : (freeCtx c s).logs = s.logs := rfl
@[simp] theorem scrubs_freeCtx (c : Nat) (s : State) : (freeCtx c s).scrubs = s.scrubs := rfl
@[simp] theorem scrubHits_freeCtx (c : Nat) (s : State) : (freeCtx c s).scrubHits = s.scrubHits := rfl
@[simp] theorem tileSt_freeCtx (c : Nat) (s : State) : (freeCtx c s).tileSt = s.tileSt := rfl
@[simp] theorem substs_freeCtx (c : Nat) (s : State) : (freeCtx c s).substs = s.substs := rfl
@[simp] theorem failing_freeCtx (c : Nat) (s : State) : (freeCtx c s).failing = s.failing := rfl
@[simp] theorem selftestDue_freeCtx (c : Nat) (s : State) : (freeCtx c s).selftestDue = s.selftestDue := rfl
@[simp] theorem repairQueue_freeCtx (c : Nat) (s : State) : (freeCtx c s).repairQueue = s.repairQueue := rfl
@[simp] theorem queues_freeCtx (c : Nat) (s : State) : (freeCtx c s).queues = s.queues := rfl
@[simp] theorem undelivered_freeCtx (c : Nat) (s : State) : (freeCtx c s).undelivered = s.undelivered := rfl
@[simp] theorem ctxs_freeCtx (c : Nat) (s : State) : (freeCtx c s).ctxs = s.ctxs.filter fun x => decide (x.id ≠ c) := rfl
@[simp] theorem order_freeCtx (c : Nat) (s : State) : (freeCtx c s).order = s.order := rfl
@[simp] theorem stamp_freeCtx (c : Nat) (s : State) : (freeCtx c s).stamp = s.stamp := rfl
@[simp] theorem progs_freeCtx (c : Nat) (s : State) : (freeCtx c s).progs = s.progs := rfl
@[simp] theorem sems_freeCtx (c : Nat) (s : State) : (freeCtx c s).sems = s.sems := rfl
@[simp] theorem stateReq_freeCtx (c : Nat) (s : State) : (freeCtx c s).stateReq = s.stateReq := rfl
@[simp] theorem heldReq_freeCtx (c : Nat) (s : State) : (freeCtx c s).heldReq = s.heldReq := rfl
@[simp] theorem stallSince_freeCtx (c : Nat) (s : State) : (freeCtx c s).stallSince = s.stallSince := rfl
@[simp] theorem bells_freeCtx (c : Nat) (s : State) : (freeCtx c s).bells = s.bells := rfl
@[simp] theorem audits_freeCtx (c : Nat) (s : State) : (freeCtx c s).audits = s.audits := rfl
@[simp] theorem auditRun_freeCtx (c : Nat) (s : State) : (freeCtx c s).auditRun = s.auditRun := rfl
@[simp] theorem auditStarted_freeCtx (c : Nat) (s : State) : (freeCtx c s).auditStarted = s.auditStarted := rfl
@[simp] theorem cert_freeCtx (c : Nat) (s : State) : (freeCtx c s).cert = s.cert := rfl
@[simp] theorem links_freeCtx (c : Nat) (s : State) : (freeCtx c s).links = s.links := rfl
@[simp] theorem net_freeCtx (c : Nat) (s : State) : (freeCtx c s).net = s.net := rfl
@[simp] theorem flash_freeCtx (c : Nat) (s : State) : (freeCtx c s).flash = s.flash := rfl
@[simp] theorem fuses_freeCtx (c : Nat) (s : State) : (freeCtx c s).fuses = s.fuses := rfl
@[simp] theorem sec_freeCtx (c : Nat) (s : State) : (freeCtx c s).sec = s.sec := rfl
@[simp] theorem ent_freeCtx (c : Nat) (s : State) : (freeCtx c s).ent = s.ent := rfl
@[simp] theorem power_freeCtx (c : Nat) (s : State) : (freeCtx c s).power = s.power := rfl
@[simp] theorem margins_freeCtx (c : Nat) (s : State) : (freeCtx c s).margins = s.margins := rfl
@[simp] theorem sensors_freeCtx (c : Nat) (s : State) : (freeCtx c s).sensors = s.sensors := rfl
@[simp] theorem issueHold_freeCtx (c : Nat) (s : State) : (freeCtx c s).issueHold = s.issueHold := rfl
@[simp] theorem thermTripped_freeCtx (c : Nat) (s : State) : (freeCtx c s).thermTripped = s.thermTripped := rfl
@[simp] theorem boot_freeCtx (c : Nat) (s : State) : (freeCtx c s).boot = s.boot := rfl
@[simp] theorem calNow_freeCtx (c : Nat) (s : State) : (freeCtx c s).calNow = s.calNow := rfl
@[simp] theorem pcieUp_freeCtx (c : Nat) (s : State) : (freeCtx c s).pcieUp = s.pcieUp := rfl
@[simp] theorem sysmap_freeCtx (c : Nat) (s : State) : (freeCtx c s).sysmap = s.sysmap := rfl
@[simp] theorem pciCfg_freeCtx (c : Nat) (s : State) : (freeCtx c s).pciCfg = s.pciCfg := rfl
@[simp] theorem i3c_freeCtx (c : Nat) (s : State) : (freeCtx c s).i3c = s.i3c := rfl
@[simp] theorem ppsLast_freeCtx (c : Nat) (s : State) : (freeCtx c s).ppsLast = s.ppsLast := rfl
@[simp] theorem ptmLast_freeCtx (c : Nat) (s : State) : (freeCtx c s).ptmLast = s.ptmLast := rfl

/-! ## updQueue -/

@[simp] theorem pending_updQueue (q : Nat) (f : Queue → Queue) (s : State) : (updQueue q f s).pending = s.pending := rfl
@[simp] theorem now_updQueue (q : Nat) (f : Queue → Queue) (s : State) : (updQueue q f s).now = s.now := rfl
@[simp] theorem nowFrac_updQueue (q : Nat) (f : Queue → Queue) (s : State) : (updQueue q f s).nowFrac = s.nowFrac := rfl
@[simp] theorem free_updQueue (q : Nat) (f : Queue → Queue) (s : State) : (updQueue q f s).free = s.free := rfl
@[simp] theorem out_updQueue (q : Nat) (f : Queue → Queue) (s : State) : (updQueue q f s).out = s.out := rfl
@[simp] theorem regs_updQueue (q : Nat) (f : Queue → Queue) (s : State) : (updQueue q f s).regs = s.regs := rfl
@[simp] theorem wide_updQueue (q : Nat) (f : Queue → Queue) (s : State) : (updQueue q f s).wide = s.wide := rfl
@[simp] theorem txns_updQueue (q : Nat) (f : Queue → Queue) (s : State) : (updQueue q f s).txns = s.txns := rfl
@[simp] theorem group_updQueue (q : Nat) (f : Queue → Queue) (s : State) : (updQueue q f s).group = s.group := rfl
@[simp] theorem mem_updQueue (q : Nat) (f : Queue → Queue) (s : State) : (updQueue q f s).mem = s.mem := rfl
@[simp] theorem acc_updQueue (q : Nat) (f : Queue → Queue) (s : State) : (updQueue q f s).acc = s.acc := rfl
@[simp] theorem slots_updQueue (q : Nat) (f : Queue → Queue) (s : State) : (updQueue q f s).slots = s.slots := rfl
@[simp] theorem tiles_updQueue (q : Nat) (f : Queue → Queue) (s : State) : (updQueue q f s).tiles = s.tiles := rfl
@[simp] theorem partials_updQueue (q : Nat) (f : Queue → Queue) (s : State) : (updQueue q f s).partials = s.partials := rfl
@[simp] theorem marks_updQueue (q : Nat) (f : Queue → Queue) (s : State) : (updQueue q f s).marks = s.marks := rfl
@[simp] theorem written_updQueue (q : Nat) (f : Queue → Queue) (s : State) : (updQueue q f s).written = s.written := rfl
@[simp] theorem logs_updQueue (q : Nat) (f : Queue → Queue) (s : State) : (updQueue q f s).logs = s.logs := rfl
@[simp] theorem scrubs_updQueue (q : Nat) (f : Queue → Queue) (s : State) : (updQueue q f s).scrubs = s.scrubs := rfl
@[simp] theorem scrubHits_updQueue (q : Nat) (f : Queue → Queue) (s : State) : (updQueue q f s).scrubHits = s.scrubHits := rfl
@[simp] theorem tileSt_updQueue (q : Nat) (f : Queue → Queue) (s : State) : (updQueue q f s).tileSt = s.tileSt := rfl
@[simp] theorem substs_updQueue (q : Nat) (f : Queue → Queue) (s : State) : (updQueue q f s).substs = s.substs := rfl
@[simp] theorem failing_updQueue (q : Nat) (f : Queue → Queue) (s : State) : (updQueue q f s).failing = s.failing := rfl
@[simp] theorem selftestDue_updQueue (q : Nat) (f : Queue → Queue) (s : State) : (updQueue q f s).selftestDue = s.selftestDue := rfl
@[simp] theorem repairQueue_updQueue (q : Nat) (f : Queue → Queue) (s : State) : (updQueue q f s).repairQueue = s.repairQueue := rfl
@[simp] theorem queues_updQueue (q : Nat) (f : Queue → Queue) (s : State) : (updQueue q f s).queues = updAt s.queues q f := rfl
@[simp] theorem undelivered_updQueue (q : Nat) (f : Queue → Queue) (s : State) : (updQueue q f s).undelivered = s.undelivered := rfl
@[simp] theorem ctxs_updQueue (q : Nat) (f : Queue → Queue) (s : State) : (updQueue q f s).ctxs = s.ctxs := rfl
@[simp] theorem order_updQueue (q : Nat) (f : Queue → Queue) (s : State) : (updQueue q f s).order = s.order := rfl
@[simp] theorem stamp_updQueue (q : Nat) (f : Queue → Queue) (s : State) : (updQueue q f s).stamp = s.stamp := rfl
@[simp] theorem progs_updQueue (q : Nat) (f : Queue → Queue) (s : State) : (updQueue q f s).progs = s.progs := rfl
@[simp] theorem sems_updQueue (q : Nat) (f : Queue → Queue) (s : State) : (updQueue q f s).sems = s.sems := rfl
@[simp] theorem stateReq_updQueue (q : Nat) (f : Queue → Queue) (s : State) : (updQueue q f s).stateReq = s.stateReq := rfl
@[simp] theorem heldReq_updQueue (q : Nat) (f : Queue → Queue) (s : State) : (updQueue q f s).heldReq = s.heldReq := rfl
@[simp] theorem stallSince_updQueue (q : Nat) (f : Queue → Queue) (s : State) : (updQueue q f s).stallSince = s.stallSince := rfl
@[simp] theorem bells_updQueue (q : Nat) (f : Queue → Queue) (s : State) : (updQueue q f s).bells = s.bells := rfl
@[simp] theorem audits_updQueue (q : Nat) (f : Queue → Queue) (s : State) : (updQueue q f s).audits = s.audits := rfl
@[simp] theorem auditRun_updQueue (q : Nat) (f : Queue → Queue) (s : State) : (updQueue q f s).auditRun = s.auditRun := rfl
@[simp] theorem auditStarted_updQueue (q : Nat) (f : Queue → Queue) (s : State) : (updQueue q f s).auditStarted = s.auditStarted := rfl
@[simp] theorem cert_updQueue (q : Nat) (f : Queue → Queue) (s : State) : (updQueue q f s).cert = s.cert := rfl
@[simp] theorem links_updQueue (q : Nat) (f : Queue → Queue) (s : State) : (updQueue q f s).links = s.links := rfl
@[simp] theorem net_updQueue (q : Nat) (f : Queue → Queue) (s : State) : (updQueue q f s).net = s.net := rfl
@[simp] theorem flash_updQueue (q : Nat) (f : Queue → Queue) (s : State) : (updQueue q f s).flash = s.flash := rfl
@[simp] theorem fuses_updQueue (q : Nat) (f : Queue → Queue) (s : State) : (updQueue q f s).fuses = s.fuses := rfl
@[simp] theorem sec_updQueue (q : Nat) (f : Queue → Queue) (s : State) : (updQueue q f s).sec = s.sec := rfl
@[simp] theorem ent_updQueue (q : Nat) (f : Queue → Queue) (s : State) : (updQueue q f s).ent = s.ent := rfl
@[simp] theorem power_updQueue (q : Nat) (f : Queue → Queue) (s : State) : (updQueue q f s).power = s.power := rfl
@[simp] theorem margins_updQueue (q : Nat) (f : Queue → Queue) (s : State) : (updQueue q f s).margins = s.margins := rfl
@[simp] theorem sensors_updQueue (q : Nat) (f : Queue → Queue) (s : State) : (updQueue q f s).sensors = s.sensors := rfl
@[simp] theorem issueHold_updQueue (q : Nat) (f : Queue → Queue) (s : State) : (updQueue q f s).issueHold = s.issueHold := rfl
@[simp] theorem thermTripped_updQueue (q : Nat) (f : Queue → Queue) (s : State) : (updQueue q f s).thermTripped = s.thermTripped := rfl
@[simp] theorem boot_updQueue (q : Nat) (f : Queue → Queue) (s : State) : (updQueue q f s).boot = s.boot := rfl
@[simp] theorem calNow_updQueue (q : Nat) (f : Queue → Queue) (s : State) : (updQueue q f s).calNow = s.calNow := rfl
@[simp] theorem pcieUp_updQueue (q : Nat) (f : Queue → Queue) (s : State) : (updQueue q f s).pcieUp = s.pcieUp := rfl
@[simp] theorem sysmap_updQueue (q : Nat) (f : Queue → Queue) (s : State) : (updQueue q f s).sysmap = s.sysmap := rfl
@[simp] theorem pciCfg_updQueue (q : Nat) (f : Queue → Queue) (s : State) : (updQueue q f s).pciCfg = s.pciCfg := rfl
@[simp] theorem i3c_updQueue (q : Nat) (f : Queue → Queue) (s : State) : (updQueue q f s).i3c = s.i3c := rfl
@[simp] theorem ppsLast_updQueue (q : Nat) (f : Queue → Queue) (s : State) : (updQueue q f s).ppsLast = s.ppsLast := rfl
@[simp] theorem ptmLast_updQueue (q : Nat) (f : Queue → Queue) (s : State) : (updQueue q f s).ptmLast = s.ptmLast := rfl

/-! ## updBell -/

@[simp] theorem pending_updBell (q : Nat) (f : Bell → Bell) (s : State) : (updBell q f s).pending = s.pending := rfl
@[simp] theorem now_updBell (q : Nat) (f : Bell → Bell) (s : State) : (updBell q f s).now = s.now := rfl
@[simp] theorem nowFrac_updBell (q : Nat) (f : Bell → Bell) (s : State) : (updBell q f s).nowFrac = s.nowFrac := rfl
@[simp] theorem free_updBell (q : Nat) (f : Bell → Bell) (s : State) : (updBell q f s).free = s.free := rfl
@[simp] theorem out_updBell (q : Nat) (f : Bell → Bell) (s : State) : (updBell q f s).out = s.out := rfl
@[simp] theorem regs_updBell (q : Nat) (f : Bell → Bell) (s : State) : (updBell q f s).regs = s.regs := rfl
@[simp] theorem wide_updBell (q : Nat) (f : Bell → Bell) (s : State) : (updBell q f s).wide = s.wide := rfl
@[simp] theorem txns_updBell (q : Nat) (f : Bell → Bell) (s : State) : (updBell q f s).txns = s.txns := rfl
@[simp] theorem group_updBell (q : Nat) (f : Bell → Bell) (s : State) : (updBell q f s).group = s.group := rfl
@[simp] theorem mem_updBell (q : Nat) (f : Bell → Bell) (s : State) : (updBell q f s).mem = s.mem := rfl
@[simp] theorem acc_updBell (q : Nat) (f : Bell → Bell) (s : State) : (updBell q f s).acc = s.acc := rfl
@[simp] theorem slots_updBell (q : Nat) (f : Bell → Bell) (s : State) : (updBell q f s).slots = s.slots := rfl
@[simp] theorem tiles_updBell (q : Nat) (f : Bell → Bell) (s : State) : (updBell q f s).tiles = s.tiles := rfl
@[simp] theorem partials_updBell (q : Nat) (f : Bell → Bell) (s : State) : (updBell q f s).partials = s.partials := rfl
@[simp] theorem marks_updBell (q : Nat) (f : Bell → Bell) (s : State) : (updBell q f s).marks = s.marks := rfl
@[simp] theorem written_updBell (q : Nat) (f : Bell → Bell) (s : State) : (updBell q f s).written = s.written := rfl
@[simp] theorem logs_updBell (q : Nat) (f : Bell → Bell) (s : State) : (updBell q f s).logs = s.logs := rfl
@[simp] theorem scrubs_updBell (q : Nat) (f : Bell → Bell) (s : State) : (updBell q f s).scrubs = s.scrubs := rfl
@[simp] theorem scrubHits_updBell (q : Nat) (f : Bell → Bell) (s : State) : (updBell q f s).scrubHits = s.scrubHits := rfl
@[simp] theorem tileSt_updBell (q : Nat) (f : Bell → Bell) (s : State) : (updBell q f s).tileSt = s.tileSt := rfl
@[simp] theorem substs_updBell (q : Nat) (f : Bell → Bell) (s : State) : (updBell q f s).substs = s.substs := rfl
@[simp] theorem failing_updBell (q : Nat) (f : Bell → Bell) (s : State) : (updBell q f s).failing = s.failing := rfl
@[simp] theorem selftestDue_updBell (q : Nat) (f : Bell → Bell) (s : State) : (updBell q f s).selftestDue = s.selftestDue := rfl
@[simp] theorem repairQueue_updBell (q : Nat) (f : Bell → Bell) (s : State) : (updBell q f s).repairQueue = s.repairQueue := rfl
@[simp] theorem queues_updBell (q : Nat) (f : Bell → Bell) (s : State) : (updBell q f s).queues = s.queues := rfl
@[simp] theorem undelivered_updBell (q : Nat) (f : Bell → Bell) (s : State) : (updBell q f s).undelivered = s.undelivered := rfl
@[simp] theorem ctxs_updBell (q : Nat) (f : Bell → Bell) (s : State) : (updBell q f s).ctxs = s.ctxs := rfl
@[simp] theorem order_updBell (q : Nat) (f : Bell → Bell) (s : State) : (updBell q f s).order = s.order := rfl
@[simp] theorem stamp_updBell (q : Nat) (f : Bell → Bell) (s : State) : (updBell q f s).stamp = s.stamp := rfl
@[simp] theorem progs_updBell (q : Nat) (f : Bell → Bell) (s : State) : (updBell q f s).progs = s.progs := rfl
@[simp] theorem sems_updBell (q : Nat) (f : Bell → Bell) (s : State) : (updBell q f s).sems = s.sems := rfl
@[simp] theorem stateReq_updBell (q : Nat) (f : Bell → Bell) (s : State) : (updBell q f s).stateReq = s.stateReq := rfl
@[simp] theorem heldReq_updBell (q : Nat) (f : Bell → Bell) (s : State) : (updBell q f s).heldReq = s.heldReq := rfl
@[simp] theorem stallSince_updBell (q : Nat) (f : Bell → Bell) (s : State) : (updBell q f s).stallSince = s.stallSince := rfl
@[simp] theorem bells_updBell (q : Nat) (f : Bell → Bell) (s : State) : (updBell q f s).bells = updAt s.bells q f := rfl
@[simp] theorem audits_updBell (q : Nat) (f : Bell → Bell) (s : State) : (updBell q f s).audits = s.audits := rfl
@[simp] theorem auditRun_updBell (q : Nat) (f : Bell → Bell) (s : State) : (updBell q f s).auditRun = s.auditRun := rfl
@[simp] theorem auditStarted_updBell (q : Nat) (f : Bell → Bell) (s : State) : (updBell q f s).auditStarted = s.auditStarted := rfl
@[simp] theorem cert_updBell (q : Nat) (f : Bell → Bell) (s : State) : (updBell q f s).cert = s.cert := rfl
@[simp] theorem links_updBell (q : Nat) (f : Bell → Bell) (s : State) : (updBell q f s).links = s.links := rfl
@[simp] theorem net_updBell (q : Nat) (f : Bell → Bell) (s : State) : (updBell q f s).net = s.net := rfl
@[simp] theorem flash_updBell (q : Nat) (f : Bell → Bell) (s : State) : (updBell q f s).flash = s.flash := rfl
@[simp] theorem fuses_updBell (q : Nat) (f : Bell → Bell) (s : State) : (updBell q f s).fuses = s.fuses := rfl
@[simp] theorem sec_updBell (q : Nat) (f : Bell → Bell) (s : State) : (updBell q f s).sec = s.sec := rfl
@[simp] theorem ent_updBell (q : Nat) (f : Bell → Bell) (s : State) : (updBell q f s).ent = s.ent := rfl
@[simp] theorem power_updBell (q : Nat) (f : Bell → Bell) (s : State) : (updBell q f s).power = s.power := rfl
@[simp] theorem margins_updBell (q : Nat) (f : Bell → Bell) (s : State) : (updBell q f s).margins = s.margins := rfl
@[simp] theorem sensors_updBell (q : Nat) (f : Bell → Bell) (s : State) : (updBell q f s).sensors = s.sensors := rfl
@[simp] theorem issueHold_updBell (q : Nat) (f : Bell → Bell) (s : State) : (updBell q f s).issueHold = s.issueHold := rfl
@[simp] theorem thermTripped_updBell (q : Nat) (f : Bell → Bell) (s : State) : (updBell q f s).thermTripped = s.thermTripped := rfl
@[simp] theorem boot_updBell (q : Nat) (f : Bell → Bell) (s : State) : (updBell q f s).boot = s.boot := rfl
@[simp] theorem calNow_updBell (q : Nat) (f : Bell → Bell) (s : State) : (updBell q f s).calNow = s.calNow := rfl
@[simp] theorem pcieUp_updBell (q : Nat) (f : Bell → Bell) (s : State) : (updBell q f s).pcieUp = s.pcieUp := rfl
@[simp] theorem sysmap_updBell (q : Nat) (f : Bell → Bell) (s : State) : (updBell q f s).sysmap = s.sysmap := rfl
@[simp] theorem pciCfg_updBell (q : Nat) (f : Bell → Bell) (s : State) : (updBell q f s).pciCfg = s.pciCfg := rfl
@[simp] theorem i3c_updBell (q : Nat) (f : Bell → Bell) (s : State) : (updBell q f s).i3c = s.i3c := rfl
@[simp] theorem ppsLast_updBell (q : Nat) (f : Bell → Bell) (s : State) : (updBell q f s).ppsLast = s.ppsLast := rfl
@[simp] theorem ptmLast_updBell (q : Nat) (f : Bell → Bell) (s : State) : (updBell q f s).ptmLast = s.ptmLast := rfl

/-! ## updLink -/

@[simp] theorem pending_updLink (l : Nat) (f : Link → Link) (s : State) : (updLink l f s).pending = s.pending := rfl
@[simp] theorem now_updLink (l : Nat) (f : Link → Link) (s : State) : (updLink l f s).now = s.now := rfl
@[simp] theorem nowFrac_updLink (l : Nat) (f : Link → Link) (s : State) : (updLink l f s).nowFrac = s.nowFrac := rfl
@[simp] theorem free_updLink (l : Nat) (f : Link → Link) (s : State) : (updLink l f s).free = s.free := rfl
@[simp] theorem out_updLink (l : Nat) (f : Link → Link) (s : State) : (updLink l f s).out = s.out := rfl
@[simp] theorem regs_updLink (l : Nat) (f : Link → Link) (s : State) : (updLink l f s).regs = s.regs := rfl
@[simp] theorem wide_updLink (l : Nat) (f : Link → Link) (s : State) : (updLink l f s).wide = s.wide := rfl
@[simp] theorem txns_updLink (l : Nat) (f : Link → Link) (s : State) : (updLink l f s).txns = s.txns := rfl
@[simp] theorem group_updLink (l : Nat) (f : Link → Link) (s : State) : (updLink l f s).group = s.group := rfl
@[simp] theorem mem_updLink (l : Nat) (f : Link → Link) (s : State) : (updLink l f s).mem = s.mem := rfl
@[simp] theorem acc_updLink (l : Nat) (f : Link → Link) (s : State) : (updLink l f s).acc = s.acc := rfl
@[simp] theorem slots_updLink (l : Nat) (f : Link → Link) (s : State) : (updLink l f s).slots = s.slots := rfl
@[simp] theorem tiles_updLink (l : Nat) (f : Link → Link) (s : State) : (updLink l f s).tiles = s.tiles := rfl
@[simp] theorem partials_updLink (l : Nat) (f : Link → Link) (s : State) : (updLink l f s).partials = s.partials := rfl
@[simp] theorem marks_updLink (l : Nat) (f : Link → Link) (s : State) : (updLink l f s).marks = s.marks := rfl
@[simp] theorem written_updLink (l : Nat) (f : Link → Link) (s : State) : (updLink l f s).written = s.written := rfl
@[simp] theorem logs_updLink (l : Nat) (f : Link → Link) (s : State) : (updLink l f s).logs = s.logs := rfl
@[simp] theorem scrubs_updLink (l : Nat) (f : Link → Link) (s : State) : (updLink l f s).scrubs = s.scrubs := rfl
@[simp] theorem scrubHits_updLink (l : Nat) (f : Link → Link) (s : State) : (updLink l f s).scrubHits = s.scrubHits := rfl
@[simp] theorem tileSt_updLink (l : Nat) (f : Link → Link) (s : State) : (updLink l f s).tileSt = s.tileSt := rfl
@[simp] theorem substs_updLink (l : Nat) (f : Link → Link) (s : State) : (updLink l f s).substs = s.substs := rfl
@[simp] theorem failing_updLink (l : Nat) (f : Link → Link) (s : State) : (updLink l f s).failing = s.failing := rfl
@[simp] theorem selftestDue_updLink (l : Nat) (f : Link → Link) (s : State) : (updLink l f s).selftestDue = s.selftestDue := rfl
@[simp] theorem repairQueue_updLink (l : Nat) (f : Link → Link) (s : State) : (updLink l f s).repairQueue = s.repairQueue := rfl
@[simp] theorem queues_updLink (l : Nat) (f : Link → Link) (s : State) : (updLink l f s).queues = s.queues := rfl
@[simp] theorem undelivered_updLink (l : Nat) (f : Link → Link) (s : State) : (updLink l f s).undelivered = s.undelivered := rfl
@[simp] theorem ctxs_updLink (l : Nat) (f : Link → Link) (s : State) : (updLink l f s).ctxs = s.ctxs := rfl
@[simp] theorem order_updLink (l : Nat) (f : Link → Link) (s : State) : (updLink l f s).order = s.order := rfl
@[simp] theorem stamp_updLink (l : Nat) (f : Link → Link) (s : State) : (updLink l f s).stamp = s.stamp := rfl
@[simp] theorem progs_updLink (l : Nat) (f : Link → Link) (s : State) : (updLink l f s).progs = s.progs := rfl
@[simp] theorem sems_updLink (l : Nat) (f : Link → Link) (s : State) : (updLink l f s).sems = s.sems := rfl
@[simp] theorem stateReq_updLink (l : Nat) (f : Link → Link) (s : State) : (updLink l f s).stateReq = s.stateReq := rfl
@[simp] theorem heldReq_updLink (l : Nat) (f : Link → Link) (s : State) : (updLink l f s).heldReq = s.heldReq := rfl
@[simp] theorem stallSince_updLink (l : Nat) (f : Link → Link) (s : State) : (updLink l f s).stallSince = s.stallSince := rfl
@[simp] theorem bells_updLink (l : Nat) (f : Link → Link) (s : State) : (updLink l f s).bells = s.bells := rfl
@[simp] theorem audits_updLink (l : Nat) (f : Link → Link) (s : State) : (updLink l f s).audits = s.audits := rfl
@[simp] theorem auditRun_updLink (l : Nat) (f : Link → Link) (s : State) : (updLink l f s).auditRun = s.auditRun := rfl
@[simp] theorem auditStarted_updLink (l : Nat) (f : Link → Link) (s : State) : (updLink l f s).auditStarted = s.auditStarted := rfl
@[simp] theorem cert_updLink (l : Nat) (f : Link → Link) (s : State) : (updLink l f s).cert = s.cert := rfl
@[simp] theorem links_updLink (l : Nat) (f : Link → Link) (s : State) : (updLink l f s).links = updAt s.links l f := rfl
@[simp] theorem net_updLink (l : Nat) (f : Link → Link) (s : State) : (updLink l f s).net = s.net := rfl
@[simp] theorem flash_updLink (l : Nat) (f : Link → Link) (s : State) : (updLink l f s).flash = s.flash := rfl
@[simp] theorem fuses_updLink (l : Nat) (f : Link → Link) (s : State) : (updLink l f s).fuses = s.fuses := rfl
@[simp] theorem sec_updLink (l : Nat) (f : Link → Link) (s : State) : (updLink l f s).sec = s.sec := rfl
@[simp] theorem ent_updLink (l : Nat) (f : Link → Link) (s : State) : (updLink l f s).ent = s.ent := rfl
@[simp] theorem power_updLink (l : Nat) (f : Link → Link) (s : State) : (updLink l f s).power = s.power := rfl
@[simp] theorem margins_updLink (l : Nat) (f : Link → Link) (s : State) : (updLink l f s).margins = s.margins := rfl
@[simp] theorem sensors_updLink (l : Nat) (f : Link → Link) (s : State) : (updLink l f s).sensors = s.sensors := rfl
@[simp] theorem issueHold_updLink (l : Nat) (f : Link → Link) (s : State) : (updLink l f s).issueHold = s.issueHold := rfl
@[simp] theorem thermTripped_updLink (l : Nat) (f : Link → Link) (s : State) : (updLink l f s).thermTripped = s.thermTripped := rfl
@[simp] theorem boot_updLink (l : Nat) (f : Link → Link) (s : State) : (updLink l f s).boot = s.boot := rfl
@[simp] theorem calNow_updLink (l : Nat) (f : Link → Link) (s : State) : (updLink l f s).calNow = s.calNow := rfl
@[simp] theorem pcieUp_updLink (l : Nat) (f : Link → Link) (s : State) : (updLink l f s).pcieUp = s.pcieUp := rfl
@[simp] theorem sysmap_updLink (l : Nat) (f : Link → Link) (s : State) : (updLink l f s).sysmap = s.sysmap := rfl
@[simp] theorem pciCfg_updLink (l : Nat) (f : Link → Link) (s : State) : (updLink l f s).pciCfg = s.pciCfg := rfl
@[simp] theorem i3c_updLink (l : Nat) (f : Link → Link) (s : State) : (updLink l f s).i3c = s.i3c := rfl
@[simp] theorem ppsLast_updLink (l : Nat) (f : Link → Link) (s : State) : (updLink l f s).ppsLast = s.ppsLast := rfl
@[simp] theorem ptmLast_updLink (l : Nat) (f : Link → Link) (s : State) : (updLink l f s).ptmLast = s.ptmLast := rfl

/-! ## updNet -/

@[simp] theorem pending_updNet (f : Net → Net) (s : State) : (updNet f s).pending = s.pending := rfl
@[simp] theorem now_updNet (f : Net → Net) (s : State) : (updNet f s).now = s.now := rfl
@[simp] theorem nowFrac_updNet (f : Net → Net) (s : State) : (updNet f s).nowFrac = s.nowFrac := rfl
@[simp] theorem free_updNet (f : Net → Net) (s : State) : (updNet f s).free = s.free := rfl
@[simp] theorem out_updNet (f : Net → Net) (s : State) : (updNet f s).out = s.out := rfl
@[simp] theorem regs_updNet (f : Net → Net) (s : State) : (updNet f s).regs = s.regs := rfl
@[simp] theorem wide_updNet (f : Net → Net) (s : State) : (updNet f s).wide = s.wide := rfl
@[simp] theorem txns_updNet (f : Net → Net) (s : State) : (updNet f s).txns = s.txns := rfl
@[simp] theorem group_updNet (f : Net → Net) (s : State) : (updNet f s).group = s.group := rfl
@[simp] theorem mem_updNet (f : Net → Net) (s : State) : (updNet f s).mem = s.mem := rfl
@[simp] theorem acc_updNet (f : Net → Net) (s : State) : (updNet f s).acc = s.acc := rfl
@[simp] theorem slots_updNet (f : Net → Net) (s : State) : (updNet f s).slots = s.slots := rfl
@[simp] theorem tiles_updNet (f : Net → Net) (s : State) : (updNet f s).tiles = s.tiles := rfl
@[simp] theorem partials_updNet (f : Net → Net) (s : State) : (updNet f s).partials = s.partials := rfl
@[simp] theorem marks_updNet (f : Net → Net) (s : State) : (updNet f s).marks = s.marks := rfl
@[simp] theorem written_updNet (f : Net → Net) (s : State) : (updNet f s).written = s.written := rfl
@[simp] theorem logs_updNet (f : Net → Net) (s : State) : (updNet f s).logs = s.logs := rfl
@[simp] theorem scrubs_updNet (f : Net → Net) (s : State) : (updNet f s).scrubs = s.scrubs := rfl
@[simp] theorem scrubHits_updNet (f : Net → Net) (s : State) : (updNet f s).scrubHits = s.scrubHits := rfl
@[simp] theorem tileSt_updNet (f : Net → Net) (s : State) : (updNet f s).tileSt = s.tileSt := rfl
@[simp] theorem substs_updNet (f : Net → Net) (s : State) : (updNet f s).substs = s.substs := rfl
@[simp] theorem failing_updNet (f : Net → Net) (s : State) : (updNet f s).failing = s.failing := rfl
@[simp] theorem selftestDue_updNet (f : Net → Net) (s : State) : (updNet f s).selftestDue = s.selftestDue := rfl
@[simp] theorem repairQueue_updNet (f : Net → Net) (s : State) : (updNet f s).repairQueue = s.repairQueue := rfl
@[simp] theorem queues_updNet (f : Net → Net) (s : State) : (updNet f s).queues = s.queues := rfl
@[simp] theorem undelivered_updNet (f : Net → Net) (s : State) : (updNet f s).undelivered = s.undelivered := rfl
@[simp] theorem ctxs_updNet (f : Net → Net) (s : State) : (updNet f s).ctxs = s.ctxs := rfl
@[simp] theorem order_updNet (f : Net → Net) (s : State) : (updNet f s).order = s.order := rfl
@[simp] theorem stamp_updNet (f : Net → Net) (s : State) : (updNet f s).stamp = s.stamp := rfl
@[simp] theorem progs_updNet (f : Net → Net) (s : State) : (updNet f s).progs = s.progs := rfl
@[simp] theorem sems_updNet (f : Net → Net) (s : State) : (updNet f s).sems = s.sems := rfl
@[simp] theorem stateReq_updNet (f : Net → Net) (s : State) : (updNet f s).stateReq = s.stateReq := rfl
@[simp] theorem heldReq_updNet (f : Net → Net) (s : State) : (updNet f s).heldReq = s.heldReq := rfl
@[simp] theorem stallSince_updNet (f : Net → Net) (s : State) : (updNet f s).stallSince = s.stallSince := rfl
@[simp] theorem bells_updNet (f : Net → Net) (s : State) : (updNet f s).bells = s.bells := rfl
@[simp] theorem audits_updNet (f : Net → Net) (s : State) : (updNet f s).audits = s.audits := rfl
@[simp] theorem auditRun_updNet (f : Net → Net) (s : State) : (updNet f s).auditRun = s.auditRun := rfl
@[simp] theorem auditStarted_updNet (f : Net → Net) (s : State) : (updNet f s).auditStarted = s.auditStarted := rfl
@[simp] theorem cert_updNet (f : Net → Net) (s : State) : (updNet f s).cert = s.cert := rfl
@[simp] theorem links_updNet (f : Net → Net) (s : State) : (updNet f s).links = s.links := rfl
@[simp] theorem net_updNet (f : Net → Net) (s : State) : (updNet f s).net = f s.net := rfl
@[simp] theorem flash_updNet (f : Net → Net) (s : State) : (updNet f s).flash = s.flash := rfl
@[simp] theorem fuses_updNet (f : Net → Net) (s : State) : (updNet f s).fuses = s.fuses := rfl
@[simp] theorem sec_updNet (f : Net → Net) (s : State) : (updNet f s).sec = s.sec := rfl
@[simp] theorem ent_updNet (f : Net → Net) (s : State) : (updNet f s).ent = s.ent := rfl
@[simp] theorem power_updNet (f : Net → Net) (s : State) : (updNet f s).power = s.power := rfl
@[simp] theorem margins_updNet (f : Net → Net) (s : State) : (updNet f s).margins = s.margins := rfl
@[simp] theorem sensors_updNet (f : Net → Net) (s : State) : (updNet f s).sensors = s.sensors := rfl
@[simp] theorem issueHold_updNet (f : Net → Net) (s : State) : (updNet f s).issueHold = s.issueHold := rfl
@[simp] theorem thermTripped_updNet (f : Net → Net) (s : State) : (updNet f s).thermTripped = s.thermTripped := rfl
@[simp] theorem boot_updNet (f : Net → Net) (s : State) : (updNet f s).boot = s.boot := rfl
@[simp] theorem calNow_updNet (f : Net → Net) (s : State) : (updNet f s).calNow = s.calNow := rfl
@[simp] theorem pcieUp_updNet (f : Net → Net) (s : State) : (updNet f s).pcieUp = s.pcieUp := rfl
@[simp] theorem sysmap_updNet (f : Net → Net) (s : State) : (updNet f s).sysmap = s.sysmap := rfl
@[simp] theorem pciCfg_updNet (f : Net → Net) (s : State) : (updNet f s).pciCfg = s.pciCfg := rfl
@[simp] theorem i3c_updNet (f : Net → Net) (s : State) : (updNet f s).i3c = s.i3c := rfl
@[simp] theorem ppsLast_updNet (f : Net → Net) (s : State) : (updNet f s).ppsLast = s.ppsLast := rfl
@[simp] theorem ptmLast_updNet (f : Net → Net) (s : State) : (updNet f s).ptmLast = s.ptmLast := rfl

/-! ## updCert -/

@[simp] theorem pending_updCert (f : CertUnit → CertUnit) (s : State) : (updCert f s).pending = s.pending := rfl
@[simp] theorem now_updCert (f : CertUnit → CertUnit) (s : State) : (updCert f s).now = s.now := rfl
@[simp] theorem nowFrac_updCert (f : CertUnit → CertUnit) (s : State) : (updCert f s).nowFrac = s.nowFrac := rfl
@[simp] theorem free_updCert (f : CertUnit → CertUnit) (s : State) : (updCert f s).free = s.free := rfl
@[simp] theorem out_updCert (f : CertUnit → CertUnit) (s : State) : (updCert f s).out = s.out := rfl
@[simp] theorem regs_updCert (f : CertUnit → CertUnit) (s : State) : (updCert f s).regs = s.regs := rfl
@[simp] theorem wide_updCert (f : CertUnit → CertUnit) (s : State) : (updCert f s).wide = s.wide := rfl
@[simp] theorem txns_updCert (f : CertUnit → CertUnit) (s : State) : (updCert f s).txns = s.txns := rfl
@[simp] theorem group_updCert (f : CertUnit → CertUnit) (s : State) : (updCert f s).group = s.group := rfl
@[simp] theorem mem_updCert (f : CertUnit → CertUnit) (s : State) : (updCert f s).mem = s.mem := rfl
@[simp] theorem acc_updCert (f : CertUnit → CertUnit) (s : State) : (updCert f s).acc = s.acc := rfl
@[simp] theorem slots_updCert (f : CertUnit → CertUnit) (s : State) : (updCert f s).slots = s.slots := rfl
@[simp] theorem tiles_updCert (f : CertUnit → CertUnit) (s : State) : (updCert f s).tiles = s.tiles := rfl
@[simp] theorem partials_updCert (f : CertUnit → CertUnit) (s : State) : (updCert f s).partials = s.partials := rfl
@[simp] theorem marks_updCert (f : CertUnit → CertUnit) (s : State) : (updCert f s).marks = s.marks := rfl
@[simp] theorem written_updCert (f : CertUnit → CertUnit) (s : State) : (updCert f s).written = s.written := rfl
@[simp] theorem logs_updCert (f : CertUnit → CertUnit) (s : State) : (updCert f s).logs = s.logs := rfl
@[simp] theorem scrubs_updCert (f : CertUnit → CertUnit) (s : State) : (updCert f s).scrubs = s.scrubs := rfl
@[simp] theorem scrubHits_updCert (f : CertUnit → CertUnit) (s : State) : (updCert f s).scrubHits = s.scrubHits := rfl
@[simp] theorem tileSt_updCert (f : CertUnit → CertUnit) (s : State) : (updCert f s).tileSt = s.tileSt := rfl
@[simp] theorem substs_updCert (f : CertUnit → CertUnit) (s : State) : (updCert f s).substs = s.substs := rfl
@[simp] theorem failing_updCert (f : CertUnit → CertUnit) (s : State) : (updCert f s).failing = s.failing := rfl
@[simp] theorem selftestDue_updCert (f : CertUnit → CertUnit) (s : State) : (updCert f s).selftestDue = s.selftestDue := rfl
@[simp] theorem repairQueue_updCert (f : CertUnit → CertUnit) (s : State) : (updCert f s).repairQueue = s.repairQueue := rfl
@[simp] theorem queues_updCert (f : CertUnit → CertUnit) (s : State) : (updCert f s).queues = s.queues := rfl
@[simp] theorem undelivered_updCert (f : CertUnit → CertUnit) (s : State) : (updCert f s).undelivered = s.undelivered := rfl
@[simp] theorem ctxs_updCert (f : CertUnit → CertUnit) (s : State) : (updCert f s).ctxs = s.ctxs := rfl
@[simp] theorem order_updCert (f : CertUnit → CertUnit) (s : State) : (updCert f s).order = s.order := rfl
@[simp] theorem stamp_updCert (f : CertUnit → CertUnit) (s : State) : (updCert f s).stamp = s.stamp := rfl
@[simp] theorem progs_updCert (f : CertUnit → CertUnit) (s : State) : (updCert f s).progs = s.progs := rfl
@[simp] theorem sems_updCert (f : CertUnit → CertUnit) (s : State) : (updCert f s).sems = s.sems := rfl
@[simp] theorem stateReq_updCert (f : CertUnit → CertUnit) (s : State) : (updCert f s).stateReq = s.stateReq := rfl
@[simp] theorem heldReq_updCert (f : CertUnit → CertUnit) (s : State) : (updCert f s).heldReq = s.heldReq := rfl
@[simp] theorem stallSince_updCert (f : CertUnit → CertUnit) (s : State) : (updCert f s).stallSince = s.stallSince := rfl
@[simp] theorem bells_updCert (f : CertUnit → CertUnit) (s : State) : (updCert f s).bells = s.bells := rfl
@[simp] theorem audits_updCert (f : CertUnit → CertUnit) (s : State) : (updCert f s).audits = s.audits := rfl
@[simp] theorem auditRun_updCert (f : CertUnit → CertUnit) (s : State) : (updCert f s).auditRun = s.auditRun := rfl
@[simp] theorem auditStarted_updCert (f : CertUnit → CertUnit) (s : State) : (updCert f s).auditStarted = s.auditStarted := rfl
@[simp] theorem cert_updCert (f : CertUnit → CertUnit) (s : State) : (updCert f s).cert = f s.cert := rfl
@[simp] theorem links_updCert (f : CertUnit → CertUnit) (s : State) : (updCert f s).links = s.links := rfl
@[simp] theorem net_updCert (f : CertUnit → CertUnit) (s : State) : (updCert f s).net = s.net := rfl
@[simp] theorem flash_updCert (f : CertUnit → CertUnit) (s : State) : (updCert f s).flash = s.flash := rfl
@[simp] theorem fuses_updCert (f : CertUnit → CertUnit) (s : State) : (updCert f s).fuses = s.fuses := rfl
@[simp] theorem sec_updCert (f : CertUnit → CertUnit) (s : State) : (updCert f s).sec = s.sec := rfl
@[simp] theorem ent_updCert (f : CertUnit → CertUnit) (s : State) : (updCert f s).ent = s.ent := rfl
@[simp] theorem power_updCert (f : CertUnit → CertUnit) (s : State) : (updCert f s).power = s.power := rfl
@[simp] theorem margins_updCert (f : CertUnit → CertUnit) (s : State) : (updCert f s).margins = s.margins := rfl
@[simp] theorem sensors_updCert (f : CertUnit → CertUnit) (s : State) : (updCert f s).sensors = s.sensors := rfl
@[simp] theorem issueHold_updCert (f : CertUnit → CertUnit) (s : State) : (updCert f s).issueHold = s.issueHold := rfl
@[simp] theorem thermTripped_updCert (f : CertUnit → CertUnit) (s : State) : (updCert f s).thermTripped = s.thermTripped := rfl
@[simp] theorem boot_updCert (f : CertUnit → CertUnit) (s : State) : (updCert f s).boot = s.boot := rfl
@[simp] theorem calNow_updCert (f : CertUnit → CertUnit) (s : State) : (updCert f s).calNow = s.calNow := rfl
@[simp] theorem pcieUp_updCert (f : CertUnit → CertUnit) (s : State) : (updCert f s).pcieUp = s.pcieUp := rfl
@[simp] theorem sysmap_updCert (f : CertUnit → CertUnit) (s : State) : (updCert f s).sysmap = s.sysmap := rfl
@[simp] theorem pciCfg_updCert (f : CertUnit → CertUnit) (s : State) : (updCert f s).pciCfg = s.pciCfg := rfl
@[simp] theorem i3c_updCert (f : CertUnit → CertUnit) (s : State) : (updCert f s).i3c = s.i3c := rfl
@[simp] theorem ppsLast_updCert (f : CertUnit → CertUnit) (s : State) : (updCert f s).ppsLast = s.ppsLast := rfl
@[simp] theorem ptmLast_updCert (f : CertUnit → CertUnit) (s : State) : (updCert f s).ptmLast = s.ptmLast := rfl

/-! ## updAudit -/

@[simp] theorem pending_updAudit (f : AuditJob → AuditJob) (s : State) : (updAudit f s).pending = s.pending := rfl
@[simp] theorem now_updAudit (f : AuditJob → AuditJob) (s : State) : (updAudit f s).now = s.now := rfl
@[simp] theorem nowFrac_updAudit (f : AuditJob → AuditJob) (s : State) : (updAudit f s).nowFrac = s.nowFrac := rfl
@[simp] theorem free_updAudit (f : AuditJob → AuditJob) (s : State) : (updAudit f s).free = s.free := rfl
@[simp] theorem out_updAudit (f : AuditJob → AuditJob) (s : State) : (updAudit f s).out = s.out := rfl
@[simp] theorem regs_updAudit (f : AuditJob → AuditJob) (s : State) : (updAudit f s).regs = s.regs := rfl
@[simp] theorem wide_updAudit (f : AuditJob → AuditJob) (s : State) : (updAudit f s).wide = s.wide := rfl
@[simp] theorem txns_updAudit (f : AuditJob → AuditJob) (s : State) : (updAudit f s).txns = s.txns := rfl
@[simp] theorem group_updAudit (f : AuditJob → AuditJob) (s : State) : (updAudit f s).group = s.group := rfl
@[simp] theorem mem_updAudit (f : AuditJob → AuditJob) (s : State) : (updAudit f s).mem = s.mem := rfl
@[simp] theorem acc_updAudit (f : AuditJob → AuditJob) (s : State) : (updAudit f s).acc = s.acc := rfl
@[simp] theorem slots_updAudit (f : AuditJob → AuditJob) (s : State) : (updAudit f s).slots = s.slots := rfl
@[simp] theorem tiles_updAudit (f : AuditJob → AuditJob) (s : State) : (updAudit f s).tiles = s.tiles := rfl
@[simp] theorem partials_updAudit (f : AuditJob → AuditJob) (s : State) : (updAudit f s).partials = s.partials := rfl
@[simp] theorem marks_updAudit (f : AuditJob → AuditJob) (s : State) : (updAudit f s).marks = s.marks := rfl
@[simp] theorem written_updAudit (f : AuditJob → AuditJob) (s : State) : (updAudit f s).written = s.written := rfl
@[simp] theorem logs_updAudit (f : AuditJob → AuditJob) (s : State) : (updAudit f s).logs = s.logs := rfl
@[simp] theorem scrubs_updAudit (f : AuditJob → AuditJob) (s : State) : (updAudit f s).scrubs = s.scrubs := rfl
@[simp] theorem scrubHits_updAudit (f : AuditJob → AuditJob) (s : State) : (updAudit f s).scrubHits = s.scrubHits := rfl
@[simp] theorem tileSt_updAudit (f : AuditJob → AuditJob) (s : State) : (updAudit f s).tileSt = s.tileSt := rfl
@[simp] theorem substs_updAudit (f : AuditJob → AuditJob) (s : State) : (updAudit f s).substs = s.substs := rfl
@[simp] theorem failing_updAudit (f : AuditJob → AuditJob) (s : State) : (updAudit f s).failing = s.failing := rfl
@[simp] theorem selftestDue_updAudit (f : AuditJob → AuditJob) (s : State) : (updAudit f s).selftestDue = s.selftestDue := rfl
@[simp] theorem repairQueue_updAudit (f : AuditJob → AuditJob) (s : State) : (updAudit f s).repairQueue = s.repairQueue := rfl
@[simp] theorem queues_updAudit (f : AuditJob → AuditJob) (s : State) : (updAudit f s).queues = s.queues := rfl
@[simp] theorem undelivered_updAudit (f : AuditJob → AuditJob) (s : State) : (updAudit f s).undelivered = s.undelivered := rfl
@[simp] theorem ctxs_updAudit (f : AuditJob → AuditJob) (s : State) : (updAudit f s).ctxs = s.ctxs := rfl
@[simp] theorem order_updAudit (f : AuditJob → AuditJob) (s : State) : (updAudit f s).order = s.order := rfl
@[simp] theorem stamp_updAudit (f : AuditJob → AuditJob) (s : State) : (updAudit f s).stamp = s.stamp := rfl
@[simp] theorem progs_updAudit (f : AuditJob → AuditJob) (s : State) : (updAudit f s).progs = s.progs := rfl
@[simp] theorem sems_updAudit (f : AuditJob → AuditJob) (s : State) : (updAudit f s).sems = s.sems := rfl
@[simp] theorem stateReq_updAudit (f : AuditJob → AuditJob) (s : State) : (updAudit f s).stateReq = s.stateReq := rfl
@[simp] theorem heldReq_updAudit (f : AuditJob → AuditJob) (s : State) : (updAudit f s).heldReq = s.heldReq := rfl
@[simp] theorem stallSince_updAudit (f : AuditJob → AuditJob) (s : State) : (updAudit f s).stallSince = s.stallSince := rfl
@[simp] theorem bells_updAudit (f : AuditJob → AuditJob) (s : State) : (updAudit f s).bells = s.bells := rfl
@[simp] theorem audits_updAudit (f : AuditJob → AuditJob) (s : State) : (updAudit f s).audits = s.audits := rfl
@[simp] theorem auditRun_updAudit (f : AuditJob → AuditJob) (s : State) : (updAudit f s).auditRun = s.auditRun.map f := rfl
@[simp] theorem auditStarted_updAudit (f : AuditJob → AuditJob) (s : State) : (updAudit f s).auditStarted = s.auditStarted := rfl
@[simp] theorem cert_updAudit (f : AuditJob → AuditJob) (s : State) : (updAudit f s).cert = s.cert := rfl
@[simp] theorem links_updAudit (f : AuditJob → AuditJob) (s : State) : (updAudit f s).links = s.links := rfl
@[simp] theorem net_updAudit (f : AuditJob → AuditJob) (s : State) : (updAudit f s).net = s.net := rfl
@[simp] theorem flash_updAudit (f : AuditJob → AuditJob) (s : State) : (updAudit f s).flash = s.flash := rfl
@[simp] theorem fuses_updAudit (f : AuditJob → AuditJob) (s : State) : (updAudit f s).fuses = s.fuses := rfl
@[simp] theorem sec_updAudit (f : AuditJob → AuditJob) (s : State) : (updAudit f s).sec = s.sec := rfl
@[simp] theorem ent_updAudit (f : AuditJob → AuditJob) (s : State) : (updAudit f s).ent = s.ent := rfl
@[simp] theorem power_updAudit (f : AuditJob → AuditJob) (s : State) : (updAudit f s).power = s.power := rfl
@[simp] theorem margins_updAudit (f : AuditJob → AuditJob) (s : State) : (updAudit f s).margins = s.margins := rfl
@[simp] theorem sensors_updAudit (f : AuditJob → AuditJob) (s : State) : (updAudit f s).sensors = s.sensors := rfl
@[simp] theorem issueHold_updAudit (f : AuditJob → AuditJob) (s : State) : (updAudit f s).issueHold = s.issueHold := rfl
@[simp] theorem thermTripped_updAudit (f : AuditJob → AuditJob) (s : State) : (updAudit f s).thermTripped = s.thermTripped := rfl
@[simp] theorem boot_updAudit (f : AuditJob → AuditJob) (s : State) : (updAudit f s).boot = s.boot := rfl
@[simp] theorem calNow_updAudit (f : AuditJob → AuditJob) (s : State) : (updAudit f s).calNow = s.calNow := rfl
@[simp] theorem pcieUp_updAudit (f : AuditJob → AuditJob) (s : State) : (updAudit f s).pcieUp = s.pcieUp := rfl
@[simp] theorem sysmap_updAudit (f : AuditJob → AuditJob) (s : State) : (updAudit f s).sysmap = s.sysmap := rfl
@[simp] theorem pciCfg_updAudit (f : AuditJob → AuditJob) (s : State) : (updAudit f s).pciCfg = s.pciCfg := rfl
@[simp] theorem i3c_updAudit (f : AuditJob → AuditJob) (s : State) : (updAudit f s).i3c = s.i3c := rfl
@[simp] theorem ppsLast_updAudit (f : AuditJob → AuditJob) (s : State) : (updAudit f s).ppsLast = s.ppsLast := rfl
@[simp] theorem ptmLast_updAudit (f : AuditJob → AuditJob) (s : State) : (updAudit f s).ptmLast = s.ptmLast := rfl

/-! ## updEnt -/

@[simp] theorem pending_updEnt (f : Entropy → Entropy) (s : State) : (updEnt f s).pending = s.pending := rfl
@[simp] theorem now_updEnt (f : Entropy → Entropy) (s : State) : (updEnt f s).now = s.now := rfl
@[simp] theorem nowFrac_updEnt (f : Entropy → Entropy) (s : State) : (updEnt f s).nowFrac = s.nowFrac := rfl
@[simp] theorem free_updEnt (f : Entropy → Entropy) (s : State) : (updEnt f s).free = s.free := rfl
@[simp] theorem out_updEnt (f : Entropy → Entropy) (s : State) : (updEnt f s).out = s.out := rfl
@[simp] theorem regs_updEnt (f : Entropy → Entropy) (s : State) : (updEnt f s).regs = s.regs := rfl
@[simp] theorem wide_updEnt (f : Entropy → Entropy) (s : State) : (updEnt f s).wide = s.wide := rfl
@[simp] theorem txns_updEnt (f : Entropy → Entropy) (s : State) : (updEnt f s).txns = s.txns := rfl
@[simp] theorem group_updEnt (f : Entropy → Entropy) (s : State) : (updEnt f s).group = s.group := rfl
@[simp] theorem mem_updEnt (f : Entropy → Entropy) (s : State) : (updEnt f s).mem = s.mem := rfl
@[simp] theorem acc_updEnt (f : Entropy → Entropy) (s : State) : (updEnt f s).acc = s.acc := rfl
@[simp] theorem slots_updEnt (f : Entropy → Entropy) (s : State) : (updEnt f s).slots = s.slots := rfl
@[simp] theorem tiles_updEnt (f : Entropy → Entropy) (s : State) : (updEnt f s).tiles = s.tiles := rfl
@[simp] theorem partials_updEnt (f : Entropy → Entropy) (s : State) : (updEnt f s).partials = s.partials := rfl
@[simp] theorem marks_updEnt (f : Entropy → Entropy) (s : State) : (updEnt f s).marks = s.marks := rfl
@[simp] theorem written_updEnt (f : Entropy → Entropy) (s : State) : (updEnt f s).written = s.written := rfl
@[simp] theorem logs_updEnt (f : Entropy → Entropy) (s : State) : (updEnt f s).logs = s.logs := rfl
@[simp] theorem scrubs_updEnt (f : Entropy → Entropy) (s : State) : (updEnt f s).scrubs = s.scrubs := rfl
@[simp] theorem scrubHits_updEnt (f : Entropy → Entropy) (s : State) : (updEnt f s).scrubHits = s.scrubHits := rfl
@[simp] theorem tileSt_updEnt (f : Entropy → Entropy) (s : State) : (updEnt f s).tileSt = s.tileSt := rfl
@[simp] theorem substs_updEnt (f : Entropy → Entropy) (s : State) : (updEnt f s).substs = s.substs := rfl
@[simp] theorem failing_updEnt (f : Entropy → Entropy) (s : State) : (updEnt f s).failing = s.failing := rfl
@[simp] theorem selftestDue_updEnt (f : Entropy → Entropy) (s : State) : (updEnt f s).selftestDue = s.selftestDue := rfl
@[simp] theorem repairQueue_updEnt (f : Entropy → Entropy) (s : State) : (updEnt f s).repairQueue = s.repairQueue := rfl
@[simp] theorem queues_updEnt (f : Entropy → Entropy) (s : State) : (updEnt f s).queues = s.queues := rfl
@[simp] theorem undelivered_updEnt (f : Entropy → Entropy) (s : State) : (updEnt f s).undelivered = s.undelivered := rfl
@[simp] theorem ctxs_updEnt (f : Entropy → Entropy) (s : State) : (updEnt f s).ctxs = s.ctxs := rfl
@[simp] theorem order_updEnt (f : Entropy → Entropy) (s : State) : (updEnt f s).order = s.order := rfl
@[simp] theorem stamp_updEnt (f : Entropy → Entropy) (s : State) : (updEnt f s).stamp = s.stamp := rfl
@[simp] theorem progs_updEnt (f : Entropy → Entropy) (s : State) : (updEnt f s).progs = s.progs := rfl
@[simp] theorem sems_updEnt (f : Entropy → Entropy) (s : State) : (updEnt f s).sems = s.sems := rfl
@[simp] theorem stateReq_updEnt (f : Entropy → Entropy) (s : State) : (updEnt f s).stateReq = s.stateReq := rfl
@[simp] theorem heldReq_updEnt (f : Entropy → Entropy) (s : State) : (updEnt f s).heldReq = s.heldReq := rfl
@[simp] theorem stallSince_updEnt (f : Entropy → Entropy) (s : State) : (updEnt f s).stallSince = s.stallSince := rfl
@[simp] theorem bells_updEnt (f : Entropy → Entropy) (s : State) : (updEnt f s).bells = s.bells := rfl
@[simp] theorem audits_updEnt (f : Entropy → Entropy) (s : State) : (updEnt f s).audits = s.audits := rfl
@[simp] theorem auditRun_updEnt (f : Entropy → Entropy) (s : State) : (updEnt f s).auditRun = s.auditRun := rfl
@[simp] theorem auditStarted_updEnt (f : Entropy → Entropy) (s : State) : (updEnt f s).auditStarted = s.auditStarted := rfl
@[simp] theorem cert_updEnt (f : Entropy → Entropy) (s : State) : (updEnt f s).cert = s.cert := rfl
@[simp] theorem links_updEnt (f : Entropy → Entropy) (s : State) : (updEnt f s).links = s.links := rfl
@[simp] theorem net_updEnt (f : Entropy → Entropy) (s : State) : (updEnt f s).net = s.net := rfl
@[simp] theorem flash_updEnt (f : Entropy → Entropy) (s : State) : (updEnt f s).flash = s.flash := rfl
@[simp] theorem fuses_updEnt (f : Entropy → Entropy) (s : State) : (updEnt f s).fuses = s.fuses := rfl
@[simp] theorem sec_updEnt (f : Entropy → Entropy) (s : State) : (updEnt f s).sec = s.sec := rfl
@[simp] theorem ent_updEnt (f : Entropy → Entropy) (s : State) : (updEnt f s).ent = f s.ent := rfl
@[simp] theorem power_updEnt (f : Entropy → Entropy) (s : State) : (updEnt f s).power = s.power := rfl
@[simp] theorem margins_updEnt (f : Entropy → Entropy) (s : State) : (updEnt f s).margins = s.margins := rfl
@[simp] theorem sensors_updEnt (f : Entropy → Entropy) (s : State) : (updEnt f s).sensors = s.sensors := rfl
@[simp] theorem issueHold_updEnt (f : Entropy → Entropy) (s : State) : (updEnt f s).issueHold = s.issueHold := rfl
@[simp] theorem thermTripped_updEnt (f : Entropy → Entropy) (s : State) : (updEnt f s).thermTripped = s.thermTripped := rfl
@[simp] theorem boot_updEnt (f : Entropy → Entropy) (s : State) : (updEnt f s).boot = s.boot := rfl
@[simp] theorem calNow_updEnt (f : Entropy → Entropy) (s : State) : (updEnt f s).calNow = s.calNow := rfl
@[simp] theorem pcieUp_updEnt (f : Entropy → Entropy) (s : State) : (updEnt f s).pcieUp = s.pcieUp := rfl
@[simp] theorem sysmap_updEnt (f : Entropy → Entropy) (s : State) : (updEnt f s).sysmap = s.sysmap := rfl
@[simp] theorem pciCfg_updEnt (f : Entropy → Entropy) (s : State) : (updEnt f s).pciCfg = s.pciCfg := rfl
@[simp] theorem i3c_updEnt (f : Entropy → Entropy) (s : State) : (updEnt f s).i3c = s.i3c := rfl
@[simp] theorem ppsLast_updEnt (f : Entropy → Entropy) (s : State) : (updEnt f s).ppsLast = s.ppsLast := rfl
@[simp] theorem ptmLast_updEnt (f : Entropy → Entropy) (s : State) : (updEnt f s).ptmLast = s.ptmLast := rfl

/-! ## updPower -/

@[simp] theorem pending_updPower (f : Power → Power) (s : State) : (updPower f s).pending = s.pending := rfl
@[simp] theorem now_updPower (f : Power → Power) (s : State) : (updPower f s).now = s.now := rfl
@[simp] theorem nowFrac_updPower (f : Power → Power) (s : State) : (updPower f s).nowFrac = s.nowFrac := rfl
@[simp] theorem free_updPower (f : Power → Power) (s : State) : (updPower f s).free = s.free := rfl
@[simp] theorem out_updPower (f : Power → Power) (s : State) : (updPower f s).out = s.out := rfl
@[simp] theorem regs_updPower (f : Power → Power) (s : State) : (updPower f s).regs = s.regs := rfl
@[simp] theorem wide_updPower (f : Power → Power) (s : State) : (updPower f s).wide = s.wide := rfl
@[simp] theorem txns_updPower (f : Power → Power) (s : State) : (updPower f s).txns = s.txns := rfl
@[simp] theorem group_updPower (f : Power → Power) (s : State) : (updPower f s).group = s.group := rfl
@[simp] theorem mem_updPower (f : Power → Power) (s : State) : (updPower f s).mem = s.mem := rfl
@[simp] theorem acc_updPower (f : Power → Power) (s : State) : (updPower f s).acc = s.acc := rfl
@[simp] theorem slots_updPower (f : Power → Power) (s : State) : (updPower f s).slots = s.slots := rfl
@[simp] theorem tiles_updPower (f : Power → Power) (s : State) : (updPower f s).tiles = s.tiles := rfl
@[simp] theorem partials_updPower (f : Power → Power) (s : State) : (updPower f s).partials = s.partials := rfl
@[simp] theorem marks_updPower (f : Power → Power) (s : State) : (updPower f s).marks = s.marks := rfl
@[simp] theorem written_updPower (f : Power → Power) (s : State) : (updPower f s).written = s.written := rfl
@[simp] theorem logs_updPower (f : Power → Power) (s : State) : (updPower f s).logs = s.logs := rfl
@[simp] theorem scrubs_updPower (f : Power → Power) (s : State) : (updPower f s).scrubs = s.scrubs := rfl
@[simp] theorem scrubHits_updPower (f : Power → Power) (s : State) : (updPower f s).scrubHits = s.scrubHits := rfl
@[simp] theorem tileSt_updPower (f : Power → Power) (s : State) : (updPower f s).tileSt = s.tileSt := rfl
@[simp] theorem substs_updPower (f : Power → Power) (s : State) : (updPower f s).substs = s.substs := rfl
@[simp] theorem failing_updPower (f : Power → Power) (s : State) : (updPower f s).failing = s.failing := rfl
@[simp] theorem selftestDue_updPower (f : Power → Power) (s : State) : (updPower f s).selftestDue = s.selftestDue := rfl
@[simp] theorem repairQueue_updPower (f : Power → Power) (s : State) : (updPower f s).repairQueue = s.repairQueue := rfl
@[simp] theorem queues_updPower (f : Power → Power) (s : State) : (updPower f s).queues = s.queues := rfl
@[simp] theorem undelivered_updPower (f : Power → Power) (s : State) : (updPower f s).undelivered = s.undelivered := rfl
@[simp] theorem ctxs_updPower (f : Power → Power) (s : State) : (updPower f s).ctxs = s.ctxs := rfl
@[simp] theorem order_updPower (f : Power → Power) (s : State) : (updPower f s).order = s.order := rfl
@[simp] theorem stamp_updPower (f : Power → Power) (s : State) : (updPower f s).stamp = s.stamp := rfl
@[simp] theorem progs_updPower (f : Power → Power) (s : State) : (updPower f s).progs = s.progs := rfl
@[simp] theorem sems_updPower (f : Power → Power) (s : State) : (updPower f s).sems = s.sems := rfl
@[simp] theorem stateReq_updPower (f : Power → Power) (s : State) : (updPower f s).stateReq = s.stateReq := rfl
@[simp] theorem heldReq_updPower (f : Power → Power) (s : State) : (updPower f s).heldReq = s.heldReq := rfl
@[simp] theorem stallSince_updPower (f : Power → Power) (s : State) : (updPower f s).stallSince = s.stallSince := rfl
@[simp] theorem bells_updPower (f : Power → Power) (s : State) : (updPower f s).bells = s.bells := rfl
@[simp] theorem audits_updPower (f : Power → Power) (s : State) : (updPower f s).audits = s.audits := rfl
@[simp] theorem auditRun_updPower (f : Power → Power) (s : State) : (updPower f s).auditRun = s.auditRun := rfl
@[simp] theorem auditStarted_updPower (f : Power → Power) (s : State) : (updPower f s).auditStarted = s.auditStarted := rfl
@[simp] theorem cert_updPower (f : Power → Power) (s : State) : (updPower f s).cert = s.cert := rfl
@[simp] theorem links_updPower (f : Power → Power) (s : State) : (updPower f s).links = s.links := rfl
@[simp] theorem net_updPower (f : Power → Power) (s : State) : (updPower f s).net = s.net := rfl
@[simp] theorem flash_updPower (f : Power → Power) (s : State) : (updPower f s).flash = s.flash := rfl
@[simp] theorem fuses_updPower (f : Power → Power) (s : State) : (updPower f s).fuses = s.fuses := rfl
@[simp] theorem sec_updPower (f : Power → Power) (s : State) : (updPower f s).sec = s.sec := rfl
@[simp] theorem ent_updPower (f : Power → Power) (s : State) : (updPower f s).ent = s.ent := rfl
@[simp] theorem power_updPower (f : Power → Power) (s : State) : (updPower f s).power = f s.power := rfl
@[simp] theorem margins_updPower (f : Power → Power) (s : State) : (updPower f s).margins = s.margins := rfl
@[simp] theorem sensors_updPower (f : Power → Power) (s : State) : (updPower f s).sensors = s.sensors := rfl
@[simp] theorem issueHold_updPower (f : Power → Power) (s : State) : (updPower f s).issueHold = s.issueHold := rfl
@[simp] theorem thermTripped_updPower (f : Power → Power) (s : State) : (updPower f s).thermTripped = s.thermTripped := rfl
@[simp] theorem boot_updPower (f : Power → Power) (s : State) : (updPower f s).boot = s.boot := rfl
@[simp] theorem calNow_updPower (f : Power → Power) (s : State) : (updPower f s).calNow = s.calNow := rfl
@[simp] theorem pcieUp_updPower (f : Power → Power) (s : State) : (updPower f s).pcieUp = s.pcieUp := rfl
@[simp] theorem sysmap_updPower (f : Power → Power) (s : State) : (updPower f s).sysmap = s.sysmap := rfl
@[simp] theorem pciCfg_updPower (f : Power → Power) (s : State) : (updPower f s).pciCfg = s.pciCfg := rfl
@[simp] theorem i3c_updPower (f : Power → Power) (s : State) : (updPower f s).i3c = s.i3c := rfl
@[simp] theorem ppsLast_updPower (f : Power → Power) (s : State) : (updPower f s).ppsLast = s.ppsLast := rfl
@[simp] theorem ptmLast_updPower (f : Power → Power) (s : State) : (updPower f s).ptmLast = s.ptmLast := rfl

/-! ## updGroup -/

@[simp] theorem pending_updGroup (f : TxnGroup → TxnGroup) (s : State) : (updGroup f s).pending = s.pending := rfl
@[simp] theorem now_updGroup (f : TxnGroup → TxnGroup) (s : State) : (updGroup f s).now = s.now := rfl
@[simp] theorem nowFrac_updGroup (f : TxnGroup → TxnGroup) (s : State) : (updGroup f s).nowFrac = s.nowFrac := rfl
@[simp] theorem free_updGroup (f : TxnGroup → TxnGroup) (s : State) : (updGroup f s).free = s.free := rfl
@[simp] theorem out_updGroup (f : TxnGroup → TxnGroup) (s : State) : (updGroup f s).out = s.out := rfl
@[simp] theorem regs_updGroup (f : TxnGroup → TxnGroup) (s : State) : (updGroup f s).regs = s.regs := rfl
@[simp] theorem wide_updGroup (f : TxnGroup → TxnGroup) (s : State) : (updGroup f s).wide = s.wide := rfl
@[simp] theorem txns_updGroup (f : TxnGroup → TxnGroup) (s : State) : (updGroup f s).txns = s.txns := rfl
@[simp] theorem group_updGroup (f : TxnGroup → TxnGroup) (s : State) : (updGroup f s).group = f s.group := rfl
@[simp] theorem mem_updGroup (f : TxnGroup → TxnGroup) (s : State) : (updGroup f s).mem = s.mem := rfl
@[simp] theorem acc_updGroup (f : TxnGroup → TxnGroup) (s : State) : (updGroup f s).acc = s.acc := rfl
@[simp] theorem slots_updGroup (f : TxnGroup → TxnGroup) (s : State) : (updGroup f s).slots = s.slots := rfl
@[simp] theorem tiles_updGroup (f : TxnGroup → TxnGroup) (s : State) : (updGroup f s).tiles = s.tiles := rfl
@[simp] theorem partials_updGroup (f : TxnGroup → TxnGroup) (s : State) : (updGroup f s).partials = s.partials := rfl
@[simp] theorem marks_updGroup (f : TxnGroup → TxnGroup) (s : State) : (updGroup f s).marks = s.marks := rfl
@[simp] theorem written_updGroup (f : TxnGroup → TxnGroup) (s : State) : (updGroup f s).written = s.written := rfl
@[simp] theorem logs_updGroup (f : TxnGroup → TxnGroup) (s : State) : (updGroup f s).logs = s.logs := rfl
@[simp] theorem scrubs_updGroup (f : TxnGroup → TxnGroup) (s : State) : (updGroup f s).scrubs = s.scrubs := rfl
@[simp] theorem scrubHits_updGroup (f : TxnGroup → TxnGroup) (s : State) : (updGroup f s).scrubHits = s.scrubHits := rfl
@[simp] theorem tileSt_updGroup (f : TxnGroup → TxnGroup) (s : State) : (updGroup f s).tileSt = s.tileSt := rfl
@[simp] theorem substs_updGroup (f : TxnGroup → TxnGroup) (s : State) : (updGroup f s).substs = s.substs := rfl
@[simp] theorem failing_updGroup (f : TxnGroup → TxnGroup) (s : State) : (updGroup f s).failing = s.failing := rfl
@[simp] theorem selftestDue_updGroup (f : TxnGroup → TxnGroup) (s : State) : (updGroup f s).selftestDue = s.selftestDue := rfl
@[simp] theorem repairQueue_updGroup (f : TxnGroup → TxnGroup) (s : State) : (updGroup f s).repairQueue = s.repairQueue := rfl
@[simp] theorem queues_updGroup (f : TxnGroup → TxnGroup) (s : State) : (updGroup f s).queues = s.queues := rfl
@[simp] theorem undelivered_updGroup (f : TxnGroup → TxnGroup) (s : State) : (updGroup f s).undelivered = s.undelivered := rfl
@[simp] theorem ctxs_updGroup (f : TxnGroup → TxnGroup) (s : State) : (updGroup f s).ctxs = s.ctxs := rfl
@[simp] theorem order_updGroup (f : TxnGroup → TxnGroup) (s : State) : (updGroup f s).order = s.order := rfl
@[simp] theorem stamp_updGroup (f : TxnGroup → TxnGroup) (s : State) : (updGroup f s).stamp = s.stamp := rfl
@[simp] theorem progs_updGroup (f : TxnGroup → TxnGroup) (s : State) : (updGroup f s).progs = s.progs := rfl
@[simp] theorem sems_updGroup (f : TxnGroup → TxnGroup) (s : State) : (updGroup f s).sems = s.sems := rfl
@[simp] theorem stateReq_updGroup (f : TxnGroup → TxnGroup) (s : State) : (updGroup f s).stateReq = s.stateReq := rfl
@[simp] theorem heldReq_updGroup (f : TxnGroup → TxnGroup) (s : State) : (updGroup f s).heldReq = s.heldReq := rfl
@[simp] theorem stallSince_updGroup (f : TxnGroup → TxnGroup) (s : State) : (updGroup f s).stallSince = s.stallSince := rfl
@[simp] theorem bells_updGroup (f : TxnGroup → TxnGroup) (s : State) : (updGroup f s).bells = s.bells := rfl
@[simp] theorem audits_updGroup (f : TxnGroup → TxnGroup) (s : State) : (updGroup f s).audits = s.audits := rfl
@[simp] theorem auditRun_updGroup (f : TxnGroup → TxnGroup) (s : State) : (updGroup f s).auditRun = s.auditRun := rfl
@[simp] theorem auditStarted_updGroup (f : TxnGroup → TxnGroup) (s : State) : (updGroup f s).auditStarted = s.auditStarted := rfl
@[simp] theorem cert_updGroup (f : TxnGroup → TxnGroup) (s : State) : (updGroup f s).cert = s.cert := rfl
@[simp] theorem links_updGroup (f : TxnGroup → TxnGroup) (s : State) : (updGroup f s).links = s.links := rfl
@[simp] theorem net_updGroup (f : TxnGroup → TxnGroup) (s : State) : (updGroup f s).net = s.net := rfl
@[simp] theorem flash_updGroup (f : TxnGroup → TxnGroup) (s : State) : (updGroup f s).flash = s.flash := rfl
@[simp] theorem fuses_updGroup (f : TxnGroup → TxnGroup) (s : State) : (updGroup f s).fuses = s.fuses := rfl
@[simp] theorem sec_updGroup (f : TxnGroup → TxnGroup) (s : State) : (updGroup f s).sec = s.sec := rfl
@[simp] theorem ent_updGroup (f : TxnGroup → TxnGroup) (s : State) : (updGroup f s).ent = s.ent := rfl
@[simp] theorem power_updGroup (f : TxnGroup → TxnGroup) (s : State) : (updGroup f s).power = s.power := rfl
@[simp] theorem margins_updGroup (f : TxnGroup → TxnGroup) (s : State) : (updGroup f s).margins = s.margins := rfl
@[simp] theorem sensors_updGroup (f : TxnGroup → TxnGroup) (s : State) : (updGroup f s).sensors = s.sensors := rfl
@[simp] theorem issueHold_updGroup (f : TxnGroup → TxnGroup) (s : State) : (updGroup f s).issueHold = s.issueHold := rfl
@[simp] theorem thermTripped_updGroup (f : TxnGroup → TxnGroup) (s : State) : (updGroup f s).thermTripped = s.thermTripped := rfl
@[simp] theorem boot_updGroup (f : TxnGroup → TxnGroup) (s : State) : (updGroup f s).boot = s.boot := rfl
@[simp] theorem calNow_updGroup (f : TxnGroup → TxnGroup) (s : State) : (updGroup f s).calNow = s.calNow := rfl
@[simp] theorem pcieUp_updGroup (f : TxnGroup → TxnGroup) (s : State) : (updGroup f s).pcieUp = s.pcieUp := rfl
@[simp] theorem sysmap_updGroup (f : TxnGroup → TxnGroup) (s : State) : (updGroup f s).sysmap = s.sysmap := rfl
@[simp] theorem pciCfg_updGroup (f : TxnGroup → TxnGroup) (s : State) : (updGroup f s).pciCfg = s.pciCfg := rfl
@[simp] theorem i3c_updGroup (f : TxnGroup → TxnGroup) (s : State) : (updGroup f s).i3c = s.i3c := rfl
@[simp] theorem ppsLast_updGroup (f : TxnGroup → TxnGroup) (s : State) : (updGroup f s).ppsLast = s.ppsLast := rfl
@[simp] theorem ptmLast_updGroup (f : TxnGroup → TxnGroup) (s : State) : (updGroup f s).ptmLast = s.ptmLast := rfl

/-! ## updScrub -/

@[simp] theorem pending_updScrub (k : Nat) (f : Scrub → Scrub) (s : State) : (updScrub k f s).pending = s.pending := rfl
@[simp] theorem now_updScrub (k : Nat) (f : Scrub → Scrub) (s : State) : (updScrub k f s).now = s.now := rfl
@[simp] theorem nowFrac_updScrub (k : Nat) (f : Scrub → Scrub) (s : State) : (updScrub k f s).nowFrac = s.nowFrac := rfl
@[simp] theorem free_updScrub (k : Nat) (f : Scrub → Scrub) (s : State) : (updScrub k f s).free = s.free := rfl
@[simp] theorem out_updScrub (k : Nat) (f : Scrub → Scrub) (s : State) : (updScrub k f s).out = s.out := rfl
@[simp] theorem regs_updScrub (k : Nat) (f : Scrub → Scrub) (s : State) : (updScrub k f s).regs = s.regs := rfl
@[simp] theorem wide_updScrub (k : Nat) (f : Scrub → Scrub) (s : State) : (updScrub k f s).wide = s.wide := rfl
@[simp] theorem txns_updScrub (k : Nat) (f : Scrub → Scrub) (s : State) : (updScrub k f s).txns = s.txns := rfl
@[simp] theorem group_updScrub (k : Nat) (f : Scrub → Scrub) (s : State) : (updScrub k f s).group = s.group := rfl
@[simp] theorem mem_updScrub (k : Nat) (f : Scrub → Scrub) (s : State) : (updScrub k f s).mem = s.mem := rfl
@[simp] theorem acc_updScrub (k : Nat) (f : Scrub → Scrub) (s : State) : (updScrub k f s).acc = s.acc := rfl
@[simp] theorem slots_updScrub (k : Nat) (f : Scrub → Scrub) (s : State) : (updScrub k f s).slots = s.slots := rfl
@[simp] theorem tiles_updScrub (k : Nat) (f : Scrub → Scrub) (s : State) : (updScrub k f s).tiles = s.tiles := rfl
@[simp] theorem partials_updScrub (k : Nat) (f : Scrub → Scrub) (s : State) : (updScrub k f s).partials = s.partials := rfl
@[simp] theorem marks_updScrub (k : Nat) (f : Scrub → Scrub) (s : State) : (updScrub k f s).marks = s.marks := rfl
@[simp] theorem written_updScrub (k : Nat) (f : Scrub → Scrub) (s : State) : (updScrub k f s).written = s.written := rfl
@[simp] theorem logs_updScrub (k : Nat) (f : Scrub → Scrub) (s : State) : (updScrub k f s).logs = s.logs := rfl
@[simp] theorem scrubs_updScrub (k : Nat) (f : Scrub → Scrub) (s : State) : (updScrub k f s).scrubs = updAt s.scrubs k f := rfl
@[simp] theorem scrubHits_updScrub (k : Nat) (f : Scrub → Scrub) (s : State) : (updScrub k f s).scrubHits = s.scrubHits := rfl
@[simp] theorem tileSt_updScrub (k : Nat) (f : Scrub → Scrub) (s : State) : (updScrub k f s).tileSt = s.tileSt := rfl
@[simp] theorem substs_updScrub (k : Nat) (f : Scrub → Scrub) (s : State) : (updScrub k f s).substs = s.substs := rfl
@[simp] theorem failing_updScrub (k : Nat) (f : Scrub → Scrub) (s : State) : (updScrub k f s).failing = s.failing := rfl
@[simp] theorem selftestDue_updScrub (k : Nat) (f : Scrub → Scrub) (s : State) : (updScrub k f s).selftestDue = s.selftestDue := rfl
@[simp] theorem repairQueue_updScrub (k : Nat) (f : Scrub → Scrub) (s : State) : (updScrub k f s).repairQueue = s.repairQueue := rfl
@[simp] theorem queues_updScrub (k : Nat) (f : Scrub → Scrub) (s : State) : (updScrub k f s).queues = s.queues := rfl
@[simp] theorem undelivered_updScrub (k : Nat) (f : Scrub → Scrub) (s : State) : (updScrub k f s).undelivered = s.undelivered := rfl
@[simp] theorem ctxs_updScrub (k : Nat) (f : Scrub → Scrub) (s : State) : (updScrub k f s).ctxs = s.ctxs := rfl
@[simp] theorem order_updScrub (k : Nat) (f : Scrub → Scrub) (s : State) : (updScrub k f s).order = s.order := rfl
@[simp] theorem stamp_updScrub (k : Nat) (f : Scrub → Scrub) (s : State) : (updScrub k f s).stamp = s.stamp := rfl
@[simp] theorem progs_updScrub (k : Nat) (f : Scrub → Scrub) (s : State) : (updScrub k f s).progs = s.progs := rfl
@[simp] theorem sems_updScrub (k : Nat) (f : Scrub → Scrub) (s : State) : (updScrub k f s).sems = s.sems := rfl
@[simp] theorem stateReq_updScrub (k : Nat) (f : Scrub → Scrub) (s : State) : (updScrub k f s).stateReq = s.stateReq := rfl
@[simp] theorem heldReq_updScrub (k : Nat) (f : Scrub → Scrub) (s : State) : (updScrub k f s).heldReq = s.heldReq := rfl
@[simp] theorem stallSince_updScrub (k : Nat) (f : Scrub → Scrub) (s : State) : (updScrub k f s).stallSince = s.stallSince := rfl
@[simp] theorem bells_updScrub (k : Nat) (f : Scrub → Scrub) (s : State) : (updScrub k f s).bells = s.bells := rfl
@[simp] theorem audits_updScrub (k : Nat) (f : Scrub → Scrub) (s : State) : (updScrub k f s).audits = s.audits := rfl
@[simp] theorem auditRun_updScrub (k : Nat) (f : Scrub → Scrub) (s : State) : (updScrub k f s).auditRun = s.auditRun := rfl
@[simp] theorem auditStarted_updScrub (k : Nat) (f : Scrub → Scrub) (s : State) : (updScrub k f s).auditStarted = s.auditStarted := rfl
@[simp] theorem cert_updScrub (k : Nat) (f : Scrub → Scrub) (s : State) : (updScrub k f s).cert = s.cert := rfl
@[simp] theorem links_updScrub (k : Nat) (f : Scrub → Scrub) (s : State) : (updScrub k f s).links = s.links := rfl
@[simp] theorem net_updScrub (k : Nat) (f : Scrub → Scrub) (s : State) : (updScrub k f s).net = s.net := rfl
@[simp] theorem flash_updScrub (k : Nat) (f : Scrub → Scrub) (s : State) : (updScrub k f s).flash = s.flash := rfl
@[simp] theorem fuses_updScrub (k : Nat) (f : Scrub → Scrub) (s : State) : (updScrub k f s).fuses = s.fuses := rfl
@[simp] theorem sec_updScrub (k : Nat) (f : Scrub → Scrub) (s : State) : (updScrub k f s).sec = s.sec := rfl
@[simp] theorem ent_updScrub (k : Nat) (f : Scrub → Scrub) (s : State) : (updScrub k f s).ent = s.ent := rfl
@[simp] theorem power_updScrub (k : Nat) (f : Scrub → Scrub) (s : State) : (updScrub k f s).power = s.power := rfl
@[simp] theorem margins_updScrub (k : Nat) (f : Scrub → Scrub) (s : State) : (updScrub k f s).margins = s.margins := rfl
@[simp] theorem sensors_updScrub (k : Nat) (f : Scrub → Scrub) (s : State) : (updScrub k f s).sensors = s.sensors := rfl
@[simp] theorem issueHold_updScrub (k : Nat) (f : Scrub → Scrub) (s : State) : (updScrub k f s).issueHold = s.issueHold := rfl
@[simp] theorem thermTripped_updScrub (k : Nat) (f : Scrub → Scrub) (s : State) : (updScrub k f s).thermTripped = s.thermTripped := rfl
@[simp] theorem boot_updScrub (k : Nat) (f : Scrub → Scrub) (s : State) : (updScrub k f s).boot = s.boot := rfl
@[simp] theorem calNow_updScrub (k : Nat) (f : Scrub → Scrub) (s : State) : (updScrub k f s).calNow = s.calNow := rfl
@[simp] theorem pcieUp_updScrub (k : Nat) (f : Scrub → Scrub) (s : State) : (updScrub k f s).pcieUp = s.pcieUp := rfl
@[simp] theorem sysmap_updScrub (k : Nat) (f : Scrub → Scrub) (s : State) : (updScrub k f s).sysmap = s.sysmap := rfl
@[simp] theorem pciCfg_updScrub (k : Nat) (f : Scrub → Scrub) (s : State) : (updScrub k f s).pciCfg = s.pciCfg := rfl
@[simp] theorem i3c_updScrub (k : Nat) (f : Scrub → Scrub) (s : State) : (updScrub k f s).i3c = s.i3c := rfl
@[simp] theorem ppsLast_updScrub (k : Nat) (f : Scrub → Scrub) (s : State) : (updScrub k f s).ppsLast = s.ppsLast := rfl
@[simp] theorem ptmLast_updScrub (k : Nat) (f : Scrub → Scrub) (s : State) : (updScrub k f s).ptmLast = s.ptmLast := rfl

/-! ## updTile -/

@[simp] theorem pending_updTile (p : Nat) (f : TileSt → TileSt) (s : State) : (updTile p f s).pending = s.pending := rfl
@[simp] theorem now_updTile (p : Nat) (f : TileSt → TileSt) (s : State) : (updTile p f s).now = s.now := rfl
@[simp] theorem nowFrac_updTile (p : Nat) (f : TileSt → TileSt) (s : State) : (updTile p f s).nowFrac = s.nowFrac := rfl
@[simp] theorem free_updTile (p : Nat) (f : TileSt → TileSt) (s : State) : (updTile p f s).free = s.free := rfl
@[simp] theorem out_updTile (p : Nat) (f : TileSt → TileSt) (s : State) : (updTile p f s).out = s.out := rfl
@[simp] theorem regs_updTile (p : Nat) (f : TileSt → TileSt) (s : State) : (updTile p f s).regs = s.regs := rfl
@[simp] theorem wide_updTile (p : Nat) (f : TileSt → TileSt) (s : State) : (updTile p f s).wide = s.wide := rfl
@[simp] theorem txns_updTile (p : Nat) (f : TileSt → TileSt) (s : State) : (updTile p f s).txns = s.txns := rfl
@[simp] theorem group_updTile (p : Nat) (f : TileSt → TileSt) (s : State) : (updTile p f s).group = s.group := rfl
@[simp] theorem mem_updTile (p : Nat) (f : TileSt → TileSt) (s : State) : (updTile p f s).mem = s.mem := rfl
@[simp] theorem acc_updTile (p : Nat) (f : TileSt → TileSt) (s : State) : (updTile p f s).acc = s.acc := rfl
@[simp] theorem slots_updTile (p : Nat) (f : TileSt → TileSt) (s : State) : (updTile p f s).slots = s.slots := rfl
@[simp] theorem tiles_updTile (p : Nat) (f : TileSt → TileSt) (s : State) : (updTile p f s).tiles = s.tiles := rfl
@[simp] theorem partials_updTile (p : Nat) (f : TileSt → TileSt) (s : State) : (updTile p f s).partials = s.partials := rfl
@[simp] theorem marks_updTile (p : Nat) (f : TileSt → TileSt) (s : State) : (updTile p f s).marks = s.marks := rfl
@[simp] theorem written_updTile (p : Nat) (f : TileSt → TileSt) (s : State) : (updTile p f s).written = s.written := rfl
@[simp] theorem logs_updTile (p : Nat) (f : TileSt → TileSt) (s : State) : (updTile p f s).logs = s.logs := rfl
@[simp] theorem scrubs_updTile (p : Nat) (f : TileSt → TileSt) (s : State) : (updTile p f s).scrubs = s.scrubs := rfl
@[simp] theorem scrubHits_updTile (p : Nat) (f : TileSt → TileSt) (s : State) : (updTile p f s).scrubHits = s.scrubHits := rfl
@[simp] theorem tileSt_updTile (p : Nat) (f : TileSt → TileSt) (s : State) : (updTile p f s).tileSt = updAt s.tileSt p f := rfl
@[simp] theorem substs_updTile (p : Nat) (f : TileSt → TileSt) (s : State) : (updTile p f s).substs = s.substs := rfl
@[simp] theorem failing_updTile (p : Nat) (f : TileSt → TileSt) (s : State) : (updTile p f s).failing = s.failing := rfl
@[simp] theorem selftestDue_updTile (p : Nat) (f : TileSt → TileSt) (s : State) : (updTile p f s).selftestDue = s.selftestDue := rfl
@[simp] theorem repairQueue_updTile (p : Nat) (f : TileSt → TileSt) (s : State) : (updTile p f s).repairQueue = s.repairQueue := rfl
@[simp] theorem queues_updTile (p : Nat) (f : TileSt → TileSt) (s : State) : (updTile p f s).queues = s.queues := rfl
@[simp] theorem undelivered_updTile (p : Nat) (f : TileSt → TileSt) (s : State) : (updTile p f s).undelivered = s.undelivered := rfl
@[simp] theorem ctxs_updTile (p : Nat) (f : TileSt → TileSt) (s : State) : (updTile p f s).ctxs = s.ctxs := rfl
@[simp] theorem order_updTile (p : Nat) (f : TileSt → TileSt) (s : State) : (updTile p f s).order = s.order := rfl
@[simp] theorem stamp_updTile (p : Nat) (f : TileSt → TileSt) (s : State) : (updTile p f s).stamp = s.stamp := rfl
@[simp] theorem progs_updTile (p : Nat) (f : TileSt → TileSt) (s : State) : (updTile p f s).progs = s.progs := rfl
@[simp] theorem sems_updTile (p : Nat) (f : TileSt → TileSt) (s : State) : (updTile p f s).sems = s.sems := rfl
@[simp] theorem stateReq_updTile (p : Nat) (f : TileSt → TileSt) (s : State) : (updTile p f s).stateReq = s.stateReq := rfl
@[simp] theorem heldReq_updTile (p : Nat) (f : TileSt → TileSt) (s : State) : (updTile p f s).heldReq = s.heldReq := rfl
@[simp] theorem stallSince_updTile (p : Nat) (f : TileSt → TileSt) (s : State) : (updTile p f s).stallSince = s.stallSince := rfl
@[simp] theorem bells_updTile (p : Nat) (f : TileSt → TileSt) (s : State) : (updTile p f s).bells = s.bells := rfl
@[simp] theorem audits_updTile (p : Nat) (f : TileSt → TileSt) (s : State) : (updTile p f s).audits = s.audits := rfl
@[simp] theorem auditRun_updTile (p : Nat) (f : TileSt → TileSt) (s : State) : (updTile p f s).auditRun = s.auditRun := rfl
@[simp] theorem auditStarted_updTile (p : Nat) (f : TileSt → TileSt) (s : State) : (updTile p f s).auditStarted = s.auditStarted := rfl
@[simp] theorem cert_updTile (p : Nat) (f : TileSt → TileSt) (s : State) : (updTile p f s).cert = s.cert := rfl
@[simp] theorem links_updTile (p : Nat) (f : TileSt → TileSt) (s : State) : (updTile p f s).links = s.links := rfl
@[simp] theorem net_updTile (p : Nat) (f : TileSt → TileSt) (s : State) : (updTile p f s).net = s.net := rfl
@[simp] theorem flash_updTile (p : Nat) (f : TileSt → TileSt) (s : State) : (updTile p f s).flash = s.flash := rfl
@[simp] theorem fuses_updTile (p : Nat) (f : TileSt → TileSt) (s : State) : (updTile p f s).fuses = s.fuses := rfl
@[simp] theorem sec_updTile (p : Nat) (f : TileSt → TileSt) (s : State) : (updTile p f s).sec = s.sec := rfl
@[simp] theorem ent_updTile (p : Nat) (f : TileSt → TileSt) (s : State) : (updTile p f s).ent = s.ent := rfl
@[simp] theorem power_updTile (p : Nat) (f : TileSt → TileSt) (s : State) : (updTile p f s).power = s.power := rfl
@[simp] theorem margins_updTile (p : Nat) (f : TileSt → TileSt) (s : State) : (updTile p f s).margins = s.margins := rfl
@[simp] theorem sensors_updTile (p : Nat) (f : TileSt → TileSt) (s : State) : (updTile p f s).sensors = s.sensors := rfl
@[simp] theorem issueHold_updTile (p : Nat) (f : TileSt → TileSt) (s : State) : (updTile p f s).issueHold = s.issueHold := rfl
@[simp] theorem thermTripped_updTile (p : Nat) (f : TileSt → TileSt) (s : State) : (updTile p f s).thermTripped = s.thermTripped := rfl
@[simp] theorem boot_updTile (p : Nat) (f : TileSt → TileSt) (s : State) : (updTile p f s).boot = s.boot := rfl
@[simp] theorem calNow_updTile (p : Nat) (f : TileSt → TileSt) (s : State) : (updTile p f s).calNow = s.calNow := rfl
@[simp] theorem pcieUp_updTile (p : Nat) (f : TileSt → TileSt) (s : State) : (updTile p f s).pcieUp = s.pcieUp := rfl
@[simp] theorem sysmap_updTile (p : Nat) (f : TileSt → TileSt) (s : State) : (updTile p f s).sysmap = s.sysmap := rfl
@[simp] theorem pciCfg_updTile (p : Nat) (f : TileSt → TileSt) (s : State) : (updTile p f s).pciCfg = s.pciCfg := rfl
@[simp] theorem i3c_updTile (p : Nat) (f : TileSt → TileSt) (s : State) : (updTile p f s).i3c = s.i3c := rfl
@[simp] theorem ppsLast_updTile (p : Nat) (f : TileSt → TileSt) (s : State) : (updTile p f s).ppsLast = s.ppsLast := rfl
@[simp] theorem ptmLast_updTile (p : Nat) (f : TileSt → TileSt) (s : State) : (updTile p f s).ptmLast = s.ptmLast := rfl

end Sys2Proof.Machine
end

