-- ==== Sys2Proof/Tests/Slice0.lean ====
section
/-!
SUPPORT. Tests of the model on small states: the well-formedness of commands, single steps, and for every statement a state and
operands that meet its hypotheses.
-/
namespace Sys2Proof.Tests
open Sys2Proof Sys2Proof.Machine
set_option Elab.async false

/-! ## Small states -/

/-- A program image of engine 0 alone with these instructions, one stage of kind NEURAL. -/
def image (is : List EngInstr) : List Byte :=
  zeros 16 ++ leBytes 4 1 ++ leBytes 2 0 ++ leBytes 2 0 ++ leBytes 2 1 ++ leBytes 2 0 ++ leBytes 4 0 ++ leBytes 8 0x80 ++ leBytes 8 0 ++
    leBytes 8 0x90 ++ zeros 72 ++ leBytes 8 0x98 ++ leBytes 4 is.length ++ zeros 4 ++ zeros 8 ++
    (is.map fun i => leBytes 16 (encodeEng i)).flatten

/-- Engine 0 at the first instruction. -/
def cur0 : Cursor := ⟨0, 0, [], 1, false, List.replicate 16 [], none, []⟩

/-- The reset state after some writes of registers: page, offset, value. -/
def withRegs (l : List (Nat × Nat × Nat)) (s : State) : State := l.foldl (fun s e => setReg e.1 e.2.1 e.2.2 s) s

/-- A context of ring 2 for a descriptor. -/
def ctxFor (d : List Byte) : Ctx := newCtx State.reset 2 false 0 .ring d

/-- A descriptor of a type with the listed fields: offset, width, value. -/
def descWith (ty : Nat) (l : List (Nat × Nat × Nat)) : List Byte :=
  l.foldl (fun b e => splice b e.1 (leBytes e.2.1 e.2.2)) (splice (zeros 64) 0 (leBytes 1 ty))

/-- An invocation that runs, with engine 0 at its first instruction. -/
def ctx0 : Ctx :=
  { ctxFor (zeros 64) with life := .running, ran := true, argsRead := true, fed := true, inputsIn := true, curs := [cur0] }

/-- The reset state with one context. -/
def oneCtx (x : Ctx) : State := { State.reset with ctxs := [x] }

/-- The reset state with a context and a program. -/
def progCtx (x : Ctx) (is : List EngInstr) : State := { oneCtx x with progs := [⟨0, image is, [], false, []⟩] }

/-- An invocation of a program at its first instruction. -/
def at1 (is : List EngInstr) : State := progCtx ctx0 is

theorem ctx0_id : ctx0.id = 0 := by decide +kernel

theorem ctxOf_progCtx (x : Ctx) (is : List EngInstr) (h : x.id = 0) : ctxOf (progCtx x is) 0 = some x := by
  simp [ctxOf, progCtx, oneCtx, h]

theorem ctxOf_oneCtx (x : Ctx) (h : x.id = 0) : ctxOf (oneCtx x) 0 = some x := by simp [ctxOf, oneCtx, h]

theorem stands (i : EngInstr) (h : engAt (at1 [i]) ctx0 0 i.op = true) : standsAt (at1 [i]) ⟨0, 0⟩ i.op ctx0 cur0 :=
  ⟨by decide, ctxOf_progCtx _ _ ctx0_id, by decide +kernel, h⟩

theorem reads (c e : Nat) (rs : List (Nat × Nat)) (s : State) (h : (engReads c e rs s).1 = true) :
    engReads c e rs s = (true, (engReads c e rs s).2) := by rw [← h]

/-- The reset state is quiet and every page answers over PCIe. -/
theorem accepts_reset (s : State) (page : Nat) (h : serves s .pcie = true ∧ (pageAt page).isSome = true ∧ shown s page = true ∧
    lockedOut s .pcie page = false) : accepts s .pcie page := h

/-! ## Witnesses: engine programs -/

theorem witness_nop : standsAt (at1 [⟨.nop, 0⟩]) ⟨0, 0⟩ .nop ctx0 cur0 := stands ⟨.nop, 0⟩ (by decide +kernel)
theorem witness_loop : standsAt (at1 [⟨.loop ⟨2, 1, 1, 0⟩, 0⟩]) ⟨0, 0⟩ (.loop ⟨2, 1, 1, 0⟩) ctx0 cur0 ∧
    ¬((⟨2, 1, 1, 0⟩ : LoopOp).mode = 2 ∧ runStopped ctx0 = true) :=
  ⟨stands ⟨.loop ⟨2, 1, 1, 0⟩, 0⟩ (by decide +kernel), by decide⟩
theorem witness_stage : standsAt (at1 [⟨.stage ⟨0, 0, 0⟩, 0⟩]) ⟨0, 0⟩ (.stage ⟨0, 0, 0⟩) ctx0 cur0 := stands ⟨.stage ⟨0, 0, 0⟩, 0⟩ (by decide +kernel)
theorem witness_halt : standsAt (at1 [⟨.halt, 0⟩]) ⟨0, 0⟩ .halt ctx0 cur0 := stands ⟨.halt, 0⟩ (by decide +kernel)
theorem witness_tstamp : standsAt (at1 [⟨.tstamp ⟨0xFFFFF⟩, 0⟩]) ⟨0, 0⟩ (.tstamp ⟨0xFFFFF⟩) ctx0 cur0 :=
  stands ⟨.tstamp ⟨0xFFFFF⟩, 0⟩ (by decide +kernel)
theorem witness_fill : standsAt (at1 [⟨.fill ⟨0, 0, 0xFFFFFFFF⟩, 0⟩]) ⟨0, 0⟩ (.fill ⟨0, 0, 0xFFFFFFFF⟩) ctx0 cur0 :=
  stands ⟨.fill ⟨0, 0, 0xFFFFFFFF⟩, 0⟩ (by decide +kernel)
theorem witness_move : standsAt (at1 [⟨.move ⟨0, 0, 0, 0, 0, 0⟩, 0⟩]) ⟨0, 0⟩ (.move ⟨0, 0, 0, 0, 0, 0⟩) ctx0 cur0 ∧
    ∃ r, engReads 0 0 [(0, 64)] (at1 [⟨.move ⟨0, 0, 0, 0, 0, 0⟩, 0⟩]) = (true, r) :=
  ⟨stands ⟨.move ⟨0, 0, 0, 0, 0, 0⟩, 0⟩ (by decide +kernel), _, reads _ _ _ _ (by decide +kernel)⟩
/-! ## Witnesses: the machine, stores, registers -/

theorem page_none (p : Nat) (h : 0x80 ≤ p) : pageAt p = none := by
  unfold pageAt
  rw [if_neg (by omega), if_neg (by omega), if_neg (by omega), if_neg (by omega), if_neg (by omega), if_neg (by omega)]
  split <;> first | omega | rfl

theorem no_inj_reset (p o : Nat) (h : o = 0x088 ∨ o = 0x448) : (regReset (rk p o)).toNat.testBit 0 = false := by
  have small : ∀ q : Fin 0x80, (regReset (rk q.1 0x088)).toNat.testBit 0 = false ∧ (regReset (rk q.1 0x448)).toNat.testBit 0 = false := by
    decide +kernel
  by_cases hp : p < 0x80
  · rcases h with rfl | rfl
    · exact (small ⟨p, hp⟩).1
    · exact (small ⟨p, hp⟩).2
  · have e : rk p o / 0x1000 = p := by unfold rk; omega
    simp [regReset, e, page_none p (by omega)]

theorem no_inj (w : Nat) (s : State) (h : s.regs = []) : injApplies s w = false := by
  have o : (ctlOf s w).2.1 = 0x3C0 ∨ (ctlOf s w).2.1 = 0 := by
    unfold ctlOf
    split
    · exact .inl rfl
    · split
      · exact .inr rfl
      · exact .inr rfl
  have r : (reg s (ctlOf s w).1 ((ctlOf s w).2.1 + 0x088)).testBit 0 = false := by
    unfold reg
    rw [h]
    exact no_inj_reset _ _ (by omega)
  simp [injApplies, r]

theorem witness_IdleStepTicks : State.reset.pending = [] ∧ reg State.reset pgTime 0x050 = 0 ∧ 0 ≤ State.reset.nowFrac ∧
    State.reset.nowFrac < 2 ^ 32 := by decide +kernel
theorem witness_ExecKeepsQueue : ∃ t, exec .perstNRise State.reset = .next t := ⟨_, rfl⟩
theorem witness_EveryCommandRuns : (Instr.semOpAdd .pcie 16383).wf = true ∧ (Instr.nop ⟨4095, 31⟩).wf = true := by decide
theorem witness_OnlyAbsentUnitsStop : exec (.nop ⟨0, 32⟩) State.reset = .fault .noSuchUnit := rfl
theorem witness_StepKeepsMemoryWf : Memory.wf { State.reset with mem := [(0, 1), (0x7FFFFFFFFFF, 255)] }.mem = true ∧
    ∃ t, step { State.reset with mem := [(0, 1), (0x7FFFFFFFFFF, 255)] } = .next t := ⟨by decide, _, rfl⟩
theorem witness_StepKeepsFuses : fusesLegal ⟨[8, 5, 4, 8], [true, true, true, false], 32⟩ = true ∧
    ∃ t, step { State.reset with fuses := ⟨[8, 5, 4, 8], [true, true, true, false], 32⟩ } = .next t := ⟨by decide, _, rfl⟩
theorem witness_RegisterReadsBack : rk 0x73 0xFFC ≠ rk 0x73 0xFF8 := by decide
theorem witness_BytesAreCells : spWf zeroByte [(0, 1), (2, 255), (2 ^ 64 - 1, 7)] = true := by decide
theorem witness_MemoryWriteStores : cleanMem { State.reset with regs := [] } ∧
    pieces { State.reset with regs := [] } 34 0 64 = [(0, 64)] := ⟨⟨rfl, fun w => no_inj w _ rfl⟩, by decide +kernel⟩
theorem witness_CalmPumpKeeps : calm (at1 [⟨.halt, 0⟩]) = true := by decide +kernel
theorem witness_RaiseSetsTheBit :
    (pageRaised State.reset pgCfe = false ∧ (reg State.reset pgCfe oEvtEnable).testBit 0 = true) ∧
    pageRaised (withRegs [(pgCfe, oEvtStatus, 1)] State.reset) pgCfe = true := by decide +kernel
theorem witness_CounterSaturates : pgTxn ≠ pgDev ∧ 0x060 ≠ oStatus := by decide
theorem witness_AdvanceMovesOneCursor : ctxOf (at1 [⟨.halt, 0⟩]) 0 = some ctx0 ∧ curOf ctx0 0 = some cur0 :=
  ⟨ctxOf_progCtx _ _ ctx0_id, by decide +kernel⟩
theorem witness_LoopRepeatsItsBody : ∃ l m k : LoopAt, (l.mode = 0 ∧ 1 < l.stop) ∧ m.mode = 1 ∧ k.mode = 2 :=
  ⟨⟨0, 2, 3, 0, 0⟩, ⟨0, 2, 0, 0, 1⟩, ⟨0, 2, 0, 0, 2⟩, by decide⟩
theorem witness_ResetState : (∃ t, t = coldReset .held State.reset) ∧ ∃ t, t = warmReset true State.reset := ⟨⟨_, rfl⟩, _, rfl⟩

/-! ## Tests of the machine -/

theorem test_queue_first_in_first_out : (match step { State.reset with pending := [.perstNRise, .flr] } with
    | .next t => t.pending | _ => []) = [.flr] := by decide +kernel
theorem test_reset_is_maintenance : devState State.reset = 0 := by decide +kernel
theorem test_idle_tick : (match step State.reset with | .next t => t.now | _ => 0) = 1 := by decide +kernel
theorem test_no_word_spells_a_command : decodeTableWord 8 0 = none := rfl
theorem test_with_fetch_word : State.reset.withFetchWord 8 0 = State.reset := rfl
/-! ## Witnesses: semaphores, the array, the vector unit -/

/-- An invocation at an SWAIT whose timeout has begun. -/
def ctxT : Ctx := { ctx0 with curs := [{ cur0 with swaitEnd := some 0 }] }

theorem witness_swait : standsAt (at1 [⟨.swait ⟨5, 0, 31⟩, 0⟩]) ⟨0, 0⟩ (.swait ⟨5, 0, 31⟩) ctx0 cur0 ∧ 0 ≤ semOf (at1 [⟨.swait ⟨5, 0, 31⟩, 0⟩]) 5 :=
  ⟨stands ⟨.swait ⟨5, 0, 31⟩, 0⟩ (by decide +kernel), by decide +kernel⟩
theorem witness_swait_below : standsAt (at1 [⟨.swait ⟨5, 1, 0⟩, 0⟩]) ⟨0, 0⟩ (.swait ⟨5, 1, 0⟩) ctx0 cur0 ∧
    semOf (at1 [⟨.swait ⟨5, 1, 0⟩, 0⟩]) 5 < 1 ∧ cur0.swaitEnd = none :=
  ⟨stands ⟨.swait ⟨5, 1, 0⟩, 0⟩ (by decide +kernel), by decide +kernel⟩
theorem witness_swait_timeout : (⟨0, 0⟩ : EngRef).ok = true ∧ ctxOf (progCtx ctxT [⟨.swait ⟨5, 1, 0⟩, 0⟩]) 0 = some ctxT ∧
    ctxT.life = .running ∧ curOf ctxT 0 = some { cur0 with swaitEnd := some 0 } ∧ 0 ≤ (progCtx ctxT [⟨.swait ⟨5, 1, 0⟩, 0⟩]).now ∧
    curInstr (progCtx ctxT [⟨.swait ⟨5, 1, 0⟩, 0⟩]) ctxT 0 = some ⟨.swait ⟨5, 1, 0⟩, 0⟩ ∧
    semOf (progCtx ctxT [⟨.swait ⟨5, 1, 0⟩, 0⟩]) 5 < 1 :=
  ⟨rfl, ctxOf_progCtx _ _ (by decide +kernel), by decide +kernel⟩
theorem witness_ssignal : standsAt (at1 [⟨.ssignal ⟨16383, 2 ^ 64 - 1, 1⟩, 0⟩]) ⟨0, 0⟩ (.ssignal ⟨16383, 2 ^ 64 - 1, 1⟩) ctx0 cur0 :=
  stands ⟨.ssignal ⟨16383, 2 ^ 64 - 1, 1⟩, 0⟩ (by decide +kernel)
theorem witness_semOp : 16383 < 16384 ∧ accepts State.reset .pcie pgSync ∧ accepts State.reset .i3c pgSync :=
  ⟨by decide, by unfold accepts; decide +kernel, by unfold accepts; decide +kernel⟩

/-- Where a hypothesis reads `engReads … = (true, r)`, the witness shows its first part; r is the second. -/
theorem witness_sld : standsAt (at1 [⟨.sld ⟨0, 0, 0, 1, 0, 1, 0, 0⟩, 0⟩]) ⟨0, 0⟩ (.sld ⟨0, 0, 0, 1, 0, 1, 0, 0⟩) ctx0 cur0 ∧
    (engReads 0 0 [(spaceAddr cur0 0 0 0, 32768)] (at1 [⟨.sld ⟨0, 0, 0, 1, 0, 1, 0, 0⟩, 0⟩])).1 = true :=
  ⟨stands ⟨.sld ⟨0, 0, 0, 1, 0, 1, 0, 0⟩, 0⟩ (by decide +kernel), by decide +kernel⟩

/-- A tile of zeros; a checksum word that is not listed is 0. -/
def zeroTile : Tile := ⟨fmtOf 3, false, [], [], []⟩

/-- An invocation at a STREAM of one vector over a tile of zeros. -/
def atStream (o : StreamOp) : State := { at1 [⟨.stream o, 0⟩] with tiles := [(0, some zeroTile)] }

theorem witness_stream : standsAt (atStream ⟨0, 0, 3, 0, 1, 0⟩) ⟨0, 0⟩ (.stream ⟨0, 0, 3, 0, 1, 0⟩) ctx0 cur0 ∧
    (engReads 0 0 [(0, 512)] (atStream ⟨0, 0, 3, 0, 1, 0⟩)).1 = true ∧ (slotReads 0 0 0 1 (atStream ⟨0, 0, 3, 0, 1, 0⟩)).1 = true ∧
    spGet noTile 0 (atStream ⟨0, 0, 3, 0, 1, 0⟩).tiles = some zeroTile :=
  ⟨⟨by decide, ctxOf_progCtx ctx0 [] ctx0_id, by decide +kernel, by decide +kernel⟩, by decide +kernel⟩

theorem sum_zero : ∀ n, sumI (List.replicate n 0) = 0 := by
  intro n
  induction n with
  | zero => rfl
  | succ n ih => simpa [sumI, List.replicate_succ] using ih

theorem zeros_check (xs : List Int) : (intVec [] [] xs).ok = true := by
  have z : ∀ n (f : Nat → Int), (List.range n).map (fun k => signed 32 (nth ([] : List Nat) k 0) * f k) = List.replicate n 0 := by
    intro n f
    rw [List.eq_replicate_iff]
    refine ⟨by simp, fun x hx => ?_⟩
    simp only [List.mem_map] at hx
    obtain ⟨k, -, rfl⟩ := hx
    simp [nth, signed]
  unfold intVec intColumns
  simp only [List.foldl_nil, z, sum_zero, decide_true]

theorem witness_stream_checks (s : State) : ∀ p ∈ runPass zeroTile 0 0 1 (fmtOf 3) s, p.ok = true := by
  intro p hp
  unfold runPass at hp
  rw [if_pos (by decide)] at hp
  obtain ⟨v, -, h⟩ := List.mem_map.mp hp
  rw [← h]
  exact zeros_check _
theorem witness_drain : standsAt (at1 [⟨.drain ⟨0, 0, 0, 5, 0, 0, 0, 0, 0, 0, 0, 0, 0⟩, 0⟩]) ⟨0, 0⟩ (.drain ⟨0, 0, 0, 5, 0, 0, 0, 0, 0, 0, 0, 0, 0⟩) ctx0 cur0 ∧
    (slotReads 0 0 0 1 (at1 [⟨.drain ⟨0, 0, 0, 5, 0, 0, 0, 0, 0, 0, 0, 0, 0⟩, 0⟩])).1 = true :=
  ⟨stands ⟨.drain ⟨0, 0, 0, 5, 0, 0, 0, 0, 0, 0, 0, 0, 0⟩, 0⟩ (by decide +kernel), by decide +kernel⟩
theorem witness_pdrain : standsAt (at1 [⟨.pdrain ⟨0, 127, 0⟩, 0⟩]) ⟨0, 0⟩ (.pdrain ⟨0, 127, 0⟩) ctx0 cur0 ∧
    (slotReads 0 0 127 1 (at1 [⟨.pdrain ⟨0, 127, 0⟩, 0⟩])).1 = true :=
  ⟨stands ⟨.pdrain ⟨0, 127, 0⟩, 0⟩ (by decide +kernel), by decide +kernel⟩
theorem witness_preload : standsAt (at1 [⟨.preload ⟨0, 0, 0⟩, 0⟩]) ⟨0, 0⟩ (.preload ⟨0, 0, 0⟩) ctx0 cur0 ∧
    (engReads 0 0 [(0, 2112)] (at1 [⟨.preload ⟨0, 0, 0⟩, 0⟩])).1 = true :=
  ⟨stands ⟨.preload ⟨0, 0, 0⟩, 0⟩ (by decide +kernel), by decide +kernel⟩
theorem witness_SlotWriteStores : ∀ w ∈ [List.replicate 512 1], w.length = 512 ∧ ∀ n ∈ w, n < 2 ^ 32 := by decide +kernel
theorem witness_PartialFormatIsExact : 31 < 32 ∧ 511 < 512 := by decide
theorem witness_vop : standsAt (at1 [⟨.vop ⟨0, 0, 0, 0, 0, 0, 0⟩, 0⟩]) ⟨0, 0⟩ (.vop ⟨0, 0, 0, 0, 0, 0, 0⟩) ctx0 cur0 ∧
    (engReads 0 0 [(0, vecLen 0 0), (0, vecLen 0 0)] (at1 [⟨.vop ⟨0, 0, 0, 0, 0, 0, 0⟩, 0⟩])).1 = true :=
  ⟨stands ⟨.vop ⟨0, 0, 0, 0, 0, 0, 0⟩, 0⟩ (by decide +kernel), by decide +kernel⟩
theorem witness_vred : standsAt (at1 [⟨.vred ⟨0, 0, 0, 0, 1⟩, 0⟩]) ⟨0, 0⟩ (.vred ⟨0, 0, 0, 0, 1⟩) ctx0 cur0 ∧
    (engReads 0 0 [(0, vecLen 1 0)] (at1 [⟨.vred ⟨0, 0, 0, 0, 1⟩, 0⟩])).1 = true :=
  ⟨stands ⟨.vred ⟨0, 0, 0, 0, 1⟩, 0⟩ (by decide +kernel), by decide +kernel⟩
theorem witness_vnorm : standsAt (at1 [⟨.vnorm ⟨0, 0, 0, 1, 0⟩, 0⟩]) ⟨0, 0⟩ (.vnorm ⟨0, 0, 0, 1, 0⟩) ctx0 cur0 ∧
    (engReads 0 0 [(0, 4)] (at1 [⟨.vnorm ⟨0, 0, 0, 1, 0⟩, 0⟩])).1 = true :=
  ⟨stands ⟨.vnorm ⟨0, 0, 0, 1, 0⟩, 0⟩ (by decide +kernel), by decide +kernel⟩
theorem witness_vcvt : standsAt (at1 [⟨.vcvt ⟨0, 0, 0, 3, 13, 0, 0, 0⟩, 0⟩]) ⟨0, 0⟩ (.vcvt ⟨0, 0, 0, 3, 13, 0, 0, 0⟩) ctx0 cur0 ∧
    (engReads 0 0 [(0, 512)] (at1 [⟨.vcvt ⟨0, 0, 0, 3, 13, 0, 0, 0⟩, 0⟩])).1 = true :=
  ⟨stands ⟨.vcvt ⟨0, 0, 0, 3, 13, 0, 0, 0⟩, 0⟩ (by decide +kernel), by decide +kernel⟩
theorem witness_vtopk : standsAt (at1 [⟨.vtopk ⟨64, 0, 0, 0, 15⟩, 0⟩]) ⟨0, 0⟩ (.vtopk ⟨64, 0, 0, 0, 15⟩) ctx0 cur0 ∧
    (engReads 0 0 [(0, 128)] (at1 [⟨.vtopk ⟨64, 0, 0, 0, 15⟩, 0⟩])).1 = true :=
  ⟨stands ⟨.vtopk ⟨64, 0, 0, 0, 15⟩, 0⟩ (by decide +kernel), by decide +kernel⟩
theorem witness_pbuild : standsAt (at1 [⟨.pbuild ⟨0, 64, 0, 0, 0, 0, 0, 0, 0⟩, 0⟩]) ⟨0, 0⟩ (.pbuild ⟨0, 64, 0, 0, 0, 0, 0, 0, 0⟩) ctx0 cur0 ∧
    (engReads 0 0 [(0, 4)] (at1 [⟨.pbuild ⟨0, 64, 0, 0, 0, 0, 0, 0, 0⟩, 0⟩])).1 = true :=
  ⟨stands ⟨.pbuild ⟨0, 64, 0, 0, 0, 0, 0, 0, 0⟩, 0⟩ (by decide +kernel), by decide +kernel⟩
/-! ## Witnesses: the anneal class -/

/-- A loaded problem of one segment and one replica with no couplings. -/
def prob1 : Prob := ⟨0, 512, 0, 1, 1, 1, 1, 0, [], [], [], [], [], [], false, false, 0, 128, []⟩

/-- A run at a place of its phase, with a relaxation of `t` steps and a chooser of `k`. -/
def run1 (pos : PhaseAt) (t k : Nat) : Anneal :=
  let ps := readParams (splice (splice (zeros 0x130) 0 [BitVec.ofNat 8 t]) 0x40 (leBytes 2 k))
  { apb := 0, ps := ps, prob := prob1, key := ⟨[], 0⟩, budget := 4, limit := 4, kRungs := 1, gBase := 0, spins := [[0]],
    fields := [[List.replicate 512 0]], resid := [[]], energy := [0], lam := [], n := 0, sweep := 0, hIdx := 0, pos := pos, visits := [],
    deltas := [], accepted := [], dl := [], marked := false, rungs := [0], codes := [0], est := [], rounds := 0, best := [], top := [],
    stall := 0, trips := [], stats := List.replicate 41 0, snap := [], exSum := [0], exMax := [0], snapSum := [], snapMax := [],
    stop := none, satPhase := 0, start := ⟨[], [], [], [], [], []⟩, formed := [], kept := [], staged := [], topKeys := [], gathered := [],
    ckptIdx := 0, ckptEvery := 0, ckpts := [], offers := [], loading := false, part := 0, pwDue := false, applied := [], redo := [],
    resultDone := false, resultAddr := 0 }

/-- An invocation with a loaded problem. -/
def ctxA (a : Anneal) : Ctx := { ctx0 with anneal := some a }

theorem ctxA_id (a : Anneal) : (ctxA a).id = 0 := by
  have : (ctxA a).id = ctx0.id := by simp only [ctxA]
  rw [this, ctx0_id]

theorem anneals (op : EngOp) (a : Anneal) (h : collAt (progCtx (ctxA a) [⟨op, 0⟩]) (ctxA a) op = true) :
    annealsAt (progCtx (ctxA a) [⟨op, 0⟩]) 0 op (ctxA a) a := ⟨⟨by decide, ctxOf_progCtx _ _ (ctxA_id a), h⟩, rfl⟩

theorem coll (op : EngOp) (h : collAt (at1 [⟨op, 0⟩]) ctx0 op = true) : allStandAt (at1 [⟨op, 0⟩]) 0 op ctx0 :=
  ⟨by decide, ctxOf_progCtx _ _ ctx0_id, h⟩

theorem witness_pload : allStandAt (at1 [⟨.pload ⟨0, 0⟩, 0⟩]) 0 (.pload ⟨0, 0⟩) ctx0 ∧ auditHolds (at1 [⟨.pload ⟨0, 0⟩, 0⟩]) ctx0 = false ∧
    ploadUnderway ctx0 ⟨0, 0⟩ = false ∧ (match ploadCheck (at1 [⟨.pload ⟨0, 0⟩, 0⟩]) ctx0 ⟨0, 0⟩ with | .error _ => true | .ok _ => false) = true :=
  ⟨coll (.pload ⟨0, 0⟩) (by decide +kernel), by decide +kernel⟩

theorem witness_gather : let s := progCtx (ctxA (run1 .gather 0 0)) [⟨.gather ⟨0⟩, 0⟩]
    annealsAt s 0 (.gather ⟨0⟩) (ctxA (run1 .gather 0 0)) (run1 .gather 0 0) ∧
    (runReads 0 (run1 .gather 0 0) s).1 = true ∧ isShared prob1 = false ∧
    goesOn (fieldReads 0 prob1 (((phaseSegs 1 1 0).map (segEngines prob1)).flatten) (runReads 0 (run1 .gather 0 0) s).2) 0 = true :=
  ⟨anneals (.gather ⟨0⟩) _ (by decide +kernel), by decide +kernel⟩
theorem witness_relax_skips : annealsAt (progCtx (ctxA (run1 .relax 0 0)) [⟨.relax ⟨0⟩, 0⟩]) 0 (.relax ⟨0⟩) (ctxA (run1 .relax 0 0)) (run1 .relax 0 0) ∧
    (run1 .relax 0 0).ps.relax.t = 0 := ⟨anneals (.relax ⟨0⟩) _ (by decide +kernel), by decide +kernel⟩
theorem witness_relax : let s := progCtx (ctxA (run1 .relax 1 0)) [⟨.relax ⟨0⟩, 0⟩]
    let a := run1 .relax 1 0
    let b := working s 0 a
    annealsAt s 0 (.relax ⟨0⟩) (ctxA a) a ∧ a.ps.relax.t ≠ 0 ∧ (phaseReads 0 b s).1 = true ∧
    (let f := formTiles 0 b false (phaseReads 0 b s).2
     let q := accPass 0 (visitEngines b) (crossLen prob1) 2048 f
     goesOn f 0 = true ∧ q.1 = true ∧ (passCheck 0 (visits b) true ([.transient 0 3] ++ (relaxVisits a).2.2.2) q.2).1 = true) := ⟨anneals (.relax ⟨0⟩) _ (by decide +kernel), by decide +kernel⟩
theorem witness_choose_skips : annealsAt (progCtx (ctxA (run1 .choose 0 0)) [⟨.choose ⟨0⟩, 0⟩]) 0 (.choose ⟨0⟩) (ctxA (run1 .choose 0 0)) (run1 .choose 0 0) ∧
    (run1 .choose 0 0).ps.choose.t = 0 := ⟨anneals (.choose ⟨0⟩) _ (by decide +kernel), by decide +kernel⟩
theorem witness_choose : let s := progCtx (ctxA (run1 .choose 0 1)) [⟨.choose ⟨0⟩, 0⟩]
    let a := run1 .choose 0 1
    let b := working s 0 a
    annealsAt s 0 (.choose ⟨0⟩) (ctxA a) a ∧ a.ps.choose.t ≠ 0 ∧ (phaseReads 0 b s).1 = true ∧
    (let f := formTiles 0 b true (phaseReads 0 b s).2
     let q := accPass 0 (visitEngines b) (crossLen prob1) (chooseLen b) f
     goesOn f 0 = true ∧ q.1 = true ∧ (passCheck 0 (visits b) true ([.transient 0 3] ++ (chooseVisits a).2.2.2) q.2).1 = true) := ⟨anneals (.choose ⟨0⟩) _ (by decide +kernel), by decide +kernel⟩
theorem witness_rollcall : let a := run1 .rollcall 0 0
    let s := progCtx (ctxA a) [⟨.rollcall ⟨0⟩, 0⟩]
    let w := phaseReads 0 { a with visits := a.visits.filter fun v => crossing s 0 a (visitEng prob1 v.seg) } s
    let k := crossPass 0 a [.transient 0 511] w.2
    annealsAt s 0 (.rollcall ⟨0⟩) (ctxA a) a ∧ a.redo.isEmpty = true ∧ goesOn s 0 = true ∧ w.1 = true ∧ k.1 = true ∧
    failingAt k.2 0 = [] ∧ (pairsCheck 0 a [.transient 0 1 0] k.2).1 = true :=
  ⟨anneals (.rollcall ⟨0⟩) _ (by decide +kernel), by decide +kernel⟩
theorem witness_fieldup : let a := run1 .fieldup 0 0
    let s := progCtx (ctxA a) [⟨.fieldup ⟨0⟩, 0⟩]
    let w := recordReads 0 a s
    let r := runReads 0 a w.2
    annealsAt s 0 (.fieldup ⟨0⟩) (ctxA a) a ∧ w.1 = true ∧ r.1 = true ∧ isSpanned r.2 (ctxA a) = false ∧
    (propagate 0 a (ownDeltas a) [] r.2).1 = true ∧ a.marked = false :=
  ⟨anneals (.fieldup ⟨0⟩) _ (by decide +kernel), by decide +kernel⟩
theorem witness_fieldup_fits : allFit (phaseFields (run1 .fieldup 0 0) []) = true := by
  have i : ∀ n, fieldIncr prob1 [] [] 0 n = 0 := by
    intro n
    simp [fieldIncr, prob1, varEntries, sumI]
  have v : ∀ g j, nth (nth [List.replicate 512 (0 : Int)] g []) j 0 = 0 := by
    intro g j
    rcases g with - | g
    · rcases Nat.lt_or_ge j 512 with h | h <;> simp [nth, h, -List.reduceReplicate]
    · simp [nth, -List.reduceReplicate]
  simp only [allFit, repFits, phaseFields, addIncr, List.all_eq_true, List.mem_map]
  rintro a ⟨r, hr, rfl⟩ b hb
  obtain ⟨g, -, rfl⟩ := List.mem_map.mp hb
  intro c hc
  obtain ⟨j, -, rfl⟩ := List.mem_map.mp hc
  have : r = 0 := by
    have p : (run1 .fieldup 0 0).prob.replicas = 1 := rfl
    rw [p] at hr
    simpa using hr
  subst this
  have e : nth (run1 .fieldup 0 0).fields 0 [] = [List.replicate 512 0] := rfl
  have p : (run1 .fieldup 0 0).prob = prob1 := rfl
  have l : (run1 .fieldup 0 0).lam = [] := rfl
  rw [e, p, l, i, v]
  decide
theorem witness_SaturatedPhaseCommitsNothing : let a := { run1 .fieldup 0 0 with marked := true }
    let s := progCtx (ctxA a) [⟨.fieldup ⟨0⟩, 0⟩]
    let w := recordReads 0 a s
    let r := runReads 0 a w.2
    annealsAt s 0 (.fieldup ⟨0⟩) (ctxA a) a ∧ w.1 = true ∧ r.1 = true ∧ isSpanned r.2 (ctxA a) = false ∧
    (propagate 0 a (ownDeltas a) [] r.2).1 = true ∧ a.marked = true :=
  ⟨anneals (.fieldup ⟨0⟩) _ (by decide +kernel), by decide +kernel⟩
theorem witness_sweepend : let a := run1 .sweepend 0 0
    let s := progCtx (ctxA a) [⟨.sweepend ⟨0⟩, 0⟩]
    annealsAt s 0 (.sweepend ⟨0⟩) (ctxA a) a ∧ (runReads 0 a s).1 = true := ⟨anneals (.sweepend ⟨0⟩) _ (by decide +kernel), by decide +kernel⟩
theorem witness_result : let a := run1 .over 0 0
    let s := progCtx (ctxA a) [⟨.result ⟨0, 0⟩, 0⟩]
    annealsAt s 0 (.result ⟨0, 0⟩) (ctxA a) a ∧ (runReads 0 a s).1 = true ∧ isSpanned (runReads 0 a s).2 (ctxA a) = false :=
  ⟨anneals (.result ⟨0, 0⟩) _ (by decide +kernel), by decide +kernel⟩

/-- A run of two devices as device 0 holds it. -/
def md1 : MdRun :=
  { runId := 5, position := 0, devices := [0, 1], mode := 1, free := false, timeoutUs := 1000, ckptPhases := 1, startSent := true, starts := [1],
    heard := [0, 0], waitingOn := [], remote := [], epochs := [], lastSent := 0, combBase := 0, combines := [], ups := [], lastProgress := 0,
    lost := none, notices := [], collectFrom := none, failover := none, cutFlag := false, late := 0, shareSent := false, barrier := 0,
    claimed := false, fails := 0, package := [] }

/-- An invocation with the flags of a descriptor, at a place of a run of two devices. -/
def ctxS (flags : Nat) (a : Anneal) : Ctx := { ctx0 with desc := descWith 0 [(2, 2, flags)], anneal := some a, md := some md1 }

/-- A state with a spanned run at an instruction, and what has come from device 1. -/
def spanned (x : Ctx) (i : EngInstr) (ms : List InMsg) : State :=
  { oneCtx x with progs := [⟨0, splice (image [i]) 0x016 [1], [], false, []⟩], net := { State.reset.net with inbox := ms } }

theorem ctxS_id (f : Nat) (a : Anneal) : (ctxS f a).id = 0 := by
  have : (ctxS f a).id = ctx0.id := by simp only [ctxS]
  rw [this, ctx0_id]

theorem ctxOf_spanned (x : Ctx) (i : EngInstr) (ms : List InMsg) (h : x.id = 0) : ctxOf (spanned x i ms) 0 = some x := by
  simp [ctxOf, spanned, oneCtx, h]

theorem witness_fieldup_free : let a := run1 .fieldup 0 0
    let x := ctxS 2 a
    let s := spanned x ⟨.fieldup ⟨0⟩, 0⟩ []
    let w := recordReads 0 a s
    let r := runReads 0 a w.2
    annealsAt s 0 (.fieldup ⟨0⟩) x a ∧ w.1 = true ∧ r.1 = true ∧ isSpanned r.2 x = true ∧ flFree x = true ∧
    ((ctxOf (takeAccs 0 r.2) 0).bind (·.md)).isSome = true ∧
    (propagate 0 a (ownDeltas a) [] (takeAccs 0 r.2)).1 = true :=
  ⟨⟨⟨by decide, ctxOf_spanned _ _ _ (ctxS_id _ _), by decide +kernel⟩, rfl⟩, by decide +kernel⟩
theorem witness_result_spanned : let a := run1 .over 0 0
    let x := ctxS 0 a
    let s := spanned x ⟨.result ⟨0, 0⟩, 0⟩ [⟨1, 1, 0, runMsg 5 mkUp 0 (encInts [7, 8]), none⟩]
    annealsAt s 0 (.result ⟨0, 0⟩) x a ∧ (runReads 0 a s).1 = true ∧ isSpanned (runReads 0 a s).2 x = true ∧
    (combine 0 (fun u v => u ++ v) (digestInts (stateDigest a)) (runReads 0 a s).2).1.isSome = true :=
  ⟨⟨⟨by decide, ctxOf_spanned _ _ _ (ctxS_id _ _), by decide +kernel⟩, rfl⟩, by decide +kernel⟩
theorem witness_result_free : let a := { run1 .over 0 0 with gathered := [0, 0, 0, 0] }
    let x := ctxS 2 a
    let s := spanned x ⟨.result ⟨0, 0⟩, 0⟩ [⟨1, 1, 0, runMsg 5 mkUp 0 (encInts [7, 8]), none⟩]
    let q := endsTold 0 a (runReads 0 a s).2
    annealsAt s 0 (.result ⟨0, 0⟩) x a ∧ (runReads 0 a s).1 = true ∧ isSpanned (runReads 0 a s).2 x = true ∧ flFree x = true ∧ q.1 = true ∧
    (match runOf q.2 0 with
      | some b => (combine 0 (fun u v => u ++ v) (digestInts (stateDigest b)) q.2).1.isSome
      | none => false) = true :=
  ⟨⟨⟨by decide, ctxOf_spanned _ _ _ (ctxS_id _ _), by decide +kernel⟩, rfl⟩, by decide +kernel⟩

/-! ## Witnesses: collectives, digests, audits and certificates of a program -/

theorem witness_red : let o : RedOp := ⟨0, 0x4000, 0, 0, 1, 0, 7⟩
    let s := at1 [⟨.red o, 0⟩]
    ctxOf s 0 = some ctx0 ∧ tagGroup s ctx0 (.red o) true 7 0 = some [0] ∧ o.scope ≠ 2 ∧ redAt s ctx0 0 = some (o, cur0, 0) ∧
    (groupReads 0 [(0, 0, vecLen 1 0)] s).1 = true :=
  ⟨ctxOf_progCtx _ _ ctx0_id, by decide +kernel⟩
theorem witness_red_run : let o : RedOp := ⟨0, 0x4000, 0, 0, 1, 2, 7⟩
    let s := at1 [⟨.red o, 0⟩]
    tagGroup s ctx0 (.red o) true 7 2 = some [0] ∧ redAt s ctx0 0 = some (o, cur0, 0) ∧ (combineAt 0 (tagKey 7) (redVec 1 0) [] s).1 = some [] := by
  decide +kernel
theorem witness_bcast : let o : BcastOp := ⟨0, 0, 0, 0, 0, 7⟩
    let s := at1 [⟨.bcast o, 0⟩]
    ctxOf s 0 = some ctx0 ∧ tagGroup s ctx0 (.bcast o) false 7 0 = some [0] ∧ o.scope ≠ 2 ∧ bcastAt s ctx0 0 = some (o, cur0, 0) ∧ 0 = o.root ∧
    (groupReads 0 [(0, 0, 64)] s).1 = true :=
  ⟨ctxOf_progCtx _ _ ctx0_id, by decide +kernel⟩
theorem witness_bcast_run : let o : BcastOp := ⟨0, 0, 0, 0, 2, 7⟩
    let p : BcastOp := ⟨0, 0, 0, 1, 2, 7⟩
    let x := { ctx0 with md := some md1 }
    let t := spanned x ⟨.bcast p, 0⟩ [⟨1, 1, 0, runMsg 5 mkBcast 7 (zeros 64), none⟩]
    (tagGroup (spanned x ⟨.bcast o, 0⟩ []) x (.bcast o) false 7 2 = some [0] ∧ md1.position = o.rdev) ∧
    (tagGroup t x (.bcast p) false 7 2 = some [0] ∧ md1.position ≠ p.rdev ∧ gotRun t md1 1 mkBcast 7 = some (zeros 64)) := by
  decide +kernel
theorem witness_lsend : standsAt (at1 [⟨.lsend ⟨0, 0, 1, 0⟩, 0⟩]) ⟨0, 0⟩ (.lsend ⟨0, 0, 1, 0⟩) ctx0 cur0 ∧
    (engReads 0 0 [(0, 64)] (at1 [⟨.lsend ⟨0, 0, 1, 0⟩, 0⟩])).1 = true := ⟨stands ⟨.lsend ⟨0, 0, 1, 0⟩, 0⟩ (by decide +kernel), by decide +kernel⟩

/-- A member of a run at an LRECV for which the length message and one frame came. -/
def atRecv (len : Nat) : State :=
  { progCtx { ctx0 with md := some md1 } [⟨.lrecv ⟨0, 0, 1, 3⟩, 0⟩] with
    net := { State.reset.net with inbox := [⟨1, 1, 0, leBytes 8 5 ++ leBytes 1 mkLen ++ leBytes 8 3 ++ leBytes 4 len, none⟩,
      ⟨1, 2, 3 * 2 ^ 28, [], some (xwinBase 0)⟩] } }

theorem witness_lrecv : let s := atRecv 64
    let x := { ctx0 with md := some md1 }
    let r := (List.range 1).foldl (takeFrame 0 0 md1 ⟨0, 0, 1, 3⟩ 0 0 64) (true, s)
    ctxOf s 0 = some x ∧ curOf x 0 = some cur0 ∧ engAt s x 0 (.lrecv ⟨0, 0, 1, 3⟩) = true ∧
    gotRun s md1 1 mkLen (3 + 16 * sentOf cur0 (keyRecv 1 3)) = some (leBytes 4 64) ∧ frameOf s md1 1 3 0 = some (xwinBase 0) ∧
    r.1 = true ∧ (((ctxOf r.2 0).bind fun y => curOf y 0).map fun v => sentOf v (keyPart 1 3)) = some (2 ^ 1 - 1) ∧
    gotRun (atRecv 128) md1 1 mkLen 3 = some (leBytes 4 128) ∧ leAt (leBytes 4 128) 0 4 ≠ 64 ∧
    engAt (atRecv 128) x 0 (.lrecv ⟨0, 0, 1, 3⟩) = true :=
  ⟨ctxOf_oneCtx { ctx0 with md := some md1 } (by decide +kernel), by decide +kernel⟩

/-- A context with the flags of a descriptor. -/
def ctxFl (f : Nat) : Ctx := { ctx0 with desc := descWith 0 [(2, 2, f)] }

theorem ctxFl_id (f : Nat) : (ctxFl f).id = 0 := by
  have : (ctxFl f).id = ctx0.id := by simp only [ctxFl]
  rw [this, ctx0_id]

theorem witness_audit : (allStandAt (progCtx (ctxFl 4) [⟨.audit ⟨0, 0⟩, 0⟩]) 0 (.audit ⟨0, 0⟩) (ctxFl 4) ∧ flAudit (ctxFl 4) = true) ∧
    allStandAt (at1 [⟨.audit ⟨0, 0⟩, 0⟩]) 0 (.audit ⟨0, 0⟩) ctx0 ∧ flAudit ctx0 = false :=
  ⟨⟨⟨by decide, ctxOf_progCtx _ _ (ctxFl_id 4), by decide +kernel⟩, by decide +kernel⟩,
    ⟨by decide, ctxOf_progCtx _ _ ctx0_id, by decide +kernel⟩, by decide +kernel⟩
theorem witness_cert : let s := { progCtx (ctxFl 8) [⟨.cert ⟨0, 0⟩, 0⟩] with cert := { State.reset.cert with bootId := some 1 } }
    ctxOf s 0 = some (ctxFl 8) ∧ collAt s (ctxFl 8) (.cert ⟨0, 0⟩) = true ∧ auditPending s (ctxFl 8) = false ∧ flCert (ctxFl 8) = true ∧
    s.sec.tampered = false ∧ s.cert.bootId.isSome = true ∧ isBell (ctxFl 8) = false :=
  ⟨ctxOf_oneCtx _ (ctxFl_id 8), by decide +kernel⟩

/-- A queued audit of the invocation. -/
def job0 : AuditJob :=
  { ring := 2, order := 0, ctx := 0, bell := false, addr := 0x80000000, prob := prob1, lam := [], engines := [0], tag := 0, runId := 0,
    certSeq := none, certAt := 0, cert := [], record := [], prog := 0, mainQ := false, out := none, mute := false, devices := [0], pos := 0, mode := 0,
    gBase := 0, stage := 0, pass := 0, sofar := [], first := [], sent := false }

theorem witness_cert_idle : (allStandAt (at1 [⟨.cert ⟨0, 0⟩, 0⟩]) 0 (.cert ⟨0, 0⟩) ctx0 ∧ flCert ctx0 = false) ∧
    allStandAt (progCtx (ctxFl 8) [⟨.cert ⟨0, 0⟩, 0⟩]) 0 (.cert ⟨0, 0⟩) (ctxFl 8) ∧ State.reset.cert.bootId = none :=
  ⟨⟨⟨by decide, ctxOf_progCtx _ _ ctx0_id, by decide +kernel⟩, by decide +kernel⟩, ⟨by decide, ctxOf_progCtx _ _ (ctxFl_id 8), by decide +kernel⟩, rfl⟩
theorem witness_cert_waits : let s := { progCtx (ctxFl 8) [⟨.cert ⟨0, 0⟩, 0⟩] with audits := [job0] }
    ctxOf s 0 = some (ctxFl 8) ∧ collAt s (ctxFl 8) (.cert ⟨0, 0⟩) = true ∧ auditPending s (ctxFl 8) = true ∧ isBell (ctxFl 8) = false :=
  ⟨ctxOf_oneCtx _ (ctxFl_id 8), by decide +kernel⟩

theorem witness_digest : standsAt (at1 [⟨.digest ⟨0, 0, 15, 0⟩, 0⟩]) ⟨0, 0⟩ (.digest ⟨0, 0, 15, 0⟩) ctx0 cur0 ∧
    standsAt (at1 [⟨.digest ⟨0, 0, 15, 2⟩, 0⟩]) ⟨0, 0⟩ (.digest ⟨0, 0, 15, 2⟩) ctx0 cur0 ∧
    (standsAt (at1 [⟨.digest ⟨0, 0, 15, 1⟩, 0⟩]) ⟨0, 0⟩ (.digest ⟨0, 0, 15, 1⟩) ctx0 cur0 ∧
      (engReads 0 0 [(0, 64)] (at1 [⟨.digest ⟨0, 0, 15, 1⟩, 0⟩])).1 = true) ∧
    standsAt (at1 [⟨.digest ⟨0, 0, 15, 3⟩, 0⟩]) ⟨0, 0⟩ (.digest ⟨0, 0, 15, 3⟩) ctx0 cur0 ∧
      (engReads 0 0 [(0, 32)] (at1 [⟨.digest ⟨0, 0, 15, 3⟩, 0⟩])).1 = true :=
  ⟨stands ⟨.digest ⟨0, 0, 15, 0⟩, 0⟩ (by decide +kernel), stands ⟨.digest ⟨0, 0, 15, 2⟩, 0⟩ (by decide +kernel),
    ⟨stands ⟨.digest ⟨0, 0, 15, 1⟩, 0⟩ (by decide +kernel), by decide +kernel⟩, stands ⟨.digest ⟨0, 0, 15, 3⟩, 0⟩ (by decide +kernel), by decide +kernel⟩

/-- The bytes of memory differ from the digest of the empty context, or, where memory holds it, equal it. -/
theorem witness_compare : memRead (at1 [⟨.digest ⟨0, 0, 15, 3⟩, 0⟩]) 0 32 ≠ treeDigest [] ∧
    memRead (memWrite 0 (treeDigest []) (at1 [⟨.digest ⟨0, 0, 15, 3⟩, 0⟩])) 0 32 = treeDigest [] := by decide +kernel
/-- A Porant image that every check of an install passes: engine 0 executes its one stage and halts. -/
def legal : List Byte :=
  leBytes 4 0x504F5254 ++ leBytes 2 1 ++ leBytes 2 0 ++ leBytes 8 0x440 ++ leBytes 4 1 ++ leBytes 2 1 ++ leBytes 2 0 ++ leBytes 2 1 ++ leBytes 2 0 ++
    leBytes 4 0 ++ leBytes 8 0x80 ++ leBytes 8 0x280 ++ leBytes 8 0x380 ++ leBytes 8 0x3C0 ++ leBytes 8 0x400 ++ zeros 56 ++
    (leBytes 8 0x400 ++ leBytes 4 2 ++ zeros 4 ++ zeros 496) ++ zeros 256 ++ zeros 64 ++ zeros 64 ++
    leBytes 16 (encodeEng ⟨.stage ⟨0, 0, 0⟩, 0⟩) ++ leBytes 16 (encodeEng ⟨.halt, 0⟩) ++ zeros 32

/-! ## Witnesses: entries -/

/-- MAINT holds one descriptor. -/
def mainHolds : State := withRegs [(pgQue 5, 0x070, 1), (pgQue 5, 0x05C, 1), (pgQue 5, 0x048, 16)] State.reset

theorem witness_FetchRuns : fetchRing mainHolds = some 5 ∧ (hostGet (pageBase mainHolds 5 0x040 + 64 * (qHead mainHolds 5 % ringSize mainHolds 5)) [.data (zeros 64)] 64 mainHolds).1 =
      some (zeros 64) ∧
    (hostGet (pageBase mainHolds 5 0x040 + 64 * (qHead mainHolds 5 % ringSize mainHolds 5)) [] 64 mainHolds).1 = none := by decide +kernel

/-- A context of MAINT. -/
def ctxM (d : List Byte) : Ctx := { ctxFor d with ring := 5 }

/-- An entry of a type that waits for nothing. -/
def dueCtx (ty : Nat) (l : List (Nat × Nat × Nat)) : Ctx := { ctxM (descWith ty l) with life := .waiting, argsRead := true }

/-- The state with programs. -/
def withProg (s : State) (img : List Byte) : State := { s with progs := [⟨0, img, [], false, []⟩] }

theorem witness_enterWaiting : ctxMeets (oneCtx (ctxM (descWith 7 []))) 0
    (fun y => decide (y.life = .fetched) && inOrder (oneCtx (ctxM (descWith 7 []))) y && ringRuns (oneCtx (ctxM (descWith 7 []))) y)
    (ctxM (descWith 7 [])) := by unfold ctxMeets; decide +kernel
theorem witness_argumentBlockRead : let x := { ctxM (descWith 4 []) with life := .waiting }
    ctxMeets (oneCtx x) 0 (fun y => decide (y.life = .waiting) && !y.argsRead) x := by unfold ctxMeets; decide +kernel

/-- An entry with one host-address wait, and with one semaphore wait, of the shortest timeout. -/
def waits1 (k : Nat) : Ctx := { dueCtx 7 [] with waits := [⟨1, 0x1000, 0, k, 0, false, none⟩] }

theorem witness_hostWaitPoll : 0 < 4 ∧ ctxMeets (oneCtx { waits1 1 with waitClamp := 1 }) 0
      (fun y => waitsOn y && polled (oneCtx { waits1 1 with waitClamp := 1 }) 0 0) { waits1 1 with waitClamp := 1 } ∧
    (waits1 1).waits[0]? = some ⟨1, 0x1000, 0, 1, 0, false, none⟩ ∧
    waitExpired (oneCtx { waits1 1 with waitClamp := 1 }) { waits1 1 with waitClamp := 1 } ⟨1, 0x1000, 0, 1, 0, false, none⟩ = false ∧
    pollDue (oneCtx { waits1 1 with waitClamp := 1 }) ⟨1, 0x1000, 0, 1, 0, false, none⟩ = true ∧
    (hostGet 0x1000 [.data (leBytes 8 1)] 8 (notePoll 0 0 (oneCtx { waits1 1 with waitClamp := 1 }))).1 = some (leBytes 8 1) ∧ 1 ≤ leNat (leBytes 8 1) := by
  unfold ctxMeets; decide +kernel
theorem witness_waitTimeout : let s := { oneCtx (waits1 0) with now := 1000 }
    ctxMeets (latchAll s) 0 (entryTimedOut (latchAll s)) (waits1 0) := by unfold ctxMeets; decide +kernel
theorem witness_stallDetectorFire : let s := { oneCtx (waits1 0) with now := 10 ^ 12, stallSince := some 0 }
    stallDue (trackStall (latchAll s)) = true ∧ stallVictim (trackStall (latchAll s)) = some (waits1 0) := by decide +kernel

theorem witness_invoke : ctxMeets (latchAll (oneCtx (dueCtx 0 []))) 0 (entryDue 0) (dueCtx 0 []) := by unfold ctxMeets; decide +kernel
theorem witness_install : let t := beginWork 0 .running (latchAll (oneCtx (dueCtx 1 [])))
    ctxMeets (latchAll (oneCtx (dueCtx 1 []))) 0 (entryRuns (oneCtx (dueCtx 1 [])) 1) (dueCtx 1 []) ∧ progAt t (dProgram (dueCtx 1 [])) = none ∧
    (match readImage (dueCtx 1 []) [.data legal] t with | (.ok b, _) => decide (b = legal) | _ => false) = true ∧
    (match installCheck t (dueCtx 1 []).ring legal with | .ok b => decide (b = legal) | .error _ => false) = true := by unfold ctxMeets; decide +kernel
theorem witness_remove : let s := withProg (oneCtx (dueCtx 2 [])) legal
    ctxMeets (latchAll s) 0 (entryRuns s 2) (dueCtx 2 []) ∧ (progAt (latchAll s) 0).isSome = true ∧ isRegistered (latchAll s) 0 = false := by
  unfold ctxMeets; decide +kernel
theorem witness_removeComplete : let x := { dueCtx 2 [] with life := .ready }
    ctxMeets (oneCtx x) 0 (fun y => decide (dType y = 2) && decide (y.life = .ready) && !programHeld (oneCtx x) 0 (dProgram y)) x := by
  unfold ctxMeets; decide +kernel
theorem witness_cmdbuf : let x := dueCtx 3 [(0x34, 2, 1)]
    ctxMeets (latchAll (oneCtx x)) 0 (entryDue 3) x ∧ devState (oneCtx x) = 0 ∧ flArgsDev x = false ∧
    (match argGet x (dArgs x) 64 0xFF [.data (zeros 64)] (latchAll (oneCtx x)) with | (.ok b, _) => decide (b = zeros 64) | _ => false) = true := by
  unfold ctxMeets; decide +kernel
theorem witness_cmdbufEntryStart : let x := { dueCtx 3 [(0x34, 2, 1)] with life := .running, entries := [descWith 7 [(0x38, 8, 2 ^ 64 - 1)]], entrySt := [.idle] }
    0 < 4096 ∧ ctxMeets (oneCtx x) 0 (entryStarts (oneCtx x) 0) x := by unfold ctxMeets; decide +kernel
theorem witness_selftest : ctxMeets (latchAll (oneCtx (dueCtx 6 [(1, 1, 35)]))) 0 (entryDue 6) (dueCtx 6 [(1, 1, 35)]) ∧
    tileIdle (oneCtx (dueCtx 6 [(1, 1, 35)])) 35 = true := by unfold ctxMeets; decide +kernel
theorem witness_join : ctxMeets (latchAll (oneCtx (dueCtx 7 []))) 0 (entryDue 7) (dueCtx 7 []) := by unfold ctxMeets; decide +kernel
theorem witness_StatusIsFinal : let x := { ctx0 with status := some ⟨0, 0, 0⟩ }
    ctxOf (oneCtx x) 0 = some x ∧ x.status.isSome = true := by decide +kernel

/-! ## Witnesses: invocations, queues, states, Bell, audits, windows -/

/-- A READY invocation. -/
def ready1 : Ctx := { ctxM (zeros 64) with life := .ready }

theorem witness_engineGrant : let s := withProg (oneCtx ready1) legal
    ctxMeets s 0 (grantable s) ready1 ∧ needsLost s ready1 = none ∧ certRefused s ready1 = false ∧ placesBad s ready1 = none ∧
    (let x := { ready1 with desc := descWith 0 [(2, 2, 8)] }
     ctxMeets (withProg (oneCtx x) legal) 0 (grantable (withProg (oneCtx x) legal)) x ∧ certRefused (withProg (oneCtx x) legal) x = true) := by unfold ctxMeets; decide +kernel
theorem witness_inputsMoved : let x := { ready1 with life := .running }
    ctxMeets (withProg (oneCtx x) legal) 0 (fun y => isInvocation y && decide (y.life = .running) && !y.fed && !y.inputsIn) x ∧
    issueOff (withProg (oneCtx x) legal) = false := by unfold ctxMeets; decide +kernel

/-- LOW's invocation runs; another ring's is READY and needs the same engine. -/
def lowCtx : Ctx := { ctxFor (zeros 64) with life := .running, fed := true, curs := [cur0], ring := 4 }

/-- Its slice is over. -/
def yields : State :=
  { withProg (oneCtx lowCtx) legal with ctxs := [lowCtx, { ready1 with id := 1, ring := 3 }], now := 10 ^ 15,
                                        regs := (withRegs [(pgCfe, 0x040, 1), (pgCfe, 0x060, 1)] State.reset).regs }

theorem witness_switchOut : ctxMeets yields 0 (switchable yields) lowCtx := by unfold ctxMeets; decide +kernel
theorem witness_switchIn : let x := { ready1 with life := .switchedOut, ran := true, curs := [cur0] }
    ctxMeets (withProg (oneCtx x) legal) 0 (resumable (withProg (oneCtx x) legal)) x ∧ needsLost (withProg (oneCtx x) legal) x = none := by
  unfold ctxMeets; decide +kernel
theorem witness_invocationAbortStop : let x := { ready1 with life := .switchedOut, abort := true }
    ctxMeets (oneCtx x) 0 (abortStops (oneCtx x)) x := by unfold ctxMeets; decide +kernel
theorem witness_hostSignalFlushDone : let x := { ctx0 with sigPending := [3], signals := List.replicate 4 ⟨1, 0x1000, 0, 1, 1⟩ }
    3 < 4 ∧ ctxMeets (oneCtx x) 0 (fun y => y.sigPending.contains 3) x ∧ x.signals[3]? = some ⟨1, 0x1000, 0, 1, 1⟩ := by unfold ctxMeets; decide +kernel

/-- A record written to HIGH's completion queue and not confirmed. -/
def rec1 : RecW := ⟨zeros 64, none, true, some 1, false⟩

/-- The reset state with queue `q` as given. -/
def queueIs (q : Nat) (u : Queue) : State := { State.reset with queues := updAt State.reset.queues q fun _ => u }

theorem witness_recordFlushDone : 5 < 6 ∧ (queueOf (queueIs 5 { queueReset with written := [rec1] }) 5).written ≠ [] ∧
    (flushTry (flushAddr (queueIs 5 { queueReset with written := [rec1] }) 5) 3 [.ok] (queueIs 5 { queueReset with written := [rec1] })).1 = true ∧
    (flushTry (flushAddr (queueIs 5 { queueReset with written := [rec1] }) 5) 3 [] (queueIs 5 { queueReset with written := [rec1] })).1 = false := by decide +kernel
theorem witness_msixCoalesceTimeout : coalesceDue { queueIs 0 { queueReset with coOldest := some 0 } with now := 2 ^ 40 } 0 = true := by decide +kernel

/-- QUE 2 with 16 entries. -/
def ring16 : State := withRegs [(pgQue 2, 0x048, 16)] State.reset

theorem witness_queue_registers : 2 < 6 ∧ accepts ring16 .pcie (pgQue 2) ∧ ((16 + 2 ^ 32 - qHead ring16 2) % 2 ^ 32 ≤ ringSize ring16 2) ∧
    (ringSize ring16 2 < (17 + 2 ^ 32 - qHead ring16 2) % 2 ^ 32) ∧ qEnabled ring16 2 = false ∧ qState ring16 2 ≠ 2 := by
  unfold accepts; decide +kernel
theorem witness_queue_disable_rearm :
    (qEnabled (withRegs [(pgQue 2, oCtrl, 1), (pgQue 2, 0x070, 1)] State.reset) 2 = true ∧
      qState (withRegs [(pgQue 2, oCtrl, 1), (pgQue 2, 0x070, 1)] State.reset) 2 ≠ 2) ∧
    qState (withRegs [(pgQue 2, 0x070, 2)] State.reset) 2 = 2 ∧
    accepts (withRegs [(pgQue 2, 0x070, 2)] State.reset) .i3c (pgQue 2) := by unfold accepts; decide +kernel

/-- The reset state in a device state. -/
def inState (n : Nat) : State := withRegs [(pgCfe, 0x040, n)] State.reset

theorem witness_StateChanges : (accepts (inState 1) .pcie pgCfe ∧ devState (inState 1) = 1) ∧
    (accepts State.reset .pcie pgCfe ∧ devState State.reset = 0) ∧
    (accepts (inState 3) .i3c pgCfe ∧ 2 ≤ devState (inState 3)) ∧
    (devState (inState 2) = 2 ∧ drained (inState 2) = true) ∧
    devState (inState 3) = 3 ∧ buffersOver (inState 3) = true ∧ ({ State.reset.cert with bootId := some 1 } : CertUnit).bootId.isSome = true := by
  unfold accepts; decide +kernel
theorem witness_StateChanges_service : serviceBarred State.reset = false := by decide +kernel
theorem witness_abort : 5 < 6 ∧ accepts (oneCtx (ctxM (zeros 64))) .pcie pgCfe ∧ ctxOf (oneCtx (ctxM (zeros 64))) 0 = some (ctxM (zeros 64)) ∧
    (ctxM (zeros 64)).life = .fetched ∧ ({ ctxM (zeros 64) with life := .finishing } : Ctx).life = .finishing := by unfold accepts; decide +kernel

/-- A REGISTER of BELL0 that nothing refuses. -/
def regEntry : Ctx :=
  { ctxFor (descWith 4 [(0x18, 8, 10 ^ 9), (0x20, 4, 1)]) with
    life := .waiting, argsRead := true, ring := 0, regBlock := leBytes 8 (2 * 10 ^ 9) ++ zeros 8 ++ leBytes 4 1 ++ zeros 12 ++ leBytes 2 1 ++ zeros 94 }

/-- It stands WAITING in SERVICE, its program installed in BELL0's partition. -/
def regState : State := { withProg (oneCtx regEntry) legal with regs := (withRegs [(pgQue 0, 0x100, 1)] (inState 1)).regs }

/-- It has begun. -/
def regBegun : State := beginWork 0 .running (latchAll regState)

/-- Its program's sweeps and tail cost nothing, so the rates of the tiles, which are free, do not decide. -/
theorem register_admitted : admissionRefused regBegun regEntry legal (newProg regBegun regEntry [] []) = false := by
  have hd : tPoint regBegun = (8000, 9600) := by decide +kernel
  have hl : (reg regBegun (pgQue regEntry.ring) 0x104).testBit 1 = false := by decide +kernel
  have hp : rdDeadline (newProg regBegun regEntry [] []).desc = 10 ^ 9 ∧ (rdFlags (newProg regBegun regEntry [] []).desc).testBit 2 = false := by
    decide +kernel
  have hz : max (bkFixed (newProg regBegun regEntry [] []).block) 0 + rdBudget (newProg regBegun regEntry [] []).desc *
      max (bkSweep (newProg regBegun regEntry [] []).block) 0 + max (bkTail (newProg regBegun regEntry [] []).block) 0 = 0 := by decide +kernel
  have hm : measMax (newProg regBegun regEntry [] []) = (0, 0, 0) := rfl
  have hi : inputBytes false (newProg regBegun regEntry [] []).inputs = 0 ∧ inputBytes true (newProg regBegun regEntry [] []).inputs = 0 := by
    decide +kernel
  have hc : ∀ t, admitCost t (newProg regBegun regEntry [] []) = 20000 * admitUnit t := by
    intro t
    simp only [admitCost, hm, hz, hi]
    omega
  have he : imgMask legal &&& partition regBegun regEntry.ring = imgMask legal ∧ (bellOf regBegun regEntry.ring).progs = [] := by decide +kernel
  simp [admissionRefused, admitTest, he, hd, hl, hp, hc, sumN]
  generalize admitUnit (tLongest regBegun (partition regBegun regEntry.ring)) = n
  rw [if_neg (by omega), if_pos (by omega)]
  rfl

theorem witness_register : ctxMeets (latchAll regState) 0 (entryRuns regState 4) regEntry ∧ registerBad regBegun regEntry regEntry.regBlock legal = none ∧
    daCheck legal (mapOk regBegun .program) = none ∧
    (match releaseArgs regEntry [] regBegun with | (.ok ([], []), _) => true | _ => false) = true ∧
    admissionRefused regBegun regEntry legal (newProg regBegun regEntry [] []) = false := by
  refine ⟨?_, ?_, ?_, ?_, register_admitted⟩ <;> (try unfold ctxMeets) <;> decide +kernel

/-- The same with no engine in BELL0's partition. -/
theorem witness_register_refused : let s := { regState with regs := (inState 1).regs }
    let w := beginWork 0 .running (latchAll s)
    ctxMeets (latchAll s) 0 (entryRuns s 4) regEntry ∧ registerBad w regEntry regEntry.regBlock legal = none ∧
    daCheck legal (mapOk w .program) = none ∧ (match releaseArgs regEntry [] w with | (.ok ([], []), _) => true | _ => false) = true ∧
    admissionRefused w regEntry legal (newProg w regEntry [] []) = true := by unfold ctxMeets; decide +kernel

/-- A registered program, release 0 due at 1 s. -/
def bell1 : BellProg := newProg regState regEntry [] []

/-- BELL0 holds it, in SERVICE, at a time. -/
def bellState (p : BellProg) (t : Nat) : State :=
  { inState 1 with bells := [⟨[p], none⟩, ⟨[], none⟩], now := t, progs := [⟨0, legal, [], false, []⟩] }

theorem witness_deregister : let x := { dueCtx 5 [] with ring := 0 }
    let s := { bellState bell1 0 with ctxs := [x] }
    ctxMeets (latchAll s) 0 (entryRuns s 5) x ∧ ((bellOf (latchAll s) 0).progs.any fun p => decide (p.prog = 0)) = true := by unfold ctxMeets; decide +kernel
theorem witness_bellRelease : 0 < 2 ∧ releaseDue (bellState bell1 (2 * 10 ^ 9)) 0 0 = true ∧
    (bellOf (bellState bell1 (2 * 10 ^ 9)) 0).progs.find? (fun p => decide (p.prog = 0)) = some bell1 := by decide +kernel
theorem witness_releaseStart : partitionFree (bellState { bell1 with held := some 0 } (2 * 10 ^ 9)) 0 = true ∧
    nextHeld (bellState { bell1 with held := some 0 } (2 * 10 ^ 9)) 0 = some ({ bell1 with held := some 0 }, 0) := by decide +kernel

/-- A release inside its SWEEPS loop. -/
def cutCtx : Ctx :=
  { ctxFor (descWith 0 [(0x18, 8, 10 ^ 9)]) with
    ring := 0, origin := .release 0 0, life := .running, fed := true, curs := [{ cur0 with frames := [⟨⟨0, 2, 0, 0, 2⟩, 0⟩] }], regBlock := zeros 128 }

theorem witness_cutPoint : ctxMeets { oneCtx cutCtx with now := 10 ^ 15 } 0 (cutDue { oneCtx cutCtx with now := 10 ^ 15 }) cutCtx := by unfold ctxMeets; decide +kernel
theorem witness_lendBlockExpiry : let x := { ready1 with life := .running, ring := 4, blocked := some 0 }
    let s := { bellState { bell1 with held := some 0 } (10 ^ 12) with ctxs := [x], regs := (withRegs [(pgQue 0, 0x100, 1)] (inState 1)).regs }
    0 < 2 ∧ ctxMeets s 0 (lendExpired s 0) x := by unfold ctxMeets; decide +kernel
theorem witness_GoverningBudget : bkBudgetMin cutCtx.regBlock ≤ cutCtx.budgetNom ∧ cutCtx.before.1 ≤ cutCtx.budgetNom ∧
    (reg (withRegs [(pgQue 0, 0x104, 0)] State.reset) (pgQue 0) 0x104).testBit 0 = false := by decide +kernel

theorem witness_audits : ({ State.reset with audits := [job0] } : State).auditRun = none ∧ nextAudit [job0] = some job0 ∧ issueOff State.reset = false ∧
    ({ State.reset with auditRun := some job0 } : State).auditRun = some job0 := by decide +kernel

/-- A window with one certificate. -/
def win1 : Window := ⟨0, 0, 1, 256, [⟨[], none, none⟩], 0⟩

theorem witness_windows : windowDue { State.reset with now := 10 ^ 6, cert := { State.reset.cert with current := some win1 } } win1 = true ∧
    State.reset.cert.closed.length < 4 ∧ signReady { State.reset with cert := { State.reset.cert with closed := [win1], bootId := some 1 } } = true ∧ State.reset.sec.tampered = false := by
  decide +kernel
theorem witness_certRingRd_beyond : let s := withRegs [(pgCert, 0x058, 3)] State.reset
    (reg s pgCert 0x058 + 2 ^ 32 - reg s pgCert 0x054) % 2 ^ 32 < (4 + 2 ^ 32 - reg s pgCert 0x054) % 2 ^ 32 := by decide +kernel
theorem witness_certRingRdWrite : let s := withRegs [(pgCert, 0x058, 3)] State.reset
    accepts s .pcie pgCert ∧ (3 + 2 ^ 32 - reg s pgCert 0x054) % 2 ^ 32 ≤ (reg s pgCert 0x058 + 2 ^ 32 - reg s pgCert 0x054) % 2 ^ 32 := by
  unfold accepts; decide +kernel

/-! ## Witnesses: links, runs over devices, fail-over -/

/-- The reset state with link 15 as given. -/
def linkIs (k : Link) : State := { State.reset with links := updAt State.reset.links 15 fun _ => k }

/-- A sent flit that no ACK has released. -/
def sent1 (tries first : Nat) : SentFlit := ⟨0, ⟨1, 0, 0, false, 1, 0, 0, 0, [], none⟩, first, first, tries⟩

theorem witness_links : (linkOf (linkIs { linkReset with st := 2 }) 15).st = 2 ∧ (linkOf (linkIs { linkReset with st := 3 }) 15).st = 3 ∧
    (replayDue { linkIs { linkReset with st := 3, replay := [sent1 1 0] } with now := 2200 } 15 = true ∧
      replayOut { linkIs { linkReset with st := 3, replay := [sent1 1 0] } with now := 2200 } 15 = false) ∧
    (replayDue { linkIs { linkReset with st := 3, replay := [sent1 8 0] } with now := 2200 } 15 = true ∧
      replayOut { linkIs { linkReset with st := 3, replay := [sent1 8 0] } with now := 2200 } 15 = true) := by decide +kernel
theorem witness_links_train : let s := withRegs [(pgLink 15, 0x040, 1)] State.reset
    ((linkOf s 15).st = 0 ∧ linkEnabled s 15 = true ∧ (linkOf s 15).downAt ≤ s.now ∧ lacksKey s 15 = false) ∧
    ((linkOf (linkIs { linkReset with st := 1 }) 15).st = 1 ∧ epochWaits (linkIs { linkReset with st := 1 }) 15 = false) ∧
    (let t := { linkIs { linkReset with st := 2 } with now := 1000000 }
     (linkOf t 15).st = 2 ∧ (linkOf t 15).since + 1000000 ≤ t.now) ∧
    (let t := withRegs [(pgLink 15, 0x040, 3)] State.reset
     linkEnabled t 15 = true ∧ lacksKey t 15 = true) := by decide +kernel
theorem witness_flits : (linkOf (linkIs { linkReset with st := 3 }) 15).rxBits.length < 2048 ∧ lanesOk (List.replicate 8 (List.replicate 68 1023)) = true ∧
    2048 ≤ (linkOf (linkIs { linkReset with st := 3, rxBits := List.replicate 2048 (some false) }) 15).rxBits.length := by decide +kernel
theorem witness_rekey : linkUp (linkIs { linkReset with st := 3 }) 15 = true ∧ 1 = ((linkOf (linkIs { linkReset with st := 3 }) 15).rxEpoch + 1) % 2 ^ 32 := by
  decide +kernel
theorem witness_msgAck : let o : OutMsg := ⟨511, 1, 9, [], 0, 1, none⟩
    let s := { State.reset with net := { State.reset.net with out := [o] }, now := 300000 }
    511 < 512 ∧ outOf s 511 1 9 = some o ∧ ackLate s o = true := by decide +kernel

/-- A member of a run of two devices; device 0 is position 0. -/
def member (f : MdRun → MdRun) : Ctx := { ctx0 with md := some (f md1) }

theorem witness_peers : runCtx (oneCtx (member id)) 5 = some (member id) ∧ 1 < md1.devices.length ∧ md1.lost ≠ some 1 ∧
    ctxOf (oneCtx (member id)) 0 = some (member id) ∧ inRun (member id) = true ∧
    md1.lastProgress + 500000 ≤ ({ oneCtx (member id) with now := 500000 } : State).now := by decide +kernel
theorem witness_peerTimer : let x := member fun m => { m with waitingOn := [(0, 1)] }
    peerDue { oneCtx x with now := 1000000 } 1 x = true := by decide +kernel
theorem witness_late : runCtx (oneCtx (member fun m => { m with lost := some 1 })) 5 = some (member fun m => { m with lost := some 1 }) := by decide +kernel
theorem witness_lostCollectEnd : let m := { md1 with collectFrom := some 0 }
    inRun (member fun _ => m) = true ∧ m.failover = none ∧ m.collectFrom = some 0 ∧ 0 + 100000 ≤ ({ State.reset with now := 100000 } : State).now := by
  decide +kernel
theorem witness_epochBarrier : let x := { member (fun m => { m with barrier := 1, epochs := [(1, 0)] }) with anneal := some { run1 .over 0 0 with applied := [⟨1, 0, [], [0], false⟩] } }
    ctxMeets (takeAccs 0 (oneCtx x)) 0 (fun y => inRun y && barrierReady y &&
      (ctxEngines (takeAccs 0 (oneCtx x)) y).all fun e => !((takeAccs 0 (oneCtx x)).substs.any fun u => decide (u.eng = e))) x := by unfold ctxMeets; decide +kernel

theorem witness_start : 511 < 512 ∧ startFor (oneCtx (member fun m => { m with starts := [] })) 1 ⟨5, 1, [], [], 0⟩ = some (0, 1) := by decide +kernel
theorem witness_claim : ({ State.reset with sysmap := { State.reset.sysmap with role := 1 } } : State).sysmap.role = 1 := by decide
theorem witness_probe : 15 < 16 ∧ linkUp (linkIs { linkReset with st := 3 }) 15 = true := by decide +kernel

/-- A claim on a spare. -/
def claim1 (won : Bool) (k : Option Nat) : Claim :=
  { runId := 5, lostPos := 0, queue := 2, dev := 7, probedAt := 0, from_ := 1, won := won, ckpt := k, failAt := 0, devices := some [0, 1],
    fails := 1, pieces := [], done := [] }

theorem witness_probes : let s := { State.reset with net := { State.reset.net with claim := some (claim1 false none) }, now := 100000 }
    s.net.claim = some (claim1 false none) ∧ (claim1 false none).runId = 5 ∧ (claim1 false none).won = false ∧ 0 + 100000 ≤ s.now ∧ s.now ≤ 0 + 100000 ∧
    0 + 100000 < ({ s with now := 100001 } : State).now := by decide +kernel
theorem witness_restore : let x := member fun m => { m with failover := some (1, 9, 0), startSent := false }
    ctxMeets (oneCtx x) 0 (restoreDue (oneCtx x)) x ∧ installDue (oneCtx x) 0 = false := by unfold ctxMeets; decide +kernel

/-- A mirror that has come whole. -/
def mirror1 : Mirror := ⟨7, 5, 0, 64, 64, 0, 64, 64, []⟩

theorem witness_spareInstall : let s := { State.reset with net := { State.reset.net with claim := some (claim1 true (some 0)) } }
    installDue s 0 = true ∧ s.net.claim = some (claim1 true (some 0)) := by decide +kernel
theorem witness_mirrorRebuild :
    rebuildDue { State.reset with net := { State.reset.net with rebuilding := [(7, some [5])], mirrors := [mirror1] } } 7 = true := by decide +kernel

/-! ## Witnesses: tiles, security, entropy, power, resets -/

theorem witness_substitution : 31 < 32 ∧ (({ State.reset with substs := [⟨31, 34, 35, 0, none⟩] } : State).substs.any fun u => decide (u.eng = 31)) = true ∧
    orphaned { State.reset with failing := [(31, 0)] } 31 = true := by decide +kernel
theorem witness_repairLog : ({ State.reset with repairQueue := [⟨0, 0, 0, 0⟩] } : State).repairQueue = [⟨0, 0, 0, 0⟩] ∧
    State.reset.flash.repair.length < 255 ∧ 255 ≤ (List.replicate 255 (⟨0, 0, 0, 0⟩ : RepairEnt)).length := by decide +kernel
theorem witness_tileSelftest : 35 < 36 ∧ ({ State.reset with selftestDue := [35] } : State).selftestDue.contains 35 = true ∧
    tileIdle { State.reset with selftestDue := [35] } 35 = true := by decide +kernel
theorem witness_scrubRead : 151 < 152 ∧ scrubMay State.reset 151 = true := by decide +kernel
theorem witness_controllers : (memPage 0x033 = some 0x3C0 ∧ accepts State.reset .pcie 0x033) ∧ (memPage 0x047 = some 0 ∧ accepts State.reset .i3c 0x047) := by
  unfold accepts; decide +kernel

/-- The reset state in a life-cycle state. -/
def lifeIs (n : Nat) : State := { State.reset with fuses := ⟨List.replicate n 8 ++ List.replicate (4 - n) 0, List.replicate 4 false, 0⟩ }

theorem witness_security : accepts (lifeIs 1) .pcie pgSec ∧ accepts (lifeIs 1) .pcie pgKey ∧ maintNow (lifeIs 1) = true ∧ (lifeIs 1).ctxs = [] ∧
    (lifeIs 1).fuses.life = 1 ∧ (accepts (lifeIs 3) .i3c pgSec ∧ accepts (lifeIs 3) .i3c pgKey ∧ (lifeIs 3).fuses.life = 3) := by
  unfold accepts; decide +kernel
theorem witness_provision_tamper : accepts (lifeIs 0) .pcie pgSec ∧ accepts (lifeIs 0) .pcie pgKey ∧ (lifeIs 0).fuses.life = 0 ∧ (lifeIs 0).boot.phase ≠ .held ∧
    5 < 6 ∧ ((lifeIs 0).fuses.life = 0 → (reg (lifeIs 0) pgSec 0x058).testBit 5 = false) := by unfold accepts; decide +kernel
theorem witness_revoke : 3 < 4 ∧ mayRevoke State.reset 3 = true ∧ mayRevoke State.reset 0 = false ∧ alive State.reset = true := by decide +kernel
theorem witness_keyProvision : 1 < 2 ∧ reg (lifeIs 1) pgKey 0x050 ≠ 1 ∧ canServe (lifeIs 1) instK = false ∧
    canServe { lifeIs 1 with ent := { State.reset.ent with insts := List.replicate 4 ⟨[], [], drbgReady, 0, 0⟩ } } instK = true := by decide +kernel
theorem witness_attestation : ({ State.reset with sec := { State.reset.sec with idSeed := some (zeros 32) } } : State).sec.idSeed = some (zeros 32) := rfl
theorem witness_Revocation : (alive State.reset = true ∧ inMaintenance State.reset = true ∧ fwKey (bootedSlot State.reset) ≠ 1 ∧
      ∃ i, i < 4 ∧ i ≠ 1 ∧ nth State.reset.fuses.revoked i true = false) ∧
    ¬fwKey (bootedSlot State.reset) ≠ 0 := ⟨⟨by decide, by decide +kernel, by decide, 0, by decide⟩, by decide⟩
theorem witness_Revocation_stays : let s := { State.reset with fuses := ⟨[8, 0, 0, 0], [false, true, false, false], 0⟩ }
    nth s.fuses.revoked 1 false = true ∧ ∃ t, exec .perstNRise s = .next t := ⟨by decide, _, rfl⟩

/-- The reset state with its entropy service as given. -/
def entIs (service : Nat) (sources : List Nat) : State := { State.reset with ent := { State.reset.ent with service := service, sources := sources } }

theorem witness_entropy : (entropyOn (entIs 0 [0, 0, 0]) = true ∧ (entIs 0 [0, 0, 0]).ent.service = 0) ∧
    (2 < 3 ∧ (entIs 1 [1, 1, 1]).ent.service ≠ 0 ∧ sourceSt (entIs 1 [1, 1, 1]) 2 = 1 ∧ mayTrip (entIs 1 [1, 1, 1]) 2 = true) ∧
    (sourceSt (entIs 2 [1, 1, 2]) 2 = 2 ∧ nth (entIs 2 [1, 1, 2]).ent.retestAt 2 0 + 256000 ≤ ({ entIs 2 [1, 1, 2] with now := 256000 } : State).now ∧
      mayEnd (entIs 2 [1, 1, 2]) 2 true = true ∧ mayEnd (entIs 2 [1, 1, 2]) 2 false = true) ∧
    ((zeros 32).length = 32 ∧ zeros 32 ≠ State.reset.ent.prev ∧ zeros 32 = ({ State.reset.ent with prev := zeros 32 } : Entropy).prev) := by decide +kernel
theorem witness_drbg : let d : Drbg := ⟨[], [], drbgReady, 2 ^ 16, 0⟩
    let s := { State.reset with ent := { State.reset.ent with insts := [d, d, d, d] } }
    (3 < 4 ∧ reseedDue s 3 = true) ∧ bootIdReady s = true := by decide +kernel
theorem witness_entropyRequestTimeout : let s := { State.reset with now := 10000000 }
    s.ent.reqs[0]? = some ⟨0, 0, 0, 0⟩ ∧ reqDue s ⟨0, 0, 0, 0⟩ = true ∧ canServe s 0 = false ∧ reqLive s ⟨0, 0, 0, 0⟩ = true := by decide +kernel
theorem witness_entropy_page : accepts State.reset .pcie pgEntropy := by unfold accepts; decide +kernel

/-- The reset state at 1 s. -/
def later : State := { State.reset with now := 10 ^ 9 }

theorem witness_power : alive later = true ∧ later.power.lastEval + 100000 ≤ later.now ∧ later.power.lastSpd + 10000000 ≤ later.now ∧
    ({ later with power := { later.power with avsOut := true } } : State).power.avsOut = true ∧ later.power.lastAvs + 100000 ≤ later.now ∧
    (List.replicate 41 (0 : Int)).length = 41 ∧ 40 < 41 ∧ later.thermTripped = false := by decide +kernel
theorem witness_margins : 35 < 36 ∧
    (let s := withRegs [(pgSpeed, 0x048, 8)] State.reset
     (marginOf s 35).code < codeMax (marginOf s 35)) ∧
    (let s := { State.reset with margins := List.replicate 36 (⟨15, 0, true, 0, 15⟩ : Margin) }
     codeMax (marginOf s 35) ≤ (marginOf s 35).code ∧ (marginOf s 35).adapt = true ∧ codeFloor (marginOf s 35) < (marginOf s 35).code) := by decide +kernel
theorem witness_Triggers : State.reset.power.level ≤ 7 ∧ reg (withRegs [(pgPower, 0x048, 0)] State.reset) pgPower 0x048 % 8 < min 7 (State.reset.power.level + 2) := by
  decide +kernel

/-- The reset state with its boot record changed. -/
def bootIs (f : Boot → Boot) : State := { State.reset with boot := f State.reset.boot }

theorem witness_resets : (State.reset.boot.porst = true ∧ State.reset.boot.pwrgd = true ∧ 6 < 7 ∧ railWithin State.reset ⟨6, 0⟩ = false) ∧
    ((bootIs fun b => { b with porst := false }).boot.porst = false ∧ powerGood (bootIs fun b => { b with porst := false }) = true ∧
      powerGood (bootIs fun b => { b with porst := false, pwrgd := false }) = false) ∧
    (powerGood (bootIs fun b => { b with pwrgd := false }) = false ∧ (bootIs fun b => { b with pwrgd := false }).boot.porst = true) ∧
    (bootIs fun b => { b with phase := .starting }).boot.phase = .starting ∧ factsOk ⟨List.replicate 16 true, 16, [], [], false⟩ = true := by
  decide +kernel
theorem witness_recovery : accepts (bootIs fun b => { b with phase := .recovery }) .pcie pgBoot ∧
    (bootIs fun b => { b with phase := .recovery }).boot.phase = .recovery := by unfold accepts; decide +kernel
theorem witness_warm : (State.reset.boot.phase = .running ∧ State.reset.boot.warm = none ∧ State.reset.boot.perst = true ∧ State.reset.pcieUp = true ∧
      State.reset.boot.d3hot = false) ∧
    (bootIs fun b => { b with perst := false }).boot.perst = false ∧ (bootIs fun b => { b with d3hot := true }).boot.d3hot = true ∧
    (bootIs fun b => { b with warm := some (true, 0) }).boot.warm.isSome = true ∧
    ({ State.reset with pcieUp := false } : State).pcieUp = false ∧ State.reset.boot.phase ≠ .held ∧ 1 ≤ 6 ∧ 1 ≤ 16 := by decide +kernel
theorem witness_ResetsKeep : warmMem State.reset 0 = true ∧ warmMem State.reset (2 ^ 43) = false := by decide +kernel

/-! ## Witnesses: calibration, time, buses, register pages -/

theorem witness_calibration : accepts State.reset .pcie pgCal ∧ calAccepts State.reset = true ∧ alive State.reset = true := by unfold accepts; decide +kernel
theorem witness_time : ({ State.reset with ppsLast := some 0 } : State).ppsLast = some 0 ∧ 0 + 1500000000 ≤ ({ State.reset with now := 1500000000 } : State).now ∧
    (let s := { withRegs [(pgTime, 0x054, 4)] State.reset with now := 10000000 }
     alive s = true ∧ s.pcieUp = true ∧ syncCtrl s 2 = true ∧ s.ptmLast + 10000000 ≤ s.now) ∧
    (State.reset.boot.phase ≠ .held ∧ (reg State.reset pgDev oStatus).testBit 0 = false) ∧
    (reg (withRegs [(pgDev, oStatus, 1)] State.reset) pgDev oStatus).testBit 0 = true := by decide +kernel

theorem witness_bar2_recovery : let s := { State.reset with boot := { State.reset.boot with phase := .recovery } }
    bar2Serves 0x1FFFFFF 2 s = true ∧ s.boot.phase = .recovery := by decide +kernel
theorem witness_bar2 : bar2Serves 0x80000000 64 State.reset = true ∧ (let s := withRegs [(pgPcie, 0x04C, 0x20)] State.reset
      bar2Serves 0 1 s = true ∧ mapOk s (bar2Reach s) (bar2Addr s 0) 1 = false) ∧ State.reset.boot.phase ≠ .recovery ∧
    mapOk State.reset (bar2Reach State.reset) (bar2Addr State.reset 0x80000000) 64 = true ∧ 1 ≤ [some (0 : Byte)].length := by decide +kernel
theorem witness_buses : alive State.reset = true ∧ State.reset.pcieUp = true ∧ State.reset.boot.phase ≠ .held ∧ pcieServes State.reset = true := by decide +kernel
theorem witness_i3c : State.reset.i3c.addr = none ∧ (let s := { State.reset with i3c := ⟨some 8, 0, 0⟩ }
    s.i3c.addr.isSome = true ∧ alive s = true ∧ offsetOk 0x3FFFFFC = true ∧ offsetOk 0x4000000 = false ∧ offsetOk 2 = false ∧
    alive (barWrite .i3c 0x2044 0 s) = true ∧ lockedOut s .i3c (pageOf 0x2044) = false) := by decide +kernel

/-- A transaction on a page. -/
def txnAt (page : Nat) (t : Txn) : State := { State.reset with txns := [(page, t)] }

/-- An open one of host software on the CFE page. -/
def open1 : Txn := ⟨.open_, .pcie, 0, [], 0, 0⟩

theorem witness_txns : (accepts State.reset .pcie pgCfe ∧ txnPage pgCfe = true ∧ (txnOf State.reset pgCfe).st = .idle) ∧
    (accepts (txnAt pgCfe open1) .pcie pgCfe ∧ (txnOf (txnAt pgCfe open1) pgCfe).st = .open_ ∧ (txnOf (txnAt pgCfe open1) pgCfe).agent = .pcie) := by
  unfold accepts; decide +kernel
theorem witness_rwt : 0x050 < 0x1000 ∧ 0x040 ≤ 0x050 ∧ rwtMask (tyOf pgCfe) (instOf pgCfe) 0x050 = some 0xFFFFFFFF ∧ openTo (txnAt pgCfe open1) .pcie open1 = true ∧
    openTo (txnAt pgCfe open1) .i3c open1 = false ∧ accepts (txnAt pgCfe open1) .i3c pgCfe := by unfold accepts; decide +kernel
theorem witness_txnApply : pgCfe < 0x74 ∧ (txnOf (txnAt pgCfe { open1 with st := .pending }) pgCfe).st = .pending ∧
    safePoint (txnAt pgCfe { open1 with st := .pending }) pgCfe { open1 with st := .pending } = true ∧
    tyOf pgSpeed = .speed ∧ safeDue (txnAt pgSpeed { open1 with st := .pending }) pgSpeed = true := by decide +kernel
theorem witness_txnExpire : let s := { txnAt pgCfe open1 with now := 10 ^ 15 }
    pgCfe ≠ pgTxn ∧ (txnOf s pgCfe).st = .open_ ∧ (txnOf s pgCfe).began + txnTmo s ≤ s.now := by decide +kernel

/-- A group transaction of host software. -/
def groupIs (st : TxnSt) (ms : List Nat) (t : Nat) : State := { State.reset with group := ⟨st, .pcie, ms, 0, 0, [], 0, 0⟩, now := t }

theorem witness_groups : accepts State.reset .pcie pgTxn ∧ accepts (groupIs .open_ [pgCfe] 0) .pcie pgTxn ∧ (groupIs .open_ [pgCfe] 0).group.st = .open_ ∧
    (groupIs .open_ [pgCfe] 0).group.agent = .pcie ∧ (groupIs .pending [pgCfe] 0).group.st ≠ .idle := by unfold accepts; decide +kernel
theorem witness_group_expires : let s := groupIs .open_ [pgCfe] (10 ^ 15)
    s.group.st = .open_ ∧ s.group.began + txnTmo s ≤ s.now := by decide +kernel
theorem witness_group_ends : let s := groupIs .pending [pgCfe] (10 ^ 15)
    s.group.st = .pending ∧ (notArrived s).all (fun p => safePoint s p (txnOf s p)) = true ∧ s.group.committed + holdMax s ≤ s.now ∧ notArrived s ≠ [] := by
  decide +kernel

theorem witness_pages : (accepts State.reset .pcie (pgQue 5) ∧ hasSoftReset (tyOf (pgQue 5)) = true ∧ pgQue 5 < 2 ^ 14) ∧
    (let s := withRegs [(pgQue 5, oCtrl, 2)] State.reset
     softDue s (pgQue 5) = true) ∧ (serves State.reset .i3c = true ∧ offsetOk 0 = true) := by unfold accepts; decide +kernel
theorem witness_locked : let s := withRegs [(pgCfe, oOwner, 2 ^ 31)] State.reset
    serves s .i3c = true ∧ (pageAt pgCfe).isSome = true ∧ shown s pgCfe = true ∧ lockedOut s .i3c pgCfe = true := by decide +kernel
theorem witness_lowRead : accepts State.reset .pcie pgTime ∧ isDiag (tyOf pgTime) = false ∧ roPair (tyOf pgTime) 0x040 = true := by unfold accepts; decide +kernel
theorem witness_OpenTransactionsExpire : let s := { txnAt pgCfe open1 with now := 10 ^ 15 }
    (txnOf s pgCfe).st = .open_ ∧ (txnOf s pgCfe).began + 1000000 * reg s pgTxn 0x058 ≤ s.now ∧
    (txnOf (txnAt pgCfe { open1 with st := .pending }) pgCfe).st = .pending := by decide +kernel
theorem witness_Events : accepts State.reset .pcie pgCfe ∧ 2 < 32 ∧ Nat.testBit 4 2 = true ∧ (pageEvents pgCfe).testBit 2 = true ∧ Nat.testBit 4 1 = false := by
  unfold accepts; decide +kernel
theorem witness_EngineCodes : (⟨.move ⟨2 ^ 20 - 1, 2 ^ 19 - 1, 7, 15, 15, 2 ^ 42 - 1⟩, 3⟩ : EngInstr).fits = true ∧ decodeEng 1 = some ⟨.halt, 0⟩ := by decide +kernel

/-! ## Well-formed commands: an ill-formed term for each check -/

theorem test_wf_engines : (Instr.nop ⟨4096, 0⟩).wf = false ∧ (Instr.halt ⟨0, 32⟩).wf = false ∧ (Instr.gather 4096 ⟨0⟩).wf = false ∧
    (Instr.swaitTimeout ⟨4096, 0⟩).wf = false := by decide
theorem test_wf_fields : (Instr.move ⟨0, 0⟩ ⟨0, 2 ^ 19, 0, 0, 0, 0⟩).wf = false ∧ (Instr.loop ⟨0, 0⟩ ⟨2 ^ 24, 0, 1, 0⟩).wf = false ∧
    (Instr.stage ⟨0, 0⟩ ⟨0, 8, 0⟩).wf = false ∧ (Instr.sld ⟨0, 0⟩ ⟨0, 2, 0, 0, 0, 0, 0, 0⟩).wf = false ∧ (Instr.vop ⟨0, 0⟩ ⟨0, 0, 0, 2048, 0, 0, 0⟩).wf = false ∧
    (Instr.pload 0 ⟨16, 0⟩).wf = false ∧ (Instr.red 0 ⟨0, 0, 0, 0, 0, 4, 0⟩).wf = false ∧ (Instr.swait ⟨0, 0⟩ ⟨16384, 0, 0⟩).wf = false ∧
    (Instr.digestStart ⟨0, 0⟩ ⟨0, 0, 1, 1⟩).wf = false ∧ (EngInstr.fits ⟨.nop, 4⟩) = false := by decide
theorem test_wf_entries : (Instr.invoke 4096).wf = false ∧ (Instr.install 4096 []).wf = false ∧ (Instr.cmdbufEntryStart 0 4096).wf = false ∧
    (Instr.hostWaitPoll 0 4 []).wf = false ∧ (Instr.hostSignalFlushDone 0 4 []).wf = false ∧ (Instr.inputsMoved 4096 [] []).wf = false ∧
    (Instr.peerTimerExpire 4096 0).wf = false := by decide
theorem test_wf_queues : (Instr.recordFlushDone 6 []).wf = false ∧ (Instr.queTailWrite .pcie 0 (2 ^ 32)).wf = false ∧ (Instr.queEnable .i3c 6).wf = false ∧
    (Instr.semOpAdd .pcie 16384).wf = false ∧ (Instr.bellRelease 2 0).wf = false ∧ (Instr.bellRelease 0 256).wf = false ∧
    (Instr.releaseStart 2).wf = false ∧ (Instr.lendBlockExpiry 0 4096).wf = false ∧ (Instr.certRingRdWrite .pcie (2 ^ 32)).wf = false := by decide
theorem test_wf_links : (Instr.flitSend 16).wf = false ∧ (Instr.flitReceive 0 true []).wf = false ∧ (Instr.flitReceive 16 false []).wf = false ∧ (Instr.discover 16 ⟨0, 0, 0, 0, [], false, 0⟩).wf = false ∧
    (Instr.probe 16 0).wf = false ∧ (Instr.rekey 16 0).wf = false := by decide
theorem test_wf_units : (Instr.tileSubstitutionDone 32).wf = false ∧ (Instr.tileSelftest 36 0).wf = false ∧ (Instr.scrubRead 152).wf = false ∧
    (Instr.logClear .pcie 0x00F).wf = false ∧ (Instr.injArm .pcie 0x010 (2 ^ 32)).wf = false ∧ (Instr.revoke .pcie 4).wf = false ∧
    (Instr.keyProvision .pcie 2).wf = false ∧ (Instr.entropyTestTrip 3).wf = false ∧ (Instr.sourceRetest 3 true).wf = false ∧
    (Instr.conditionedBlock []).wf = false ∧ (Instr.drbgReseedDue 4).wf = false ∧ (Instr.tamperDetect 6).wf = false := by decide
theorem test_wf_board : (Instr.canaryFire 36).wf = false ∧ (Instr.marginDecay 36).wf = false ∧ (Instr.sensorSample []).wf = false ∧
    (Instr.thermtrip 41).wf = false ∧ (Instr.railFault ⟨7, 0⟩).wf = false ∧ (Instr.porstNRise 4 0).wf = false ∧ (Instr.ptmExchange (2 ^ 64)).wf = false ∧
    (Instr.i3cEntdaa 128).wf = false ∧ (Instr.i3cWriteRequest (2 ^ 32) 0).wf = false ∧ (Instr.i3cReadRequest (2 ^ 32)).wf = false := by decide
theorem test_wf_pages : (Instr.txnBegin .pcie 0x00E).wf = false ∧ (Instr.txnApply 0x074).wf = false ∧ (Instr.rwtWrite .pcie 0x74000 0).wf = false ∧
    (Instr.ownerLock .pcie 0 (2 ^ 16)).wf = false ∧ (Instr.evtClear .pcie 0 (2 ^ 32) 0).wf = false ∧ (Instr.evtForce .pcie 0x067 0).wf = false ∧
    (Instr.cntClear .pcie 0x06D).wf = false ∧ (Instr.readLoLatch .pcie (2 ^ 32)).wf = false ∧ (Instr.registerWrite .pcie 0 (2 ^ 32)).wf = false := by decide

/-! ## Words of engine instructions, each field at the bit where R286 and R289 put it -/

theorem test_decode_control : decodeEng 0 = some ⟨.nop, 0⟩ ∧ decodeEng 1 = some ⟨.halt, 0⟩ ∧
    decodeEng (0x02 + 9 * 2 ^ 16 + 3 * 2 ^ 40 + 5 * 2 ^ 60 + 2 * 2 ^ 76) = some ⟨.loop ⟨9, 3, 5, 2⟩, 0⟩ ∧
    decodeEng (0x03 + 7 * 2 ^ 16 + 2 * 2 ^ 32 + 15 * 2 ^ 35) = some ⟨.stage ⟨7, 2, 15⟩, 0⟩ := by decide +kernel
theorem test_decode_moves : decodeEng (0x10 + 1 * 2 ^ 8 + 5 * 2 ^ 16 + 7 * 2 ^ 36 + 3 * 2 ^ 55 + 15 * 2 ^ 58 + 9 * 2 ^ 62 + 1023 * 2 ^ 66) =
      some ⟨.move ⟨5, 7, 3, 15, 9, 1023⟩, 1⟩ ∧
    decodeEng (0x11 + 5 * 2 ^ 16 + 7 * 2 ^ 36 + 0xDEADBEEF * 2 ^ 55) = some ⟨.fill ⟨5, 7, 0xDEADBEEF⟩, 0⟩ := by decide +kernel
theorem test_decode_array : decodeEng (0x21 + 5 * 2 ^ 16 + 31 * 2 ^ 36 + 0x15 * 2 ^ 45 + 127 * 2 ^ 50 + 1 * 2 ^ 57 + 77 * 2 ^ 58) =
      some ⟨.stream ⟨5, 31, 0x15, 127, 1, 77⟩, 0⟩ ∧
    decodeEng (0x22 + 5 * 2 ^ 16 + 3 * 2 ^ 36 + 31 * 2 ^ 43 + 0x0D * 2 ^ 52 + 2 * 2 ^ 57 + 1 * 2 ^ 59 + 6 * 2 ^ 61 + 9 * 2 ^ 81 + 2 * 2 ^ 86 + 15 * 2 ^ 88 + 33 * 2 ^ 92 +
      44 * 2 ^ 104 + 1 * 2 ^ 112) = some ⟨.drain ⟨5, 3, 31, 0x0D, 2, 1, 6, 9, 2, 15, 33, 44, 1⟩, 0⟩ := by decide +kernel
theorem test_decode_vector : decodeEng (0x30 + 5 * 2 ^ 16 + 6 * 2 ^ 36 + 7 * 2 ^ 56 + 8 * 2 ^ 76 + 9 * 2 ^ 87 + 1 * 2 ^ 93 + 10 * 2 ^ 96) =
      some ⟨.vop ⟨5, 6, 7, 8, 9, 1, 10⟩, 0⟩ ∧
    decodeEng (0x35 + 5 * 2 ^ 16 + 6 * 2 ^ 36 + 7 * 2 ^ 56 + 3 * 2 ^ 74 + 1 * 2 ^ 77 + 0xC0 * 2 ^ 78 + 2 * 2 ^ 86 + 8 * 2 ^ 88 + 9 * 2 ^ 100) =
      some ⟨.pbuild ⟨5, 6, 7, 3, 1, 0xC0, 2, 8, 9⟩, 0⟩ := by decide +kernel
theorem test_decode_collectives : decodeEng (0x47 + 3 * 2 ^ 16 + 5 * 2 ^ 20) = some ⟨.result ⟨3, 5⟩, 0⟩ ∧
    decodeEng (0x50 + 5 * 2 ^ 16 + 6 * 2 ^ 36 + 7 * 2 ^ 56 + 2 * 2 ^ 67 + 3 * 2 ^ 69 + 1 * 2 ^ 72 + 8 * 2 ^ 74) = some ⟨.red ⟨5, 6, 7, 2, 3, 1, 8⟩, 0⟩ ∧
    decodeEng (0x60 + 5 * 2 ^ 16 + 6 * 2 ^ 30 + 7 * 2 ^ 94) = some ⟨.swait ⟨5, 6, 7⟩, 0⟩ ∧
    decodeEng (0x69 + 5 * 2 ^ 16 + 6 * 2 ^ 36 + 7 * 2 ^ 55 + 3 * 2 ^ 59) = some ⟨.digest ⟨5, 6, 7, 3⟩, 0⟩ := by decide +kernel
theorem test_decode_refuses : decodeEng 0x05 = none ∧ decodeEng (2 ^ 10) = none ∧ decodeEng (0x01 + 2 ^ 127) = none ∧ decodeEng (2 ^ 128) = none := by decide +kernel

/-! ## The spec's worked examples -/

/-- spec/02_problem_form.md, eight variables in one segment. -/
def eight : Prob :=
  { prob1 with
    coup := [[(1, 3), (2, -2)], [(0, 3), (3, 1)], [(0, -2), (3, 4)], [(1, 1), (2, 4), (4, 2)], [(3, 2), (5, -1), (7, 1)], [(4, -1), (6, 2)],
             [(5, 2), (7, -3)], [(4, 1), (6, -3)]]
    bias := [1, 0, 0, -2, 0, 0, 1, 0], rows := [⟨0, 2, [(0, 1), (1, 1), (2, 1), (3, 1)]⟩] }

theorem test_fields : (List.range 8).map (fieldOf eight [2] [0xA5] [0]) = [0, -2, -2, -5, -2, -1, 0, 2] := by decide +kernel
theorem test_energy : energyOf eight [2] [0xA5] = 3 := by decide +kernel
theorem test_energy_flip : energyOf eight [2] [0xA1] = -1 := by decide +kernel
theorem test_energy_swap : energyOf eight [2] [0xC5] = 9 := by decide +kernel
/-- spec/04_flip_chooser.md: the word has BM = 1, BE = 2. -/
theorem test_weights : [24, 4, 10, 6, -12].map (fun d => weight d (1 + 2 * 65536)) = [162, 24109, 5380, 14623, 65536] := by decide +kernel
/-- spec/05_segment_rotation.md and spec/06_ratline.md. -/
theorem test_wtable : wtable 1024 = 1200 ∧ wtable 128 = 39750 := by decide +kernel
theorem test_rung_words : toWord (2 ^ 32) 36 = 32768 + 19 * 65536 ∧ toWord (3 * 2 ^ 33) 36 = 49152 + 17 * 65536 := by decide +kernel
/-- spec/07_tensor_arithmetic.md: 16,777,218 in FP32. -/
theorem test_sticky : (chunkSum [.fin false 1 24, .fin false 1 0, .fin true 1 (-30)] 0).1 = 0x4B800001 := by decide +kernel
/-- spec/08_engine_programs.md: the bias of 0x406C_CCCD and 2.531 25 at SCALE_E = 4, RNE. -/
theorem test_build : (pbuildElem 0 .rne 0 (f32 0x406CCCCD) 4).1 = 59 ∧ (pbuildElem 0 .rne 0 (f32 0x40220000) 4).1 = 40 ∧
    (pbuildElem 1 .rne 0 (f32 0x49989680) 4).1 = 16777216 := by decide +kernel
/-- spec/01_organisation.md and spec/17_host_package.md. -/
theorem test_places : tileOf State.reset 13 = 14 ∧ homeBase 5 = 0x010140000000 := by decide +kernel
/-- spec/15_power_clocks_reset.md: V_req at levels 1 to 3. -/
theorem test_vreq : [1, 2, 3].map (fun l => vReq { State.reset with calNow := [], power := { State.reset.power with level := l } }) = [735, 720, 705] := by
  decide +kernel

/-! ## Life-cycle fuses (R550) -/

/-- The state code is the number of leading groups with at least five fuses that read 1. -/
theorem test_life_of_groups : Fuses.life ⟨[8, 5, 4, 8], [], 0⟩ = 2 ∧ Fuses.life ⟨[4, 8, 8, 8], [], 0⟩ = 0 ∧ Fuses.life ⟨[5, 6, 7, 8], [], 0⟩ = 4 := by
  decide

/-- A boot completes an interrupted transition from 1 to 4 that left group 3 blown, and leaves a clean state alone. -/
theorem test_boot_completes : (blowGroups 1 (topBlown ⟨[8, 2, 0, 5], [], 0⟩) ⟨[8, 2, 0, 5], [], 0⟩).groups = [8, 8, 8, 8] ∧
    (completeLife State.reset).fuses = State.reset.fuses := by decide

/-- spec/13_memory_integrity.md: usable blocks of LPDDR6 hold 3,584 bytes, one block a channel, so a run of 8,000 bytes meets three blocks (R515, R544). -/
theorem test_ctl_starts : ctlStarts 0 8000 = [0, 3584, 7168] := by decide
end Sys2Proof.Tests
end

section
/-!
PROOFS. Tiles, repair log, scrubbers and the registers of the memory controllers (R26, R530, R535, R542 to R544, R547).
-/
namespace Sys2Proof.Machine

/-! ## Tiles and scrubbers -/

/-- Either work of R26 lets the command of a substitution act: a substitution of the engine, or a failed tile without an invocation. -/
theorem exec_tileSubstitutionDone_runs (e : Nat) (s : State) (he : e < 32)
    (h : (s.substs.any fun u => decide (u.eng = e)) = true ∨ orphaned s e = true) :
    exec (.tileSubstitutionDone e) s = .next (pump (substDone e (retireOrphan e s))) :=
  actCfe_runs s _ _ _ (decide_eq_true he) (Bool.or_eq_true_iff.2 h)

theorem exec_tileSelftest_runs (p n : Nat) (s : State) (hp : p < 36) (hdue : s.selftestDue.contains p = true)
    (hidle : tileIdle s p = true) :
    exec (.tileSelftest p n) s =
      .next (pump (testedTile p n 2 { s with selftestDue := s.selftestDue.filter fun q => decide (q ≠ p) })) :=
  actCfe_runs s _ _ _ (decide_eq_true hp) (Bool.and_eq_true_iff.2 ⟨hdue, hidle⟩)

theorem exec_scrubRead_runs (k : Nat) (s : State) (hk : k < 152) (hmay : scrubMay s k = true) :
    exec (.scrubRead k) s = .next (pump (scrubNext k s)) :=
  actCfe_runs s _ _ _ (decide_eq_true hk) hmay

/-! ## The repair log -/

/-- The oldest entry that waits goes to a log with room (R542). -/
theorem repairWrite_room (s : State) (r : RepairEnt) (rest : List RepairEnt) (hq : s.repairQueue = r :: rest)
    (hroom : s.flash.repair.length < 255) :
    repairWrite s = emit (.flashWrite 3)
      { s with repairQueue := rest, flash := { s.flash with repair := s.flash.repair ++ [r] } } := by
  simp [repairWrite, hq, hroom]

/-- The oldest entry that waits is dropped at a full log (R543). -/
theorem repairWrite_full (s : State) (r : RepairEnt) (rest : List RepairEnt) (hq : s.repairQueue = r :: rest)
    (hfull : 255 ≤ s.flash.repair.length) : repairWrite s = raise pgDev 0 { s with repairQueue := rest } := by
  simp [repairWrite, hq, Nat.not_lt.2 hfull]

/-- The log is written while an entry waits. -/
theorem exec_repairLogWrite_runs (s : State) (r : RepairEnt) (rest : List RepairEnt) (hq : s.repairQueue = r :: rest) :
    exec .repairLogWrite s = .next (pump (repairWrite s)) :=
  actCfe_runs s _ _ _ rfl (by simp [hq])

/-! ## The registers of the memory controllers (R547) -/

/-- The pages with a memory controller, and what each adds to the offsets. -/
theorem memBase_eq_some_iff (t : PageTy) (b : Nat) :
    memBase t = some b ↔ (t = .bm ∧ b = 0) ∨ (t = .lm ∧ b = 0) ∨ (t = .eng ∧ b = 0x3C0) := by
  cases t <;> simp [memBase, eq_comm]

theorem memBase_tyOf (page b : Nat) (h : memPage page = some b) : memBase (tyOf page) = some b := by
  unfold memPage at h
  unfold tyOf
  cases hp : pageAt page with
  | none => simp [hp] at h
  | some t => simpa [hp] using h

/-- The two registers of a controller whose write acts: LOG_CTRL and INJ_CTRL. -/
theorem memPageWrite_offset (page b o v : Nat) (s t : State) (h : memPageWrite page b o v s = some t) :
    o = b + 0x048 ∨ o = b + 0x088 := by
  unfold memPageWrite at h
  split at h
  · exact .inl ‹_›
  · split at h
    · exact .inr ‹_›
    · cases h

/-- No transaction stages these registers: only RETIRE_EN of an ENG page, at 0x044, is staged. -/
theorem ownWrite_memPage (a : Agent) (ty : PageTy) (page b o v : Nat) (s t : State) (hb : memBase ty = some b)
    (h : memPageWrite page b o v s = some t) : ownWrite a ty page o v s = t := by
  have ho := memPageWrite_offset page b o v s t h
  obtain ⟨rfl, rfl⟩ | ⟨rfl, rfl⟩ | ⟨rfl, rfl⟩ := (memBase_eq_some_iff ty b).1 hb
  · simp [ownWrite, isDiag, rwtMask, actionWrite, h]
  · simp [ownWrite, isDiag, rwtMask, actionWrite, h]
  · have hne : o ≠ 0x044 := by omega
    simp [ownWrite, isDiag, rwtMask, actionWrite, h, hne]

/-- A write that an agent is let through to one of these registers has the register's effect and no other. -/
theorem writeBy_memPage (a : Agent) (page b o v : Nat) (s t : State) (hpage : memPage page = some b) (hacc : accepts s a page)
    (h : memPageWrite page b o v s = some t) : writeBy true a page o v s = .next t := by
  have hb := memBase_tyOf page b hpage
  have ho := memPageWrite_offset page b o v s t h
  have hty := (memBase_eq_some_iff (tyOf page) b).1 hb
  have hsync : tyOf page ≠ .sync := by intro hs; simp [hs] at hty
  rw [writeBy_own a page o v s hacc (by omega) (by omega), ownWrite_memPage a _ page b o v s t hb h, touched_other a page t hsync]

theorem exec_logClear_runs (a : Agent) (page b : Nat) (s : State) (hpage : memPage page = some b) (hacc : accepts s a page) :
    exec (.logClear a page) s = .next (logClear page b (logOf page) s) := by
  change execLogClear a page s = _
  rw [execLogClear, hpage]
  exact writeBy_memPage a page b _ 1 s _ hpage hacc (by simp [memPageWrite])

theorem exec_injArm_runs (a : Agent) (page b v : Nat) (s : State) (hpage : memPage page = some b) (hacc : accepts s a page) :
    exec (.injArm a page v) s = .next (injCtrl page b v s) := by
  change execInjArm a page v s = _
  rw [execInjArm, hpage]
  exact writeBy_memPage a page b _ v s _ hpage hacc (by simp [memPageWrite])

/-- Settles O44: every command acts by its lemma above, and the repair log by whether it has room. -/
theorem tilesRun : Obligations.TilesRun := by
  unfold Obligations.TilesRun
  refine ⟨fun s n => ⟨?_, ?_, ?_, ?_, ?_⟩, fun s a page b v hpage hacc => ⟨?_, ?_⟩⟩
  · exact fun e he hsub => exec_tileSubstitutionDone_runs e s he (.inl hsub)
  · exact fun e he horph => exec_tileSubstitutionDone_runs e s he (.inr horph)
  · intro r rest hq
    rw [exec_repairLogWrite_runs s r rest hq]
    exact ⟨fun hroom => by rw [repairWrite_room s r rest hq hroom], fun hfull => by rw [repairWrite_full s r rest hq hfull]⟩
  · exact fun p hp hdue hidle => exec_tileSelftest_runs p n s hp hdue hidle
  · exact fun k hk hmay => exec_scrubRead_runs k s hk hmay
  · exact exec_logClear_runs a page b s hpage hacc
  · exact exec_injArm_runs a page b v s hpage hacc

end Sys2Proof.Machine
end

section
/-!
PROOFS. The phases of an anneal: GATHER, RELAX, CHOOSE, ROLLCALL, FIELDUP, SWEEPEND and RESULT (R78, R115, R149 to R184, R302, R397).
For each, what it comes to where its reads, its passes and its checks stand.
-/
namespace Sys2Proof.Machine

/-- An instruction that every engine of a run stands at leads where the effect on the run leads. -/
theorem runAct_of_effect {s t : State} {c : Nat} {op : EngOp} {x : Ctx} {a : Anneal} {f : Ctx → Anneal → State → State}
    (hat : annealsAt s c op x a) (heffect : f x a s = t) : runAct c op s f = .next (pump t) := by
  rw [annealsAt_runs s c op x a f hat, heffect]

/-! ## Gather, relaxation and chooser -/

theorem gatherStep_reads (c : Nat) (a : Anneal) (s r : State) (hr : runReads c a s = (true, r)) :
    gatherStep c a s = gatherGo c a r := by
  simp [gatherStep, hr]

/-- The relaxation steps every visit; what the step itself finds failed is checked with the upsets of the command. -/
theorem relaxPhase_stands (c : Nat) (a : Anneal) (us : List Upset) (s w q k : State) (ht : a.ps.relax.t ≠ 0)
    (hw : phaseReads c (working s c a) s = (true, w)) (hgo : goesOn (formTiles c (working s c a) false w) c = true)
    (hq : accPass c (visitEngines (working s c a)) (crossLen a.prob) (2048 * a.prob.replicas)
      (formTiles c (working s c a) false w) = (true, q))
    (hk : passCheck c (visits (working s c a)) true (us ++ (relaxVisits a).2.2.2) q = (true, k)) :
    relaxPhase c a us s = collAdvance c (setVisits c (relaxVisits a)
      ((a.visits.filter fun v => !allHeld a.prob v.seg).map fun v => 2 * v.seg) .choose k) := by
  simp [relaxPhase, ht, hw, hgo, hq, hk]

/-- The chooser steps every visit; what the step itself finds failed is checked with the upsets of the command. -/
theorem choosePhase_stands (c : Nat) (a : Anneal) (us : List Upset) (s w q k : State) (ht : a.ps.choose.t ≠ 0)
    (hw : phaseReads c (working s c a) s = (true, w)) (hgo : goesOn (formTiles c (working s c a) true w) c = true)
    (hq : accPass c (visitEngines (working s c a)) (crossLen a.prob) (chooseLen (working s c a))
      (formTiles c (working s c a) true w) = (true, q))
    (hk : passCheck c (visits (working s c a)) true (us ++ (chooseVisits a).2.2.2) q = (true, k)) :
    choosePhase c a us s = collAdvance c (setVisits c (chooseVisits a) (a.visits.map fun v => 2 * v.seg + 1) .rollcall k) := by
  simp [choosePhase, ht, hw, hgo, hq, hk]

/-- Settles O26: each instruction has its phase's effect, and a phase either is skipped by its `T = 0` or finds its reads and passes
standing. -/
theorem visitsRun : Obligations.VisitsRun := by
  unfold Obligations.VisitsRun
  intro s c x a
  refine ⟨?gather, ?relaxSkips, ?relax, ?chooseSkips, ?choose⟩
  case gather =>
    intro o r hat hr segs f g hgo
    exact runAct_of_effect hat ((gatherStep_reads c a s r hr).trans (if_pos hgo))
  case relaxSkips =>
    exact fun o us hat ht => runAct_of_effect hat (if_pos ht)
  case relax =>
    intro o us w q k hat ht b hw hgo hq r hk
    exact runAct_of_effect hat (relaxPhase_stands c a us s w q k ht hw hgo hq hk)
  case chooseSkips =>
    exact fun o us hat ht => runAct_of_effect hat (if_pos ht)
  case choose =>
    intro o us w q k hat ht b hw hgo hq r hk
    exact runAct_of_effect hat (choosePhase_stands c a us s w q k ht hw hgo hq hk)

/-! ## Roll Call -/

/-- Once the cross terms and the pairs stand, with no tile to wait for, the records are delivered and the walk runs (R161, R166). The
state `t` is the one after the visits of substituted tiles have been redone, where there are any. -/
theorem rollcallPhase_stands (c : Nat) (x : Ctx) (a : Anneal) (us : List Upset) (ps : List PairUpset) (s t w k q : State)
    (ht : (if a.redo.isEmpty then s else redoVisits c a s) = t) (hgo : goesOn t c = true)
    (hw : phaseReads c { a with visits := a.visits.filter fun v => crossing t c a (visitEng a.prob v.seg) } t = (true, w))
    (hk : crossPass c a us w = (true, k)) (hfail : failingAt k c = []) (hq : pairsCheck c a ps k = (true, q)) :
    rollcallPhase c x a us ps s = collAdvance c (sendFree c x (updRun c walkPhase (deliverRecords a q))) := by
  have hcross : rollcallPhase c x a us ps s = rollcallGo c x a ps k := by
    simp only [rollcallPhase, ht, hgo, hw, hk, Bool.not_true, Bool.false_eq_true, if_false, if_true]
  rw [hcross]
  simp [rollcallGo, walkGo, hfail, hq]

/-! ## Propagation and commit -/

theorem fieldupPhase_reads (c : Nat) (x : Ctx) (a : Anneal) (us : List Upset) (s w r : State)
    (hw : recordReads c a s = (true, w)) (hr : runReads c a w = (true, r)) :
    fieldupPhase c x a us s = fieldupGo c x a us r := by
  simp [fieldupPhase, hw, hr]

/-- On one device a phase that is not marked and whose fields fit commits its own deltas (R172). -/
theorem fieldupGo_alone_commits (c : Nat) (x : Ctx) (a : Anneal) (us : List Upset) (r k : State) (hone : isSpanned r x = false)
    (hk : propagate c a (ownDeltas a) us r = (true, k)) (hmark : a.marked = false)
    (hfit : allFit (phaseFields a (ownDeltas a)) = true) :
    fieldupGo c x a us r =
      commitPhase c (commitRun (ownDeltas a) (phaseFields a (ownDeltas a)) (fun i => nth a.dl i 0) fun _ => false) k := by
  simp [fieldupGo, fieldupAlone, hone, hk, hmark, hfit]

section
variable {c : Nat} {x : Ctx} {a : Anneal} {us : List Upset} {r k : State} {m : MdRun} (hspan : isSpanned r x = true)
  (hfree : flFree x = true) (hmd : (ctxOf (takeAccs c r) c).bind (·.md) = some m)
  (hk : propagate c a (ownDeltas a ++ ((freeSets m fun _ _ => true).map (·.deltas)).flatten) us (takeAccs c r) = (true, k))
include hspan hfree hmd hk

/-- In Free mode the sets that have arrived are applied with this device's own deltas (R178). -/
theorem fieldupGo_free_commits (f : Anneal → Anneal)
    (hf : applyFree (ownDeltas a) a.dl (freeSets m fun _ _ => true) a = some f) :
    fieldupGo c x a us r = commitPhase c f (updMd c (fun m => { m with remote := [], shareSent := false }) k) := by
  simp [fieldupGo, fieldupFree, hspan, hfree, hmd, hk, hf]

/-- In Free mode a phase that cannot be applied is told to the other devices, and what marked sets gave is taken back (R52). -/
theorem fieldupGo_free_saturates (hf : applyFree (ownDeltas a) a.dl (freeSets m fun _ _ => true) a = none) :
    fieldupGo c x a us r = saturate c a.n (takeBackRun c (marksOf (freeSets m fun _ _ => true))
      (tellSaturated c a.n (freeSets m fun _ _ => true) (updMd c (fun m => { m with remote := [], shareSent := false }) k))) := by
  simp [fieldupGo, fieldupFree, hspan, hfree, hmd, hk, hf]

end

/-! ## The end of a sweep, and the result -/

theorem sweependPhase_reads (c : Nat) (a : Anneal) (s r : State) (hr : runReads c a s = (true, r)) :
    sweependPhase c a s = sweepParts c a.part r := by
  simp [sweependPhase, hr]

theorem resultPhase_reads (c : Nat) (x : Ctx) (a : Anneal) (da : Nat) (s r : State) (hr : runReads c a s = (true, r)) :
    resultPhase c x a da s = resultGo c x a da r := by
  simp [resultPhase, hr]

/-- A spanned run writes its result from the record that stands: in Free mode, the one after the ends have been told (R52, R395). -/
theorem resultGo_spanned (c : Nat) (x : Ctx) (a b : Anneal) (da : Nat) (r q : State) (hspan : isSpanned r x = true)
    (hends : flFree x = false ∧ q = r ∧ b = a ∨ flFree x = true ∧ endsTold c a r = (true, q) ∧ runOf q c = some b) :
    resultGo c x a da r = resultSpanned c x b da q := by
  obtain ⟨hstrict, rfl, rfl⟩ | ⟨hfree, htold, hrun⟩ := hends
  · simp [resultGo, hspan, hstrict]
  · simp [resultGo, hspan, hfree, htold, hrun]

/-- Once the digests of every position are there, the result area holds the digest over them (R397). -/
theorem resultSpanned_combined (c : Nat) (x : Ctx) (b : Anneal) (da : Nat) (q t : State) (v : List Int)
    (hv : combine c (fun u v => u ++ v) (digestInts (stateDigest b)) q = (some v, t)) :
    resultSpanned c x b da q = collAdvance c (writeResult c (daOf x da)
      (shake256 (2 :: (leBytes 2 (v.length / 2) ++ (v.map fun i => leBytes 16 (unsigned 128 i)).flatten)) 32)
        (updRun c (fun a => { a with gathered := [] }) t)) := by
  simp only [resultSpanned, hv]

theorem resultGo_alone (c : Nat) (x : Ctx) (a : Anneal) (da : Nat) (r : State) (hone : isSpanned r x = false) :
    resultGo c x a da r = collAdvance c (writeResult c (daOf x da) (stateDigest a) r) := by
  simp [resultGo, hone]

/-- Settles O27: each instruction has its phase's effect, and the lemmas of the phase say what that is where its reads and checks
stand. -/
theorem phasesRun : Obligations.PhasesRun := by
  unfold Obligations.PhasesRun
  intro s c x a
  refine ⟨?rollcall, ?fieldupAlone, ?fieldupFree, ?sweepend, ?resultSpanned, ?resultAlone⟩
  case rollcall =>
    intro o us ps w k q hat t hgo hw hk hfail hq
    exact runAct_of_effect hat (rollcallPhase_stands c x a us ps s t w k q rfl hgo hw hk hfail hq)
  case fieldupAlone =>
    intro o us w r k hat hw hr hone hk f hmark hfit
    exact runAct_of_effect hat ((fieldupPhase_reads c x a us s w r hw hr).trans
      (fieldupGo_alone_commits c x a us r k hone hk hmark hfit))
  case fieldupFree =>
    intro o us w r m k hat hw hr hspan hfree hmd sets hk t
    have hreads := fieldupPhase_reads c x a us s w r hw hr
    exact ⟨fun f hf => runAct_of_effect hat (hreads.trans (fieldupGo_free_commits hspan hfree hmd hk f hf)),
      fun hf => runAct_of_effect hat (hreads.trans (fieldupGo_free_saturates hspan hfree hmd hk hf))⟩
  case sweepend =>
    exact fun o r hat hr => runAct_of_effect hat (sweependPhase_reads c a s r hr)
  case resultSpanned =>
    intro o r q b v t hat hr hspan hends hv
    exact runAct_of_effect hat ((resultPhase_reads c x a o.da s r hr).trans
      ((resultGo_spanned c x a b o.da r q hspan hends).trans (resultSpanned_combined c x b o.da q t v hv)))
  case resultAlone =>
    intro o r hat hr hone
    exact runAct_of_effect hat ((resultPhase_reads c x a o.da s r hr).trans (resultGo_alone c x a o.da r hone))

end Sys2Proof.Machine
end

section
/-!
PROOFS. The words of accumulator slots: what a slot reads after a slot is written, and the partial format (R242, R244, R247, R250).
-/
namespace Sys2Proof.Machine

/-! ## Little-endian byte strings -/

@[simp] theorem length_leBytes (n v : Nat) : (leBytes n v).length = n := by
  induction n generalizing v with
  | zero => rfl
  | succ n ih => simp [leBytes, ih]

theorem leNat_leBytes (n v : Nat) : leNat (leBytes n v) = v % 256 ^ n := by
  induction n generalizing v with
  | zero => simp [leBytes, leNat, Nat.mod_one]
  | succ n ih =>
    rw [leBytes, leNat, ih, BitVec.toNat_ofNat, Nat.pow_succ' (m := 256), Nat.mod_mul]

theorem leAt_leBytes (n v : Nat) : leAt (leBytes n v) 0 n = v % 256 ^ n := by
  rw [leAt, List.drop_zero, List.take_of_length_le (by simp), leNat_leBytes]

/-- A read within the front part of a byte string does not see the rest. -/
theorem leAt_append_left (l m : List Byte) (o n : Nat) (h : o + n ≤ l.length) : leAt (l ++ m) o n = leAt l o n := by
  rw [leAt, List.drop_append_of_le_length (by omega), List.take_append_of_le_length (by rw [List.length_drop]; omega), leAt]

/-- A read past the front part of a byte string reads the rest. -/
theorem leAt_append_right (l m : List Byte) (o n : Nat) : leAt (l ++ m) (l.length + o) n = leAt m o n := by
  rw [leAt, List.drop_length_add_append, leAt]

/-- In a run of blocks of `b` bytes, a read within block `i` reads that block. -/
theorem leAt_flatten_map_range (f : Nat → List Byte) (b n i o k : Nat) (hlen : ∀ j, (f j).length = b) (hi : i < n) (ho : o + k ≤ b) :
    leAt ((List.range n).map f).flatten (b * i + o) k = leAt (f i) o k := by
  induction n generalizing f i with
  | zero => omega
  | succ n ih =>
    rw [List.range_succ_eq_map, List.map_cons, List.map_map, List.flatten_cons]
    cases i with
    | zero => rw [Nat.mul_zero, Nat.zero_add, leAt_append_left _ _ _ _ (by rw [hlen]; exact ho)]
    | succ i =>
      rw [show b * (i + 1) + o = (f 0).length + (b * i + o) by rw [hlen, Nat.mul_succ]; omega, leAt_append_right]
      exact ih (f ∘ Nat.succ) i (fun j => hlen (j + 1)) (by omega)

theorem length_flatten_map_range (f : Nat → List Byte) (b n : Nat) (hlen : ∀ j, (f j).length = b) :
    ((List.range n).map f).flatten.length = b * n := by
  induction n generalizing f with
  | zero => rfl
  | succ n ih =>
    rw [List.range_succ_eq_map, List.map_cons, List.map_map, List.flatten_cons, List.length_append, hlen,
      ih (f ∘ Nat.succ) fun j => hlen (j + 1), Nat.mul_succ, Nat.add_comm]

/-! ## The partial format (R250) -/

/-- The bytes of one streamed vector of a slot: its 512 words, column by column. -/
def vectorBytes (s : State) (e slot v : Nat) : List Byte :=
  ((List.range 512).map fun j => leBytes 4 (slotWord s e slot v j)).flatten

/-- The partial format: the vectors of the slot, and the record of its flags. -/
theorem partialBytes_eq (s : State) (e slot n flags : Nat) :
    partialBytes s e slot n flags = ((List.range n).map (vectorBytes s e slot)).flatten ++ leBytes 64 flags := rfl

@[simp] theorem length_vectorBytes (s : State) (e slot v : Nat) : (vectorBytes s e slot v).length = 2048 :=
  length_flatten_map_range _ 4 512 fun _ => length_leBytes 4 _

theorem length_vectors (s : State) (e slot n : Nat) : ((List.range n).map (vectorBytes s e slot)).flatten.length = 2048 * n :=
  length_flatten_map_range _ 2048 n (length_vectorBytes s e slot)

theorem slotWord_lt (s : State) (e slot v col : Nat) : slotWord s e slot v col < 256 ^ 4 :=
  (spGet zeroWord (slotKey e slot v col) s.acc).isLt

theorem leAt_vectorBytes (s : State) (e slot v col : Nat) (hcol : col < 512) :
    leAt (vectorBytes s e slot v) (4 * col) 4 = slotWord s e slot v col := by
  have hblock := leAt_flatten_map_range (fun j => leBytes 4 (slotWord s e slot v j)) 4 512 col 0 4 (fun _ => length_leBytes 4 _) hcol
    (Nat.le_refl 4)
  exact hblock.trans ((leAt_leBytes 4 _).trans (Nat.mod_eq_of_lt (slotWord_lt s e slot v col)))

theorem leAt_partialBytes_word (s : State) (e slot n flags v col : Nat) (hv : v < n) (hcol : col < 512) :
    leAt (partialBytes s e slot n flags) (2048 * v + 4 * col) 4 = slotWord s e slot v col := by
  rw [partialBytes_eq, leAt_append_left _ _ _ _ (by rw [length_vectors]; omega),
    leAt_flatten_map_range _ 2048 n v (4 * col) 4 (length_vectorBytes s e slot) hv (by omega), leAt_vectorBytes s e slot v col hcol]

theorem leAt_partialBytes_flags (s : State) (e slot n flags : Nat) (hflags : flags < 256 ^ 64) :
    leAt (partialBytes s e slot n flags) (2048 * n) 64 = flags := by
  have hrec := leAt_append_right ((List.range n).map (vectorBytes s e slot)).flatten (leBytes 64 flags) 0 64
  rw [length_vectors, Nat.add_zero] at hrec
  rw [partialBytes_eq, hrec, leAt_leBytes, Nat.mod_eq_of_lt hflags]

/-- Settles O23: a word lies in the block of its vector, at the block of its column, and the record of the flags follows the vectors. -/
theorem partialFormatIsExact : Obligations.PartialFormatIsExact := by
  unfold Obligations.PartialFormatIsExact
  intro s e slot n flags v col hflags
  refine ⟨?_, leAt_partialBytes_word s e slot n flags v col, leAt_partialBytes_flags s e slot n flags (by omega)⟩
  rw [partialBytes_eq, List.length_append, length_vectors, length_leBytes]

/-! ## Writing a slot (R242, R247) -/

/-- A key that no step of a fold touches reads as before. -/
theorem spGet_foldl_of_kept {α β : Type} (d : Nat → α) (k : Nat) (f : Sparse α → β → Sparse α) (l : List β) (m : Sparse α)
    (h : ∀ x ∈ l, ∀ m, spGet d k (f m x) = spGet d k m) : spGet d k (l.foldl f m) = spGet d k m := by
  induction l generalizing m with
  | nil => rfl
  | cons x l ih =>
    rw [List.foldl_cons, ih _ fun y hy => h y (List.mem_cons_of_mem x hy), h x List.mem_cons_self]

/-- A key that one step of a fold stores `v` to reads `v`, where no other step stores another value to it. -/
theorem spGet_foldl_of_stored {α β : Type} (d : Nat → α) (k : Nat) (v : α) (f : Sparse α → β → Sparse α) (l : List β) (m : Sparse α)
    (x : β) (hx : x ∈ l) (hstored : ∀ m, spGet d k (f m x) = v) (hkept : ∀ y ∈ l, ∀ m, spGet d k m = v → spGet d k (f m y) = v) :
    spGet d k (l.foldl f m) = v := by
  obtain ⟨front, rest, rfl⟩ := List.append_of_mem hx
  rw [List.foldl_append, List.foldl_cons]
  exact List.foldlRecOn rest f (hstored _) fun m hm y hy => hkept y (by simp [hy]) m hm

theorem slotKey_eq (e slot v col : Nat) : slotKey e slot v col = slotKey e slot 0 0 + 2048 * v + 4 * col := by
  simp only [slotKey, accKey]
  omega

/-- Writes the words of streamed vector `v` of a slot. -/
def writeVector (e slot v : Nat) (w : List Nat) (m : Sparse Word) : Sparse Word :=
  w.zipIdx.foldl (fun m x => spSet zeroWord (slotKey e slot v x.2) (BitVec.ofNat 32 x.1) m) m

/-- Writes the words of a slot, vector by vector. -/
def writeVectors (e slot : Nat) (ws : List (List Nat)) (m : Sparse Word) : Sparse Word :=
  ws.zipIdx.foldl (fun m x => writeVector e slot x.2 x.1 m) m

theorem writeVector_kept (e slot v k : Nat) (w : List Nat) (m : Sparse Word) (h : ∀ col < w.length, k ≠ slotKey e slot v col) :
    spGet zeroWord k (writeVector e slot v w m) = spGet zeroWord k m := by
  refine spGet_foldl_of_kept _ _ _ _ _ fun x hx m => ?_
  rw [spGet_set, if_neg (h x.2 (List.snd_lt_of_mem_zipIdx hx))]

theorem writeVector_stored (e slot v col n : Nat) (w : List Nat) (m : Sparse Word) (hn : w[col]? = some n) :
    spGet zeroWord (slotKey e slot v col) (writeVector e slot v w m) = BitVec.ofNat 32 n := by
  refine spGet_foldl_of_stored _ _ _ _ _ _ (n, col) (List.mk_mem_zipIdx_iff_getElem?.2 hn) (fun m => by simp) fun y hy m hm => ?_
  rw [spGet_set]
  split
  case isFalse => exact hm
  case isTrue hkey =>
    have hcol : col = y.2 := by rw [slotKey_eq, slotKey_eq e slot v y.2] at hkey; omega
    have hword : w[y.2]? = some y.1 := List.mem_zipIdx_iff_getElem?.1 hy
    rw [← hcol, hn, Option.some.injEq] at hword
    rw [hword]

theorem writeVectors_kept (e slot k : Nat) (ws : List (List Nat)) (m : Sparse Word) (hlen : ∀ w ∈ ws, w.length = 512)
    (hk : k < slotKey e slot 0 0 ∨ slotKey e slot 0 0 + 2048 * ws.length ≤ k) :
    spGet zeroWord k (writeVectors e slot ws m) = spGet zeroWord k m := by
  refine spGet_foldl_of_kept _ _ _ _ _ fun x hx m => writeVector_kept _ _ _ _ _ _ fun col hcol => ?_
  have hv : x.2 < ws.length := List.snd_lt_of_mem_zipIdx hx
  rw [hlen x.1 (List.fst_mem_of_mem_zipIdx hx)] at hcol
  rw [slotKey_eq]
  omega

theorem writeVectors_stored (e slot v col n : Nat) (ws : List (List Nat)) (w : List Nat) (m : Sparse Word)
    (hlen : ∀ w ∈ ws, w.length = 512) (hcol : col < 512) (hw : ws[v]? = some w) (hn : w[col]? = some n) :
    spGet zeroWord (slotKey e slot v col) (writeVectors e slot ws m) = BitVec.ofNat 32 n := by
  refine spGet_foldl_of_stored _ _ _ _ _ _ (w, v) (List.mk_mem_zipIdx_iff_getElem?.2 hw)
    (fun m => writeVector_stored e slot v col n w m hn) fun y hy m hm => ?_
  by_cases hv : v = y.2
  · have hvec : ws[y.2]? = some y.1 := List.mem_zipIdx_iff_getElem?.1 hy
    rw [← hv, hw, Option.some.injEq] at hvec
    rw [← hv, ← hvec, writeVector_stored e slot v col n w m hn]
  · rw [writeVector_kept _ _ _ _ _ _ fun c hc => ?_, hm]
    rw [hlen y.1 (List.fst_mem_of_mem_zipIdx hy)] at hc
    rw [slotKey_eq, slotKey_eq e slot y.2 c]
    omega

@[simp] theorem acc_wroteWord (w : Nat) (s : State) : (wroteWord w s).acc = s.acc := by
  unfold wroteWord
  split
  · rfl
  · split <;> rfl

@[simp] theorem tiles_wroteWord (w : Nat) (s : State) : (wroteWord w s).tiles = s.tiles := by
  unfold wroteWord
  split
  · rfl
  · split <;> rfl

theorem acc_writeSlot (e : Nat) (r : SlotRec) (ws : List (List Nat)) (s : State) :
    (writeSlot e r ws s).acc = writeVectors e r.slot ws (spClear (slotKey e r.slot 0 0) (2048 * ws.length) s.acc) := by
  unfold writeSlot
  dsimp only
  split
  · rw [acc_wroteWord]; rfl
  · rfl

theorem tiles_writeSlot (e : Nat) (r : SlotRec) (ws : List (List Nat)) (s : State) : (writeSlot e r ws s).tiles = s.tiles := by
  unfold writeSlot
  dsimp only
  split
  · rw [tiles_wroteWord]
  · rfl

theorem slotWord_writeSlot (e v col : Nat) (r : SlotRec) (ws : List (List Nat)) (s : State)
    (hws : ∀ w ∈ ws, w.length = 512 ∧ ∀ n ∈ w, n < 2 ^ 32) (hv : v < ws.length) (hcol : col < 512) :
    slotWord (writeSlot e r ws s) e r.slot v col = nth (nth ws v []) col 0 := by
  obtain ⟨hlen, hlt⟩ := hws ws[v] (List.getElem_mem hv)
  have hc : col < ws[v].length := by omega
  have hnth : nth (nth ws v []) col 0 = ws[v][col] := by simp [nth, hv, hc]
  rw [slotWord, acc_writeSlot, writeVectors_stored e r.slot v col ws[v][col] ws ws[v] _ (fun w hw => (hws w hw).1) hcol
    (List.getElem?_eq_getElem hv) (List.getElem?_eq_getElem hc), BitVec.toNat_ofNat,
    Nat.mod_eq_of_lt (hlt _ (List.getElem_mem hc)), hnth]

theorem acc_writeSlot_outside (e k : Nat) (r : SlotRec) (ws : List (List Nat)) (s : State) (hlen : ∀ w ∈ ws, w.length = 512)
    (hk : k < slotKey e r.slot 0 0 ∨ slotKey e r.slot 0 0 + 2048 * ws.length ≤ k) :
    spGet zeroWord k (writeSlot e r ws s).acc = spGet zeroWord k s.acc := by
  rw [acc_writeSlot, writeVectors_kept e r.slot k ws _ hlen hk, spClear, spGet_filter]
  intro _
  simp only [Bool.not_eq_true', Bool.and_eq_false_iff, decide_eq_false_iff_not]
  omega

/-- Settles O22: the words of a slot lie at keys of their own, within the range that the write clears. -/
theorem slotWriteStores : Obligations.SlotWriteStores := by
  unfold Obligations.SlotWriteStores
  intro e v col r ws s hws
  exact ⟨slotWord_writeSlot e v col r ws s hws, fun k => acc_writeSlot_outside e k r ws s fun w hw => (hws w hw).1,
    writeSlot_mem e r ws s, tiles_writeSlot e r ws s⟩

end Sys2Proof.Machine
end

section
/-!
PROOFS. The words of engine instructions (R286, R287, R289): the encoder and the decoder agree on one layout of fields.
-/
namespace Sys2Proof

/-- The layout of an instruction's word: values with their widths, laid end to end from bit 0, that fill the 128 bits and fit where the
instruction's fields do. -/
structure WordLayout (i : EngInstr) (l : List (Nat × Nat)) : Prop where
  encode : encodeEng i = packF l
  width : (l.map (·.2)).sum = 128
  fits_iff : i.fits = true ↔ ∀ p ∈ l, p.1 < 2 ^ p.2

theorem EngInstr.fits_iff (i : EngInstr) : i.fits = true ↔ i.idx < 4 ∧ i.op.fits = true := by
  simp [EngInstr.fits, and_comm]

/-- Every instruction has a layout, and a word whose fields are its values spells the instruction. -/
theorem exists_wordLayout (i : EngInstr) : ∃ l, WordLayout i l ∧
    ∀ w < 2 ^ 128, unpackF (l.map (·.2)) w = l.map (·.1) → decodeEng w = some i := by
  obtain ⟨op, idx⟩ := i
  cases op
  all_goals
    refine ⟨_, ⟨rfl, ?width, ?fits⟩, fun w hw hu => ?decode⟩
    case width => simp only [List.map, List.sum_cons, List.sum_nil, Nat.reduceAdd]
    case fits => simp [EngInstr.fits_iff, EngOp.fits, and_assoc, -List.mem_cons, List.forall_mem_cons]
    case decode =>
      have hcode : w % 256 = _ := (List.cons.inj hu).1
      have hhigh : w / 2 ^ 128 = 0 := Nat.div_eq_of_lt hw
      simp only [List.map] at hu hcode
      simp only [decodeEng, hhigh, hcode, hu, ne_eq, not_true_eq_false, and_self, if_true, if_false]

/-- A word that spells an instruction has the values of the instruction's layout as its fields. -/
theorem wordLayout_of_decodeEng {w : Nat} {i : EngInstr} (h : decodeEng w = some i) :
    ∃ l, WordLayout i l ∧ w < 2 ^ 128 ∧ unpackF (l.map (·.2)) w = l.map (·.1) := by
  unfold decodeEng at h
  split at h
  · cases h
  next hhigh =>
  have hw : w < 2 ^ 128 := by omega
  split at h
  case h_36 => cases h
  all_goals
    next hcode =>
    simp only [unpackF, Option.ite_none_right_eq_some, Option.some.injEq] at h
    obtain ⟨hzero, rfl⟩ := h
    refine ⟨_, ⟨rfl, ?width, ?fits⟩, hw, ?fields⟩
    case width => simp only [List.map, List.sum_cons, List.sum_nil, Nat.reduceAdd]
    case fits => simp [EngInstr.fits_iff, EngOp.fits, and_assoc, -List.mem_cons, List.forall_mem_cons]
    case fields =>
      simp only [List.map, unpackF, Nat.reducePow] at hzero ⊢
      simp only [hcode, hzero]

theorem decodeEng_encodeEng (i : EngInstr) (h : i.fits = true) : decodeEng (encodeEng i) = some i := by
  obtain ⟨l, hl, hdecode⟩ := exists_wordLayout i
  rw [hl.encode]
  exact hdecode _ (hl.width ▸ packF_lt l) (unpackF_packF l (hl.fits_iff.1 h))

theorem encodeEng_of_decodeEng (w : Nat) (i : EngInstr) (h : decodeEng w = some i) : encodeEng i = w ∧ i.fits = true := by
  obtain ⟨l, hl, hw, hu⟩ := wordLayout_of_decodeEng h
  have hzip : (unpackF (l.map (·.2)) w).zip (l.map (·.2)) = l := by rw [hu, List.zip_map', List.map_id']
  constructor
  · calc encodeEng i = packF ((unpackF (l.map (·.2)) w).zip (l.map (·.2))) := by rw [hzip, hl.encode]
      _ = w := packF_unpackF _ w (hl.width ▸ hw)
  · refine hl.fits_iff.2 fun p hp => ?_
    obtain ⟨k, hk, rfl⟩ := List.getElem_of_mem hp
    exact unpackF_lt (l.map (·.2)) w k _ _ (by simp [hu, hk]) (by simp [hk])

/-- Settles O59: the word packs the fields of a layout, and the decoder cuts it into the same fields. -/
theorem engineCodesAgree : Obligations.EngineCodesAgree :=
  ⟨decodeEng_encodeEng, encodeEng_of_decodeEng⟩

end Sys2Proof
end

section
/-!
PROOFS. Contexts and cursors of engine programs, and their loops (R273, R275, R276, R278): what an update of a cursor does to each
cursor, the next instruction, and the end of a body.
-/
namespace Sys2Proof.Machine

/-! ## Looking up after an update -/

/-- In a list updated at the entries of one key, a look-up finds what it found before, updated where it has that key. -/
theorem find?_map_keyed {α : Type} (key : α → Nat) (k j : Nat) (f : α → α) (l : List α) (hf : ∀ a, key (f a) = key a) :
    (l.map fun a => if key a = k then f a else a).find? (fun a => decide (key a = j)) =
      (l.find? fun a => decide (key a = j)).map fun a => if key a = k then f a else a := by
  have hkey (a : α) : key (if key a = k then f a else a) = key a := by split <;> simp [hf]
  simp only [List.find?_map, Function.comp_def, hkey]

theorem ctxOf_id {s : State} {c : Nat} {x : Ctx} (h : ctxOf s c = some x) : x.id = c := by
  simpa using List.find?_some h

theorem curOf_eng {x : Ctx} {e : Nat} {u : Cursor} (h : curOf x e = some u) : u.eng = e := by
  simpa using List.find?_some h

theorem ctxOf_updCtx (c c' : Nat) (f : Ctx → Ctx) (s : State) (hf : ∀ x, (f x).id = x.id) :
    ctxOf (updCtx c f s) c' = (ctxOf s c').map fun x => if x.id = c then f x else x :=
  find?_map_keyed Ctx.id c c' f s.ctxs hf

theorem ctxOf_updCtx_same {s : State} {c : Nat} {x : Ctx} (f : Ctx → Ctx) (hf : ∀ x, (f x).id = x.id) (h : ctxOf s c = some x) :
    ctxOf (updCtx c f s) c = some (f x) := by
  simp [ctxOf_updCtx c c f s hf, h, ctxOf_id h]

theorem ctxOf_updCtx_other {c c' : Nat} (f : Ctx → Ctx) (s : State) (hf : ∀ x, (f x).id = x.id) (h : c' ≠ c) :
    ctxOf (updCtx c f s) c' = ctxOf s c' := by
  rw [ctxOf_updCtx c c' f s hf]
  cases hx : ctxOf s c' with
  | none => rfl
  | some x => simp [ctxOf_id hx, h]

/-- The context of an update of a cursor: its cursors are updated at the engine. -/
theorem ctxOf_updCur {s : State} {c : Nat} {x : Ctx} (e : Nat) (f : Cursor → Cursor) (h : ctxOf s c = some x) :
    ctxOf (updCur c e f s) c = some { x with curs := x.curs.map fun u => if u.eng = e then f u else u } :=
  ctxOf_updCtx_same _ (fun _ => rfl) h

theorem curOf_updCur {s : State} {c : Nat} {x : Ctx} (e e' : Nat) (f : Cursor → Cursor) (hf : ∀ u, (f u).eng = u.eng)
    (h : ctxOf s c = some x) :
    (ctxOf (updCur c e f s) c).bind (curOf · e') = (curOf x e').map fun u => if u.eng = e then f u else u := by
  rw [ctxOf_updCur e f h]
  exact find?_map_keyed Cursor.eng e e' f x.curs hf

/-! ## The next instruction -/

/-- A cursor at the next instruction of its program, in an invocation whose context is `x`. -/
def nextCursor (x : Ctx) (u : Cursor) : Cursor :=
  let r := closeLoops (runStopped x) (runPhases x) u.frames (u.pc + 1)
  { u with frames := r.1, pc := r.2 }

@[simp] theorem eng_nextCursor (x : Ctx) (u : Cursor) : (nextCursor x u).eng = u.eng := rfl

theorem advance_eq_updCur {s : State} {c : Nat} {x : Ctx} (e : Nat) (h : ctxOf s c = some x) :
    advance c e s = updCur c e (nextCursor x) s := by
  rw [advance, h]
  rfl

/-- Settles O16: the next instruction is an update of one cursor, which no other look-up sees. -/
theorem advanceMovesOneCursor : Obligations.AdvanceMovesOneCursor := by
  unfold Obligations.AdvanceMovesOneCursor
  intro s c e x u hx hu r
  rw [advance_eq_updCur e hx]
  have hcur (e' : Nat) := curOf_updCur e e' (nextCursor x) (eng_nextCursor x) hx
  refine ⟨?moved, fun e' he => ?cursors, fun c' hc => ctxOf_updCtx_other _ s (fun _ => rfl) hc, rfl⟩
  case moved => rw [hcur, hu, Option.map_some, if_pos (curOf_eng hu)]; rfl
  case cursors =>
    rw [hcur]
    cases hu' : curOf x e' with
    | none => rfl
    | some v => simp [curOf_eng hu', he]

/-! ## The end of a body -/

/-- Settles O17: each mode asks its own question at the body's end, and the answer repeats the body or closes the loop. -/
theorem loopRepeatsItsBody : Obligations.LoopRepeatsItsBody := by
  unfold Obligations.LoopRepeatsItsBody
  intro stopped h i l fs again after
  refine ⟨fun pc hpc => ?inside, fun hmode => ?counted, fun hmode => ?phases, fun hmode => ?sweeps⟩
  case inside => simp [closeLoops, hpc]
  case counted => simp [closeLoops, hmode, again, after]
  case phases => simp [closeLoops, hmode, again, after]
  case sweeps => cases stopped <;> simp [closeLoops, hmode, again, after]

end Sys2Proof.Machine
end

section
/-!
PROOFS. Engine instructions outside the array and the vector unit: control, moves, semaphores and digests (R273, R275 to R280, R284,
R289 to R291, R307 to R309), and SEM_OP (R450).
-/
namespace Sys2Proof.Machine

/-! ## An instruction at which its engine stands -/

/-- An engine instruction leads where its effect leads, where the engine stands at it. -/
theorem engAct_of_effect {s t : State} {x : EngRef} {op : EngOp} {c : Ctx} {u : Cursor} {f : Ctx → Cursor → Nat → State → State}
    (hat : standsAt s x op c u) (heffect : f c u (curIdx s c x.eng) s = t) : engAct x op s f = .next (pump t) := by
  rw [standsAt_runs s x op c u f hat, heffect]

theorem ctxOf_of_standsAt {s : State} {x : EngRef} {op : EngOp} {c : Ctx} {u : Cursor} (hat : standsAt s x op c u) :
    ctxOf s c.id = some c := by
  obtain ⟨-, hc, -, -⟩ := hat
  rw [ctxOf_id hc, hc]

/-- An instruction whose ranges all read has its effect on what the reads leave, and goes on. -/
theorem reading_reads {c : Ctx} {u : Cursor} {rs : List (Nat × Nat)} {s r : State} (f : State → State)
    (h : engReads c.id u.eng rs s = (true, r)) : reading c u rs f s = advance c.id u.eng (f r) := by
  simp [reading, h]

/-! ## Control -/

/-- A loop is opened but where it is a SWEEPS loop of a run that has stopped (R275, R696). -/
theorem enterLoop_opens {s : State} {c : Ctx} (e : Nat) (o : LoopOp) (hc : ctxOf s c.id = some c)
    (h : ¬(o.mode = 2 ∧ runStopped c = true)) :
    enterLoop c.id e o s = updCur c.id e (fun v => { v with frames := ⟨loopAt v.pc o, 0⟩ :: v.frames, pc := v.pc + 1 }) s := by
  simp only [enterLoop, hc, if_neg h]

/-- The invocation's engine work ends once every program has executed HALT, this engine's counted (R284). -/
theorem haltEngine_eq {s : State} {c : Ctx} (e : Nat) (hc : ctxOf s c.id = some c) :
    haltEngine c.id e s =
      if c.curs.all (fun v => v.halted || decide (v.eng = e)) then
        engineWorkDone c.id (updCur c.id e (fun v => { v with halted := true }) s)
      else updCur c.id e (fun v => { v with halted := true }) s := by
  have hhalted (v : Cursor) : (if v.eng = e then { v with halted := true } else v).halted = (v.halted || decide (v.eng = e)) := by
    by_cases hv : v.eng = e <;> simp [hv]
  simp only [haltEngine, ctxOf_updCur e _ hc, List.all_map, Function.comp_def, hhalted]

/-- Settles O18: each instruction has the effect of its meaning, which its lemma gives where the meaning asks for more than that the
engine stands there. -/
theorem controlAndMovesRun : Obligations.ControlAndMovesRun := by
  unfold Obligations.ControlAndMovesRun
  refine ⟨⟨fun s x c u => ⟨?nop, ?loop, ?stage, ?halt⟩, fun u i sa len hreg ctx addr => ⟨rfl, rfl, rfl, rfl, rfl⟩⟩,
    fun s x c u => ⟨?tstamp, ?fill, ?move⟩⟩
  case nop => exact fun hat => engAct_of_effect hat rfl
  case loop => exact fun o hat hopen => engAct_of_effect hat (enterLoop_opens u.eng o (ctxOf_of_standsAt hat) hopen)
  case stage => exact fun o hat => engAct_of_effect hat rfl
  case halt => exact fun hat => engAct_of_effect hat (haltEngine_eq u.eng (ctxOf_of_standsAt hat))
  case tstamp => exact fun o hat => engAct_of_effect hat rfl
  case fill => exact fun o hat => engAct_of_effect hat rfl
  case move =>
    intro o r hat e n hr
    exact engAct_of_effect hat (reading_reads _ hr)

/-! ## Semaphores -/

theorem swaitTry_reached {c : Ctx} {u : Cursor} {o : SwaitOp} {s : State} (h : o.thresh ≤ semOf s o.sem) :
    swaitTry c u o s = advance c.id u.eng (updCur c.id u.eng (fun v => { v with swaitEnd := none }) s) :=
  if_pos h

/-- Below THRESH the timeout starts, once (R307). -/
theorem swaitTry_starts {c : Ctx} {u : Cursor} {o : SwaitOp} {s : State} (h : semOf s o.sem < o.thresh) (hu : u.swaitEnd = none) :
    swaitTry c u o s = updCur c.id u.eng (fun v => { v with swaitEnd := some (s.now + waitNs o.tmo (wMin s)) }) s := by
  simp [swaitTry, Nat.not_le.2 h, hu]

theorem swaitDue_of {s : State} {c : Ctx} {e i t : Nat} {u : Cursor} {o : SwaitOp} (hu : curOf c e = some u) (hend : u.swaitEnd = some t)
    (ht : t ≤ s.now) (hi : curInstr s c e = some ⟨.swait o, i⟩) (hsem : semOf s o.sem < o.thresh) (hlife : c.life = .running) :
    swaitDue s e c = true := by
  simp [swaitDue, hu, hi, hend, ht, hsem, hlife]

/-- A write of SEM_OP changes the semaphore that its low bits name by the operation of bit 16, and restarts the stall timer once:
the SYNC page's own restart finds it restarted. -/
theorem writeBy_semOp (a : Agent) (v : Nat) (s : State) (hacc : accepts s a pgSync) :
    writeBy true a pgSync 0x058 v s =
      .next (syncTouch (pump (semDo (v.testBit 16) (v % 16384) (regPair s pgSync 0x050) s))) := by
  have hown : ownWrite a (tyOf pgSync) pgSync 0x058 v s = semOpWrite v s := rfl
  have htouched : touched a pgSync (semOpWrite v s) = semOpWrite v s := by
    unfold touched
    split
    · exact syncTouch_twice _
    · rfl
  rw [writeBy_own a pgSync 0x058 v s hacc (by decide) (by decide), hown, htouched, semOpWrite]

theorem exec_semOpAdd_runs (a : Agent) (n : Nat) (s : State) (hn : n < 16384) (hacc : accepts s a pgSync) :
    exec (.semOpAdd a n) s = .next (syncTouch (pump (semDo false n (regPair s pgSync 0x050) s))) := by
  have hbit : n.testBit 16 = false := Nat.testBit_lt_two_pow (by omega)
  change execSemOpAdd a n s = _
  rw [execSemOpAdd, decide_eq_true hn, writeBy_semOp a n s hacc, hbit, Nat.mod_eq_of_lt hn]

theorem exec_semOpSet_runs (a : Agent) (n : Nat) (s : State) (hn : n < 16384) (hacc : accepts s a pgSync) :
    exec (.semOpSet a n) s = .next (syncTouch (pump (semDo true n (regPair s pgSync 0x050) s))) := by
  have hbit : (n + 65536).testBit 16 = true := by
    rw [Nat.testBit_eq_decide_div_mod_eq, decide_eq_true_eq]; omega
  have hsem : (n + 65536) % 16384 = n := by omega
  change execSemOpSet a n s = _
  rw [execSemOpSet, decide_eq_true hn, writeBy_semOp a _ s hacc, hbit, hsem]

/-- Settles O20: SWAIT by whether THRESH is reached, its timeout by its end, and SEM_OP by the write of its register. -/
theorem semaphoreCommandsRun : Obligations.SemaphoreCommandsRun := by
  unfold Obligations.SemaphoreCommandsRun
  refine ⟨fun s x c u => ⟨?reached, ?starts, ?expires, ?signals⟩, fun s a n hn hacc => ⟨?add, ?set⟩⟩
  case reached => exact fun o hat hsem => engAct_of_effect hat (swaitTry_reached hsem)
  case starts => exact fun o hat hsem hu => engAct_of_effect hat (swaitTry_starts hsem hu)
  case expires =>
    intro o i t hok hc hlife hu hend ht hi hsem
    have hdue : ctxIs s x.ctx (swaitDue s x.eng) = true := by
      rw [ctxIs, hc]
      exact swaitDue_of hu hend ht hi hsem hlife
    exact actCfe_runs s _ _ _ hok hdue
  case signals => exact fun o hat => engAct_of_effect hat rfl
  case add => exact exec_semOpAdd_runs a n s hn hacc
  case set => exact exec_semOpSet_runs a n s hn hacc

/-! ## Digest contexts -/

theorem digestCompare_equal {c : Ctx} {u : Cursor} {a ctx : Nat} {s r : State} (hr : engReads c.id u.eng [(a, 32)] s = (true, r))
    (h : memRead r a 32 = treeDigest (digestBytes u ctx)) : digestCompare c u a ctx s = advance c.id u.eng r := by
  simp [digestCompare, hr, h]

/-- A mismatch ends the invocation; its DETAIL takes the next free value. -/
theorem digestCompare_differs {c : Ctx} {u : Cursor} {a ctx : Nat} {s r : State} (hr : engReads c.id u.eng [(a, 32)] s = (true, r))
    (h : memRead r a 32 ≠ treeDigest (digestBytes u ctx)) :
    digestCompare c u a ctx s =
      endWith c.id ⟨stDigestMismatch, Config.freeNat r.free % 2 ^ 32, 0⟩ { r with free := r.free + 1 } := by
  simp [digestCompare, hr, h, freshNat]

end Sys2Proof.Machine
end

section
/-!
PROOFS. Which operations keep the status of every context, and that an entry that has ended has a status (R440, R449, R473): what makes
status final reads and writes memory, moves certificates and signals, but touches no status again.
-/
namespace Sys2Proof.Machine

/-- A fold keeps what each of its steps keeps. -/
theorem foldl_keeps {σ α γ : Type} (g : σ → γ) (f : σ → α → σ) (l : List α) (s : σ) (h : ∀ s a, g (f s a) = g s) :
    g (l.foldl f s) = g s := by
  induction l generalizing s with
  | nil => rfl
  | cons a l ih => rw [List.foldl_cons, ih, h]

/-! ## Operations that leave the contexts alone -/

@[simp] theorem ctxs_freshNat (s : State) : (freshNat s).2.ctxs = s.ctxs := rfl

@[simp] theorem ctxs_raise (page bit : Nat) (s : State) : (raise page bit s).ctxs = s.ctxs := by rw [raise_only]

@[simp] theorem ctxs_semDo (b : Bool) (n v : Nat) (s : State) : (semDo b n v s).ctxs = s.ctxs := by
  unfold semDo semAdd
  dsimp only
  split
  · rfl
  · split <;> simp

@[simp] theorem ctxs_logRead (a : Nat) (k : RdClass) (src : Nat) (s : State) : (logRead a k src s).ctxs = s.ctxs := by
  unfold logRead
  dsimp only
  split <;> simp

@[simp] theorem ctxs_settle (w : Nat) (s : State) : (settle w s).ctxs = s.ctxs := by
  unfold settle
  dsimp only
  split
  · rfl
  · split <;> simp

@[simp] theorem ctxs_noteRead (src w : Nat) (s : State) : (noteRead src w s).2.ctxs = s.ctxs := by
  unfold noteRead
  dsimp only
  split <;> simp

@[simp] theorem ctxs_wroteWord (w : Nat) (s : State) : (wroteWord w s).ctxs = s.ctxs := by
  unfold wroteWord
  split
  · rw [ctxs_setMark, ctxs_setBit]
  · split
    · rfl
    · rw [ctxs_setMark]

@[simp] theorem ctxs_poisonWord (w : Nat) (s : State) : (poisonWord w s).ctxs = s.ctxs := by
  unfold poisonWord
  dsimp only
  split <;> simp

@[simp] theorem ctxs_armRun (a n : Nat) (s : State) : (armRun a n s).ctxs = s.ctxs := by
  unfold armRun
  split
  · rfl
  · exact foldl_keeps State.ctxs _ _ s fun s w => by split <;> simp

@[simp] theorem ctxs_noteWritten (a n : Nat) (s : State) : (noteWritten a n s).ctxs = s.ctxs := by
  unfold noteWritten
  split <;> rfl

@[simp] theorem ctxs_writePart (w a : Nat) (bs : List Byte) (s : State) : (writePart w a bs s).ctxs = s.ctxs := by
  have hread : (if markOf (bump (ctlOf s w).1 ((ctlOf s w).2.1 + 0x09C) s) w = noMark w then
      (RdClass.clean, bump (ctlOf s w).1 ((ctlOf s w).2.1 + 0x09C) s)
      else noteRead 2 w (bump (ctlOf s w).1 ((ctlOf s w).2.1 + 0x09C) s)).2.ctxs = s.ctxs := by
    split <;> simp
  unfold writePart
  dsimp only
  split <;> simpa using hread

@[simp] theorem ctxs_writeCanon (a : Nat) (bs : List Byte) (s : State) : (writeCanon a bs s).ctxs = s.ctxs := by
  unfold writeCanon
  dsimp only
  (repeat' split) <;> simp

@[simp] theorem ctxs_memWrite (a : Nat) (bs : List Byte) (s : State) : (memWrite a bs s).ctxs = s.ctxs :=
  foldl_keeps (fun st : State × List Byte => st.1.ctxs) _ _ (s, bs) fun st p => ctxs_writeCanon p.1 _ st.1

@[simp] theorem ctxs_refreshIssued (x : Ctx) (s : State) (q : IssuedCert) : (refreshIssued x s q).ctxs = s.ctxs := by
  simp [refreshIssued, refreshWindows]

@[simp] theorem ctxs_endRun (x : Ctx) (s : State) : (endRun x s).ctxs = s.ctxs := by
  unfold endRun
  split <;> rfl

@[simp] theorem ctxs_noteAborted (x : Ctx) (s : State) : (noteAborted x s).ctxs = s.ctxs := by
  unfold noteAborted
  split
  · split <;> rfl
  · rfl

@[simp] theorem ctxs_admitRecheck (q : Nat) (s : State) : (admitRecheck q s).ctxs = s.ctxs := by
  unfold admitRecheck
  dsimp only
  split
  · simp
  · split <;> simp

@[simp] theorem ctxs_afterRelease (x : Ctx) (s : State) : (afterRelease x s).ctxs = s.ctxs := by
  unfold afterRelease
  dsimp only
  split
  · simp [updBellProg]
  · rfl

/-! ## Operations that keep every status -/

/-- The status of each context. -/
def statuses (s : State) : List (Nat × Option Cause) := s.ctxs.map fun x => (x.id, x.status)

theorem statuses_congr {s t : State} (h : s.ctxs = t.ctxs) : statuses s = statuses t := by rw [statuses, h, statuses]

theorem goesOn_eq_statuses (s : State) (c : Nat) :
    goesOn s c = (((statuses s).find? fun p => decide (p.1 = c)).map fun p => p.2.isNone).getD false := by
  simp only [goesOn, ctxIs, ctxOf, statuses, List.find?_map, Function.comp_def, Option.map_map]
  split <;> simp [*]

theorem goesOn_congr {s t : State} (c : Nat) (h : statuses s = statuses t) : goesOn s c = goesOn t c := by
  rw [goesOn_eq_statuses, goesOn_eq_statuses, h]

theorem statuses_updCtx (c : Nat) (f : Ctx → Ctx) (s : State) (hf : ∀ x, ((f x).id, (f x).status) = (x.id, x.status)) :
    statuses (updCtx c f s) = statuses s := by
  simp only [statuses, ctxs_updCtx, List.map_map]
  refine List.map_congr_left fun x _ => ?_
  simp only [Function.comp]
  split
  · exact hf x
  · rfl

theorem statuses_latchAll (s : State) : statuses (latchAll s) = statuses s := by
  simp only [statuses, latchAll, List.map_map]
  refine List.map_congr_left fun x _ => ?_
  simp only [Function.comp]
  split <;> rfl

theorem statuses_tagWindow (n : Nat) (cs : List CertW) (s : State) : statuses (tagWindow n cs s) = statuses s :=
  foldl_keeps statuses _ cs s fun s k => by
    split
    · exact statuses_updCtx _ _ s fun _ => rfl
    · rfl

theorem statuses_closeWindow (s : State) : statuses (closeWindow s) = statuses s := by
  unfold closeWindow
  dsimp only
  split
  · rfl
  · split
    · split
      · rfl
      · rw [statuses_tagWindow]; rfl
    · rfl

theorem statuses_closeFull (s : State) : statuses (closeFull s) = statuses s := by
  unfold closeFull
  split
  · split
    · exact statuses_closeWindow s
    · rfl
  · rfl

theorem statuses_joinWindow (k : CertW) (s : State) : statuses (joinWindow k s) = statuses s := by
  unfold joinWindow
  split
  · rw [statuses_closeFull, statuses_tagWindow]; rfl
  · split
    · rfl
    · rw [statuses_closeFull, statuses_tagWindow]; rfl

theorem statuses_applySignal (c k : Nat) (g : Signal) (s : State) : statuses (applySignal c k g s) = statuses s := by
  unfold applySignal
  split
  · exact statuses_congr (ctxs_semDo _ _ _ s)
  · exact statuses_updCtx c _ (emit _ s) fun _ => rfl

theorem statuses_applySignals (c : Nat) (s : State) : statuses (applySignals c s) = statuses s := by
  unfold applySignals
  split
  · rfl
  · split
    · exact foldl_keeps statuses _ _ s fun s e => by rw [statuses_latchAll, statuses_applySignal]
    · exact statuses_updCtx c _ s fun _ => rfl

theorem statuses_certAtDelivery (c : Nat) (wanted : Bool) (s : State) : statuses (certAtDelivery c wanted s) = statuses s := by
  unfold certAtDelivery
  split
  · rfl
  next x _ =>
    have hwritten (q : Option Nat) (b : List Byte) (t : State) :
        statuses (tellAudits x q b (if x.certAt = 0 then t else memWrite x.certAt b t)) = statuses t := by
      split
      · rfl
      · exact statuses_congr (ctxs_memWrite _ b t)
    split
    · exact statuses_congr (foldl_keeps State.ctxs (refreshIssued x) _ s fun s q => ctxs_refreshIssued x s q)
    · split
      · dsimp only
        split
        · rw [hwritten]
          exact statuses_updCtx c _ (nextCertSeq s).2 fun _ => rfl
        · rw [statuses_joinWindow, hwritten]
          exact statuses_updCtx c _ (nextCertSeq s).2 fun _ => rfl
      · rfl

theorem statuses_holdPending (x : Ctx) (s : State) : statuses (holdPending x s) = statuses s := by
  unfold holdPending
  split
  · exact statuses_updCtx _ _ s fun _ => rfl
  · rfl

/-! ## An entry that has ended has a status -/

theorem goesOn_updCtx_status (c : Nat) (f : Ctx → Ctx) (s : State) (hf : ∀ x, (f x).id = x.id ∧ (f x).status.isSome = true) :
    goesOn (updCtx c f s) c = false := by
  simp only [goesOn, ctxIs, ctxOf_updCtx c c f s fun x => (hf x).1]
  cases hx : ctxOf s c with
  | none => rfl
  | some x => simpa [ctxOf_id hx, Option.isSome_iff_ne_none] using (hf x).2

theorem goesOn_finish (c : Nat) (s : State) : goesOn (finish c s) c = false := by
  unfold finish
  split
  next hnone => simp [goesOn, ctxIs, hnone]
  next x0 hsome =>
    split
    next hstatus => simpa [goesOn, ctxIs, hsome, Option.isSome_iff_ne_none] using hstatus
    next =>
      have hdelivered (wanted : Bool) (t : State) :
          statuses (certAtDelivery c wanted (applySignals c (endRun x0 t))) = statuses t := by
        rw [statuses_certAtDelivery, statuses_applySignals]
        exact statuses_congr (ctxs_endRun x0 t)
      have hreleased (x : Ctx) (t : State) : statuses (noteAborted x (holdPending x (afterRelease x t))) = statuses t := by
        rw [statuses_congr (ctxs_noteAborted x _), statuses_holdPending]
        exact statuses_congr (ctxs_afterRelease x t)
      dsimp only
      split
      · rw [goesOn_congr c (hdelivered _ _)]
        exact goesOn_updCtx_status c _ _ fun _ => ⟨rfl, rfl⟩
      · rw [goesOn_congr c ((hreleased _ _).trans (hdelivered _ _))]
        exact goesOn_updCtx_status c _ _ fun _ => ⟨rfl, rfl⟩

theorem goesOn_endWith (c : Nat) (k : Cause) (s : State) : goesOn (endWith c k s) c = false := goesOn_finish c (addCause c k s)

end Sys2Proof.Machine
end

section
/-!
PROOFS. PLOAD, AUDIT, CERT and the digest operations of engine programs (R302, R309, R310, R402, R407, R411, R413, R434).
-/
namespace Sys2Proof.Machine

/-! ## PLOAD -/

theorem exec_pload_runs {s : State} {c : Nat} {o : PloadOp} {x : Ctx} (hat : allStandAt s c (.pload o) x) (hfree : auditHolds s x = false) :
    exec (.pload c o) s = .next (pump (ploadStep c o x s)) := by
  obtain ⟨hc, hx, hcoll⟩ := hat
  change execPload c o s = _
  rw [execPload, hx]
  exact actCfe_runs s _ _ _ (decide_eq_true hc) (by simp [ctxIs, hx, hcoll, hfree])

/-- A failed check ends the invocation, which then goes no further. -/
theorem ploadStep_fails {s : State} {c : Nat} {o : PloadOp} {x : Ctx} {l : Loc} (hnew : ploadUnderway x o = false)
    (hcheck : ploadCheck s x o = .error l) : ploadStep c o x s = endWith c (invalidAt l) s := by
  have hbegin : ploadBegin c x o s = endWith c (invalidAt l) s := by rw [ploadBegin, hcheck]; rfl
  unfold ploadStep
  simp only [hnew, hbegin, goesOn_endWith, Bool.and_false, Bool.false_eq_true, if_false]
  split <;> rfl

/-- Settles O25: PLOAD takes its step, and a step whose check fails is the end of the invocation. -/
theorem ploadRuns : Obligations.PloadRuns := by
  unfold Obligations.PloadRuns
  intro s c o x hat hfree
  rw [exec_pload_runs hat hfree]
  exact ⟨rfl, fun l hnew hcheck => by rw [ploadStep_fails hnew hcheck]⟩

/-! ## AUDIT -/

theorem exec_audit_runs {s : State} {c : Nat} {o : AuditOp} {x : Ctx} (hat : allStandAt s c (.audit o) x) :
    exec (.audit c o) s = .next (pump (collAdvance c (if flAudit x then queueAudit c (daOf x o.da) s else s))) := by
  change execAudit c o s = _
  rw [execAudit, allStandAt_runs s c _ x _ hat]

/-! ## CERT -/

/-- CERT may go on: no certificate is asked for, or BOOT_ID is drawn and no audit is still to come on an ordinary ring. -/
def certReady (s : State) (x : Ctx) : Bool :=
  !flCert x || ((isBell x || !auditPending s x) && s.cert.bootId.isSome)

theorem certReady_of_not_asked {s : State} {x : Ctx} (h : flCert x = false) : certReady s x = true := by
  simp [certReady, h]

theorem certReady_of_audited {s : State} {x : Ctx} (haudit : isBell x = true ∨ auditPending s x = false)
    (hboot : s.cert.bootId.isSome = true) : certReady s x = true := by
  obtain h | h := haudit <;> simp [certReady, h, hboot]

theorem not_certReady {s : State} {x : Ctx} (hasked : flCert x = true)
    (h : (isBell x = false ∧ auditPending s x = true) ∨ s.cert.bootId = none) : certReady s x = false := by
  obtain ⟨hbell, haudit⟩ | hboot := h
  · simp [certReady, hasked, hbell, haudit]
  · simp [certReady, hasked, hboot]

theorem exec_cert_ready {s : State} {c : Nat} {o : CertOp} {x : Ctx} (hat : allStandAt s c (.cert o) x) (h : certReady s x = true) :
    exec (.cert c o) s =
      .next (pump (collAdvance c (if flCert x && !s.sec.tampered then issueCert c x (daOf x o.da) s else s))) := by
  obtain ⟨hc, hx, hcoll⟩ := hat
  change execCert c o s = _
  rw [execCert, hx]
  refine actCfe_runs s _ _ _ (decide_eq_true hc) ?_
  rw [ctxIs, hx]
  exact Bool.and_eq_true_iff.2 ⟨hcoll, h⟩

theorem exec_cert_waits {s : State} {c : Nat} {o : CertOp} {x : Ctx} (hat : allStandAt s c (.cert o) x) (h : certReady s x = false) :
    exec (.cert c o) s = .next s := by
  obtain ⟨hc, hx, hcoll⟩ := hat
  have hguard : (ctxIs s c fun x => collAt s x (.cert o) && certReady s x) = false := by simp [ctxIs, hx, h]
  change execCert c o s = _
  unfold certReady at hguard
  simp only [execCert, actCfe, act, hguard, decide_eq_true hc, if_true, Bool.false_eq_true, if_false]

/-- Settles O31: AUDIT and CERT by what the descriptor asks for and whether CERT is ready, a digest operation by its OP. -/
theorem digestsAuditsCertificatesRun : Obligations.DigestsAuditsCertificatesRun := by
  unfold Obligations.DigestsAuditsCertificatesRun
  refine ⟨fun s c x => ⟨?audit, ?noAudit, ?noCert, ?cert, ?certWaits⟩, ?digests⟩
  case audit =>
    intro o hat hasked
    rw [exec_audit_runs hat, if_pos hasked]
  case noAudit =>
    intro o hat hasked
    rw [exec_audit_runs hat, hasked, if_neg Bool.false_ne_true]
  case noCert =>
    intro o hat hasked
    rw [exec_cert_ready hat (certReady_of_not_asked hasked), hasked, Bool.false_and, if_neg Bool.false_ne_true]
  case cert =>
    intro o hat hasked haudit hboot
    rw [exec_cert_ready hat (certReady_of_audited haudit hboot), hasked, Bool.true_and]
    exact ⟨fun htampered => by rw [htampered]; rfl, fun htampered => by rw [htampered]; rfl⟩
  case certWaits => exact fun o hat hasked h => exec_cert_waits hat (not_certReady hasked h)
  case digests =>
    intro s x o c u hat a n
    refine ⟨?start, ?absorb, ?final, ?equal, ?differs⟩
    case start => exact fun hop => engAct_of_effect hat (if_pos hop)
    case absorb =>
      intro r hop hr
      exact engAct_of_effect hat ((if_pos hop).trans (reading_reads _ hr))
    case final => exact fun hop => engAct_of_effect hat (if_pos hop)
    case equal =>
      intro r hop hr h
      exact engAct_of_effect hat ((if_pos hop).trans (digestCompare_equal hr h))
    case differs =>
      intro r hop hr h
      exact engAct_of_effect hat ((if_pos hop).trans (digestCompare_differs hr h))

end Sys2Proof.Machine
end

section
/-!
PROOFS. The array and the vector unit (R232, R242, R250 to R270, R292 to R300): what each instruction comes to once its ranges and its
slot read and its check passes.
-/
namespace Sys2Proof.Machine

/-! ## The array -/

theorem findIdx_eq_none {α : Type} {p : α → Bool} {l : List α} (i : Nat) (h : ∀ a ∈ l, p a = false) : findIdx p l i = none := by
  induction l generalizing i with
  | nil => rfl
  | cons a l ih =>
    rw [findIdx, h a List.mem_cons_self, if_neg Bool.false_ne_true]
    exact ih (i + 1) fun b hb => h b (List.mem_cons_of_mem a hb)

/-- A pass that nothing upsets and whose check passes on every vector is written into its slot. -/
theorem streamPass_passes {c : Ctx} {u : Cursor} {o : StreamOp} {a : Nat} {t : Tile} {s : State}
    (hok : ∀ p ∈ runPass t a (sa0 u o.scale) (o.v + 1) (fmtOf o.fmt) s, p.ok = true) :
    streamPass c u o a t none s = advance c.id u.eng
      (storePass u o (isIntFmt t.fmt) (runPass t a (sa0 u o.scale) (o.v + 1) (fmtOf o.fmt) s) s) := by
  have hnone := findIdx_eq_none (p := fun r : PassOut => !r.ok) 0 fun p hp => by rw [hok p hp]; rfl
  simp only [streamPass, hnone]

/-- Settles O21: each instruction goes through its reads; a STREAM then finds its tile and no failed check. -/
theorem arrayRuns : Obligations.ArrayRuns := by
  unfold Obligations.ArrayRuns
  refine ⟨fun s r q x c u => ⟨?sld, ?stream⟩, fun s r q x c u => ⟨?drain, ?pdrain, ?preload⟩⟩
  case sld =>
    intro o hat f i hr
    exact engAct_of_effect hat (reading_reads _ hr)
  case stream =>
    intro o t hat f a hr hq ht hok
    refine engAct_of_effect hat ?_
    simp only [f, a] at hr hok ⊢
    simp only [hr, hq, ht, Bool.not_true, Bool.false_eq_true, if_false]
    exact streamPass_passes hok
  case drain =>
    intro o hat hr hq
    refine engAct_of_effect hat ?_
    simp only [hr, hq, Bool.not_true, Bool.false_eq_true, if_false]
  case pdrain =>
    intro o hat hq d a m
    refine engAct_of_effect hat ?_
    simp only [hq, Bool.not_true, Bool.false_eq_true, if_false]
    rfl
  case preload =>
    intro o hat a hr
    exact engAct_of_effect hat (reading_reads _ hr)

/-! ## The vector unit -/

/-- Settles O24: every instruction of the vector unit reads its operands, has its effect on what the reads leave, and goes on. -/
theorem vectorRuns : Obligations.VectorRuns := by
  unfold Obligations.VectorRuns
  intro s r x c u
  refine ⟨fun o hat hr => ?vop, fun o hat hr => ?vred, fun o hat hr => ?vnorm, fun o hat hr => ?vcvt, fun o hat hr => ?vtopk,
    fun o hat hr => ?pbuild⟩
  all_goals exact engAct_of_effect hat (reading_reads _ hr)

end Sys2Proof.Machine
end

section
/-!
PROOFS. RED, BCAST, LSEND and LRECV (R282, R303 to R306, R355, R356): what a group does once its ranges read, by its operands and its
scope, and what a receiver does by what has arrived.
-/
namespace Sys2Proof.Machine

/-! ## RED -/

/-- The participants of a RED with the instruction and the cursor that each stands at. -/
def redParts (s : State) (x : Ctx) (es : List Nat) : List (Nat × RedOp × Cursor × Nat) :=
  es.filterMap fun e => (redAt s x e).map fun q => (e, q)

/-- Each participant reads its own vector. -/
def redRanges (ps : List (Nat × RedOp × Cursor × Nat)) : List (Nat × Nat × Nat) :=
  ps.map fun p => (p.1, saIx p.2.2.1 p.2.2.2 p.2.1.saA, vecLen p.2.1.ty p.2.1.nv)

/-- The device's result of participants whose operands agree. -/
def redResult (o : RedOp) (ps : List (Nat × RedOp × Cursor × Nat)) (r : State) : List Int :=
  redDevice o.ty o.op (ps.map fun p =>
    (p.1, (List.range (512 * (o.nv + 1))).map (redElem o.ty (memRead r (saIx p.2.2.1 p.2.2.2 p.2.1.saA) (vecLen o.ty o.nv)))))

theorem exec_red_runs {s : State} {c : Nat} {o : RedOp} {x : Ctx} {es : List Nat} (hc : c < 4096) (hx : ctxOf s c = some x)
    (htag : tagGroup s x (.red o) true o.tag o.scope = some es) : exec (.red c o) s = .next (pump (redGroup c x o es s)) := by
  change execRed c o s = _
  simp only [execRed, hx, htag]
  exact actCfe_runs s _ _ _ (decide_eq_true hc) (by simp [ctxIs, hx, htag])

section
variable {s r : State} {c : Nat} {x : Ctx} {o : RedOp} {es : List Nat}
  (hr : groupReads c (redRanges (redParts s x es)) s = (true, r))
include hr

/-- Where the operands agree, every participant gets the device's result, or with SCOPE = run what the devices have combined it to. -/
theorem redGroup_agree {w : List Int} {t : State}
    (h : ∀ p ∈ redParts s x es, p.2.1.nv = o.nv ∧ p.2.1.op = o.op ∧ p.2.1.ty = o.ty)
    (hw : (if o.scope = 2 then combineAt c (tagKey o.tag) (redVec o.ty o.op) (redResult o (redParts s x es) r) r
      else (some (redResult o (redParts s x es) r), r)) = (some w, t)) :
    redGroup c x o es s = redWrite c (redParts s x es) (redBytes o.ty w).1 (redBytes o.ty w).2 t := by
  have hsame : ((redParts s x es).all fun p =>
      decide (p.2.1.nv = o.nv) && decide (p.2.1.op = o.op) && decide (p.2.1.ty = o.ty)) = true := by
    simpa [List.all_eq_true, and_assoc] using h
  unfold redParts redRanges redResult at *
  simp only [redGroup, hr, hsame, hw, Bool.not_true, Bool.false_eq_true, if_false]

/-- Where operands differ, every participant gets free values (log entry 68). -/
theorem redGroup_differ (h : ∃ p ∈ redParts s x es, ¬(p.2.1.nv = o.nv ∧ p.2.1.op = o.op ∧ p.2.1.ty = o.ty)) :
    redGroup c x o es s = (redParts s x es).foldl (fun t p =>
      advance c p.1 (memWrite (sa0 p.2.2.1 p.2.1.saD)
        (leBytes (vecLen p.2.1.ty p.2.1.nv) (Config.redMixed (redInput r (redParts s x es)) p.1)) t)) r := by
  have hmixed : ((redParts s x es).all fun p =>
      decide (p.2.1.nv = o.nv) && decide (p.2.1.op = o.op) && decide (p.2.1.ty = o.ty)) = false := by
    obtain ⟨p, hp, hne⟩ := h
    rw [List.all_eq_false]
    exact ⟨p, hp, by simpa [and_assoc] using hne⟩
  unfold redParts redRanges at *
  simp only [redGroup, hr, hmixed, Bool.not_true, Bool.not_false, Bool.false_eq_true, if_false, if_true]

end

/-! ## BCAST -/

/-- The participants of a BCAST with the instruction and the cursor that each stands at. -/
def bcastParts (s : State) (x : Ctx) (es : List Nat) : List (Nat × BcastOp × Cursor × Nat) :=
  es.filterMap fun e => (bcastAt s x e).map fun q => (e, q)

/-- The number of a BCAST's message between devices. -/
def bcastNum (x : Ctx) (o : BcastOp) (es : List Nat) : Nat :=
  o.tag + 256 * ((curOf x (es.headD 0)).map (sentOf · (2 ^ 16 + o.tag))).getD 0

theorem exec_bcast_runs {s : State} {c : Nat} {o : BcastOp} {x : Ctx} {es : List Nat} (hc : c < 4096) (hx : ctxOf s c = some x)
    (htag : tagGroup s x (.bcast o) false o.tag o.scope = some es) : exec (.bcast c o) s = .next (pump (bcastGroup c x o es s)) := by
  change execBcast c o s = _
  simp only [execBcast, hx, htag]
  exact actCfe_runs s _ _ _ (decide_eq_true hc) (by simp [ctxIs, hx, htag])

section
variable {s r : State} {c : Nat} {x : Ctx} {o : BcastOp} {es : List Nat} {p : Nat × BcastOp × Cursor × Nat}
  (hroot : (bcastParts s x es).find? (fun q => decide (q.1 = o.root)) = some p)
  (hr : groupReads c [(p.1, saIx p.2.2.1 p.2.2.2 p.2.1.sa, 64 * (o.len + 1))] s = (true, r))
include hroot hr

/-- Within the device the root's bytes go to the other participants. -/
theorem bcastGroup_device (h : o.scope ≠ 2 ∨ x.md = none) :
    bcastGroup c x o es s = bcastWrite c (bcastParts s x es) (some p.1)
      (memRead r (saIx p.2.2.1 p.2.2.2 p.2.1.sa) (64 * (o.len + 1))) (countSent c (es.headD 0) (2 ^ 16 + o.tag) 1 r) := by
  unfold bcastParts at *
  obtain hscope | hmd := h
  · cases hmd : x.md <;> simp [bcastGroup, hroot, hr, hscope, hmd]
  · simp [bcastGroup, hroot, hr, hmd]

/-- With SCOPE = run the root's device sends them to every other position too. -/
theorem bcastGroup_root {m : MdRun} (hscope : o.scope = 2) (hmd : x.md = some m) (hpos : m.position = o.rdev) :
    bcastGroup c x o es s = bcastWrite c (bcastParts s x es) (some p.1)
      (memRead r (saIx p.2.2.1 p.2.2.2 p.2.1.sa) (64 * (o.len + 1))) (countSent c (es.headD 0) (2 ^ 16 + o.tag) 1
        ((others m).foldl (fun t q =>
          sendRun c q 1 mkBcast (bcastNum x o es) (memRead r (saIx p.2.2.1 p.2.2.2 p.2.1.sa) (64 * (o.len + 1))) t) r)) := by
  unfold bcastParts at *
  simp [bcastGroup, bcastNum, hroot, hr, hscope, hmd, hpos]

end

/-- Another device writes what has arrived from the root's. -/
theorem bcastGroup_arrived {s : State} {c : Nat} {x : Ctx} {o : BcastOp} {es : List Nat} {m : MdRun} {b : List Byte}
    (hscope : o.scope = 2) (hmd : x.md = some m) (hpos : m.position ≠ o.rdev)
    (hgot : gotRun s m o.rdev mkBcast (bcastNum x o es) = some b) :
    bcastGroup c x o es s = bcastWrite c (bcastParts s x es) none (b.take (64 * (o.len + 1)))
      (countSent c (es.headD 0) (2 ^ 16 + o.tag) 1
        (waitAt c (tagKey o.tag) [] (dropRun m o.rdev mkBcast (bcastNum x o es) s))) := by
  unfold bcastNum at *
  simp only [bcastGroup, bcastParts, hscope, hmd, hpos, hgot, ne_eq, not_true_eq_false, decide_false, Bool.or_self, Bool.false_eq_true,
    if_false]

/-! ## LRECV -/

/-- Every frame of the range is in: the counts of the channel go on (R306). -/
theorem lrecvFrames_all {s r : State} {c i : Nat} {x y : Ctx} {u v : Cursor} {o : LrecvOp} {m : MdRun} {b : List Byte}
    (hmd : x.md = some m) (hgot : gotRun s m o.peer mkLen (o.chan + 16 * sentOf u (keyRecv o.peer o.chan)) = some b)
    (hlen : leAt b 0 4 = 64 * (o.len + 1))
    (hframes : (List.range (ceilDiv (64 * (o.len + 1)) 65536)).foldl
      (takeFrame c u.eng m o (sentOf u (keyFrames o.peer o.chan)) (saIx u i o.sa) (64 * (o.len + 1))) (true, s) = (true, r))
    (hy : ctxOf r c = some y) (hv : curOf y u.eng = some v)
    (hall : sentOf v (keyPart o.peer o.chan) = 2 ^ ceilDiv (64 * (o.len + 1)) 65536 - 1) :
    lrecvFrames c x u i o s = advance c u.eng (countSent c u.eng (keyRecv o.peer o.chan) 1
      (countSent c u.eng (keyFrames o.peer o.chan) (ceilDiv (64 * (o.len + 1)) 65536) (setSent c u.eng (keyPart o.peer o.chan) 0
        (dropRun m o.peer mkLen (o.chan + 16 * sentOf u (keyRecv o.peer o.chan)) r)))) := by
  have hover : (ctxIs r c fun x =>
      ((curOf x u.eng).map fun u => decide (sentOf u (keyPart o.peer o.chan) = 2 ^ ceilDiv (64 * (o.len + 1)) 65536 - 1)).getD false) =
      true := by
    rw [ctxIs, hy]
    simp only [hv, hall, Option.map_some, Option.getD_some, decide_true]
  simp only [lrecvFrames, lrecvFrames.lrecvOver, hmd, hgot, hlen, hframes, hover, ne_eq, not_true_eq_false, Bool.and_self, if_true,
    if_false]

theorem lrecvFrames_lengthsDiffer {s : State} {c i : Nat} {x : Ctx} {u : Cursor} {o : LrecvOp} {m : MdRun} {b : List Byte}
    (hmd : x.md = some m) (hgot : gotRun s m o.peer mkLen (o.chan + 16 * sentOf u (keyRecv o.peer o.chan)) = some b)
    (hlen : leAt b 0 4 ≠ 64 * (o.len + 1)) :
    lrecvFrames c x u i o s = lengthsDiffer c u o (o.chan + 16 * sentOf u (keyRecv o.peer o.chan)) s := by
  simp only [lrecvFrames, hmd, hgot, if_pos hlen]

/-- Settles O30: a RED by whether the operands agree, a BCAST by where the root is, a receiver by what has arrived. -/
theorem collectivesRun : Obligations.CollectivesRun := by
  unfold Obligations.CollectivesRun
  refine ⟨fun s r c x es hc hx => ⟨?red, ?bcast, ?arrived⟩, fun s r x c u => ⟨?lsend, ?lrecv, ?differ⟩⟩
  case red =>
    intro o htag ps hr
    rw [exec_red_runs hc hx htag]
    refine ⟨fun h => ⟨fun hscope => ?device, fun w t hscope hw => ?run⟩, fun h => ?mixed⟩
    case device => rw [redGroup_agree hr h (if_neg hscope)]; rfl
    case run => rw [redGroup_agree hr h ((if_pos hscope).trans hw)]; rfl
    case mixed => rw [redGroup_differ hr h]; rfl
  case bcast =>
    intro o p htag ps hroot a n hr
    rw [exec_bcast_runs hc hx htag]
    refine ⟨fun h => ?device, fun m hscope hmd hpos => ?root⟩
    case device => rw [bcastGroup_device hroot hr h]; rfl
    case root => rw [bcastGroup_root hroot hr hscope hmd hpos]; rfl
  case arrived =>
    intro o m b htag hscope hmd hpos ps num hgot
    rw [exec_bcast_runs hc hx htag, bcastGroup_arrived hscope hmd hpos hgot]
    rfl
  case lsend =>
    intro o hat a hr
    exact engAct_of_effect hat (reading_reads _ hr)
  case lrecv =>
    intro o m b y v hat hmd n num nf hgot hlen hframes hy hv hall
    exact engAct_of_effect hat (lrecvFrames_all hmd hgot hlen hframes hy hv hall)
  case differ =>
    intro o m b hat hmd hgot hlen
    exact engAct_of_effect hat (lrecvFrames_lengthsDiffer hmd hgot hlen)

end Sys2Proof.Machine
end

section
/-!
PROOFS. Links and messages (R324, R329, R330, R332, R336, R343, R376, R377): when a codeword, a flit or a
REKEY is due, and what each command of a link comes to in the state that lets it act.
-/
namespace Sys2Proof.Machine

/-! ## Flits -/

/-- A codeword is due where the stream holds no whole flit (R324). -/
theorem codewordDue_codeword {s : State} {l : Nat} {ls : List (List Nat)} (h : (linkOf s l).rxBits.length < 2048)
    (hls : lanesOk ls = true) : codewordDue s l true ls = true := by
  simp [codewordDue, h, hls]

/-- No codeword is due where the stream holds a whole flit (R324). -/
theorem codewordDue_flit {s : State} {l : Nat} (ls : List (List Nat)) (h : 2048 ≤ (linkOf s l).rxBits.length) :
    codewordDue s l false ls = true := by
  simp [codewordDue, h]

/-- The guard of what a link does only in VERIFY or UP. -/
theorem verifyOrUp {s : State} {l : Nat} (h : (linkOf s l).st = 2 ∨ (linkOf s l).st = 3) :
    (decide ((linkOf s l).st = 2) || decide ((linkOf s l).st = 3)) = true := by
  simpa using h

section
variable {s : State} {l : Nat} (hl : l < 16)
include hl

theorem exec_flitReceive_runs {came : Bool} {ls : List (List Nat)} (hst : (linkOf s l).st = 2 ∨ (linkOf s l).st = 3)
    (hdue : codewordDue s l came ls = true) :
    exec (.flitReceive l came ls) s = .next (pump (takeFlit l (if came then takeCodeword l ls s else s))) :=
  actCfe_runs s _ _ _ (decide_eq_true hl) (Bool.and_eq_true_iff.2 ⟨hdue, verifyOrUp hst⟩)

theorem exec_replayTimeout_runs (hdue : replayDue s l = true) :
    exec (.replayTimeout l) s = .next (if replayOut s l then linkDown l 5 s else resendAll l s) :=
  act_runs s _ _ _ (decide_eq_true hl) hdue

/-! ## Training (R332, R377) -/

theorem exec_linkTrainStart_runs (hst : (linkOf s l).st = 0) (henabled : linkEnabled s l = true) (hdown : (linkOf s l).downAt ≤ s.now) :
    exec (.linkTrainStart l) s = .next (if lacksKey s l then linkFails l 4 s else beginTraining l s) :=
  act_runs s _ _ _ (decide_eq_true hl) (by simp [hst, henabled, hdown])

theorem exec_linkTrainFail_training (hst : (linkOf s l).st = 1) :
    exec (.linkTrainFail l) s = .next (updLink l (fun k => linkFresh k 0 2 (s.now + 100000000) s.now) s) := by
  change execLinkTrainFail l s = _
  rw [execLinkTrainFail, if_pos hst]
  exact act_runs s _ _ _ (decide_eq_true hl) (by simp [hst])

theorem exec_linkTrainFail_verify (hst : (linkOf s l).st = 2) (hover : (linkOf s l).since + 1000000 ≤ s.now) :
    exec (.linkTrainFail l) s = .next (verifyFails l s) := by
  have htraining : ¬(linkOf s l).st = 1 := by omega
  change execLinkTrainFail l s = _
  rw [execLinkTrainFail, if_neg htraining]
  exact act_runs s _ _ _ (decide_eq_true hl) (by simp [hst, hover])

end

/-! ## REKEY and MSG_ACK_TIMEOUT -/

/-- A REKEY is due with the peer's initial epoch in VERIFY, and with the next epoch when the link is UP (R376, R574). -/
theorem rekeyDue_of {s : State} {l e : Nat}
    (h : (linkOf s l).st = 2 ∧ e < 2 ^ 32 ∨ linkUp s l = true ∧ e = ((linkOf s l).rxEpoch + 1) % 2 ^ 32) : rekeyDue s l e = true := by
  obtain ⟨hst, he⟩ | ⟨hup, he⟩ := h
  · exact Bool.or_eq_true_iff.2 (.inl (Bool.and_eq_true_iff.2 ⟨decide_eq_true hst, decide_eq_true he⟩))
  · exact Bool.or_eq_true_iff.2 (.inr (Bool.and_eq_true_iff.2 ⟨hup, decide_eq_true he⟩))

theorem exec_msgAckTimeout_runs {s : State} {d cls msg : Nat} {o : OutMsg} (ho : outOf s d cls msg = some o)
    (hlate : ackLate s o = true) : exec (.msgAckTimeout d cls msg) s = .next (pump (resendMsg o s)) := by
  change execMsgAckTimeout d cls msg s = _
  rw [execMsgAckTimeout, ho]
  exact actCfe_runs s _ _ _ rfl hlate

/-- Settles O41: each command of a link acts by its state, and the replay and the training by whether a limit or a missing key ends
them. -/
theorem linksRun : Obligations.LinksRun := by
  unfold Obligations.LinksRun
  refine ⟨fun s l hl => ⟨fun hst => ⟨?send, fun ls hbits hls => ?codeword, fun hbits ls => ?flit, ?lockLoss⟩, ?replays, ?replayEnds,
    ?trains, ?noKey, ?locks, ?trainFails, ?verifyEnds, ?discovers, ?rekeys⟩, fun s d cls msg => ⟨?acked, ?late⟩⟩
  case send => exact act_runs s _ _ _ (decide_eq_true hl) (verifyOrUp hst)
  case codeword => rw [exec_flitReceive_runs hl hst (codewordDue_codeword hbits hls), if_pos rfl]
  case flit => rw [exec_flitReceive_runs hl hst (codewordDue_flit ls hbits), if_neg Bool.false_ne_true]
  case lockLoss => exact act_runs s _ _ _ (decide_eq_true hl) (verifyOrUp hst)
  case replays =>
    intro hdue hout
    rw [exec_replayTimeout_runs hl hdue, hout, if_neg Bool.false_ne_true]
  case replayEnds =>
    intro hdue hout
    rw [exec_replayTimeout_runs hl hdue, if_pos hout]
  case trains =>
    intro hst henabled hdown hkey
    rw [exec_linkTrainStart_runs hl hst henabled hdown, hkey, if_neg Bool.false_ne_true]
  case noKey =>
    intro hst henabled hdown hkey
    rw [exec_linkTrainStart_runs hl hst henabled hdown, if_pos hkey]
  case locks => exact fun hst hepoch => act_runs s _ _ _ (decide_eq_true hl) (by simp [hst, hepoch])
  case trainFails => exact exec_linkTrainFail_training hl
  case verifyEnds => exact exec_linkTrainFail_verify hl
  case discovers => exact fun b hst => act_runs s _ _ _ (decide_eq_true hl) (decide_eq_true hst)
  case rekeys => exact fun e h => act_runs s _ _ _ (decide_eq_true hl) (rekeyDue_of h)
  case acked => exact fun hd => actCfe_runs s _ _ _ rfl (decide_eq_true hd)
  case late => exact fun o => exec_msgAckTimeout_runs

end Sys2Proof.Machine
end

section
/-!
PROOFS. Runs over devices (R353, R357, R359, R366): what a message of a position comes to, by whether that position is lost, and the
times and barriers that a member of a run acts on.
-/
namespace Sys2Proof.Machine

/-! ## Messages of a position -/

section
variable {s : State} {run p : Nat} {x : Ctx} {m : MdRun} (hx : runCtx s run = some x) (hm : x.md = some m)
include hx hm

/-- What comes from a position that is lost here is late, whatever it is (R359). -/
theorem fromPeer_lost (f : Nat → State → State) (hp : p < m.devices.length) (hlost : m.lost = some p) :
    fromPeer run p f s = lateMessage x.id s := by
  simp only [fromPeer, hx, hm, if_neg (Nat.not_le.2 hp), if_pos hlost]

/-- What comes from a position that is not lost restarts its timer before it has its own effect (R357). -/
theorem fromPeer_heard (f : Nat → State → State) (hp : p < m.devices.length) (hlost : m.lost ≠ some p) :
    fromPeer run p f s = f x.id (heardFrom x.id p s) := by
  simp only [fromPeer, hx, hm, if_neg (Nat.not_le.2 hp), if_neg hlost]

end

section
variable {s : State} {n : Nat} (run p : Nat) (hn : n < 2 ^ 64)
include hn

theorem exec_progress_runs : exec (.progress run p n) s = .next (pump (fromPeer run p (fun _ s => s) s)) :=
  actCfe_runs s _ _ _ rfl (decide_eq_true hn)

theorem exec_epoch_runs :
    exec (.epoch run p n) s =
      .next (pump (fromPeer run p (fun c s => updMd c (fun m => { m with epochs := m.epochs ++ [(p, n)] }) s) s)) :=
  actCfe_runs s _ _ _ rfl (decide_eq_true hn)

theorem exec_lost_runs (d : Nat) : exec (.lost run p d n) s = .next (pump (fromPeer run p (fun c s => noticeLost c d s) s)) :=
  actCfe_runs s _ _ _ rfl (decide_eq_true hn)

end

/-! ## Times -/

section
variable {s : State} {c : Nat} {x : Ctx} {m : MdRun} (hc : c < 4096) (hx : ctxOf s c = some x)
include hc hx

theorem exec_peerTimerExpire_runs {p : Nat} (hdue : peerDue s p x = true) :
    exec (.peerTimerExpire c p) s = .next (pump (peerMissed c p s)) :=
  actCfe_runs s _ _ _ (decide_eq_true hc) (ctxIs_of s c _ x ⟨hc, hx, hdue⟩)

variable (hrun : inRun x = true) (hm : x.md = some m)
include hrun hm

theorem exec_progressSend_runs (hdue : m.lastProgress + 500000 ≤ s.now) :
    exec (.progressSend c) s = .next (pump (sendProgress c s)) :=
  actCfe_runs s _ _ _ (decide_eq_true hc) (ctxIs_of s c _ x ⟨hc, hx, by simp [hrun, hm, hdue]⟩)

/-- The coordinator of a loss collects for 100 µs from the first notice (R366). -/
theorem exec_lostCollectEnd_runs {t : Nat} (hfail : m.failover = none) (hfrom : m.collectFrom = some t) (hover : t + 100000 ≤ s.now) :
    exec (.lostCollectEnd c) s = .next (pump (collectEnd c s)) :=
  actCfe_runs s _ _ _ (decide_eq_true hc) (ctxIs_of s c _ x ⟨hc, hx, by simp [hrun, hm, hfail, hfrom, hover]⟩)

end

/-- Settles O42: a message acts by whether its position is lost, a timer by its time, and a barrier by what has arrived. -/
theorem peersRun : Obligations.PeersRun := by
  unfold Obligations.PeersRun
  intro s id p n x m hx hm hp hn
  refine ⟨fun hlost => ⟨?lateProgress, ?lateEpoch, fun d => ?lateLost⟩, fun hlost => ⟨?progress, ?epoch, fun d => ?lost⟩,
    fun hc hctx hrun => ⟨?send, fun q => ?missed, fun t => ?collected⟩, ?barrier⟩
  case lateProgress => rw [exec_progress_runs id p hn, fromPeer_lost hx hm _ hp hlost]
  case lateEpoch => rw [exec_epoch_runs id p hn, fromPeer_lost hx hm _ hp hlost]
  case lateLost => rw [exec_lost_runs id p hn, fromPeer_lost hx hm _ hp hlost]
  case progress => rw [exec_progress_runs id p hn, fromPeer_heard hx hm _ hp hlost]
  case epoch => rw [exec_epoch_runs id p hn, fromPeer_heard hx hm _ hp hlost]
  case lost => rw [exec_lost_runs id p hn, fromPeer_heard hx hm _ hp hlost]
  case send => exact exec_progressSend_runs hc hctx hrun hm
  case missed => exact exec_peerTimerExpire_runs hc hctx
  case collected => exact exec_lostCollectEnd_runs hc hctx hrun hm
  case barrier =>
    intro y us t hy
    have hc : x.id < 4096 := hy.1
    exact actCfe_runs s _ _ _ (decide_eq_true hc) (ctxIs_of t x.id _ y hy)

end Sys2Proof.Machine
end

section
/-!
PROOFS. Claims on a spare and fail-over (R351, R363, R366 to R369, R372): the replies to a probe of an open claim, and who acts at the end of
a copy.
-/
namespace Sys2Proof.Machine

/-! ## An open claim -/

section
variable {s : State} {run : Nat} {k : Claim} (hk : s.net.claim = some k) (hrun : k.runId = run)
include hk hrun

theorem claimOf_claim : claimOf s run = some k := by
  simp only [claimOf, hk, if_pos hrun]

variable (hwon : k.won = false)
include hwon

theorem claimOpen_claim : claimOpen s run = true := by
  simp [claimOpen, claimOf_claim hk hrun, hwon]

/-- A reply to the probe of an open claim fails it with the in-run flag within 100 µs, and does nothing else (R367). -/
theorem exec_probeReply_runs (inRun : Bool) :
    exec (.probeReply run inRun) s = .next (pump
      (if inRun ∧ s.now ≤ k.probedAt + 100000 then claimFails k.from_ run k.lostPos s else s)) := by
  change execProbeReply run inRun s = _
  rw [execProbeReply, probeReplied, claimOf_claim hk hrun]
  exact actCfe_runs s _ _ _ rfl (claimOpen_claim hk hrun hwon)

theorem exec_probeTimeout_runs (hover : k.probedAt + 100000 ≤ s.now) :
    exec (.probeTimeout run) s = .next (pump (sendCtrl k.from_ (ctFailover run k.lostPos (selfId s) 0)
      (updNet (fun n => { n with claim := some { k with won := true } }) s))) := by
  change execProbeTimeout run s = _
  rw [execProbeTimeout, claimWon, claimOf_claim hk hrun, claimOpen_claim hk hrun hwon]
  exact actCfe_runs s _ _ _ rfl (decide_eq_true hover)

end

/-! ## The end of a copy (R368) -/

theorem exec_failoverCopyDone_spare {s : State} {c : Nat} {k : Claim} (hc : c < 4096) (hdue : installDue s c = true)
    (hk : s.net.claim = some k) : exec (.failoverCopyDone c) s = .next (pump (spareInstall c k s)) := by
  change execFailoverCopyDone c s = _
  rw [execFailoverCopyDone, if_pos hdue, hk]
  exact actCfe_runs s _ _ _ (decide_eq_true hc) (Bool.or_eq_true_iff.2 (.inl hdue))

theorem exec_failoverCopyDone_survivor {s : State} {c : Nat} {x : Ctx} (hx : ctxMeets s c (restoreDue s) x)
    (hspare : installDue s c = false) : exec (.failoverCopyDone c) s = .next (pump (survivorRestore c s)) := by
  have hc : c < 4096 := hx.1
  change execFailoverCopyDone c s = _
  rw [execFailoverCopyDone, hspare, if_neg Bool.false_ne_true]
  exact actCfe_runs s _ _ _ (decide_eq_true hc) (Bool.or_eq_true_iff.2 (.inr (ctxIs_of s c _ x hx)))

/-- Settles O43: a reply to a probe acts by its flag and its time, the end of a copy by whether a spare or a survivor is due, and the
others by their guard. -/
theorem failoverRuns : Obligations.FailoverRuns := by
  unfold Obligations.FailoverRuns
  intro s src id d
  refine ⟨fun hsrc b => ?start, fun dev q hrole => ?claim, fun l hl hup => ?probe, fun k hk hrun hwon => ⟨fun hin => ?fails,
    fun hlate => ?late, ?notInRun, ?wins⟩, fun sp k hd => ?failover, fun c x => ?survivor, fun c k => ?spare, ?rebuilt⟩
  case start => exact actCfe_runs s (startArrives src b s) _ _ rfl (decide_eq_true hsrc)
  case claim => exact actCfe_runs s _ _ _ rfl (decide_eq_true hrole)
  case probe => exact actCfe_runs s _ _ _ (decide_eq_true hl) hup
  case fails => rw [exec_probeReply_runs hk hrun hwon, if_pos ⟨rfl, hin⟩]
  case late => rw [exec_probeReply_runs hk hrun hwon, if_neg fun h => Nat.not_le.2 hlate h.2]
  case notInRun => rw [exec_probeReply_runs hk hrun hwon, if_neg fun h => Bool.false_ne_true h.1]
  case wins => exact exec_probeTimeout_runs hk hrun hwon
  case failover => exact actCfe_runs s _ _ _ rfl (decide_eq_true hd)
  case survivor => exact exec_failoverCopyDone_survivor
  case spare => exact exec_failoverCopyDone_spare
  case rebuilt => exact fun hdue => actCfe_runs s _ _ _ rfl hdue

end Sys2Proof.Machine
end

section
/-!
PROOFS. Audits and signing windows (R400, R402, R411, R414, R418): what each command comes to in the state that lets it act, and what a
write of RING_RD stores.
-/
namespace Sys2Proof.Machine

/-! ## Audits -/

/-- The evaluator is free, and the next audit of the backlog may issue (R402). -/
theorem exec_auditStart_runs {s : State} {j : AuditJob} (hidle : s.auditRun = none) (hnext : nextAudit s.audits = some j)
    (hissue : issueOff s = false) : exec .auditStart s = .next (pump (auditStart j s)) := by
  change execAuditStart s = _
  rw [execAuditStart, hnext]
  exact actCfe_runs s _ _ _ rfl (by simp [hidle, hissue])

theorem exec_auditFinish_runs {s : State} {j : AuditJob} (d1 d2 : Int) (hrun : s.auditRun = some j) :
    exec (.auditFinish d1 d2) s = .next (pump (auditSteps d1 d2 s)) :=
  actCfe_runs s _ _ _ rfl (by rw [hrun]; rfl)

/-! ## Windows -/

/-- The open window's time is over, and fewer than four windows wait for their signature (R411, R415). -/
theorem windowCloses_of {s : State} {w : Window} (hopen : s.cert.current = some w) (hdue : windowDue s w = true)
    (hroom : s.cert.closed.length < 4) : windowCloses s = true := by
  simp [windowCloses, hopen, hdue, hroom]

/-- The oldest closed window leaves the closed ones with its record signed, and the open one closes where it waited for that (R411). -/
theorem signWindow_oldest {s : State} {w : Window} {rest : List Window} (hclosed : s.cert.closed = w :: rest) :
    signWindow s = closePast
      (updCert (fun u => { u with closed := rest, signed := u.signed ++ [(windowRecord s w, w.certs)] }) s) := by
  rw [signWindow, hclosed]

theorem exec_windowSigned_runs {s : State} (hready : signReady s = true) (hkeys : s.sec.tampered = false) :
    exec .windowSigned s = .next (pump (signWindow s)) :=
  actCfe_runs s _ _ _ rfl (by simp [hready, hkeys])

/-! ## The ring (R418) -/

/-- How many slots of the ring lie between RING_RD and a value. -/
def ringAhead (s : State) (v : Nat) : Nat := (v + 2 ^ 32 - reg s pgCert 0x054) % 2 ^ 32

theorem ringRdWrite_eq (v : Nat) (s : State) : ringRdWrite v s =
    pump (setReg pgCert 0x054 (if ringAhead s (reg s pgCert 0x058) < ringAhead s v then reg s pgCert 0x058 else v) s) := rfl

/-- RING_RD takes a value that is no further ahead than RING_WR. -/
theorem ringRdWrite_upTo {s : State} {v : Nat} (h : ringAhead s v ≤ ringAhead s (reg s pgCert 0x058)) :
    ringRdWrite v s = pump (setReg pgCert 0x054 v s) := by
  rw [ringRdWrite_eq, if_neg (Nat.not_lt.2 h)]

/-- RING_RD takes RING_WR for a value further ahead than it. -/
theorem ringRdWrite_beyond {s : State} {v : Nat} (h : ringAhead s (reg s pgCert 0x058) < ringAhead s v) :
    ringRdWrite v s = pump (setReg pgCert 0x054 (reg s pgCert 0x058) s) := by
  rw [ringRdWrite_eq, if_pos h]

/-- No transaction stages RING_RD: a write that is let through acts at once. -/
theorem exec_certRingRdWrite_runs {s : State} {a : Agent} (v : Nat) (hacc : accepts s a pgCert) :
    exec (.certRingRdWrite a v) s = .next (ringRdWrite v s) := by
  have hown : ownWrite a (tyOf pgCert) pgCert 0x054 v s = ringRdWrite v s := rfl
  change execCertRingRdWrite a v s = _
  rw [execCertRingRdWrite, writeBy_own a pgCert 0x054 v s hacc (by decide) (by decide), hown, touched_other a pgCert _ (by decide)]

/-- Settles O40: audits and windows act by their guards, and RING_RD by whether the value lies beyond RING_WR. -/
theorem auditsAndWindowsRun : Obligations.AuditsAndWindowsRun := by
  unfold Obligations.AuditsAndWindowsRun
  intro s
  refine ⟨fun j => ?starts, fun j d1 d2 => ?finishes, fun w hopen hdue hroom => ?closes, fun w rest hclosed hready hkeys => ?signed,
    fun a v hacc hupTo => ?upTo, fun a v hacc hbeyond => ?beyond⟩
  case starts => exact exec_auditStart_runs
  case finishes => exact exec_auditFinish_runs d1 d2
  case closes => exact actCfe_runs s _ _ _ rfl (windowCloses_of hopen hdue hroom)
  case signed => rw [exec_windowSigned_runs hready hkeys, signWindow_oldest hclosed]
  case upTo => rw [exec_certRingRdWrite_runs v hacc, ringRdWrite_upTo hupTo]
  case beyond => rw [exec_certRingRdWrite_runs v hacc, ringRdWrite_beyond hbeyond]

end Sys2Proof.Machine
end

section
/-!
PROOFS. Semaphores (R450), and what a final status keeps out (R449, R473).
-/
namespace Sys2Proof.Machine

/-! ## Semaphores -/

@[simp] theorem sems_raise (page bit : Nat) (s : State) : (raise page bit s).sems = s.sems := by rw [raise_only]

@[simp] theorem sems_bump (page off : Nat) (s : State) : (bump page off s).sems = s.sems := by rw [bump_only]

theorem semOf_congr {s t : State} (h : s.sems = t.sems) (n : Nat) : semOf s n = semOf t n := by rw [semOf, h, semOf]

theorem semOf_semSet (n v m : Nat) (s : State) : semOf (semSet n v s) m = if m = n then v % 2 ^ 64 else semOf s m := by
  simp only [semOf, sems_semSet, spGet_set]
  split <;> simp

/-- An ADD leaves the sum where it fits, and 2⁶⁴ − 1 above (R450). -/
theorem semOf_semAdd (n v m : Nat) (s : State) (hv : v < 2 ^ 64) :
    semOf (semAdd n v s) m = if m = n then min (2 ^ 64 - 1) (semOf s n + v) else semOf s m := by
  unfold semAdd
  rw [Nat.mod_eq_of_lt hv]
  dsimp only
  split
  next hfits =>
    rw [semOf_semSet, Nat.mod_eq_of_lt hfits, Nat.min_eq_right (show semOf s n + v ≤ 2 ^ 64 - 1 by omega)]
  next habove =>
    have hmin : min (2 ^ 64 - 1) (semOf s n + v) = (2 ^ 64 - 1) % 2 ^ 64 := by omega
    rw [semOf_congr (t := semSet n (2 ^ 64 - 1) s) (by rw [sems_raise, sems_bump]), semOf_semSet, hmin]

/-- Settles O19: SET stores its value, ADD the sum as far as it fits, and each stores at one semaphore. -/
theorem semaphoreOperations : Obligations.SemaphoreOperations := by
  unfold Obligations.SemaphoreOperations
  intro s n v m hv
  refine ⟨?set, ?add, fun b hm => ?other⟩
  case set => rw [semDo, if_pos rfl, semOf_semSet, if_pos rfl, Nat.mod_eq_of_lt hv]
  case add => rw [semDo, if_neg Bool.false_ne_true, semOf_semAdd n v n s hv, if_pos rfl]
  case other =>
    cases b with
    | true => rw [semDo, if_pos rfl, semOf_semSet, if_neg hm]
    | false => rw [semDo, if_neg Bool.false_ne_true, semOf_semAdd n v m s hv, if_neg hm]

/-! ## A final status -/

section
variable {s : State} {c : Nat} {x : Ctx} (hx : ctxOf s c = some x) (hfinal : x.status.isSome = true)
include hx hfinal

theorem finish_final : finish c s = s := by
  simp only [finish, hx, if_pos hfinal]

/-- A cause that comes after the status is final only counts in LATE_CAUSES (R449). -/
theorem addCause_final (k : Cause) : addCause c k s = bump pgCfe 0x078 s := by
  simp only [addCause, hx, if_pos hfinal]

/-- The context stays as it is. -/
theorem ctxOf_endWith_final (k : Cause) : ctxOf (endWith c k s) c = some x := by
  have hlate : ctxOf (bump pgCfe 0x078 s) c = some x := by rw [ctxOf, bump_ctxs, ← ctxOf, hx]
  rw [endWith, addCause_final hx hfinal, finish_final hlate hfinal, hlate]

end

/-- Settles O34: finishing looks at the status first, and a later cause changes no context. -/
theorem statusIsFinal : Obligations.StatusIsFinal := by
  unfold Obligations.StatusIsFinal
  intro s c x k hx hfinal
  exact ⟨finish_final hx hfinal, x, ctxOf_endWith_final hx hfinal k, rfl⟩

end Sys2Proof.Machine
end

section
/-!
PROOFS. What follows a command where nothing completes by itself (R440, R461): the pump moves queues, registers and latches only.
-/
namespace Sys2Proof.Machine

/-- An iteration keeps what each of its steps keeps. -/
theorem iter_keeps {α γ : Type} (g : α → γ) (f : Nat → α → α) (n : Nat) (a : α) (h : ∀ k a, g (f k a) = g a) :
    g (iter f n a) = g a := by
  induction n with
  | zero => rfl
  | succ n ih => rw [iter, h, ih]

/-! ## The stores that hold data -/

/-- Memory, semaphores, stationary tiles, accumulators and resident programs, and the time base. -/
def dataOf (s : State) : Sparse Byte × Sparse DWord × Sparse (Option Tile) × Sparse Word × List Prog × Nat :=
  (s.mem, s.sems, s.tiles, s.acc, s.progs, s.now)

theorem dataOf_eq_iff (s t : State) :
    dataOf s = dataOf t ↔
      s.mem = t.mem ∧ s.sems = t.sems ∧ s.tiles = t.tiles ∧ s.acc = t.acc ∧ s.progs = t.progs ∧ s.now = t.now := by
  simp [dataOf]

/-! Each part of the pump leaves them alone, but for those that end an entry or write a signed record. -/

@[simp] theorem dataOf_setReg (p o v : Nat) (s : State) : dataOf (setReg p o v s) = dataOf s := rfl
@[simp] theorem dataOf_emit (o : BusOut) (s : State) : dataOf (emit o s) = dataOf s := rfl
@[simp] theorem dataOf_updQueue (q : Nat) (f : Queue → Queue) (s : State) : dataOf (updQueue q f s) = dataOf s := rfl
@[simp] theorem dataOf_latchAll (s : State) : dataOf (latchAll s) = dataOf s := rfl
@[simp] theorem dataOf_trackStall (s : State) : dataOf (trackStall s) = dataOf s := rfl
@[simp] theorem dataOf_raise (page bit : Nat) (s : State) : dataOf (raise page bit s) = dataOf s := by rw [raise_only]; rfl

@[simp] theorem dataOf_freeRec (r : RecW) (s : State) : dataOf (freeRec r s) = dataOf s := by
  unfold freeRec
  split <;> rfl

@[simp] theorem dataOf_putRecord (q : Nat) (r : RecW) (s : State) : dataOf (putRecord q r s) = dataOf s := by simp [putRecord]

@[simp] theorem dataOf_bufferRecord (q : Nat) (r : RecW) (s : State) : dataOf (bufferRecord q r s) = dataOf s := by
  unfold bufferRecord
  dsimp only
  rw [apply_ite dataOf, dataOf_raise, ite_self, dataOf_freeRec]
  rfl

@[simp] theorem dataOf_serveOne (q : Nat) (s : State) : dataOf (serveOne q s) = dataOf s := by
  unfold serveOne
  dsimp only
  (repeat' split) <;> simp

theorem dataOf_serveQueue (s : State) (q : Nat) : dataOf (serveQueue s q) = dataOf s := by
  unfold serveQueue
  exact iter_keeps dataOf _ _ s fun _ s => dataOf_serveOne q s

theorem dataOf_replayOver (s : State) (q : Nat) : dataOf (replayOver s q) = dataOf s := by
  unfold replayOver
  dsimp only
  split <;> simp

theorem dataOf_ringChange (s : State) : dataOf (ringChange s) = dataOf s := by
  unfold ringChange
  split <;> rfl

/-! ## A calm state -/

theorem calm_iff (s : State) :
    calm s = true ↔
      (∀ x ∈ s.ctxs, recordReady x = false ∧ bufferOver x = false ∧ (dType x = 5 → x.life ≠ .finishing)) ∧ s.cert.signed = [] := by
  simp only [calm, Bool.and_eq_true, List.all_eq_true, Bool.not_eq_true', Bool.and_eq_false_iff, decide_eq_false_iff_not,
    List.isEmpty_iff, and_assoc, Decidable.imp_iff_not_or, ne_eq]

/-- A latch changes none of what makes an entry complete. -/
theorem calm_latchAll (s : State) : calm (latchAll s) = calm s := by
  unfold calm latchAll
  simp only [List.all_map, Function.comp_def]
  congr 2
  funext x
  split <;> rfl

theorem calm_ringChange (s : State) : calm (ringChange s) = calm s := by
  unfold ringChange
  split <;> rfl

theorem pushRecords_calm {s : State} (h : calm s = true) : pushRecords s = s := by
  obtain ⟨hctxs, -⟩ := (calm_iff s).1 h
  have hnone : s.ctxs.filter recordReady = [] := by simp +contextual [hctxs]
  rw [pushRecords, hnone, List.foldl_nil]

theorem bufferDone_calm {s : State} (h : calm s = true) : bufferDone s = s := by
  obtain ⟨hctxs, -⟩ := (calm_iff s).1 h
  have hnone : s.ctxs.filter bufferOver = [] := by simp +contextual [hctxs]
  rw [bufferDone, hnone, List.foldl_nil]

theorem deregDone_calm {s : State} (h : calm s = true) : deregDone s = s := by
  obtain ⟨hctxs, -⟩ := (calm_iff s).1 h
  have hnone : (s.ctxs.filter fun x =>
      decide (dType x = 5) && decide (x.life = .finishing) && !releaseLeft s x.ring (dProgram x)) = [] := by
    rw [List.filter_eq_nil_iff]
    intro x hx hends
    obtain ⟨-, -, hdereg⟩ := hctxs x hx
    simp only [Bool.and_eq_true, decide_eq_true_eq] at hends
    exact hdereg hends.1.1 hends.1.2
  rw [deregDone, hnone, List.foldl_nil]

theorem ringPump_calm {s : State} (h : calm s = true) : ringPump s = ringChange s := by
  obtain ⟨-, hsigned⟩ := (calm_iff s).1 h
  rw [ringPump, hsigned]
  rfl

/-- In a calm state the pump only changes the ring, serves the queues and follows the waits. -/
theorem pump_calm {s : State} (h : calm s = true) :
    pump s = trackStall (latchAll ((List.range 6).foldl replayOver ((List.range 6).foldl serveQueue (ringChange (latchAll s))))) := by
  have hlatched : calm (latchAll s) = true := by rw [calm_latchAll, h]
  have hring : calm (ringChange (latchAll s)) = true := by rw [calm_ringChange, hlatched]
  simp only [pump, ringPump_calm hlatched, pushRecords_calm hring, bufferDone_calm hring, deregDone_calm hring]

/-- Settles O13: what is left of the pump in a calm state keeps every store of data. -/
theorem calmPumpKeeps : Obligations.CalmPumpKeeps := by
  unfold Obligations.CalmPumpKeeps
  intro s hcalm
  refine (dataOf_eq_iff (pump s) s).1 ?_
  rw [pump_calm hcalm, dataOf_trackStall, dataOf_latchAll, foldl_keeps dataOf replayOver _ _ dataOf_replayOver,
    foldl_keeps dataOf serveQueue _ _ dataOf_serveQueue, dataOf_ringChange, dataOf_latchAll]

end Sys2Proof.Machine
end

section
/-!
PROOFS. What resets leave of the command front end (R424), and the invariants of the reset state (R517, R549, R544).
-/
namespace Sys2Proof.Machine

/-! ## Registers after a reset -/

/-- A list of values over a register file leaves every other register. -/
theorem spGet_regsWith (l : List (Nat × Nat)) (m : Sparse Word) (k : Nat) (h : ∀ e ∈ l, e.1 ≠ k) :
    spGet regReset k (regsWith l m) = spGet regReset k m := by
  unfold regsWith
  induction l generalizing m with
  | nil => rfl
  | cons e l ih =>
    obtain ⟨he, hl⟩ := List.forall_mem_cons.1 h
    rw [List.foldl_cons, ih _ hl, spGet_set, if_neg he.symm]

/-- The values that boot sets stand in the pages from ENG on, at three offsets. -/
theorem bootRegs_place : ∀ e ∈ bootRegs, 
    0x010 ≤ e.1 / 0x1000 ∧ (e.1 % 0x1000 = 0x040 ∨ e.1 % 0x1000 = 0x060 ∨ e.1 % 0x1000 = 0x400) := by decide

/-- A register that boot does not set has its reset value in the reset state. -/
theorem reg_reset (page off : Nat) (h : ∀ e ∈ bootRegs, e.1 ≠ rk page off) :
    reg State.reset page off = (regReset (rk page off)).toNat :=
  congrArg BitVec.toNat (spGet_regsWith bootRegs [] (rk page off) h)

/-- The page and the offset of a register's key, as the reset values take them out of it. -/
theorem rk_div (page off : Nat) (h : off < 0x1000) : rk page off / 0x1000 = page := pageOf_rk page off h

theorem rk_mod (page off : Nat) (h : off < 0x1000) : rk page off % 0x1000 = off := regOf_rk page off h

/-! ## The state that R424 asks for -/

/-- What R424 says of the CFE and the queues, as the model stores it: their registers have their reset values, and the front end's
stores are empty. -/
structure FrontReset (t : State) : Prop where
  regs : ∀ page off, 0x002 ≤ page → page < 0x009 → off < 0x1000 → reg t page off = (regReset (rk page off)).toNat
  sems : t.sems = []
  progs : t.progs = []
  bells : t.bells = List.replicate 2 ⟨[], none⟩
  undelivered : t.undelivered = []

theorem frontReset_reset : FrontReset State.reset where
  regs page off _ hpage hoff := reg_reset page off fun e he heq => by
    obtain ⟨hpg, -⟩ := bootRegs_place e he
    rw [heq, rk_div page off hoff] at hpg
    omega
  sems := rfl
  progs := rfl
  bells := rfl
  undelivered := rfl

theorem frontReset_coldReset (ph : BootPhase) (s : State) : FrontReset (coldReset ph s) where
  regs _ _ _ _ _ := rfl
  sems := rfl
  progs := rfl
  bells := rfl
  undelivered := rfl

/-- The pages of the CFE and the queues are among those that a warm reset resets, and hold no repair registers. -/
theorem warmPage_front : ∀ p : Fin 0x009, 0x002 ≤ p.1 → warmPage p = true ∧ tyOf p ≠ .eng := by decide

/-- A warm reset keeps no register of the CFE and the queues. -/
theorem warmKeeps_front (page off : Nat) (hlo : 0x002 ≤ page) (hhi : page < 0x009) (hoff : off < 0x1000) :
    warmKeeps (rk page off) = false := by
  obtain ⟨hreset, hty⟩ := warmPage_front ⟨page, hhi⟩ hlo
  have heng : decide (tyOf page = .eng) = false := decide_eq_false hty
  simp only [warmKeeps, rk_div page off hoff, hreset, heng, Bool.not_true, Bool.false_and, Bool.or_self, Bool.and_false]

theorem frontReset_warmBase (s : State) : FrontReset (warmBase s) where
  regs page off hlo hhi hoff :=
    congrArg BitVec.toNat (spGet_filter_out regReset (rk page off) _ s.regs fun _ => warmKeeps_front page off hlo hhi hoff)
  sems := rfl
  progs := rfl
  bells := rfl
  undelivered := rfl

/-- A register of a page below the links is left alone, and so is every store of the front end. -/
theorem FrontReset.setReg {t : State} (h : FrontReset t) (page off v : Nat) (hpage : 0x009 ≤ page) (hoff : off < 0x1000) :
    FrontReset (setReg page off v t) where
  regs p o hlo hhi ho := by
    have hne : rk p o ≠ rk page off := fun heq => by
      have := (rk_inj p page o off ho hoff heq).1
      omega
    rw [reg_setReg_other page off p o v t hne, h.regs p o hlo hhi ho]
  sems := h.sems
  progs := h.progs
  bells := h.bells
  undelivered := h.undelivered

/-- The links come up from the map: their LINK_CFG is set, or their state. -/
theorem FrontReset.bootLinks {t : State} (h : FrontReset t) : FrontReset (bootLinks t) := by
  unfold Machine.bootLinks
  dsimp only
  split
  · refine List.foldlRecOn (motive := FrontReset) (List.range 16) _ h fun u hu l _ => ?_
    exact hu.setReg (pgLink l) 0x040 _ (by unfold pgLink; omega) (by decide)
  · exact ⟨h.regs, h.sems, h.progs, h.bells, h.undelivered⟩

theorem frontReset_warmReset (warm : Bool) (s : State) : FrontReset (warmReset warm s) := by
  have h := frontReset_warmBase s
  exact FrontReset.bootLinks ⟨h.regs, h.sems, h.progs, h.bells, h.undelivered⟩

/-! ## R424 -/

/-- A queue's registers that R424 speaks of reset to 0. -/
theorem regReset_queue : ∀ q : Fin 6,
    regReset (rk (pgQue q) oCtrl) = 0 ∧ regReset (rk (pgQue q) 0x070) = 0 ∧ regReset (rk (pgQue q) 0x060) = 0 ∧
      regReset (rk (pgQue q) 0x05C) = 0 := by decide

section
variable {t : State} (h : FrontReset t)
include h

theorem FrontReset.devState : devState t = 0 := by
  rw [Machine.devState, h.regs pgCfe 0x040 (by decide) (by decide) (by decide)]
  decide

theorem FrontReset.queue (q : Nat) (hq : q < 6) : qEnabled t q = false ∧ qState t q = 0 ∧ qHead t q = 0 ∧ qTail t q = 0 := by
  have hreg (off : Nat) (hoff : off < 0x1000) := h.regs (pgQue q) off (by unfold pgQue; omega) (by unfold pgQue; omega) hoff
  obtain ⟨hctrl, hstate, hhead, htail⟩ := regReset_queue ⟨q, hq⟩
  simp only at hctrl hstate hhead htail
  have hoff : oCtrl < 0x1000 := by decide
  simp [qEnabled, qState, qHead, qTail, hreg, hoff, hctrl, hstate, hhead, htail]

theorem FrontReset.semOf (n : Nat) : semOf t n = 0 := by
  rw [Machine.semOf, h.sems]
  rfl

theorem FrontReset.bell_progs (b : Bell) (hb : b ∈ t.bells) : b.progs = [] := by
  rw [h.bells] at hb
  rw [List.eq_of_mem_replicate hb]

end

/-- Settles O9: each of the three resets leaves the front end's registers and stores in their reset state. -/
theorem resetState : Obligations.ResetState := by
  unfold Obligations.ResetState
  intro s t ph warm ht
  have h : FrontReset t := by
    obtain rfl | rfl | rfl := ht
    · exact frontReset_reset
    · exact frontReset_coldReset ph s
    · exact frontReset_warmReset warm s
  exact ⟨h.devState, h.queue, h.semOf, h.progs, h.bell_progs, h.undelivered⟩

/-! ## The invariants at reset -/

/-- A register above the header has its reset value from its page's own map. -/
theorem regReset_own {page off i : Nat} {t : PageTy} (hpage : pageAt page = some (t, i)) (hlo : 0x040 ≤ off) (hhi : off < 0x1000) :
    regReset (rk page off) = BitVec.ofNat 32 (ownReset t i off) := by
  have hhead : off ≠ 0x000 ∧ off ≠ 0x004 ∧ off ≠ oCaps ∧ off ≠ oCtrl ∧ off ≠ oEvtEnable ∧ off ≠ oErrLog ∧ ¬off < 0x040 := by
    simp only [oCaps, oCtrl, oEvtEnable, oErrLog]
    omega
  simp only [regReset, rk_div page off hhi, rk_mod page off hhi, hpage, hhead, if_false]

theorem regReset_noPage {page off : Nat} (hpage : pageAt page = none) (hhi : off < 0x1000) : regReset (rk page off) = 0 := by
  simp only [regReset, rk_div page off hhi, hpage]

/-- INJ_CTRL resets to a value whose ARM bit is 0, and what stands at its two offsets in another page to an even value. -/
theorem ownReset_injCtrl_even (t : PageTy) (i off : Nat) (hoff : off = 0x088 ∨ off = 0x448) : ownReset t i off % 2 = 0 := by
  obtain rfl | rfl := hoff <;> cases t <;> simp [ownReset]

/-- No page resets with a mask armed, at either offset of INJ_CTRL. -/
theorem regReset_injCtrl (page off : Nat) (hoff : off = 0x088 ∨ off = 0x448) : (regReset (rk page off)).toNat.testBit 0 = false := by
  have hhi : off < 0x1000 := by omega
  cases hpage : pageAt page with
  | none => rw [regReset_noPage hpage hhi]; rfl
  | some p =>
    have heven := ownReset_injCtrl_even p.1 p.2 off hoff
    rw [regReset_own hpage (by omega) hhi, BitVec.toNat_ofNat, Nat.testBit_zero, decide_eq_false_iff_not]
    omega

/-- No mask is armed in the reset state, whichever controller a word has. -/
theorem injApplies_reset (w : Nat) : injApplies State.reset w = false := by
  have harm (page base : Nat) (hbase : base = 0 ∨ base = 0x3C0) : (reg State.reset page (base + 0x088)).testBit 0 = false := by
    rw [reg_reset page _ fun e he heq => ?_]
    · exact regReset_injCtrl page _ (by omega)
    · obtain ⟨-, hoff⟩ := bootRegs_place e he
      rw [heq, rk_mod page _ (by omega)] at hoff
      omega
  have hctl : (ctlOf State.reset w).2.1 = 0 ∨ (ctlOf State.reset w).2.1 = 0x3C0 := by
    unfold ctlOf
    split
    · exact .inr rfl
    · split <;> exact .inl rfl
  simp only [injApplies, harm _ _ hctl, Bool.false_and]

/-- Settles O8: nothing is stored, nothing waits and no mask is armed at reset; the fuses are those of a PROVISIONED part. -/
theorem resetMeetsInvariants : Obligations.ResetMeetsInvariants := by
  unfold Obligations.ResetMeetsInvariants
  exact ⟨rfl, rfl, rfl, rfl, injApplies_reset⟩

end Sys2Proof.Machine
end

section
/-!
PROOFS. Entries from their ring to their effect (R427, R430, R431, R436 to R440, R451, R453, R459, R466 to R469): what each command of the
front end comes to in the state that lets it act.
-/
namespace Sys2Proof.Machine

/-! ## Fetching -/

/-- The ring to fetch from is the first, in the order of priority, that fetches (R427). -/
theorem fetchRing_eq_some_iff (s : State) (q : Nat) :
    fetchRing s = some q ↔ q < 6 ∧ fetches s q = true ∧ ∀ p, p < q → fetches s p = false := by
  rw [fetchRing, List.find?_range_eq_some]
  simp only [List.mem_range, Bool.not_eq_true']
  exact and_left_comm

theorem exec_descriptorFetch_runs {s : State} {q : Nat} (rs : List Cpl) (h : fetchRing s = some q) :
    exec (.descriptorFetch rs) s = .next (pump (fetchFrom q rs s)) := by
  change execDescriptorFetch rs s = _
  simp only [execDescriptorFetch, h]

section
variable {s r : State} {q : Nat} {rs : List Cpl}

theorem fetchFrom_reads {d : List Byte}
    (h : hostGet (pageBase s q 0x040 + 64 * (qHead s q % ringSize s q)) rs 64 s = (some d, r)) :
    fetchFrom q rs s = takeCtx q ((contextFor s q).getD true) (qHead s q % ringSize s q) .ring d
      (setReg (pgQue q) 0x060 ((qHead s q + 1) % 2 ^ 32) r) := by
  simp only [fetchFrom, h]

theorem fetchFrom_fails (h : hostGet (pageBase s q 0x040 + 64 * (qHead s q % ringSize s q)) rs 64 s = (none, r)) :
    fetchFrom q rs s = faultQueue q stHostReadFault r := by
  simp only [fetchFrom, h]

end

/-- Settles O32: the first ring that fetches, and by whether the host read at HEAD delivers a descriptor. -/
theorem fetchRuns : Obligations.FetchRuns := by
  unfold Obligations.FetchRuns
  intro s r rs q hq a
  refine ⟨(fetchRing_eq_some_iff s q).1 hq, fun d hread => ?taken, fun hread => ?faults⟩
  case taken => rw [exec_descriptorFetch_runs rs hq, fetchFrom_reads hread]
  case faults => rw [exec_descriptorFetch_runs rs hq, fetchFrom_fails hread]

/-! ## A context that meets its condition -/

theorem ctxOf_of_ctxMeets {s : State} {c : Nat} {p : Ctx → Bool} {x : Ctx} (h : ctxMeets s c p x) : ctxOf s c = some x := by
  obtain ⟨-, hx, -⟩ := h
  exact hx

/-- A command on a context leads where its effect leads, where the context meets the command's condition. -/
theorem ctxAct_of_effect {s s0 t u : State} {c : Nat} {p : Ctx → Bool} {x : Ctx} (h : ctxMeets s0 c p x) (heffect : t = u) :
    actCfe (decide (c < 4096)) (ctxIs s0 c p) s t = .next (pump u) := by
  rw [ctxMeets_runs s s0 c p x t h, heffect]

/-! ## WAITING (R431, R451, R453, R459) -/

section
variable {s : State} {c : Nat} {x : Ctx} (hx : ctxOf s c = some x)
include hx

theorem enterWaiting_bad {o : Nat} (hbad : descBad s x = some o) :
    enterWaiting c s = endWith c (badAt (descLoc x).2 (descLoc x).1 o) s := by
  simp only [enterWaiting, hx, hbad]

theorem enterWaiting_good (hgood : descBad s x = none) :
    enterWaiting c s =
      if readsArgs x then updCtx c (fun y => { y with life := .waiting }) s
      else startWaits c (updCtx c (fun y => { y with life := .waiting }) s) := by
  simp only [enterWaiting, hx, hgood]

/-- A poll that delivers the threshold or more before the wait's timer has expired latches the wait (R453). -/
theorem pollWait_latches {w : Nat} {e : Wait} {rs : List Cpl} {b : List Byte} {r : State} (hw : x.waits[w]? = some e)
    (hintime : waitExpired s x e = false) (hread : hostGet e.addr rs 8 (notePoll c w s) = (some b, r)) (hreached : e.thresh ≤ leNat b) :
    pollWait c w rs s = updCtx c (fun y => { y with waits := updAt y.waits w fun v => { v with latched := true } }) r := by
  simp only [pollWait, hx, hw, hread, hintime, if_neg Bool.false_ne_true, if_pos hreached]

end

/-- A wait of a context that waits is polled once POLL_US has passed, where it holds a slot and has not latched (R453). -/
theorem exec_hostWaitPoll_runs {s : State} {c w : Nat} {x : Ctx} {e : Wait} (rs : List Cpl) (hw4 : w < 4)
    (h : ctxMeets s c (fun y => waitsOn y && polled s c w) x) (hw : x.waits[w]? = some e) (hkind : e.kind = 1)
    (hopen : e.latched = false) (hdue : pollDue s e = true) :
    exec (.hostWaitPoll c w rs) s = .next (pump (pollWait c w rs s)) := by
  obtain ⟨hc, hx, hwaits⟩ := h
  exact actCfe_runs s _ _ _ (by simp [hc, hw4]) (ctxIs_of s c _ x ⟨hc, hx, by simp [hwaits, hw, hkind, hopen, hdue]⟩)

theorem exec_waitTimeout_runs {s : State} {c : Nat} {x : Ctx} (h : ctxMeets (latchAll s) c (entryTimedOut (latchAll s)) x) :
    exec (.waitTimeout c) s = .next (pump (endWith c ⟨stWaitTimeout, timedOutWait (latchAll s) x, 0⟩ (latchAll s))) := by
  change execWaitTimeout c s = _
  simp only [execWaitTimeout, ctxOf_of_ctxMeets h]
  exact ctxMeets_runs s (latchAll s) c _ x _ h

theorem stallFire_victim {s : State} {x : Ctx} (h : stallVictim s = some x) :
    stallFire s = endWith x.id ⟨stDeadlockBroken, lowestUnlatched x, 0⟩
      { raise pgCfe 1 (bump pgCfe 0x070 s) with stallSince := none } := by
  simp only [stallFire, h]

/-! ## Entries whose waits have latched (R438, R439, R467 to R469) -/

section
variable {s : State} {c : Nat} {x : Ctx} (hx : ctxOf s c = some x)
include hx

/-- An image that reads and passes its checks is installed at a free index, with its constants in place (R438). -/
theorem installEntry_installs {rs : List Cpl} {b img : List Byte} {r : State}
    (hfree : progAt (beginWork c .running s) (dProgram x) = none) (hread : readImage x rs (beginWork c .running s) = (.ok b, r))
    (hgood : installCheck r x.ring b = .ok img) :
    installEntry c rs s = finish c { placeConstants img (masterPlaces r img) r with
      progs := (placeConstants img (masterPlaces r img) r).progs ++ [⟨dProgram x, img, treeDigest img, false, masterPlaces r img⟩] } := by
  simp only [installEntry, hx, hfree, hread, hgood, Option.isSome_none, if_neg Bool.false_ne_true]

/-- A REMOVE of a resident program that is not registered asks for its index (R439). -/
theorem removeEntry_asks (hresident : (progAt s (dProgram x)).isSome = true) (hbell : isRegistered s (dProgram x) = false) :
    removeEntry c s = beginWork c .ready s := by
  simp [removeEntry, hx, hbell, Option.isSome_iff_ne_none.1 hresident]

theorem removeDone_frees :
    removeDone c s = finish c { s with progs := s.progs.filter fun p => decide (p.index ≠ dProgram x) } := by
  simp only [removeDone, hx]

/-- A command buffer in MAINTENANCE starts with the entries that its read delivers (R467). -/
theorem bufferEntry_starts {rs : List Cpl} {b : List Byte} {r : State} (hmaint : devState s = 0)
    (hreach : (flArgsDev x && !mapOk s (dmaReach x.ring) (dArgs x) (64 * dCount x)) = false)
    (hread : argGet x (dArgs x) (64 * dCount x) 0xFF rs s = (.ok b, r)) : bufferEntry c rs s = startBuffer c b r := by
  simp only [bufferEntry, hx, hmaint, hreach, hread, ne_eq, not_true_eq_false, if_false, if_neg Bool.false_ne_true]

end

theorem exec_cmdbuf_runs {s : State} {c : Nat} {x : Ctx} (rs : List Cpl) (h : ctxMeets (latchAll s) c (entryDue 3) x)
    (hmaint : devState s = 0) : exec (.cmdbuf c rs) s = .next (pump (bufferEntry c rs (latchAll s))) :=
  actCfe_runs s _ _ _ (decide_eq_true h.1) (by simp [ctxIs_of _ c _ x h, hmaint])

theorem exec_cmdbufEntryStart_runs {s : State} {c i : Nat} {x : Ctx} (hi : i < 4096) (h : ctxMeets s c (entryStarts s i) x) :
    exec (.cmdbufEntryStart c i) s = .next (pump (startEntry c i s)) :=
  actCfe_runs s _ _ _ (by simp [h.1, hi]) (ctxIs_of s c _ x h)

/-- SELFTEST needs its waits latched and its tile idle (R469). -/
theorem ctxMeets_selftest {s : State} {c : Nat} {x : Ctx} (h : ctxMeets (latchAll s) c (entryDue 6) x)
    (hidle : tileIdle s (dProgram x) = true) :
    ctxMeets (latchAll s) c (fun y => entryDue 6 y && tileIdle s (dProgram y)) x := by
  obtain ⟨hc, hx, hdue⟩ := h
  exact ⟨hc, hx, by simp [hdue, hidle]⟩

/-- Settles O33: each command acts where its context meets its condition, and its effect is the branch that the descriptor, the reads and
the checks choose. -/
theorem waitingRuns : Obligations.WaitingRuns := by
  unfold Obligations.WaitingRuns
  refine ⟨fun s c x => ⟨?enters, ?reads, ?polls, exec_waitTimeout_runs, ?stalls⟩,
    fun s r c x => ⟨?invoke, ?install, ?remove, ?removed, ?buffer, ?entry, ?selftest, ?join⟩⟩
  case enters =>
    intro h w
    refine ctxAct_of_effect h ?_
    cases hdesc : descBad s x with
    | some o => exact enterWaiting_bad (ctxOf_of_ctxMeets h) hdesc
    | none => exact enterWaiting_good (ctxOf_of_ctxMeets h) hdesc
  case reads => exact fun rs h => ctxMeets_runs s s c _ x _ h
  case polls =>
    intro rs w e b r hw4 h hw hkind hopen hdue hintime hread hreached
    rw [exec_hostWaitPoll_runs rs hw4 h hw hkind hopen hdue, pollWait_latches (ctxOf_of_ctxMeets h) hw hintime hread hreached]
  case stalls =>
    intro d hdue hvictim
    rw [← stallFire_victim hvictim]
    exact actCfe_runs s _ _ _ rfl hdue
  case invoke => exact fun h => ctxMeets_runs s (latchAll s) c _ x _ h
  case install =>
    intro rs b img h t hfree hread hgood ms
    exact ctxAct_of_effect h (installEntry_installs (ctxOf_of_ctxMeets h) hfree hread hgood)
  case remove => exact fun h hresident hbell => ctxAct_of_effect h (removeEntry_asks (ctxOf_of_ctxMeets h) hresident hbell)
  case removed => exact fun h => ctxAct_of_effect h (removeDone_frees (ctxOf_of_ctxMeets h))
  case buffer =>
    intro rs b h hmaint hreach hread
    rw [exec_cmdbuf_runs rs h hmaint, bufferEntry_starts (ctxOf_of_ctxMeets h) hmaint hreach hread]
  case entry => exact fun i hi h => exec_cmdbufEntryStart_runs hi h
  case selftest => exact fun n h hidle => ctxMeets_runs s (latchAll s) c _ x _ (ctxMeets_selftest h hidle)
  case join => exact fun h => ctxMeets_runs s (latchAll s) c _ x _ h

end Sys2Proof.Machine
end

section
/-!
PROOFS. Invocations on their engines (R441 to R444, R447, R456): grants, inputs, switches, aborts and host signals.
-/
namespace Sys2Proof.Machine

/-! ## The grant -/

section
variable {s : State} {c : Nat} {x : Ctx} (hx : ctxOf s c = some x) (hthere : needsLost s x = none)
include hx hthere

/-- An invocation whose certificate could not be signed ends with its descriptor's FLAGS named (R416). -/
theorem grant_refused (hcert : certRefused s x = true) : grant c s = endWith c (badAt (descLoc x).2 (descLoc x).1 0x02) s := by
  simp only [grant, hx, hthere, if_pos hcert]

/-- An invocation that nothing refuses enters RUNNING, its slice starting now (R442). -/
theorem grant_runs (hcert : certRefused s x = false) (hplaces : placesBad s x = none) :
    grant c s = updCtx c (fun y => { y with tSlice := s.now }) (beginWork c .running s) := by
  simp only [grant, hx, hthere, hcert, hplaces, if_neg Bool.false_ne_true]

/-- A switched-out invocation that has all its engines fills back (R443). -/
theorem resume_fillsBack : resume c s = fillBack c s := by
  simp only [resume, hx, hthere]

end

/-! ## Inputs and host signals -/

theorem exec_inputsMoved_runs {s : State} {c : Nat} {x : Ctx} (ds gs : List (List Cpl))
    (h : ctxMeets s c (fun y => isInvocation y && decide (y.life = .running) && !y.fed && !y.inputsIn) x) (hissue : issueOff s = false) :
    exec (.inputsMoved c ds gs) s = .next (pump (inputsMoved c ds gs s)) :=
  actCfe_runs s _ _ _ (decide_eq_true h.1) (by rw [hissue, ctxIs_of s c _ x h]; rfl)

/-- The flush read of a signal ends its wait, and sets SIGNAL_FAULT where it and its re-reads fail (R456). -/
theorem signalFlushed_eq {s t : State} {c k : Nat} {x : Ctx} {g : Signal} {rs : List Cpl} {r : Option (List Byte)}
    (hx : ctxOf s c = some x) (hg : x.signals[k]? = some g) (hread : hostTry g.addr 3 rs s = (r, t)) :
    signalFlushed c k rs s = updCtx c (fun y =>
      { y with sigPending := y.sigPending.filter fun i => decide (i ≠ k), sigFault := y.sigFault || r.isNone }) t := by
  simp only [signalFlushed, hx, Option.bind_some, hg, Option.map_some, Option.getD_some, hread]

theorem exec_hostSignalFlushDone_runs {s : State} {c k : Nat} {x : Ctx} (rs : List Cpl) (hk : k < 4)
    (h : ctxMeets s c (fun y => y.sigPending.contains k) x) :
    exec (.hostSignalFlushDone c k rs) s = .next (pump (signalFlushed c k rs s)) :=
  actCfe_runs s _ _ _ (by simp [h.1, hk]) (ctxIs_of s c _ x h)

/-- Settles O35: each command acts where its context meets its condition, and a grant or a resume takes the branch in which nothing
refuses it. -/
theorem invocationsRun : Obligations.InvocationsRun := by
  unfold Obligations.InvocationsRun
  intro s c x
  refine ⟨?refused, ?granted, fun ds gs => exec_inputsMoved_runs ds gs, ?out, ?resumes, ?stops, ?signal⟩
  case refused => exact fun h hthere hcert => ctxAct_of_effect h (grant_refused (ctxOf_of_ctxMeets h) hthere hcert)
  case granted =>
    exact fun h hthere hcert hplaces => ctxAct_of_effect h (grant_runs (ctxOf_of_ctxMeets h) hthere hcert hplaces)
  case out => exact fun h => ctxMeets_runs s s c _ x _ h
  case resumes => exact fun h hthere => ctxAct_of_effect h (resume_fillsBack (ctxOf_of_ctxMeets h) hthere)
  case stops => exact fun h => ctxMeets_runs s s c _ x _ h
  case signal =>
    intro k g rs r t hk h hg hread
    rw [exec_hostSignalFlushDone_runs rs hk h, signalFlushed_eq (ctxOf_of_ctxMeets h) hg hread]

end Sys2Proof.Machine
end

section
/-!
PROOFS. Completion queues and their registers (R428, R429, R432, R462 to R464).
-/
namespace Sys2Proof.Machine

/-! ## Flush reads and messages -/

theorem exec_recordFlushDone_runs {s r : State} {q : Nat} {rs : List Cpl} {ok : Bool} (hq : q < 6) (hwritten : (queueOf s q).written ≠ [])
    (hread : flushTry (flushAddr s q) 3 rs s = (ok, r)) :
    exec (.recordFlushDone q rs) s = .next (pump (if ok then confirm q r else flushFailed q r)) := by
  change execRecordFlushDone q rs s = _
  rw [execRecordFlushDone, hread]
  exact actCfe_runs s _ _ _ (decide_eq_true hq) (by simpa using hwritten)

/-! ## Writes to a page of a queue -/

section
variable {s : State} {a : Agent} {q : Nat} (hq : q < 6) (hacc : accepts s a (pgQue q))
include hq hacc

/-- A write of a register above the header has that register's effect and no other. -/
theorem writeBy_queOwn {o v : Nat} {t : State} (hlo : 0x040 ≤ o) (hhi : o < 0x1000) (hown : ownWrite a .que (pgQue q) o v s = t) :
    writeBy (decide (q < 6)) a (pgQue q) o v s = .next t := by
  rw [decide_eq_true hq, writeBy_own a (pgQue q) o v s hacc hhi hlo, tyOf_que q hq, hown,
    touched_other a (pgQue q) t (by rw [tyOf_que q hq]; decide)]

theorem exec_queTailWrite_runs (v : Nat) : exec (.queTailWrite a q v) s = .next (tailWrite q v s) :=
  writeBy_queOwn hq hacc (by decide) (by decide) (by simp [ownWrite, isDiag, rwtMask, actionWrite, instOf_que q hq])

theorem exec_cqHeadWrite_runs (v : Nat) : exec (.cqHeadWrite a q v) s = .next (cqHeadWrite q v s) :=
  writeBy_queOwn hq hacc (by decide) (by decide) (by simp [ownWrite, isDiag, rwtMask, actionWrite, instOf_que q hq])

/-- A write of CTRL that asks for neither a soft reset nor the counters' clear: ENABLE and REARM. -/
theorem writeBy_queCtrl {v : Nat} (hreset : v.testBit 1 = false) (hclear : v.testBit 2 = false) :
    writeBy (decide (q < 6)) a (pgQue q) oCtrl v s = .next (queCtrl q v s) := by
  have hctrl : headWrite a (pgQue q) oCtrl v s = queCtrl q v s := by
    simp [headWrite, ctrlWrite, tyOf_que q hq, instOf_que q hq, hreset, hclear]
  rw [decide_eq_true hq, writeBy_head a (pgQue q) oCtrl v s hacc (by decide), hctrl,
    touched_other a (pgQue q) _ (by rw [tyOf_que q hq]; decide)]

end

/-! ## CTRL -/

theorem qState_setCtrl (q i : Nat) (b : Bool) (s : State) : qState (setBit (pgQue q) oCtrl i b s) q = qState s q := by
  rw [qState, reg_setBit_other (pgQue q) oCtrl i (pgQue q) 0x070 b s (by simp [rk, oCtrl]), qState]

/-- ENABLE of a queue that is not FAULTED sets its state with it (R432). -/
theorem enableWrite_notFaulted {s : State} {q : Nat} (b : Bool) (h : qState s q ≠ 2) :
    enableWrite q b s = setReg (pgQue q) 0x070 (b2n b) (setBit (pgQue q) oCtrl 0 b s) := by
  simp only [enableWrite, qState_setCtrl, if_neg h]

/-- A write of CTRL without REARM changes ENABLE where it differs. -/
theorem queCtrl_enable {s : State} {q v : Nat} (hrearm : v.testBit 8 = false) (hdiffers : v.testBit 0 ≠ qEnabled s q) :
    queCtrl q v s = enableWrite q (v.testBit 0) s := by
  simp only [queCtrl, if_neg hdiffers, hrearm, if_neg Bool.false_ne_true]

/-- A write of CTRL with ENABLE as it stands only re-arms. -/
theorem queCtrl_rearm {s : State} {q v : Nat} (hrearm : v.testBit 8 = true) (hsame : v.testBit 0 = qEnabled s q) :
    queCtrl q v s = rearm q s := by
  simp only [queCtrl, if_pos hsame, if_pos hrearm]

/-- REARM is written with ENABLE as it stands. -/
theorem testBit_ctrlWith_rearm (s : State) (page : Nat) :
    (ctrlWith s page 256).testBit 0 = (reg s page oCtrl).testBit 0 ∧ (ctrlWith s page 256).testBit 1 = false ∧
      (ctrlWith s page 256).testBit 2 = false ∧ (ctrlWith s page 256).testBit 8 = true := by
  simp only [ctrlWith, Nat.testBit_eq_decide_div_mod_eq, decide_eq_decide, decide_eq_true_eq, decide_eq_false_iff_not]
  omega

section
variable {s : State} {a : Agent} {q : Nat} (hq : q < 6) (hacc : accepts s a (pgQue q))
include hq hacc

theorem exec_queEnable_runs (hoff : qEnabled s q = false) (hstate : qState s q ≠ 2) :
    exec (.queEnable a q) s = .next (setReg (pgQue q) 0x070 1 (setBit (pgQue q) oCtrl 0 true s)) := by
  change execQueEnable a q s = _
  rw [execQueEnable, writeBy_queCtrl hq hacc (by decide) (by decide), queCtrl_enable (by decide) (by rw [hoff]; decide)]
  exact congrArg _ (enableWrite_notFaulted true hstate)

theorem exec_queDisable_runs (hon : qEnabled s q = true) (hstate : qState s q ≠ 2) :
    exec (.queDisable a q) s = .next (setReg (pgQue q) 0x070 0 (setBit (pgQue q) oCtrl 0 false s)) := by
  change execQueDisable a q s = _
  rw [execQueDisable, writeBy_queCtrl hq hacc (by decide) (by decide), queCtrl_enable (by decide) (by rw [hon]; decide)]
  exact congrArg _ (enableWrite_notFaulted false hstate)

theorem exec_queRearm_runs (hfaulted : qState s q = 2) :
    exec (.queRearm a q) s = .next (pump (updQueue q (fun u => { u with replaying := true }) s)) := by
  obtain ⟨henable, hreset, hclear, hrearm⟩ := testBit_ctrlWith_rearm s (pgQue q)
  change execQueRearm a q s = _
  rw [execQueRearm, writeBy_queCtrl hq hacc hreset hclear, queCtrl_rearm hrearm henable, rearm, if_pos hfaulted]

end

/-- Settles O36: a flush by its outcome, TAIL by the room in the ring, and CTRL by the state of the queue. -/
theorem queuesRun : Obligations.QueuesRun := by
  unfold Obligations.QueuesRun
  refine ⟨fun s r q rs hq => ⟨?confirms, ?faults, ?coalesces⟩,
    fun s a q v hq hacc hv => ⟨?tail, ?badTail, ?head, exec_queEnable_runs hq hacc, exec_queDisable_runs hq hacc, exec_queRearm_runs hq hacc⟩⟩
  case confirms =>
    intro hwritten hread
    rw [exec_recordFlushDone_runs hq hwritten hread, if_pos rfl]
  case faults =>
    intro hwritten hread
    rw [exec_recordFlushDone_runs hq hwritten hread, if_neg Bool.false_ne_true, flushFailed]
  case coalesces => exact fun hdue => actCfe_runs s _ _ _ (decide_eq_true hq) hdue
  case tail =>
    intro hroom
    rw [exec_queTailWrite_runs hq hacc, tailWrite, if_neg (Nat.not_lt.2 hroom)]
  case badTail =>
    intro hroom
    rw [exec_queTailWrite_runs hq hacc, tailWrite, if_pos hroom]
  case head =>
    rw [exec_cqHeadWrite_runs hq hacc]
    simp only [cqHeadWrite, decide_eq_true_eq]

end Sys2Proof.Machine
end

section
/-!
PROOFS. The changes between SERVICE and MAINTENANCE, and ABORT (R423, R425, R426, R447, R474): what a request comes to in the state that
it finds, and what an abort does to an entry by how far it has come.
-/
namespace Sys2Proof.Machine

/-! ## STATE_REQ (R425, R426) -/

theorem exec_enterMaintenance_runs {s : State} (hstate : devState s = 2) (hdrained : drained s = true) :
    exec .enterMaintenance s =
      .next (pump (applyHeld (raise pgCfe 0 (freezeWaits (setDevState 0 { s with stateReq := none }))))) :=
  actCfe_runs s _ _ _ rfl (by simp [hstate, hdrained])

theorem exec_enterService_runs {s : State} (hstate : devState s = 3) (hbuffers : buffersOver s = true)
    (hboot : s.cert.bootId.isSome = true) : exec .enterService s = .next (pump (enterService s)) :=
  actCfe_runs s _ _ _ rfl (by simp [hstate, hbuffers, hboot])

section
variable {s : State} {a : Agent} (hacc : accepts s a pgCfe)
include hacc

theorem writeBy_stateReq (v : Nat) : writeBy true a pgCfe 0x044 v s = .next (stateReqWrite v s) := by
  have hown : ownWrite a (tyOf pgCfe) pgCfe 0x044 v s = stateReqWrite v s := rfl
  rw [writeBy_own a pgCfe 0x044 v s hacc (by decide) (by decide), hown, touched_other a pgCfe _ (by decide)]

theorem writeBy_abort (v : Nat) : writeBy true a pgCfe 0x048 v s = .next (abortWrite v s) := by
  have hown : ownWrite a (tyOf pgCfe) pgCfe 0x048 v s = abortWrite v s := rfl
  rw [writeBy_own a pgCfe 0x048 v s hacc (by decide) (by decide), hown, touched_other a pgCfe _ (by decide)]

end

/-- STATE_REQ holds what was written, and the state that it is judged in is that before the write. -/
theorem devState_setStateReq (v : Nat) (s : State) : devState (setReg pgCfe 0x044 v s) = devState s := by
  rw [devState, reg_setReg_other pgCfe 0x044 pgCfe 0x040 v s (by decide), devState]

theorem request_maint_inService {s : State} (drain : Bool) (h : devState s = 1) : request false drain s = beginMaint drain s := by
  simp [request, h]

/-- A request that comes during a change is held (R426). -/
theorem request_maint_held {s : State} (drain : Bool) (h : 2 ≤ devState s) :
    request false drain s = { s with heldReq := some (0, drain) } := by
  unfold request
  rw [Bool.false_and, if_neg Bool.false_ne_true]
  split
  · omega
  · omega
  · rfl

theorem request_service_inMaintenance {s : State} (drain : Bool) (h : devState s = 0) (hbar : serviceBarred s = false) :
    request true drain s = setDevState 3 { s with stateReq := some (1, drain), heldReq := none } := by
  simp [request, h, hbar]

theorem serviceBarred_setStateReq (v : Nat) (s : State) : serviceBarred (setReg pgCfe 0x044 v s) = serviceBarred s := by
  have hlm (q : Nat) : reg (setReg pgCfe 0x044 v s) (pgLm q) 0x040 = reg s (pgLm q) 0x040 :=
    reg_setReg_other _ _ _ _ _ s (by simp [rk, pgLm, pgCfe]; omega)
  simp only [serviceBarred, hlm]
  rfl

/-! ## ABORT (R447, R474) -/

/-- A write of ABORT without bit 3 names the entries of a ring with ABORT_TAG. -/
theorem abortWrite_tag {q : Nat} (hq : q < 6) (s : State) :
    abortWrite q s = pump (abortWhere (fun x => decide (x.ring = q) && decide (dTag x = reg s pgCfe 0x04C)) s) := by
  have hbit : q.testBit 3 = false := Nat.testBit_lt_two_pow (by omega)
  simp only [abortWrite, Nat.mod_eq_of_lt (show q < 8 by omega), hbit, Bool.false_or]

/-- A write of ABORT with bit 3 names every entry of a ring. -/
theorem abortWrite_all {q : Nat} (hq : q < 6) (s : State) :
    abortWrite (q + 8) s = pump (abortWhere (fun x => decide (x.ring = q)) s) := by
  have hbit : (q + 8).testBit 3 = true := by
    rw [Nat.testBit_eq_decide_div_mod_eq, decide_eq_true_eq]; omega
  have hring : (q + 8) % 8 = q := by omega
  simp only [abortWrite, hring, hbit, Bool.true_or, Bool.and_true]

section
variable {s : State} {c : Nat} {x : Ctx} (hx : ctxOf s c = some x)
include hx

theorem abortCtx_notStarted (h : x.life = .fetched ∨ x.life = .waiting ∨ x.life = .ready) :
    abortCtx c s = endWith c ⟨stAborted, 0, 0⟩ s := by
  obtain h | h | h := h <;> simp only [abortCtx, hx, h]

theorem abortCtx_ending (h : x.life = .finishing ∨ x.life = .delivering) : abortCtx c s = s := by
  obtain h | h := h <;> simp only [abortCtx, hx, h]

end

/-- Settles O37: a request by the device state that it finds, the ends of the changes by their guards, and ABORT by bit 3 and by how far
an entry has come. -/
theorem stateChangesRun : Obligations.StateChangesRun := by
  unfold Obligations.StateChangesRun
  refine ⟨fun s a => ⟨fun hacc hstate => ⟨?finish, ?abort⟩, fun hacc hstate hbar => ?service, fun hacc hstate => ?held,
    exec_enterMaintenance_runs, exec_enterService_runs⟩,
    fun s a q hq hacc => ⟨?tag, ?all, fun c x hx => ⟨abortCtx_notStarted hx, abortCtx_ending hx⟩⟩⟩
  case finish =>
    have hreq := request_maint_inService false ((devState_setStateReq 0 s).trans hstate)
    exact (writeBy_stateReq hacc 0).trans (congrArg _ hreq)
  case abort =>
    have hreq := request_maint_inService true ((devState_setStateReq 2 s).trans hstate)
    exact (writeBy_stateReq hacc 2).trans (congrArg _ hreq)
  case service =>
    have hreq := request_service_inMaintenance false ((devState_setStateReq 1 s).trans hstate)
      ((serviceBarred_setStateReq 1 s).trans hbar)
    exact (writeBy_stateReq hacc 1).trans (congrArg _ hreq)
  case held =>
    have hchanging : 2 ≤ devState (setReg pgCfe 0x044 0 s) := by rw [devState_setStateReq]; exact hstate
    have hreq := request_maint_held false hchanging
    exact (writeBy_stateReq hacc 0).trans (congrArg _ hreq)
  case tag =>
    change execAbortTag a q s = _
    rw [execAbortTag, decide_eq_true hq, writeBy_abort hacc, abortWrite_tag hq]
  case all =>
    change execAbortAll a q s = _
    rw [execAbortAll, decide_eq_true hq, writeBy_abort hacc, abortWrite_all hq]

end Sys2Proof.Machine
end

section
/-!
PROOFS. The idle step of the time base, and Bell (R481 to R487, R490, R491, R495, R502, R503): the governing budget of a release, and what
each command of a registration or a release comes to in the state that lets it act.
-/
namespace Sys2Proof.Machine

/-! ## The idle step (R503) -/

theorem step_idle {s : State} (h : s.pending = []) : step s = .next (tick s) := by
  simp only [step, h]

/-- With no trim the fraction stays, and carries nothing into the counter. -/
theorem tick_noTrim {s : State} (hrate : reg s pgTime 0x050 = 0) (hlo : 0 ≤ s.nowFrac) (hhi : s.nowFrac < 2 ^ 32) :
    tick s = { s with now := (s.now + 1) % 2 ^ 64 } := by
  have htrim : signed 32 (reg s pgTime 0x050) = 0 := by rw [hrate]; rfl
  have hcarry : s.nowFrac / 2 ^ 32 = 0 := Int.ediv_eq_zero_of_lt hlo hhi
  have hnow : ((s.now : Int) + 1).toNat = s.now + 1 := rfl
  simp only [tick, htrim, Int.add_zero, hcarry, hnow, Int.emod_eq_of_lt hlo hhi]

/-- Settles O2: the queue is empty, so the step is a tick, which no trim bends. -/
theorem idleStepTicks : Obligations.IdleStepTicks := by
  unfold Obligations.IdleStepTicks
  intro s hidle hrate hlo hhi
  rw [step_idle hidle, tick_noTrim hrate hlo hhi]

/-! ## The governing budget (R495) -/

theorem governing_adaptOff {s : State} {x : Ctx} (h : (reg s (pgQue x.ring) 0x104).testBit 0 = false) :
    governing s x = x.budgetNom := by
  simp [governing, h]

/-- The governing budget is the nominal one, or a step below that of the release before, down to BUDGET_MIN at the least. -/
theorem governing_nominal_or_stepped (s : State) (x : Ctx) :
    governing s x = x.budgetNom ∨
      governing s x = max (bkBudgetMin x.regBlock) (x.before.1 - max 1 ((x.budgetNom - bkBudgetMin x.regBlock + 3) / 4)) := by
  simp only [governing]
  split
  · exact .inl rfl
  · split
    · exact .inr rfl
    · exact .inl rfl

section
variable {s : State} {x : Ctx} (hmin : bkBudgetMin x.regBlock ≤ x.budgetNom)
include hmin

theorem budgetMin_le_governing : bkBudgetMin x.regBlock ≤ governing s x := by
  obtain h | h := governing_nominal_or_stepped s x
  · rw [h]; exact hmin
  · rw [h]; exact Nat.le_max_left _ _

/-- A step goes down only, so a budget that was within the nominal one stays within it. -/
theorem governing_le_nominal (hprev : x.before.1 ≤ x.budgetNom) : governing s x ≤ x.budgetNom := by
  obtain h | h := governing_nominal_or_stepped s x
  · exact Nat.le_of_eq h
  · rw [h]; exact Nat.max_le.2 ⟨hmin, Nat.le_trans (Nat.sub_le _ _) hprev⟩

end

/-- Settles O39: the budget is the nominal one or a step down from the release before, and both lie within the bounds. -/
theorem governingBudgetIsBounded : Obligations.GoverningBudgetIsBounded := by
  unfold Obligations.GoverningBudgetIsBounded
  exact fun s x hmin hprev => ⟨budgetMin_le_governing hmin, governing_le_nominal hmin hprev, governing_adaptOff⟩

/-! ## REGISTER and DEREGISTER (R482, R483) -/

section
variable {s : State} {c : Nat} {x : Ctx} (hx : ctxOf s c = some x)
include hx

/-- A registration that passes its checks is decided by the three refusals of R482. -/
theorem registerEntry_checked {rs : List Cpl} {g : List Signal × List Input} {r : State}
    (hblock : registerBad (beginWork c .running s) x x.regBlock (ctxImage (beginWork c .running s) x) = none)
    (himage : daCheck (ctxImage (beginWork c .running s) x) (mapOk (beginWork c .running s) .program) = none)
    (hargs : releaseArgs x rs (beginWork c .running s) = (.ok g, r)) :
    registerEntry c rs s =
      if admissionRefused r x (ctxImage (beginWork c .running s) x) (newProg r x g.1 g.2) then
        endWith c ⟨stAdmissionRefused, 0, 0⟩ (admitRecheck x.ring r)
      else finish c (admitRecheck x.ring (updBell x.ring (fun b => { b with progs := b.progs ++ [newProg r x g.1 g.2] }) r)) := by
  have himg : ((progAt (beginWork c .running s) (dProgram x)).map (·.image)).getD [] = ctxImage (beginWork c .running s) x := rfl
  simp only [registerEntry, hx, himg, hblock, himage, hargs]

theorem deregisterEntry_registered (hbell : ((bellOf s x.ring).progs.any fun p => decide (p.prog = dProgram x)) = true) :
    deregisterEntry c s = admitRecheck x.ring (lendEnds x.ring
      (updBell x.ring (fun b => { b with progs := b.progs.filter fun p => decide (p.prog ≠ dProgram x) })
        (beginWork c .finishing s))) := by
  simp only [deregisterEntry, hx, if_pos hbell]

end

/-! ## Releases (R484 to R487) -/

@[simp] theorem bellOf_bump (page off q : Nat) (s : State) : bellOf (bump page off s) q = bellOf s q := by
  rw [bellOf, bump_bells, bellOf]

/-- Counting the release that is withdrawn leaves the registrations as they are, so the next release is that of `p` as it stood. -/
theorem makeRelease_found {s : State} {q prog : Nat} {p : BellProg}
    (hp : (bellOf s q).progs.find? (fun p => decide (p.prog = prog)) = some p) :
    makeRelease q prog s = updBellProg q prog (fun p => { p with held := some p.next, next := p.next + 1 })
      (bump (pgQue q) 0x114 (lendStarts q (releaseTime p p.next)
        (if (bellOf s q).progs.any (fun p => decide (p.prog = prog) && p.held.isSome) then bump (pgQue q) 0x120 s else s))) := by
  simp only [makeRelease, apply_ite (bellOf · q), bellOf_bump, ite_self, hp]

theorem exec_releaseStart_runs {s : State} {q j : Nat} {p : BellProg} (hq : q < 2) (hfree : partitionFree s q = true)
    (hnext : nextHeld s q = some (p, j)) : exec (.releaseStart q) s = .next (pump (startRelease q p j s)) := by
  change execReleaseStart q s = _
  simp only [execReleaseStart, hnext]
  exact actCfe_runs s _ _ _ (decide_eq_true hq) (by simp [hfree])

/-! ## Cuts and lending (R490, R491, R502) -/

section
variable {s : State} {c : Nat} {x : Ctx}

theorem cutNow_eq (hx : ctxOf s c = some x) :
    cutNow c s = if isSpanned s x then updMd c (fun m => { m with cutFlag := true }) s else cutRun c s := by
  simp only [cutNow, ctxIs, hx]

theorem exec_lendBlockExpiry_runs {q : Nat} (hq : q < 2) (h : ctxMeets s c (lendExpired s q) x) :
    exec (.lendBlockExpiry q c) s = .next (pump (stopLending x s)) := by
  change execLendBlockExpiry q c s = _
  simp only [execLendBlockExpiry, ctxOf_of_ctxMeets h]
  exact actCfe_runs s _ _ _ (by simp [hq, h.1]) (ctxIs_of s c _ x h)

end

/-- Settles O38: each command acts where its condition is met, and a registration is decided by the three refusals. -/
theorem bellRuns : Obligations.BellRuns := by
  unfold Obligations.BellRuns
  intro s c x
  refine ⟨?registers, ?refuses, ?deregisters, ?releases, fun q p j => exec_releaseStart_runs, ?cuts, fun q => exec_lendBlockExpiry_runs⟩
  case registers =>
    intro rs g r h w img hblock himage hargs hadmitted
    have heffect := registerEntry_checked (ctxOf_of_ctxMeets h) hblock himage hargs
    exact ctxAct_of_effect h (heffect.trans (if_neg (Bool.eq_false_iff.1 hadmitted)))
  case refuses =>
    intro rs g r h w img hblock himage hargs hrefused
    have heffect := registerEntry_checked (ctxOf_of_ctxMeets h) hblock himage hargs
    exact ctxAct_of_effect h (heffect.trans (if_pos hrefused))
  case deregisters => exact fun h hbell => ctxAct_of_effect h (deregisterEntry_registered (ctxOf_of_ctxMeets h) hbell)
  case releases =>
    intro q prog p hq hdue hp
    rw [← makeRelease_found hp]
    exact actCfe_runs s _ _ _ (decide_eq_true hq) hdue
  case cuts => exact fun h => ctxAct_of_effect h (cutNow_eq (ctxOf_of_ctxMeets h))

end Sys2Proof.Machine
end

section
/-!
PROOFS. Bytes of device memory (R517, R518): a read walks the cells of the store, and a write puts its bytes in place, whole words and
ragged ends alike.
-/
namespace Sys2Proof.Machine

/-! ## The walk over a store in canonical form -/

/-- What follows an entry of a store in canonical form is in canonical form, at higher keys. -/
theorem spWf_tail {α : Type} [DecidableEq α] {d : Nat → α} {k : Nat} {v : α} {m : Sparse α} (h : spWf d ((k, v) :: m) = true) :
    spWf d m = true ∧ ∀ e ∈ m, k < e.1 := by
  simp only [spWf, spWfFrom, Bool.and_eq_true] at h
  exact ⟨spWfFrom_none d k m h.2, spWfFrom_gt d m k h.2⟩

theorem map_range_succ_add {β : Type} (f : Nat → β) (n a : Nat) :
    ((List.range (n + 1)).map fun i => f (a + i)) = f a :: (List.range n).map fun i => f (a + 1 + i) := by
  rw [List.range_succ_eq_map, List.map_cons, List.map_map]
  exact congrArg (f a :: ·) (List.map_congr_left fun i _ => congrArg f (Nat.add_right_comm a i 1))

/-- A walk that starts at or below the first key meets every cell on its way. -/
theorem spWalk_eq_map_spGet (n a : Nat) (m : Sparse Byte) (h : spWf zeroByte m = true) (hlow : ∀ e ∈ m, a ≤ e.1) :
    spWalk n a m = (List.range n).map fun i => spGet zeroByte (a + i) m := by
  induction n generalizing a m with
  | zero => rfl
  | succ n ih =>
    rw [map_range_succ_add (fun k => spGet zeroByte k m)]
    cases m with
    | nil =>
      have hrest := ih (a + 1) [] h (by simp)
      rw [spWalk, hrest, spGet]
    | cons e m =>
      obtain ⟨k, v⟩ := e
      obtain ⟨hm, hkeys⟩ := spWf_tail h
      by_cases hk : k = a
      · subst hk
        have hskip (i : Nat) : spGet zeroByte (k + 1 + i) ((k, v) :: m) = spGet zeroByte (k + 1 + i) m := by
          rw [spGet, if_neg (by omega)]
        rw [spWalk, if_pos rfl, ih (k + 1) m hm hkeys, spGet, if_pos rfl]
        simp only [hskip]
      · have habove : ∀ e ∈ (k, v) :: m, a + 1 ≤ e.1 := by
          have hak : a ≤ k := hlow (k, v) (by simp)
          intro e he
          obtain rfl | he := List.mem_cons.1 he
          · exact Nat.lt_of_le_of_ne hak (Ne.symm hk)
          · exact Nat.lt_of_le_of_lt hak (hkeys e he)
        have hzero : spGet zeroByte a ((k, v) :: m) = zeroByte a := spGet_none zeroByte a _ fun e he => by
          have := habove e he
          omega
        rw [spWalk, if_neg hk, ih (a + 1) _ h habove, hzero]

/-- The entries that a walk passes over before it starts hold no cell that it reads. -/
theorem spGet_dropWhile_lt {α : Type} (d : Nat → α) (a k : Nat) (m : Sparse α) (hk : a ≤ k) :
    spGet d k (m.dropWhile fun e => decide (e.1 < a)) = spGet d k m := by
  induction m with
  | nil => rfl
  | cons e m ih =>
    by_cases he : e.1 < a
    · rw [List.dropWhile_cons_of_pos (by simpa using he), ih, spGet, if_neg (by omega)]
    · rw [List.dropWhile_cons_of_neg (by simpa using he)]

theorem spWf_dropWhile_lt {α : Type} [DecidableEq α] {d : Nat → α} (a : Nat) {m : Sparse α} (h : spWf d m = true) :
    spWf d (m.dropWhile fun e => decide (e.1 < a)) = true ∧ ∀ e ∈ m.dropWhile (fun e => decide (e.1 < a)), a ≤ e.1 := by
  induction m with
  | nil => exact ⟨h, by simp⟩
  | cons e m ih =>
    obtain ⟨hm, hkeys⟩ := spWf_tail h
    by_cases he : e.1 < a
    · rw [List.dropWhile_cons_of_pos (by simpa using he)]
      exact ih hm
    · rw [List.dropWhile_cons_of_neg (by simpa using he)]
      refine ⟨h, fun x hx => ?_⟩
      obtain rfl | hx := List.mem_cons.1 hx
      · omega
      · have := hkeys x hx
        omega

/-- Settles O11: the walk begins at the first entry in reach, and from there on meets every cell. -/
theorem bytesAreCells : Obligations.BytesAreCells := by
  unfold Obligations.BytesAreCells
  intro m a n h
  obtain ⟨hwf, hlow⟩ := spWf_dropWhile_lt a h
  rw [spBytes, spWalk_eq_map_spGet n a _ hwf hlow]
  simp only [spGet_dropWhile_lt zeroByte a _ m (Nat.le_add_right a _)]

/-! ## Bytes put in place -/

/-- A store reads as another one with bytes written over it from an address on. -/
def Overwrites (l : List Byte) (a : Nat) (m m' : Sparse Byte) : Prop :=
  ∀ b, spGet zeroByte b m' = if a ≤ b ∧ b < a + l.length then nth l (b - a) 0 else spGet zeroByte b m

theorem overwrites_spWrite (l : List Byte) (a : Nat) (m : Sparse Byte) : Overwrites l a m (spWrite l a m) :=
  fun b => spGet_write l a b m

theorem overwrites_nil (a : Nat) (m : Sparse Byte) : Overwrites [] a m m := fun b => by
  rw [if_neg (by simp)]

theorem nth_append {α : Type} (l l' : List α) (i : Nat) (d : α) :
    nth (l ++ l') i d = if i < l.length then nth l i d else nth l' (i - l.length) d := by
  unfold nth
  rw [List.getElem?_append]
  split <;> rfl

/-- Bytes written right behind bytes that are written already. -/
theorem Overwrites.append {l l' : List Byte} {a a' : Nat} {m m' m'' : Sparse Byte} (h : Overwrites l a m m')
    (hat : a' = a + l.length) (h' : Overwrites l' a' m' m'') : Overwrites (l ++ l') a m m'' := by
  subst hat
  intro b
  rw [h' b, h b, nth_append, List.length_append, Nat.sub_sub]
  by_cases hlow : b < a + l.length
  · rw [if_neg (by omega)]
    by_cases hb : a ≤ b
    · rw [if_pos ⟨hb, hlow⟩, if_pos ⟨hb, by omega⟩, if_pos (by omega)]
    · rw [if_neg (by omega), if_neg (by omega)]
  · rw [if_neg (c := a ≤ b ∧ b < a + l.length) (by omega), if_neg (c := b - a < l.length) (by omega)]
    have hrange : a + l.length ≤ b ∧ b < a + l.length + l'.length ↔ a ≤ b ∧ b < a + (l.length + l'.length) := by omega
    simp only [hrange]

/-! ## Marks of words -/

@[simp] theorem markOf_bump (page off : Nat) (s : State) (w : Nat) : markOf (bump page off s) w = markOf s w := by
  rw [bump_only]; rfl

@[simp] theorem marks_noteWritten (a n : Nat) (s : State) : (noteWritten a n s).marks = s.marks := by
  unfold noteWritten
  split <;> rfl

@[simp] theorem markOf_setMark (v : Nat) (k : Mark) (s : State) (w : Nat) :
    markOf (setMark v k s) w = if w = v then k else markOf s w := by
  simp only [markOf, setMark, spGet_set]

/-- Whether a mask is armed or not, a word's mark is all that a write of that word sets. -/
theorem markOf_wroteWord_other {v w : Nat} (s : State) (h : w ≠ v) : markOf (wroteWord v s) w = markOf s w := by
  unfold wroteWord
  dsimp only
  split
  · rw [markOf_setMark, if_neg h]; rfl
  · split
    · rfl
    · rw [markOf_setMark, if_neg h]

/-- The words at which a controller starts in a run lie within it. -/
theorem ctlStarts_lt {a n w : Nat} (hn : 0 < n) (h : w ∈ ctlStarts a n) : w < a + n := by
  unfold ctlStarts at h
  obtain rfl | h := List.mem_cons.1 h
  · omega
  · simpa using (List.mem_filter.1 h).2

theorem markOf_foldl_wroteWord (l : List Nat) (s : State) (w : Nat) (h : ∀ v ∈ l, w ≠ v) :
    markOf (l.foldl (fun s v => if injApplies s v then wroteWord v s else s) s) w = markOf s w := by
  induction l generalizing s with
  | nil => rfl
  | cons v l ih =>
    rw [List.foldl_cons, ih _ fun v hv => h v (List.mem_cons_of_mem _ hv)]
    split
    · exact markOf_wroteWord_other s (h v (by simp))
    · rfl

theorem markOf_armRun_above {a n w : Nat} (s : State) (h : a + n ≤ w) : markOf (armRun a n s) w = markOf s w := by
  unfold armRun
  split
  · rfl
  · refine markOf_foldl_wroteWord _ s w fun v hv => ?_
    have := ctlStarts_lt (by omega) hv
    omega

/-! ## A write at a canonical address -/

theorem mem_wroteWord (w : Nat) (s : State) : (wroteWord w s).mem = s.mem := wroteWord_mem w s

theorem mem_armRun (a n : Nat) (s : State) : (armRun a n s).mem = s.mem := armRun_mem a n s

section
variable {w : Nat} {s : State} (hclean : markOf s w = noMark w)
include hclean

/-- A read-modify-write of a word that holds no error only puts its bytes in place. -/
theorem writePart_unmarked (a : Nat) (bs : List Byte) : (writePart w a bs s).mem = spWrite bs a s.mem := by
  unfold writePart
  simp only [markOf_bump, hclean, if_true]
  rw [mem_wroteWord]
  exact congrArg (spWrite bs a) (bump_mem _ _ s)

theorem markOf_writePart_other {w' : Nat} (a : Nat) (bs : List Byte) (h : w' ≠ w) : markOf (writePart w a bs s) w' = markOf s w' := by
  unfold writePart
  simp only [markOf_bump, hclean, if_true]
  rw [markOf_wroteWord_other _ h]
  exact markOf_bump _ _ s w'

end

/-- One ragged end of a write: nothing where the range ends with its word, else a read-modify-write of the word. -/
def writeRagged (r w a : Nat) (bs : List Byte) (s : State) : State := if r = 0 then s else writePart w a bs s

/-- The whole words between the two ends. -/
def writeWords (a : Nat) (bs : List Byte) (s : State) : State :=
  let s := { s with mem := spWrite bs a s.mem, marks := spClear a bs.length s.marks }
  if 0 < bs.length then armRun a bs.length s else s

section
variable {r w a : Nat} {bs : List Byte} {s : State}

theorem writeRagged_overwrites {b : Nat} (hempty : r = 0 → bs = []) (hat : r ≠ 0 → b = a) (hclean : r ≠ 0 → markOf s w = noMark w) :
    Overwrites bs b s.mem (writeRagged r w a bs s).mem := by
  unfold writeRagged
  split
  case isTrue hr => rw [hempty hr]; exact overwrites_nil b s.mem
  case isFalse hr => rw [hat hr, writePart_unmarked (hclean hr)]; exact overwrites_spWrite bs a s.mem

theorem markOf_writeRagged_other {w' : Nat} (hclean : markOf s w = noMark w) (h : w' ≠ w) :
    markOf (writeRagged r w a bs s) w' = markOf s w' := by
  unfold writeRagged
  split
  · rfl
  · exact markOf_writePart_other hclean a bs h

theorem writeWords_overwrites : Overwrites bs a s.mem (writeWords a bs s).mem := by
  suffices h : (writeWords a bs s).mem = spWrite bs a s.mem from h ▸ overwrites_spWrite bs a s.mem
  unfold writeWords
  dsimp only
  split
  · rw [mem_armRun]
  · rfl

theorem markOf_writeWords_above (h : a + bs.length ≤ w) : markOf (writeWords a bs s) w = markOf s w := by
  have hcleared : markOf { s with mem := spWrite bs a s.mem, marks := spClear a bs.length s.marks } w = markOf s w :=
    spGet_filter noMark w _ s.marks (by simp; omega)
  unfold writeWords
  dsimp only
  split
  · exact (markOf_armRun_above _ h).trans hcleared
  · exact hcleared

end

theorem wordLen_eq (a : Nat) : wordLen a = 8 ∨ wordLen a = 32 := by
  unfold wordLen
  split <;> simp

/-- Where a range of several words ends within a word, that word begins after the range's whole words. -/
theorem ragged_ends {a n L : Nat} (hL : L = 8 ∨ L = 32) (hwords : a / L * L ≠ (a + n - 1) / L * L) :
    (a / L * L + L - a) % L + (a + n) % L ≤ n ∧ ((a + n) % L ≠ 0 → (a + n - 1) / L * L = a + (n - (a + n) % L)) := by
  obtain rfl | rfl := hL <;> omega

/-- A write of one word, whole or in part, and a write of several: a first end, whole words, a last end. -/
theorem writeCanon_cases (a : Nat) (bs : List Byte) (s : State) (hne : bs ≠ []) :
    let L := wordLen a
    let n := bs.length
    let w0 := a / L * L
    let w1 := (a + n - 1) / L * L
    let head := (w0 + L - a) % L
    let tail := (a + n) % L
    let s0 := noteWritten a n s
    writeCanon a bs s =
      if w0 = w1 then if n = L then wroteWord w0 { s0 with mem := spWrite bs a s0.mem } else writePart w0 a bs s0
      else writeRagged tail w1 w1 (bs.drop (n - tail))
        (writeWords (a + head) ((bs.drop head).take (n - head - tail)) (writeRagged head w0 a (bs.take head) s0)) := by
  have hn : bs.length ≠ 0 := by simpa using hne
  unfold writeCanon
  simp only [hn, if_false]
  rfl

theorem take_append_mid_append_drop {α : Type} (l : List α) (i j : Nat) (h : i + j ≤ l.length) :
    l.take i ++ (l.drop i).take (l.length - i - j) ++ l.drop (l.length - j) = l := by
  have hend : l.drop (l.length - j) = (l.drop i).drop (l.length - i - j) := by
    rw [List.drop_drop]
    congr 1
    omega
  rw [List.append_assoc, hend, List.take_append_drop, List.take_append_drop]

/-- The two ends of a range and the whole words between them, each written where the other left off: `w0` and `w1` are the first word
and the last. -/
theorem writeEnds_overwrites {a head tail w0 w1 : Nat} {bs : List Byte} {s : State} (hclean : ∀ w, markOf s w = noMark w)
    (hwords : w1 ≠ w0) (hends : head + tail ≤ bs.length) (hlast : tail ≠ 0 → w1 = a + (bs.length - tail)) :
    Overwrites bs a s.mem (writeRagged tail w1 w1 (bs.drop (bs.length - tail))
      (writeWords (a + head) ((bs.drop head).take (bs.length - head - tail)) (writeRagged head w0 a (bs.take head) s))).mem := by
  have hall := take_append_mid_append_drop bs head tail hends
  have hhead : (bs.take head).length = head := by rw [List.length_take]; omega
  have hempty : tail = 0 → bs.drop (bs.length - tail) = [] := by simp +contextual
  have hmid : ((bs.drop head).take (bs.length - head - tail)).length = bs.length - head - tail := by
    rw [List.length_take, List.length_drop]; omega
  generalize bs.take head = first at *
  generalize (bs.drop head).take (bs.length - head - tail) = mid at *
  generalize bs.drop (bs.length - tail) = last at *
  rw [← hall]
  have hfirst : Overwrites first a s.mem (writeRagged head w0 a first s).mem :=
    writeRagged_overwrites (fun h => List.eq_nil_of_length_eq_zero (hhead.trans h)) (fun _ => rfl) fun _ => hclean w0
  have hbehind : tail ≠ 0 → w1 = a + (first ++ mid).length := fun htail => by
    rw [hlast htail, List.length_append]
    omega
  refine (hfirst.append (congrArg (a + ·) hhead.symm) writeWords_overwrites).append rfl
    (writeRagged_overwrites hempty (fun htail => (hbehind htail).symm) fun htail => ?_)
  have habove : a + head + mid.length ≤ w1 := by
    rw [hbehind htail, List.length_append]
    omega
  rw [markOf_writeWords_above habove, markOf_writeRagged_other (hclean w0) hwords, hclean]

/-- Where no word holds an error, a write at a canonical address puts its bytes in place, ragged ends or not. -/
theorem writeCanon_overwrites (a : Nat) (bs : List Byte) (s : State) (hclean : ∀ w, markOf s w = noMark w) :
    Overwrites bs a s.mem (writeCanon a bs s).mem := by
  by_cases hne : bs = []
  · subst hne
    exact overwrites_nil a s.mem
  · rw [writeCanon_cases a bs s hne]
    have hmem : (noteWritten a bs.length s).mem = s.mem := noteWritten_mem a bs.length s
    have hclean0 (w : Nat) : markOf (noteWritten a bs.length s) w = noMark w := by simpa [markOf] using hclean w
    generalize noteWritten a bs.length s = s0 at hmem hclean0
    rw [← hmem]
    split
    · split
      · rw [mem_wroteWord]
        exact overwrites_spWrite bs a s0.mem
      · rw [writePart_unmarked (hclean0 _)]
        exact overwrites_spWrite bs a s0.mem
    · next hwords =>
      obtain ⟨hends, hlast⟩ := ragged_ends (wordLen_eq a) hwords
      exact writeEnds_overwrites hclean0 (Ne.symm hwords) hends hlast

/-- Settles O12: the range is one piece, and its write is the write at its canonical address. -/
theorem memoryWriteStores : Obligations.MemoryWriteStores := by
  unfold Obligations.MemoryWriteStores
  intro a k bs s hclean hpieces
  obtain ⟨hmarks, -⟩ := hclean
  have hwrite : memWrite a bs s = writeCanon k bs s := by simp [memWrite, hpieces]
  rw [hwrite]
  exact writeCanon_overwrites k bs s fun w => by rw [markOf, hmarks, spGet]

end Sys2Proof.Machine
end

section
/-!
PROOFS. The canonical form of device memory over every step (R517, R518): what a command's outcome owes to the form, a rule for each
way in which commands act, and the commands case by case.
-/
namespace Sys2Proof.Machine

/-! ## Outcomes -/

/-- Where a command completes, device memory has its canonical form. -/
def MemWfAfter (r : Host.Outcome State Fault Refusal) : Prop := ∀ t, r = .next t → spWf zeroByte (memF t) = true

theorem memWfAfter_next {t : State} (ht : spWf zeroByte (memF t) = true) : MemWfAfter (.next t) := by
  rintro _ ⟨⟩
  exact ht

section
variable {s t : State} {unit g : Bool} (h : spWf zeroByte (memF s) = true)
include h

theorem memWfAfter_act (ht : spWf zeroByte (memF t) = true) : MemWfAfter (act unit g s t) := by
  unfold act
  split
  · exact memWfAfter_next (ite_wf _ _ _ ht h)
  · rintro _ ⟨⟩

theorem memWfAfter_actCfe (ht : spWf zeroByte (memF t) = true) : MemWfAfter (actCfe unit g s t) :=
  memWfAfter_act h (pump_wf t ht)

theorem memWfAfter_engAct {x : EngRef} {op : EngOp} {f : Ctx → Cursor → Nat → State → State}
    (hf : ∀ c u i, spWf zeroByte (memF (f c u i s)) = true) : MemWfAfter (engAct x op s f) := by
  refine memWfAfter_actCfe h ?_
  unfold engRun
  split
  · exact h
  · split
    · exact h
    · exact hf _ _ _

theorem memWfAfter_collAct {c : Nat} {op : EngOp} {f : Ctx → State → State}
    (hf : ∀ x, spWf zeroByte (memF (f x s)) = true) : MemWfAfter (collAct c op s f) := by
  refine memWfAfter_actCfe h ?_
  split
  · exact hf _
  · exact h

theorem memWfAfter_runAct {c : Nat} {op : EngOp} {f : Ctx → Anneal → State → State}
    (hf : ∀ x a, spWf zeroByte (memF (f x a s)) = true) : MemWfAfter (runAct c op s f) := by
  refine memWfAfter_collAct h fun x => ?_
  split
  · exact hf _ _
  · exact h

theorem memWfAfter_writeBy {a : Agent} {page o v : Nat} : MemWfAfter (writeBy unit a page o v s) :=
  memWfAfter_act h (barWrite_wf a _ v s h)

theorem memWfAfter_guardBy {a : Agent} {page : Nat} {f : State → State}
    (hf : ∀ r, spWf zeroByte (memF r) = true → spWf zeroByte (memF (f r)) = true) : MemWfAfter (guardBy unit a page f s) :=
  memWfAfter_act h (by rw [touched_mem]; exact guarded_wf a page f hf s h)

end

/-! ## Commands whose effect branches -/

section
variable {s : State} (h : spWf zeroByte (memF s) = true)
include h

/-- STREAM reads its vectors and scales, then the slot that it accumulates into, then passes them through the tile. -/
theorem execStream_memWfAfter (x : EngRef) (o : StreamOp) (up : Upset) : MemWfAfter (execStream x o up s) := by
  refine memWfAfter_engAct h fun c u i => ?_
  have hreads (rs : List (Nat × Nat)) : spWf zeroByte (memF (engReads c.id u.eng rs s).2) = true := engReads_wf _ _ _ _ h
  have hslots (r : State) (hr : spWf zeroByte (memF r) = true) :
      spWf zeroByte (memF (if o.mode = 1 then slotReads c.id u.eng o.slot (o.v + 1) r else (true, r)).2) = true := by
    split
    · exact slotReads_wf _ _ _ _ _ hr
    · exact hr
  refine ite_wf _ _ _ (hreads _) (ite_wf _ _ _ (hslots _ (hreads _)) ?_)
  split
  · exact hslots _ (hreads _)
  · exact streamPass_wf _ _ _ _ _ _ _ (hslots _ (hreads _))

theorem execDigestAbsorb_memWfAfter (x : EngRef) (o : DigestOp) : MemWfAfter (execDigestAbsorb x o s) :=
  memWfAfter_engAct h fun _ _ _ => ite_wf _ _ _ (reading_wf _ _ _ _ (fun r hr => by simp [hr]) _ h) h

theorem execAudit_memWfAfter (c : Nat) (o : AuditOp) : MemWfAfter (execAudit c o s) :=
  memWfAfter_collAct h fun x => by simp [h]

theorem execCert_memWfAfter (c : Nat) (o : CertOp) : MemWfAfter (execCert c o s) := by
  refine memWfAfter_actCfe h ?_
  split
  · rw [collAdvance_mem]
    exact ite_wf _ _ _ (issueCert_wf _ _ _ _ h) h
  · exact h

theorem execFailoverCopyDone_memWfAfter (c : Nat) : MemWfAfter (execFailoverCopyDone c s) := by
  refine memWfAfter_actCfe h (ite_wf _ _ _ ?_ (survivorRestore_wf c s h))
  split
  · exact spareInstall_wf c _ s h
  · exact h

theorem execMsgAckTimeout_memWfAfter (dst cls msg : Nat) : MemWfAfter (execMsgAckTimeout dst cls msg s) := by
  unfold execMsgAckTimeout
  split
  · exact memWfAfter_actCfe h (resendMsg_wf _ s h)
  · exact memWfAfter_next h

theorem execEntropyRequestTimeout_memWfAfter (k : Nat) : MemWfAfter (execEntropyRequestTimeout k s) := by
  unfold execEntropyRequestTimeout
  split
  · exact memWfAfter_next h
  · exact memWfAfter_act h (reqTimeout_wf k _ s h)

theorem execDescriptorFetch_memWfAfter (rs : List Cpl) : MemWfAfter (execDescriptorFetch rs s) := by
  unfold execDescriptorFetch
  split
  · exact memWfAfter_next h
  · exact memWfAfter_next (pump_wf _ (by simp [h]))

end

/-! ## Every command -/

/-- Each command acts in one of the ways above, and its effect is built of operations that keep the form. The unit is named where a
command has one that is always there. -/
theorem exec_memWfAfter (i : Instr) {s : State} (h : spWf zeroByte (memF s) = true) : MemWfAfter (exec i s) := by
  cases i
  -- writes of registers
  case queTailWrite | cqHeadWrite | queEnable | queDisable | queRearm | abortTag | abortAll | semOpAdd | semOpSet | logClear | injArm |
    revoke | keyProvision | txnBegin | txnCommit | txnAbort | ownerLock | ownerRelease | evtForce | cntClear | softRst =>
    exact memWfAfter_writeBy h
  case stateReqMaintFinish | stateReqMaintAbort | stateReqService | certRingRdWrite | lcReqDeployed | lcReqRma | lcReqScrapped | svnCommit
    | hReq | recoveryCmd | grpBegin | grpCommit | grpAbort =>
    exact memWfAfter_writeBy (unit := true) h
  case evtClear => exact memWfAfter_guardBy h fun r hr => by simp [hr]
  case attestation | calWrite | calRead | calCapture =>
    exact memWfAfter_guardBy (unit := true) h fun r hr => by simp [hr]
  -- instructions of an engine
  case nop | halt | loop | stage | tstamp | fill | drain | pdrain | lrecv | swait | ssignal | digestStart | digestFinal | digestCompare =>
    exact memWfAfter_engAct h fun c u i => by simp [memF_fold, h]
  case move | sld | vop | vred | vnorm | vcvt | vtopk | pbuild | lsend | preload =>
    exact memWfAfter_engAct h fun c u i => reading_wf _ _ _ _ (fun r hr => by simp [memF_fold, hr]) _ h
  -- collectives
  case gather | relax | choose | rollcall | fieldup | sweepend | result =>
    exact memWfAfter_runAct h fun x a => by simp [h]
  case audit => exact execAudit_memWfAfter h _ _
  -- commands of the command front end
  case swaitTimeout | tileSubstitutionDone | tileSelftest | invoke | install | remove | removeComplete | cmdbuf | cmdbufEntryStart |
    selftest | join | enterWaiting | argumentBlockRead | hostWaitPoll | engineGrant | inputsMoved | switchOut | switchIn |
    invocationAbortStop | hostSignalFlushDone | recordFlushDone | msixCoalesceTimeout | register | deregister | bellRelease | cutPoint |
    flitReceive | progressSend | lostCollectEnd | probe | epochBarrierDone | peerTimerExpire | scrubRead | txnApply =>
    exact memWfAfter_actCfe h (by simp [memF_fold, h])
  case repairLogWrite | stallDetectorFire | enterMaintenance | enterService | auditFinish | windowTimeout | windowSigned | msgAck | start
    | claim | probeReply | probeTimeout | failover | mirrorRebuildDone | grpApply =>
    exact memWfAfter_actCfe (unit := true) h (by simp [memF_fold, h])
  case progress | lost | epoch =>
    exact memWfAfter_actCfe (unit := true) h (fromPeer_wf _ _ _ (fun c r hr => by simp [hr]) _ h)
  case pload | red | bcast | waitTimeout | releaseStart | lendBlockExpiry =>
    refine memWfAfter_actCfe h ?_
    (repeat' split) <;> simp [h]
  case auditStart =>
    refine memWfAfter_actCfe (unit := true) h ?_
    split <;> simp [h]
  -- commands of other units
  case flitSend | replayTimeout | laneLockLoss | linkTrainStart | linkTrainLock | linkTrainFail | discover | rekey | tamperDetect |
    entropyTestTrip | sourceRetest | drbgReseedDue | canaryFire | marginDecay | thermtrip | railFault | txnExpire | softResetApply =>
    exact memWfAfter_act h (by simp [h])
  case lcProvision | hDataLastRead | conditionedBlock | bootIdDraw | reefEvaluation | alertNFall | vspdEvaluation | avsAck | avsRetry |
    sensorSample | pwrgdLow | porstNAssert | porstNRise | bootComplete | perstNAssert | perstNRise | pcieHotReset | flr | d3hotEntry |
    ppsInEdge | ppsLoss | ptmExchange | timeclkLoss | timeclkRelock | cplTimeout | bar2Read | bar2Write | i3cEntdaa | i3cWriteRequest |
    i3cReadRequest | i3cPrivateRead | rwtWrite | grpSafeTimeout | readLoLatch | registerWrite | internalResetRelease | returnToD0 |
    warmResetComplete | pcieLinkTrained | powerSurge | startUpTestsEnd | pcieFlitReplay | malformedTlp | badAccess =>
    exact memWfAfter_act (unit := true) h (by simp [memF_fold, h])
  case stream => exact execStream_memWfAfter h _ _ _
  case digestAbsorb => exact execDigestAbsorb_memWfAfter h _ _
  case cert => exact execCert_memWfAfter h _ _
  case msgAckTimeout => exact execMsgAckTimeout_memWfAfter h _ _ _
  case descriptorFetch => exact execDescriptorFetch_memWfAfter h _
  case entropyRequestTimeout => exact execEntropyRequestTimeout_memWfAfter h _
  case failoverCopyDone => exact execFailoverCopyDone_memWfAfter h _

/-- Settles O6: a step is a command or, on an empty queue, a tick of the time base, and neither breaks the form. -/
theorem stepKeepsMemoryWf : Obligations.StepKeepsMemoryWf := by
  unfold Obligations.StepKeepsMemoryWf
  intro s t h hstep
  unfold step at hstep
  split at hstep
  case h_1 =>
    obtain ⟨⟩ := hstep
    exact (congrArg _ (tick_mem s)).trans h
  case h_2 c rest _ => exact exec_memWfAfter c (s := { s with pending := rest }) h t hstep

end Sys2Proof.Machine
end

section
/-!
PROOFS. Fuses over every step (R549, R551, R565, R566): what a command's outcome owes to them, a rule for each way in which commands act,
and the commands case by case.
-/
namespace Sys2Proof.Machine

/-! ## Outcomes -/

/-- Where a command completes, the queue stands and fuses were burned only as `Grows` allows. -/
def GrowsAfter (s : State) (r : Host.Outcome State Fault Refusal) : Prop := ∀ t, r = .next t → Grows s t

theorem growsAfter_next {s t : State} (h : Grows s t) : GrowsAfter s (.next t) := by
  rintro _ ⟨⟩
  exact h

section
variable {s t : State} {unit g : Bool}

theorem growsAfter_act (h : Grows s t) : GrowsAfter s (act unit g s t) := by
  unfold act
  split
  · split
    · exact growsAfter_next h
    · exact growsAfter_next (.refl s)
  · rintro _ ⟨⟩

/-- Most commands keep the queue and the fuses. -/
theorem growsAfter_kept (h : frozen t = frozen s) : GrowsAfter s (act unit g s t) := growsAfter_act (.of_frozen s t h)

theorem growsAfter_actCfe (h : frozen t = frozen s) : GrowsAfter s (actCfe unit g s t) := growsAfter_kept ((pump_kept t).trans h)

theorem growsAfter_engAct {x : EngRef} {op : EngOp} {f : Ctx → Cursor → Nat → State → State}
    (hf : ∀ c u i s, frozen (f c u i s) = frozen s) : GrowsAfter s (engAct x op s f) :=
  growsAfter_actCfe (engRun_kept x f hf s)

theorem growsAfter_collAct {c : Nat} {op : EngOp} {f : Ctx → State → State} (hf : ∀ x s, frozen (f x s) = frozen s) :
    GrowsAfter s (collAct c op s f) := by
  refine growsAfter_actCfe ?_
  split
  · exact hf _ s
  · rfl

theorem growsAfter_runAct {c : Nat} {op : EngOp} {f : Ctx → Anneal → State → State} (hf : ∀ x a s, frozen (f x a s) = frozen s) :
    GrowsAfter s (runAct c op s f) := by
  refine growsAfter_collAct fun x r => ?_
  split
  · exact hf x _ r
  · rfl

theorem growsAfter_guardBy {a : Agent} {page : Nat} {f : State → State} (hf : ∀ s, frozen (f s) = frozen s) :
    GrowsAfter s (guardBy unit a page f s) :=
  growsAfter_kept ((touched_kept a page _).trans (guarded_kept a page f hf s))

theorem frozen_ite {p : Prop} [Decidable p] {a b : State} (ha : frozen a = frozen s) (hb : frozen b = frozen s) :
    frozen (if p then a else b) = frozen s := by
  split
  · exact ha
  · exact hb

theorem Grows.ite {p : Prop} [Decidable p] {a b : State} (ha : Grows s a) (hb : Grows s b) : Grows s (if p then a else b) := by
  split
  · exact ha
  · exact hb

end

/-! ## Commands whose effect branches -/

section
variable (s : State)

/-- STREAM reads its vectors and scales, then the slot that it accumulates into, then passes them through the tile. -/
theorem execStream_growsAfter (x : EngRef) (o : StreamOp) (up : Upset) : GrowsAfter s (execStream x o up s) := by
  refine growsAfter_engAct fun c u i r => ?_
  have hreads (rs : List (Nat × Nat)) : frozen (engReads c.id u.eng rs r).2 = frozen r := engReads_kept _ _ _ r
  have hslots (rs : List (Nat × Nat)) :
      frozen (if o.mode = 1 then slotReads c.id u.eng o.slot (o.v + 1) (engReads c.id u.eng rs r).2
        else (true, (engReads c.id u.eng rs r).2)).2 = frozen r := by
    split
    · rw [slotReads_kept, hreads]
    · exact hreads rs
  refine frozen_ite (hreads _) (frozen_ite (hslots _) ?_)
  split
  · exact hslots _
  · rw [streamPass_kept, hslots]

theorem execDigestAbsorb_growsAfter (x : EngRef) (o : DigestOp) : GrowsAfter s (execDigestAbsorb x o s) :=
  growsAfter_engAct fun _ _ _ r => frozen_ite (reading_kept _ _ _ _ (fun q => by simp) r) rfl

theorem execAudit_growsAfter (c : Nat) (o : AuditOp) : GrowsAfter s (execAudit c o s) :=
  growsAfter_collAct fun x r => by simp

theorem execCert_growsAfter (c : Nat) (o : CertOp) : GrowsAfter s (execCert c o s) := by
  refine growsAfter_actCfe ?_
  split <;> simp

theorem execFailoverCopyDone_growsAfter (c : Nat) : GrowsAfter s (execFailoverCopyDone c s) := by
  refine growsAfter_actCfe (frozen_ite ?_ (survivorRestore_kept c s))
  split <;> simp

theorem execMsgAckTimeout_growsAfter (dst cls msg : Nat) : GrowsAfter s (execMsgAckTimeout dst cls msg s) := by
  unfold execMsgAckTimeout
  split
  · exact growsAfter_actCfe (resendMsg_kept _ s)
  · exact growsAfter_next (.refl s)

theorem execEntropyRequestTimeout_growsAfter (k : Nat) : GrowsAfter s (execEntropyRequestTimeout k s) := by
  unfold execEntropyRequestTimeout
  split
  · exact growsAfter_next (.refl s)
  · exact growsAfter_kept (reqTimeout_kept k _ s)

theorem execDescriptorFetch_growsAfter (rs : List Cpl) : GrowsAfter s (execDescriptorFetch rs s) := by
  unfold execDescriptorFetch
  split
  · exact growsAfter_next (.refl s)
  · exact growsAfter_next (.of_frozen s _ (by simp))

end

/-! ## Every command -/

/-- The commands that may burn a fuse are writes of registers, the factory's provisioning and those that start the power-up sequence; each
other command keeps the queue and the fuses by the lemma of its effect. The unit is named where a command has one that is always there. -/
theorem exec_grows (i : Instr) (s : State) : GrowsAfter s (exec i s) := by
  cases i
  -- commands that may burn a fuse
  case queTailWrite | cqHeadWrite | queEnable | queDisable | queRearm | abortTag | abortAll | semOpAdd | semOpSet | logClear | injArm |
    revoke | keyProvision | txnBegin | txnCommit | txnAbort | ownerLock | ownerRelease | evtForce | cntClear | softRst =>
    exact growsAfter_act (barWrite_grows _ _ _ s)
  case stateReqMaintFinish | stateReqMaintAbort | stateReqService | certRingRdWrite | lcReqDeployed | lcReqRma | lcReqScrapped | svnCommit
    | hReq | recoveryCmd | grpBegin | grpCommit | grpAbort | rwtWrite =>
    exact growsAfter_act (unit := true) (barWrite_grows _ _ _ s)
  case registerWrite => exact growsAfter_act (unit := true) (.ite (barWrite_grows _ _ _ s) (.of_frozen s _ (badAccess_kept s)))
  case i3cWriteRequest => exact growsAfter_act (unit := true) (i3cWrite_grows _ _ s)
  case lcProvision => exact growsAfter_act (unit := true) ((blow_grows 0 1 s).trans _ _ _ (.of_frozen _ _ (wipe_kept _)))
  case porstNRise | internalResetRelease => exact growsAfter_act (unit := true) (.ite (startUp_grows _ _) (.refl s))
  -- accesses of a page with operands of their own
  case evtClear => exact growsAfter_guardBy fun r => evtClear_kept _ _ _ r
  case attestation | calWrite | calRead | calCapture => exact growsAfter_guardBy (unit := true) fun r => by simp
  -- instructions of an engine
  case nop | halt | loop | stage | tstamp | fill | drain | pdrain | lrecv | swait | ssignal | digestStart | digestFinal | digestCompare =>
    exact growsAfter_engAct fun c u i r => by simp
  case move | sld | vop | vred | vnorm | vcvt | vtopk | pbuild | lsend | preload =>
    exact growsAfter_engAct fun c u i r => reading_kept _ _ _ _ (fun q => by simp) r
  case stream => exact execStream_growsAfter s _ _ _
  case digestAbsorb => exact execDigestAbsorb_growsAfter s _ _
  -- collectives
  case gather | relax | choose | rollcall | fieldup | sweepend | result => exact growsAfter_runAct fun x a r => by simp
  case audit => exact execAudit_growsAfter s _ _
  case cert => exact execCert_growsAfter s _ _
  -- commands of the command front end
  case swaitTimeout | tileSubstitutionDone | tileSelftest | invoke | install | remove | removeComplete | cmdbuf | cmdbufEntryStart |
    selftest | join | enterWaiting | argumentBlockRead | hostWaitPoll | engineGrant | inputsMoved | switchOut | switchIn |
    invocationAbortStop | hostSignalFlushDone | recordFlushDone | msixCoalesceTimeout | register | deregister | bellRelease | cutPoint |
    flitReceive | progressSend | lostCollectEnd | probe | epochBarrierDone | peerTimerExpire | scrubRead | txnApply =>
    exact growsAfter_actCfe (by simp)
  case repairLogWrite | stallDetectorFire | enterMaintenance | enterService | auditFinish | windowTimeout | windowSigned | msgAck | start
    | claim | probeReply | probeTimeout | failover | mirrorRebuildDone | grpApply =>
    exact growsAfter_actCfe (unit := true) (by simp)
  case progress | lost | epoch => exact growsAfter_actCfe (unit := true) (fromPeer_kept _ _ _ (fun c r => by simp) s)
  case pload | red | bcast | waitTimeout | releaseStart | lendBlockExpiry =>
    refine growsAfter_actCfe ?_
    (repeat' split) <;> simp
  case auditStart =>
    refine growsAfter_actCfe (unit := true) ?_
    split <;> simp
  case msgAckTimeout => exact execMsgAckTimeout_growsAfter s _ _ _
  case descriptorFetch => exact execDescriptorFetch_growsAfter s _
  case failoverCopyDone => exact execFailoverCopyDone_growsAfter s _
  -- commands of other units
  case flitSend | replayTimeout | laneLockLoss | linkTrainStart | linkTrainLock | linkTrainFail | discover | rekey | tamperDetect |
    entropyTestTrip | sourceRetest | drbgReseedDue | canaryFire | marginDecay | thermtrip | railFault | txnExpire | softResetApply =>
    exact growsAfter_kept (by simp)
  case hDataLastRead | conditionedBlock | bootIdDraw | reefEvaluation | alertNFall | vspdEvaluation | avsAck | avsRetry | sensorSample |
    pwrgdLow | porstNAssert | bootComplete | perstNAssert | perstNRise | pcieHotReset | flr | d3hotEntry | ppsInEdge | ppsLoss |
    ptmExchange | timeclkLoss | timeclkRelock | cplTimeout | bar2Read | bar2Write | i3cEntdaa | i3cReadRequest | i3cPrivateRead |
    grpSafeTimeout | readLoLatch | returnToD0 | warmResetComplete | pcieLinkTrained | powerSurge | startUpTestsEnd | pcieFlitReplay |
    malformedTlp | badAccess =>
    exact growsAfter_kept (unit := true) (by simp)
  case entropyRequestTimeout => exact execEntropyRequestTimeout_growsAfter s _

/-- Settles O7: a step is a command or, on an empty queue, a tick of the time base, and either burns fuses only as `Grows` allows. -/
theorem stepKeepsFuses : Obligations.StepKeepsFuses := by
  unfold Obligations.StepKeepsFuses
  intro s t hlegal hstep
  have hgrows : fusesGrow s.fuses t.fuses ∧ (fusesLegal s.fuses = true → fusesLegal t.fuses = true) := by
    unfold step at hstep
    split at hstep
    case h_1 =>
      obtain ⟨⟩ := hstep
      exact (Grows.of_frozen s _ (tick_kept s)).2
    case h_2 c rest _ => exact (exec_grows c { s with pending := rest } t hstep).2
  obtain ⟨hgrow, hkeep⟩ := hgrows
  exact ⟨hkeep hlegal, hgrow⟩

end Sys2Proof.Machine
end

section
/-!
PROOFS. Life-cycle requests, tamper, revocation, SVN, provisioned keys and evidence (R551 to R556, R565, R566, R570 to R575).
-/
namespace Sys2Proof.Machine

/-! ## Registers whose write starts an action -/

/-- A write that an agent is let through to a register that no transaction stages has the action of that register and no other effect. -/
theorem writeBy_action {s t : State} {a : Agent} {page o v : Nat} (hacc : accepts s a page) (hlo : 0x040 ≤ o) (hhi : o < 0x1000)
    (hdiag : isDiag (tyOf page) = false) (hsync : tyOf page ≠ .sync) (hrwt : rwtMask (tyOf page) (instOf page) o = none)
    (hact : actionWrite a (tyOf page) page o v s = some t) : writeBy true a page o v s = .next t := by
  rw [writeBy_own a page o v s hacc hhi hlo, touched_other a page _ hsync]
  simp [ownWrite, hdiag, hrwt, hact]

theorem writeBy_sec {s t : State} {a : Agent} {o v : Nat} (hacc : accepts s a pgSec) (hlo : 0x040 ≤ o) (hhi : o < 0x1000)
    (hact : actionWrite a .sec pgSec o v s = some t) : writeBy true a pgSec o v s = .next t :=
  writeBy_action hacc hlo hhi rfl (by decide) rfl hact

/-! ## Life cycle -/

theorem writeBy_lcReq {s : State} {a : Agent} (n : Nat) (hacc : accepts s a pgSec) : writeBy true a pgSec 0x044 n s = .next (lcReq n s) :=
  writeBy_sec hacc (by decide) (by decide) rfl

theorem maintNow_setReg_sec (o v : Nat) (ho : o < 0x1000) (s : State) : maintNow (setReg pgSec o v s) = maintNow s := by
  have hreg : reg (setReg pgSec o v s) pgCfe 0x040 = reg s pgCfe 0x040 :=
    reg_setReg_other _ _ _ _ _ _ fun h => absurd (rk_inj _ _ _ _ (by decide) ho h).1 (by decide)
  simp only [maintNow, inMaintenance, devState, hreg]
  rfl

section
variable {s : State} {n : Nat} (hn : n < 8) (hmaint : maintNow s = true) (hidle : s.ctxs = []) (hallowed : lcAllowed s.fuses.life n = true)
include hn hmaint hidle hallowed

/-- An allowed request in MAINTENANCE with no context turns on its token (R552, R553). -/
theorem lcReq_starts : lcReq n s =
    if (lcToken n (setReg pgSec 0x044 n s)).1 then lcMove n (lcToken n (setReg pgSec 0x044 n s)).2
    else setReg pgSec 0x050 4 (lcToken n (setReg pgSec 0x044 n s)).2 := by
  simp [lcReq, Nat.mod_eq_of_lt hn, hallowed, maintNow_setReg_sec, hmaint, hidle]

/-- Only RMA needs a token. -/
theorem lcReq_starts_untokened (htoken : n ≠ 3) : lcReq n s = lcMove n (setReg pgSec 0x044 n s) := by
  rw [lcReq_starts hn hmaint hidle hallowed, lcToken, if_neg htoken, if_pos rfl]

end

/-! ## Tamper -/

theorem tamperMasked_setBit_cause (k i : Nat) (b : Bool) (s : State) : tamperMasked (setBit pgSec 0x054 i b s) k = tamperMasked s k := by
  have hreg : reg (setBit pgSec 0x054 i b s) pgSec 0x058 = reg s pgSec 0x058 := reg_setBit_other _ _ _ _ _ _ _ (by decide)
  rw [tamperMasked, hreg]
  rfl

theorem tamper_unmasked {s : State} {k : Nat} (h : s.fuses.life = 0 → (reg s pgSec 0x058).testBit k = false) :
    tamper k s = tamperStop (discardWindows (tamperClear (setBit pgSec 0x054 k true s))) := by
  have hmask : tamperMasked s k = false := by simpa [tamperMasked] using h
  rw [tamper, tamperMasked_setBit_cause, hmask]
  rfl

theorem exec_tamperDetect_runs {s : State} {k : Nat} (hk : k < 6) (hphase : s.boot.phase ≠ .held) :
    exec (.tamperDetect k) s = .next (tamper k s) :=
  act_runs s _ _ _ (decide_eq_true hk) (decide_eq_true hphase)

/-! ## Keys of the firmware -/

theorem mayRevoke_iff (s : State) (k : Nat) : mayRevoke s k = true ↔
    alive s = true ∧ inMaintenance s = true ∧ fwKey (bootedSlot s) ≠ k ∧ ∃ i, i < 4 ∧ i ≠ k ∧ nth s.fuses.revoked i true = false := by
  simp [mayRevoke, maintNow, and_assoc]

/-- The value that REVOKE is written with names the key below the bit that asks for it. -/
theorem revokeWrite_key {k : Nat} (hk : k < 4) (s : State) : revokeWrite (2 ^ 31 + k) s =
    if mayRevoke s k then { s with fuses := { s.fuses with revoked := updAt s.fuses.revoked k fun _ => true } } else raise pgSec 1 s := by
  have hbit : (2 ^ 31 + k).testBit 31 = true := by
    rw [Nat.testBit_two_pow_add_eq, Nat.testBit_lt_two_pow (by omega)]
    rfl
  have hkey : (2 ^ 31 + k) % 4 = k := by omega
  rw [revokeWrite, if_pos hbit, hkey]

theorem exec_revoke_runs {s : State} {a : Agent} {k : Nat} (hk : k < 4) (hacc : accepts s a pgSec) : exec (.revoke a k) s = .next
    (if mayRevoke s k then { s with fuses := { s.fuses with revoked := updAt s.fuses.revoked k fun _ => true } } else raise pgSec 1 s) := by
  change writeBy (decide (k < 4)) a pgSec 0x068 (2 ^ 31 + k) s = _
  rw [decide_eq_true hk, writeBy_sec hacc (by decide) (by decide) rfl, revokeWrite_key hk]

/-- Settles O46: the write acts by R565's conditions, and no command unblows a REV fuse. -/
theorem revocationFollowsItsRule : Obligations.RevocationFollowsItsRule := by
  unfold Obligations.RevocationFollowsItsRule
  refine fun s a k hk => ⟨fun hacc => ?write, fun c t hnext hrevoked => ?stays⟩
  case write =>
    rw [exec_revoke_runs hk hacc, ← mayRevoke_iff]
    exact ⟨fun hmay => by rw [if_pos hmay], fun hnot => by rw [if_neg hnot]⟩
  case stays =>
    obtain ⟨-, ⟨-, -, -, hstays⟩, -⟩ := exec_grows c s t hnext
    exact hstays k hrevoked

theorem exec_svnCommit_runs {s : State} {a : Agent} (hacc : accepts s a pgSec) : exec (.svnCommit a) s = .next (svnWrite 1 s) :=
  writeBy_sec hacc (by decide) (by decide) rfl

/-! ## Provisioned keys and evidence -/

theorem exec_keyProvision_runs {s : State} {a : Agent} {k : Nat} (hk : k < 2) (hacc : accepts s a pgKey) :
    exec (.keyProvision a k) s = .next (provWrite k s) := by
  change writeBy (decide (k < 2)) a pgKey 0x044 k s = _
  rw [decide_eq_true hk, writeBy_action hacc (by decide) (by decide) rfl (by decide) rfl rfl]

/-- A PROVISIONED device in MAINTENANCE that is not BUSY provisions at once or asks for K (R572). -/
theorem provWrite_provisioned {s : State} {k : Nat} (hk : k < 2) (hfree : reg s pgKey 0x050 ≠ 1) (hlife : s.fuses.life = 1)
    (hmaint : maintNow s = true) :
    provWrite k s = if canServe s instK then provision k s else askDrbg instK 2 k (setReg pgKey 0x050 1 s) := by
  simp [provWrite, hfree, hlife, hmaint, Nat.mod_eq_of_lt hk]

theorem exec_attestation_runs {s : State} {a : Agent} (r : Cpl) (hacc : accepts s a pgKey) :
    exec (.attestation a r) s = .next (attWrite 1 r s) := by
  change guardBy true a pgKey (attWrite 1 r) s = _
  rw [guardBy_runs a pgKey _ s hacc, touched_other a pgKey _ (by decide)]

theorem attWrite_signs {s : State} {seed : List Byte} (r : Cpl) (hseed : s.sec.idSeed = some seed) :
    attWrite 1 r s = setReg pgKey 0x060 (if (cplData r).isSome then 2 else 4)
      (noteCpl r (emit (.hostWrite (regPair s pgKey 0x058 / 64 * 64) (evidence s seed)) s)) := by
  simp [attWrite, hseed]

/-- Settles O45: each command acts, and its effect is the branch that its conditions name. -/
theorem securityRuns : Obligations.SecurityRuns := by
  unfold Obligations.SecurityRuns
  intro s a hsec hkey
  refine ⟨fun hmaint hidle => ⟨fun hlife => ?deployed, fun hlife => ?rma, fun hlife => ?scrapped⟩,
    ?blank, ?tamper, ?revoke, ?svn, ?provision, ?attestation⟩
  case deployed =>
    have hallowed : lcAllowed s.fuses.life 2 = true := by simp [lcAllowed, hlife]
    exact (writeBy_lcReq 2 hsec).trans (by rw [lcReq_starts_untokened (by decide) hmaint hidle hallowed (by decide)])
  case rma =>
    have hallowed : lcAllowed s.fuses.life 3 = true := by simpa [lcAllowed] using hlife
    exact (writeBy_lcReq 3 hsec).trans (by rw [lcReq_starts (by decide) hmaint hidle hallowed])
  case scrapped =>
    have hallowed : lcAllowed s.fuses.life 4 = true := by obtain h | h | h := hlife <;> simp [lcAllowed, h]
    exact (writeBy_lcReq 4 hsec).trans (by rw [lcReq_starts_untokened (by decide) hmaint hidle hallowed (by decide)])
  case blank => exact fun hlife hphase => act_runs s _ _ _ rfl (by simp [hlife, hphase])
  case tamper =>
    intro k hk hphase hmask
    rw [exec_tamperDetect_runs hk hphase, tamper_unmasked hmask]
  case revoke =>
    intro k hk hmay
    rw [exec_revoke_runs hk hsec, if_pos hmay]
  case svn =>
    intro halive
    rw [exec_svnCommit_runs hsec, svnWrite, if_pos ⟨by decide, halive⟩]
  case provision =>
    intro k hk hfree hlife hmaint
    rw [exec_keyProvision_runs hk hkey, provWrite_provisioned hk hfree hlife hmaint]
    exact ⟨fun hserves => by rw [if_pos hserves], fun hserves => by rw [hserves, if_neg Bool.false_ne_true]⟩
  case attestation =>
    intro r seed hseed
    rw [exec_attestation_runs r hkey, attWrite_signs r hseed]

end Sys2Proof.Machine
end

section
/-!
PROOFS. The entropy service: sources, blocks, reseeds, requests that wait, BOOT_ID and the H interface (R576 to R585).
-/
namespace Sys2Proof.Machine

/-! ## Sources and blocks -/

theorem exec_startUpTestsEnd_runs {s : State} (p q r : Bool) (hon : entropyOn s = true) (hstart : s.ent.service = 0) :
    exec (.startUpTestsEnd p q r) s = .next (settleService (testSource (testSource (testSource s 0 p) 1 q) 2 r)) :=
  act_runs s _ _ _ rfl (by simp [hon, hstart])

theorem exec_entropyTestTrip_runs {s : State} {k : Nat} (hk : k < 3) (hservice : s.ent.service ≠ 0) (hhealthy : sourceSt s k = 1)
    (htrip : mayTrip s k = true) : exec (.entropyTestTrip k) s = .next (settleService (failSource k s)) :=
  act_runs s _ _ _ (decide_eq_true hk) (by simp [hservice, hhealthy, htrip])

/-- A rerun that has taken its time ends as its operand says (R579). -/
theorem exec_sourceRetest_runs {s : State} {k : Nat} {pass : Bool} (hk : k < 3) (hfailed : sourceSt s k = 2)
    (hover : nth s.ent.retestAt k 0 + 256000 ≤ s.now) (hend : mayEnd s k pass = true) :
    exec (.sourceRetest k pass) s = .next (if pass then settleService (healSource k s) else retestAgain k s) :=
  act_runs s _ _ _ (decide_eq_true hk) (by simp [retestOver, hfailed, hover, hend])

/-- A block is taken while the service is HEALTHY or DEGRADED, and one that repeats the last fails the sources (R580). -/
theorem exec_conditionedBlock_runs {s : State} {b : List Byte} (hlen : b.length = 32)
    (hservice : s.ent.service = 1 ∨ s.ent.service = 2) :
    exec (.conditionedBlock b) s = .next (if b = s.ent.prev then repeatedBlock s else giveBlock b s) :=
  act_runs s _ _ _ rfl (by simp [hlen, hservice])

/-! ## Requests that wait -/

theorem exec_entropyRequestTimeout_runs {s : State} {k : Nat} {r : EntReq} (hreq : s.ent.reqs[k]? = some r) (hdue : reqDue s r = true)
    (hwaits : canServe s r.inst = false) : exec (.entropyRequestTimeout k) s = .next (reqTimeout k r s) := by
  change execEntropyRequestTimeout k s = _
  rw [execEntropyRequestTimeout, hreq]
  exact act_runs s _ _ _ rfl (by simp [hdue, hwaits])

/-- A request that still has its client fails it. -/
theorem reqTimeout_live {s : State} {r : EntReq} (k : Nat) (hlive : reqLive s r = true) :
    reqTimeout k r s = pump (reqClient r (reqFails (updEnt (fun e => { e with reqs := e.reqs.eraseIdx k }) s))) := by
  rw [reqTimeout, if_pos hlive]

/-! ## The H interface -/

theorem exec_hReq_runs {s : State} {a : Agent} (hacc : accepts s a pgEntropy) : exec (.hReq a) s = .next (hReqWrite 1 s) :=
  writeBy_action hacc (by decide) (by decide) rfl (by decide) rfl rfl

/-- A read of H_DATA[7] is the one of the page that changes the H interface (R585). -/
theorem barRead_hDataLast {s : State} (hshown : shown s pgEntropy = true) :
    barRead (rk pgEntropy 0x07C) s = (liveReg s pgEntropy 0x07C, hDataDone s) := by
  have hpage : pageAt pgEntropy = some (.entropy, 0) := by decide
  have hat : rk pgEntropy 0x07C / 0x1000 = pgEntropy := by decide
  have hreg : rk pgEntropy 0x07C % 0x1000 = 0x07C := by decide
  simp [barRead, hat, hreg, hpage, hshown, isDiag, roPair]

theorem exec_hDataLastRead_runs {s : State} {a : Agent} (hacc : accepts s a pgEntropy) :
    exec (.hDataLastRead a) s = .next (emit (.barData a (liveReg s pgEntropy 0x07C)) (hDataDone s)) := by
  obtain ⟨hserves, -, hshown, -⟩ := hacc
  change execHDataLastRead a s = _
  rw [execHDataLastRead, act_runs s _ _ _ rfl hserves, readBy, barRead_hDataLast hshown]

/-- Settles O47: each command acts where its guard holds; a block goes by whether it repeats the last, a request by whether it still has its
client. -/
theorem entropyRuns : Obligations.EntropyRuns := by
  unfold Obligations.EntropyRuns
  refine ⟨fun s k => ⟨?startUp, ?trips, ?retests, ?blocks, ?reseed, ?timeout, ?bootId⟩, fun s a hacc =>
    ⟨exec_hReq_runs hacc, exec_hDataLastRead_runs hacc⟩⟩
  case startUp => exact fun p q r => exec_startUpTestsEnd_runs p q r
  case trips => exact exec_entropyTestTrip_runs
  case retests =>
    intro hk hfailed hover
    exact ⟨exec_sourceRetest_runs hk hfailed hover, exec_sourceRetest_runs hk hfailed hover⟩
  case blocks =>
    intro b hlen hservice
    rw [exec_conditionedBlock_runs hlen hservice]
    exact ⟨fun hnew => by rw [if_neg hnew], fun hsame => by rw [if_pos hsame]⟩
  case reseed => exact fun hk hdue => act_runs s _ _ _ (decide_eq_true hk) hdue
  case timeout =>
    intro r hreq hdue hwaits hlive
    rw [exec_entropyRequestTimeout_runs hreq hdue hwaits, reqTimeout_live k hlive]
  case bootId => exact act_runs s _ _ _ rfl

end Sys2Proof.Machine
end

section
/-!
PROOFS. The reef controller: what raises the level, and the commands of power, margins and sensors (R35, R593 to R605, R658).
-/
namespace Sys2Proof.Machine

/-! ## Registers that events and counters leave alone -/

/-- An event message reads registers and changes none. -/
@[simp] theorem reg_eventMessage (page : Nat) (b : Bool) (s : State) (q r : Nat) : reg (eventMessage page b s) q r = reg s q r := by
  rw [eventMessage_only]
  rfl

theorem reg_raise_other {page q r : Nat} (bit : Nat) (s : State) (h : rk q r ≠ rk page oEvtStatus) : reg (raise page bit s) q r = reg s q r := by
  rw [raise, raiseMask, reg_eventMessage, reg_setReg_other _ _ _ _ _ _ h]

/-- The registers that a count can change: the counter, and those that tell of a counter that has become saturated (R648). -/
def bumpRegs (page off : Nat) : List Nat := [rk page off, rk page oStatus, rk pgDev 0x060, rk pgDev oEvtStatus]

theorem reg_bump_other {page off q r : Nat} (s : State) (h : rk q r ∉ bumpRegs page off) : reg (bump page off s) q r = reg s q r := by
  simp only [bumpRegs, List.mem_cons, List.not_mem_nil, or_false, not_or] at h
  obtain ⟨hcounter, hstatus, hinfo, hevent⟩ := h
  rw [bump, bumpN]
  split
  · rw [noteSat, reg_raise_other _ _ hevent, reg_setReg_other _ _ _ _ _ _ hinfo, reg_setBit_other _ _ _ _ _ _ _ hstatus,
      reg_setReg_other _ _ _ _ _ _ hcounter]
  · exact reg_setReg_other _ _ _ _ _ _ hcounter

@[simp] theorem power_raise (page bit : Nat) (s : State) : (raise page bit s).power = s.power := by rw [raise_only]

@[simp] theorem power_bump (page off : Nat) (s : State) : (bump page off s).power = s.power := by rw [bump_only]

/-! ## The issue limit and the request leave the level alone -/

theorem settleIssue_only (s : State) : settleIssue s = { s with power := (settleIssue s).power } := by
  unfold settleIssue
  split
  · split <;> rfl
  · rfl

@[simp] theorem regs_settleIssue (s : State) : (settleIssue s).regs = s.regs := by rw [settleIssue_only]

@[simp] theorem level_settleIssue (s : State) : (settleIssue s).power.level = s.power.level := by
  unfold settleIssue
  split
  · split <;> rfl
  · rfl

@[simp] theorem regs_setIssue (n : Nat) (s : State) : (setIssue n s).regs = s.regs := regs_settleIssue s

@[simp] theorem level_setIssue (n : Nat) (s : State) : (setIssue n s).power.level = s.power.level := level_settleIssue s

@[simp] theorem regs_riseIssue (n : Nat) (s : State) : (riseIssue n s).regs = s.regs := by
  rw [riseIssue]
  split <;> simp

theorem reg_riseIssue (n : Nat) (s : State) (q r : Nat) : reg (riseIssue n s) q r = reg s q r := by rw [reg, regs_riseIssue, reg]

@[simp] theorem level_riseIssue (n : Nat) (s : State) : (riseIssue n s).power.level = s.power.level := by
  rw [riseIssue]
  split <;> simp

/-- A request for VCORE shows in one register. -/
theorem reg_sendAvs_other {q r : Nat} (s : State) (h : rk q r ≠ rk pgPower 0x064) : reg (sendAvs s) q r = reg s q r :=
  reg_setReg_other pgPower 0x064 q r (vReq s) s h

theorem reg_followVreq_other {q r : Nat} (s : State) (h : rk q r ≠ rk pgPower 0x064) : reg (followVreq s) q r = reg s q r := by
  rw [followVreq]
  split
  · rfl
  · exact reg_sendAvs_other s h

@[simp] theorem level_followVreq (s : State) : (followVreq s).power.level = s.power.level := by
  rw [followVreq]
  split <;> rfl

/-! ## The level and OVERRIDE (R35, R599) -/

theorem level_levelUp (n : Nat) (s : State) : (levelUp n s).power.level = max n s.power.level := by
  rw [levelUp]
  split
  case isTrue hle => exact (Nat.max_eq_right hle).symm
  case isFalse hlt =>
    have hset : (updPower (fun p => { p with level := n }) s).power.level = n := rfl
    rw [level_followVreq, level_riseIssue, traceNote, power_emit, power_bump, hset, Nat.max_eq_left (Nat.le_of_not_le hlt)]

/-- OVERRIDE is a register that no rise of the level changes. -/
theorem reg_levelUp_override (n : Nat) (s : State) : reg (levelUp n s) pgPower 0x060 = reg s pgPower 0x060 := by
  rw [levelUp]
  split
  · rfl
  · rw [reg_followVreq_other _ (by decide), reg_riseIssue]
    exact reg_bump_other _ (by decide)

@[simp] theorem power_setOverride (s : State) : (setOverride s).power = s.power := by
  rw [setOverride]
  split
  · rfl
  · exact power_raise _ _ _

theorem reg_setOverride_testBit (s : State) : (reg (setOverride s) pgPower 0x060).testBit 0 = true := by
  rw [setOverride]
  split
  case isTrue hset => exact hset
  case isFalse =>
    rw [reg_raise_other _ _ (by decide), setBit, reg_setReg_same, Nat.testBit_mod_two_pow]
    simp

/-- Settles O49: the level rises by what the trigger says as far as 7, and OVERRIDE is set before a rise above REEF_MAX. -/
theorem triggersRaiseTheLevel : Obligations.TriggersRaiseTheLevel := by
  unfold Obligations.TriggersRaiseTheLevel
  refine fun s k hlevel => ⟨?level, fun hmax => ?override⟩
  case level =>
    have hpower : (if reg s pgPower 0x048 % 8 < min 7 (s.power.level + k) then setOverride s else s).power = s.power := by
      split <;> simp
    rw [triggerRaise, level_levelUp, hpower]
    omega
  case override =>
    rw [triggerRaise, if_pos hmax, reg_levelUp_override]
    exact reg_setOverride_testBit s

/-! ## Evaluations, requests, margins and sensors -/

theorem alive_updPower (f : Power → Power) (s : State) : alive (updPower f s) = alive s := rfl

theorem phase_of_alive {s : State} (halive : alive s = true) : s.boot.phase = .running := of_decide_eq_true halive

/-- ALERT_N of a device that runs is a Regulator trigger at once (R598). -/
theorem alertFalls_alive {s : State} (halive : alive s = true) :
    alertFalls s = triggerRaise 2 (setTrigger 3 (raise pgPower 2 (updPower (fun q => { q with alert := true }) s))) := by
  rw [alertFalls, if_pos ((alive_updPower _ s).trans halive), raiseNow]

/-- The repeat of a request that has failed is acknowledged or not (R658). -/
theorem exec_avsRetry_runs {s : State} (ok : Bool) (halive : alive s = true) (hout : s.power.avsOut = true)
    (hdue : s.power.lastAvs + 100000 ≤ s.now) :
    exec (.avsRetry ok) s = .next (if ok then ackAvs (sendAvs (avsFails s)) else sendAvs (avsFails s)) :=
  act_runs s _ _ _ rfl (by simp [halive, hout, hdue])

theorem exec_canaryFire_runs {s : State} {p : Nat} (hp : p < 36) (halive : alive s = true) :
    exec (.canaryFire p) s = .next (if (marginOf s p).code < codeMax (marginOf s p)
      then setCode p ((marginOf s p).code + 1) (bump pgSpeed 0x058 s) else triggerRaise 1 (setTrigger 4 (bump pgSpeed 0x058 s))) :=
  act_runs s _ _ _ (decide_eq_true hp) halive

theorem exec_thermtrip_runs {s : State} {p : Nat} (hp : p < 41) (hphase : s.boot.phase ≠ .held) (htripped : s.thermTripped = false) :
    exec (.thermtrip p) s = .next (tripNow s) :=
  act_runs s _ _ _ (decide_eq_true hp) (by simp [hphase, htripped])

/-- Settles O48: each command acts where its guard holds; a firing lane goes by whether its tile's code is below the upper bound, a
repeat by whether it succeeds. -/
theorem powerRuns : Obligations.PowerRuns := by
  unfold Obligations.PowerRuns
  intro s p halive
  refine ⟨fun m hdue => ?reef, fun r hdue => ?speed, ?surge, ?alert, fun hout => ?ack, fun hout hdue => ?retry,
    fun hp => ⟨fun hbelow => ?rises, fun hat => ?triggers, fun hadapt habove => ?decays⟩, fun ts hlen => ?sensors,
    fun hp htripped => ?trips⟩
  case reef => exact act_runs s _ _ _ rfl (by simp [halive, hdue])
  case speed => exact act_runs s _ _ _ rfl (by simp [halive, hdue])
  case surge => exact act_runs s _ _ _ rfl halive
  case alert =>
    rw [← alertFalls_alive halive]
    exact act_runs s _ _ _ rfl rfl
  case ack => exact act_runs s _ _ _ rfl (by simp [halive, hout])
  case retry => exact ⟨exec_avsRetry_runs false halive hout hdue, exec_avsRetry_runs true halive hout hdue⟩
  case rises => rw [exec_canaryFire_runs hp halive, if_pos hbelow]
  case triggers => rw [exec_canaryFire_runs hp halive, if_neg (Nat.not_lt.2 hat)]
  case decays => exact act_runs s _ _ _ (decide_eq_true hp) (by simp [halive, hadapt, habove])
  case sensors => exact act_runs s _ _ _ rfl (by simp [halive, hlen])
  case trips => exact exec_thermtrip_runs hp (by simp [phase_of_alive halive]) htripped

end Sys2Proof.Machine
end

section
/-!
PROOFS. Cold and warm resets, boot and recovery: what they keep, and when they run (R564, R591, R612 to R619, R670, R674).
-/
namespace Sys2Proof.Machine

/-! ## What a warm reset keeps (R612) -/

/-- The links come up again from the map: registers and links change, and nothing else. -/
theorem bootLinks_only (s : State) : bootLinks s = { s with regs := (bootLinks s).regs, links := (bootLinks s).links } := by
  rw [bootLinks]
  split
  · refine List.foldlRecOn (motive := fun t : State => t = { s with regs := t.regs, links := t.links }) _ _ rfl fun t ht l _ => ?_
    rw [ht]
    rfl
  · rfl

/-- What stands beside memory and the registers after a warm reset. -/
theorem warmReset_keeps (warm : Bool) (s : State) :
    (warmReset warm s).fuses = s.fuses ∧ (warmReset warm s).flash = s.flash ∧ (warmReset warm s).sec = s.sec ∧
    (warmReset warm s).now = s.now ∧ (warmReset warm s).ctxs = [] ∧ (warmReset warm s).progs = [] ∧ (warmReset warm s).sems = [] := by
  rw [warmReset, bootLinks_only]
  exact ⟨rfl, rfl, rfl, rfl, rfl, rfl, rfl⟩

theorem mem_warmBase_kept {s : State} {a : Nat} (h : warmMem s a = true) : spGet zeroByte a (warmBase s).mem = spGet zeroByte a s.mem :=
  spGet_filter zeroByte a _ s.mem fun _ => h

theorem mem_warmBase_zeroed {s : State} {a : Nat} (h : warmMem s a = false) : spGet zeroByte a (warmBase s).mem = 0 :=
  spGet_filter_out zeroByte a _ s.mem fun _ => h

/-- Settles O51: a cold reset names what it takes over, and a warm reset filters memory by `warmMem`. -/
theorem resetsKeep : Obligations.ResetsKeep := by
  unfold Obligations.ResetsKeep
  refine ⟨fun s => ?cold, fun s b => ?warm⟩
  case cold => exact ⟨rfl, rfl, rfl, rfl, rfl, rfl, rfl, rfl, rfl, rfl⟩
  case warm => exact ⟨fun _ hkept => mem_warmBase_kept hkept, fun _ hzeroed => mem_warmBase_zeroed hzeroed, warmReset_keeps b s⟩

/-! ## Cold resets -/

theorem exec_porstNRise_runs {s : State} (m kat : Nat) (hlow : s.boot.porst = false) :
    exec (.porstNRise m kat) s = .next
      (if powerGood s then startUp kat { s with boot := { s.boot with porst := true, mode := sampledMode s m } }
      else { s with boot := { s.boot with porst := true, mode := sampledMode s m } }) :=
  act_runs s _ _ _ rfl (by simp [hlow])

/-- With PORST_N high a bad rail holds the device in reset (R591). -/
theorem railBad_porst {s : State} (rail : Nat) (hporst : s.boot.porst = true) :
    railBad rail s = holdReset { s with boot := { s.boot with railsBad := rail :: s.boot.railsBad.filter fun q => decide (q ≠ rail) } } := by
  rw [railBad, if_pos hporst]

theorem exec_railFault_runs {s : State} {r : RailMeas} (hr : r.rail < 7) (hbad : railWithin s r = false) :
    exec (.railFault r) s = .next (railBad r.rail s) :=
  act_runs s _ _ _ (decide_eq_true hr) (by simp [hbad])

theorem exec_pwrgdLow_runs {s : State} (hgood : s.boot.pwrgd = true) (hporst : s.boot.porst = true) :
    exec .pwrgdLow s = .next (holdReset { s with boot := { s.boot with pwrgd := false } }) :=
  (act_runs s _ _ _ rfl hgood).trans (by rw [if_pos hporst])

theorem exec_internalResetRelease_runs {s : State} (kat : Nat) (hbad : powerGood s = false) (hporst : s.boot.porst = true) :
    exec (.internalResetRelease kat) s = .next (startUp kat { s with boot := { s.boot with pwrgd := true, railsBad := [] } }) :=
  (act_runs s _ _ _ rfl (by simp [hbad])).trans (by rw [if_pos hporst])

/-! ## Boot and recovery -/

theorem exec_bootComplete_runs {s : State} {f : BootFacts} (hphase : s.boot.phase = .starting) (hfacts : factsOk f = true) :
    exec (.bootComplete f) s = .next (bootReady f s) :=
  act_runs s _ _ _ rfl (by simp [hphase, hfacts])

theorem exec_recoveryCmd_runs {s : State} {a : Agent} (hacc : accepts s a pgBoot) :
    exec (.recoveryCmd a) s = .next (recoveryWrite 1 s) :=
  writeBy_action hacc (by decide) (by decide) rfl (by decide) rfl rfl

/-- In recovery the image that stands in the Slate of tile 0 is installed where it passes its checks (R619). -/
theorem recoveryWrite_recovery {s : State} (hphase : s.boot.phase = .recovery) :
    recoveryWrite 1 s = if imageOk s (spBytes s.mem (slateBase 0) (reg s pgBoot 0x044))
      then installImage (spBytes s.mem (slateBase 0) (reg s pgBoot 0x044)) s else setReg pgBoot 0x04C 3 s := by
  rw [recoveryWrite, if_pos ⟨by decide, hphase⟩]

/-! ## Warm resets -/

/-- A warm-ranked reset of a device that runs, and in which no reset runs, is a warm reset (R615, R618). -/
theorem warmRanked_running {s : State} (hphase : s.boot.phase = .running) (hwarm : s.boot.warm = none) :
    warmRanked s = warmReset true (pcieDown s) := by
  have hboot : (pcieDown s).boot = s.boot := rfl
  simp [warmRanked, hboot, hphase, hwarm]

section
variable {s : State} (hphase : s.boot.phase = .running) (hwarm : s.boot.warm = none)
include hphase hwarm

theorem exec_perstNAssert_runs (hperst : s.boot.perst = true) :
    exec .perstNAssert s = .next (warmReset true (pcieDown { s with boot := { s.boot with perst := false } })) :=
  (act_runs s _ _ _ rfl (by simp [hperst, hphase])).trans (congrArg Host.Outcome.next (warmRanked_running hphase hwarm))

theorem exec_pcieHotReset_runs (hup : s.pcieUp = true) : exec .pcieHotReset s = .next (warmReset true (pcieDown s)) :=
  (act_runs s _ _ _ rfl hup).trans (congrArg Host.Outcome.next (warmRanked_running hphase hwarm))

theorem configServed_running (hup : s.pcieUp = true) : configServed s = true := by simp [configServed, hup, hphase, hwarm]

/-- An FLR and an entry to D3hot have the same condition and the same reset (R612, R670). -/
theorem exec_flr_d3hotEntry_run (hup : s.pcieUp = true) (hd0 : s.boot.d3hot = false) :
    exec .flr s = .next (warmReset false s) ∧
      exec .d3hotEntry s = .next { warmReset false s with boot := { (warmReset false s).boot with d3hot := true } } := by
  have hmay : (configServed s && !s.boot.d3hot) = true := by simp [configServed_running hphase hwarm hup, hd0]
  exact ⟨act_runs s _ _ _ rfl hmay, act_runs s _ _ _ rfl hmay⟩

end

/-- The link trains with PERST_N high, in any phase but a held reset, to a speed and a width that it has (R674). -/
theorem exec_pcieLinkTrained_runs {s : State} {v w : Nat} (f : Bool) (hdown : s.pcieUp = false) (hperst : s.boot.perst = true)
    (hphase : s.boot.phase ≠ .held) (hspeed : 1 ≤ v ∧ v ≤ 6) (hwidth : 1 ≤ w ∧ w ≤ 16) :
    exec (.pcieLinkTrained v w f) s = .next (linkTrained v w f s) :=
  act_runs s _ _ _ rfl (by simp [hdown, hperst, hphase, hspeed, hwidth])

/-- Settles O50: a cold reset goes by its cause and PORST_N, a recovery by its image, a warm reset by the phase. -/
theorem resetsRun : Obligations.ResetsRun := by
  unfold Obligations.ResetsRun
  refine ⟨fun s => ⟨fun hporst => ?porst, fun hlow m kat => ?rise, fun r v hr hporst hbad => ?rail, ?pwrgd, ?release, ?ready,
      fun a hacc hphase => ?recovery⟩,
    fun s => ⟨fun hphase hwarm => ⟨?perst, ?hotReset, ?function⟩, fun hlow => ?perstRise, fun hd3 hup => ?d0, fun hwarm => ?ends,
      fun v w f hdown hperst hphase hv hv6 hw hw16 => ?trains⟩⟩
  case porst => exact act_runs s _ _ _ rfl hporst
  case rise =>
    rw [exec_porstNRise_runs m kat hlow]
    exact ⟨fun hgood => by rw [if_pos hgood], fun hbad => by rw [hbad, if_neg Bool.false_ne_true]⟩
  case rail => rw [exec_railFault_runs hr hbad, railBad_porst r hporst]
  case pwrgd => exact exec_pwrgdLow_runs
  case release => exact exec_internalResetRelease_runs
  case ready => exact fun f => exec_bootComplete_runs
  case recovery =>
    rw [exec_recoveryCmd_runs hacc, recoveryWrite_recovery hphase]
  case perst => exact exec_perstNAssert_runs hphase hwarm
  case hotReset => exact exec_pcieHotReset_runs hphase hwarm
  case function => exact exec_flr_d3hotEntry_run hphase hwarm
  case perstRise => exact act_runs s _ _ _ rfl (by simp [hlow])
  case d0 => exact act_runs s _ _ _ rfl (by simp [hd3, hup])
  case ends => exact act_runs s _ _ _ rfl hwarm
  case trains => exact exec_pcieLinkTrained_runs f hdown hperst hphase ⟨hv, hv6⟩ ⟨hw, hw16⟩

end Sys2Proof.Machine
end

section
/-!
PROOFS. The calibration record and the sources of time (R503, R504, R608, R623 to R625).
-/
namespace Sys2Proof.Machine

/-! ## Commands of CAL_CMD -/

/-- A command that an agent is let through to the CAL page is the command alone: the page is not watched for stalls. -/
theorem guardBy_cal_runs {s : State} {a : Agent} (cmd : Nat) (lm links : List Byte) (hacc : accepts s a pgCal) :
    guardBy true a pgCal (calCommand cmd lm links) s = .next (calCommand cmd lm links s) := by
  rw [guardBy_runs a pgCal _ s hacc, touched_other a pgCal _ (by decide)]

section
variable {s : State} (lm links : List Byte) (hmay : calAccepts s = true)
include hmay

theorem calCommand_write : calCommand 1 lm links s = calStoreWith (keyBytes (calSrc s) 65536 s) := by simp [calCommand, hmay, calStore]

theorem calCommand_read : calCommand 2 lm links s = calOut (calFlash s.flash.cal) s := by simp [calCommand, hmay]

theorem calCommand_capture : calCommand 3 lm links s = calOut (calCaptured s lm links) s := by simp [calCommand, hmay]

end

/-! ## Sources of time -/

theorem exec_ppsLoss_runs {s : State} {t : Nat} (hlast : s.ppsLast = some t) (hover : t + 1500000000 ≤ s.now) :
    exec .ppsLoss s = .next (setBit pgTime 0x068 1 false (setBit pgTime 0x068 0 false { s with ppsLast := none })) :=
  act_runs s _ _ _ rfl (by simp [ppsLost, hlast, hover])

theorem exec_ptmExchange_runs {s : State} (t : Nat) (halive : alive s = true) (hup : s.pcieUp = true) (hrequester : syncCtrl s 2 = true)
    (hdue : s.ptmLast + 10000000 ≤ s.now) : exec (.ptmExchange t) s = .next (ptmDone t s) :=
  act_runs s _ _ _ rfl (by simp [halive, hup, hrequester, hdue])

/-- Settles O52: each command of CAL_CMD has its effect where it is accepted, and each source of time acts where its guard holds. -/
theorem calibrationAndTimeRun : Obligations.CalibrationAndTimeRun := by
  unfold Obligations.CalibrationAndTimeRun
  refine fun s => ⟨fun a x y hacc hmay => ⟨?write, ?read, ?capture⟩, fun halive => ?edge, ?loss, ?exchange, fun hphase hlocked => ?clockLost,
    fun hlost => ?clockFound⟩
  case write => exact (guardBy_cal_runs 1 [] [] hacc).trans (by rw [calCommand_write [] [] hmay])
  case read => exact (guardBy_cal_runs 2 [] [] hacc).trans (by rw [calCommand_read [] [] hmay])
  case capture => exact (guardBy_cal_runs 3 x y hacc).trans (by rw [calCommand_capture x y hmay])
  case edge => exact act_runs s _ _ _ rfl halive
  case loss => exact fun t => exec_ppsLoss_runs
  case exchange => exact fun t => exec_ptmExchange_runs t
  case clockLost => exact act_runs s _ _ _ rfl (by simp [hphase, hlocked])
  case clockFound => exact act_runs s _ _ _ rfl hlost

end Sys2Proof.Machine
end

section
/-!
PROOFS. Registers, events and saturating counters (R627, R637, R638, R648): bits of a register value, what an event sets and sends, what
a count leaves.
-/
namespace Sys2Proof.Machine

/-- Settles O10: a store sets its own key, and two registers are one only where their keys agree. -/
theorem registerReadsBack : Obligations.RegisterReadsBack := by
  unfold Obligations.RegisterReadsBack
  exact fun s page off page' off' v => ⟨reg_setReg_same page off v s, reg_setReg_other page off page' off' v s⟩

/-! ## Bits -/

/-- Two numbers that share no bit add up without a carry. -/
theorem add_eq_or_of_and_eq_zero {a b : Nat} (h : a &&& b = 0) : a + b = a ||| b := by
  have hfits : a + b < 2 ^ (a + b) := Nat.lt_two_pow_self
  have hdisjoint : BitVec.ofNat (a + b) a &&& BitVec.ofNat (a + b) b = 0#(a + b) := by rw [← BitVec.ofNat_and, h]
  have hadd := congrArg BitVec.toNat (BitVec.add_eq_or_of_and_eq_zero _ _ hdisjoint)
  rw [← BitVec.ofNat_add, ← BitVec.ofNat_or, BitVec.toNat_ofNat, BitVec.toNat_ofNat, Nat.mod_eq_of_lt hfits,
    Nat.mod_eq_of_lt (Nat.or_lt_two_pow (by omega) (by omega))] at hadd
  exact hadd

/-- Subtracting some of a number's bits clears them. -/
theorem testBit_sub_and (a m i : Nat) : (a - (a &&& m)).testBit i = (a.testBit i && !m.testBit i) := by
  have hdisjoint : (a &&& m) &&& Nat.ldiff a m = 0 := by
    refine Nat.eq_of_testBit_eq fun j => ?_
    simp only [Nat.testBit_and, Nat.testBit_ldiff, Nat.zero_testBit]
    cases a.testBit j <;> cases m.testBit j <;> rfl
  have hparts : (a &&& m) ||| Nat.ldiff a m = a := by
    refine Nat.eq_of_testBit_eq fun j => ?_
    simp only [Nat.testBit_or, Nat.testBit_and, Nat.testBit_ldiff]
    cases a.testBit j <;> cases m.testBit j <;> rfl
  have hrest : a - (a &&& m) = Nat.ldiff a m := by
    have hsum := add_eq_or_of_and_eq_zero hdisjoint
    omega
  rw [hrest, Nat.testBit_ldiff]

/-- Of some of a number's bits, those outside `keep` are cleared. -/
theorem testBit_sub_and_add (a m keep i : Nat) :
    (a - (a &&& m) + (a &&& m &&& keep)).testBit i = (a.testBit i && (!m.testBit i || keep.testBit i)) := by
  have hdisjoint : (a - (a &&& m)) &&& (a &&& m &&& keep) = 0 := by
    refine Nat.eq_of_testBit_eq fun j => ?_
    simp only [Nat.testBit_and, testBit_sub_and, Nat.zero_testBit]
    cases a.testBit j <;> cases m.testBit j <;> rfl
  rw [add_eq_or_of_and_eq_zero hdisjoint]
  simp only [Nat.testBit_or, Nat.testBit_and, testBit_sub_and]
  cases a.testBit i <;> cases m.testBit i <;> simp

/-- A bit of a register reads back as stored. -/
theorem testBit_reg_setReg {i : Nat} (page off v : Nat) (s : State) (hi : i < 32) :
    (reg (setReg page off v s) page off).testBit i = v.testBit i := by
  rw [reg_setReg_same, Nat.testBit_mod_two_pow, decide_eq_true hi, Bool.true_and]

/-! ## Events -/

/-- A raised event adds to the page's event bits. -/
theorem testBit_reg_raiseMask {i : Nat} (page mask : Nat) (s : State) (hi : i < 32) :
    (reg (raiseMask page mask s) page oEvtStatus).testBit i = ((reg s page oEvtStatus).testBit i || mask.testBit i) := by
  rw [raiseMask, reg_eventMessage, testBit_reg_setReg page oEvtStatus _ s hi, Nat.testBit_or]

theorem testBit_reg_raise_self {bit : Nat} (page : Nat) (s : State) (hbit : bit < 32) :
    (reg (raise page bit s) page oEvtStatus).testBit bit = true := by
  rw [raise, testBit_reg_raiseMask page _ s hbit, Nat.testBit_two_pow_self, Bool.or_true]

/-- A page with an event that is set and enabled has enabled events. -/
theorem pageRaised_of_testBit {s : State} {page bit : Nat} (hset : (reg s page oEvtStatus).testBit bit = true)
    (henabled : (reg s page oEvtEnable).testBit bit = true) : pageRaised s page = true := by
  refine decide_eq_true fun hnone => ?_
  have hboth := congrArg (Nat.testBit · bit) hnone
  simp [Nat.testBit_and, hset, henabled] at hboth

/-- An event that is enabled, in a page without enabled events so far, sends the message of FAULT_VEC (R637). -/
theorem out_raise_first {s : State} {page bit : Nat} (hbit : bit < 32) (hnone : pageRaised s page = false)
    (henabled : (reg s page oEvtEnable).testBit bit = true) :
    (raise page bit s).out = .msix (reg s pgCfe 0x064 % 128) :: s.out := by
  have hvec : rk pgCfe 0x064 ≠ rk page oEvtStatus := by unfold rk pgCfe oEvtStatus; omega
  have henable : rk page oEvtEnable ≠ rk page oEvtStatus := by unfold rk oEvtEnable oEvtStatus; omega
  have hraised : pageRaised (setReg page oEvtStatus (reg s page oEvtStatus ||| 2 ^ bit) s) page = true := by
    refine pageRaised_of_testBit (bit := bit) ?_ ?_
    · rw [testBit_reg_setReg page oEvtStatus _ s hbit, Nat.testBit_or, Nat.testBit_two_pow_self, Bool.or_true]
    · rw [reg_setReg_other _ _ _ _ _ _ henable, henabled]
  rw [raise, raiseMask, eventMessage, hnone, hraised, reg_setReg_other _ _ _ _ _ _ hvec]
  rfl

/-- A further event of a page with enabled events sends nothing (R637). -/
theorem out_raise_further {s : State} {page : Nat} (bit : Nat) (hsome : pageRaised s page = true) : (raise page bit s).out = s.out := by
  rw [raise, raiseMask, eventMessage, hsome]
  rfl

/-- Settles O14: the bit joins the page's event bits, and the message goes by whether the page had enabled events before. -/
theorem raiseSetsTheBit : Obligations.RaiseSetsTheBit := by
  unfold Obligations.RaiseSetsTheBit
  exact fun s page bit hbit => ⟨testBit_reg_raise_self page s hbit, out_raise_first hbit, out_raise_further bit⟩

/-! ## Counters -/

/-- Outside the DEV page, noting a saturated counter leaves every register of the page but STATUS. -/
theorem reg_noteSat_other {page off : Nat} (s : State) (hdev : page ≠ pgDev) (hstatus : off ≠ oStatus) :
    reg (noteSat page s) page off = reg s page off := by
  have hevent : rk page off ≠ rk pgDev oEvtStatus := by unfold rk oEvtStatus; unfold pgDev at *; omega
  have hinfo : rk page off ≠ rk pgDev 0x060 := by unfold rk; unfold pgDev at *; omega
  have hself : rk page off ≠ rk page oStatus := by unfold rk; omega
  rw [noteSat, reg_raise_other _ _ hevent, reg_setReg_other _ _ _ _ _ _ hinfo, reg_setBit_other _ _ _ _ _ _ _ hself]

/-- Settles O15: the counter takes the smaller of the sum and 2³² − 1, and what is noted of its saturation stands elsewhere. -/
theorem counterSaturates : Obligations.CounterSaturates := by
  unfold Obligations.CounterSaturates
  intro s page off n hdev hstatus
  have hfits : min (2 ^ 32 - 1) (reg s page off + n) < 2 ^ 32 := by omega
  rw [bumpN]
  split
  case isTrue => rw [reg_noteSat_other _ hdev hstatus, reg_setReg_same, Nat.mod_eq_of_lt hfits]
  case isFalse => rw [reg_setReg_same, Nat.mod_eq_of_lt hfits]

end Sys2Proof.Machine
end

section
/-!
PROOFS. Transactions of pages and of groups (R639 to R647): what commands, writes and safe points do to the transaction of a page, and
what a staged value leaves alone.
-/
namespace Sys2Proof.Machine

/-! ## The transaction of a page -/

theorem txnOf_updTxn (page p : Nat) (f : Txn → Txn) (s : State) :
    txnOf (updTxn page f s) p = if p = page then f (txnOf s page) else txnOf s p :=
  spGet_set txnIdle page p _ s.txns

theorem txnOf_updTxn_self (page : Nat) (f : Txn → Txn) (s : State) : txnOf (updTxn page f s) page = f (txnOf s page) := by
  rw [txnOf_updTxn, if_pos rfl]

theorem txnOf_updTxn_other {page p : Nat} (f : Txn → Txn) (s : State) (h : p ≠ page) : txnOf (updTxn page f s) p = txnOf s p := by
  rw [txnOf_updTxn, if_neg h]

/-- A staged value is found at its offset. -/
theorem find_spPut {α : Type} (k : Nat) (v : α) (m : Sparse α) : (spPut k v m).find? (fun e => decide (e.1 = k)) = some (k, v) := by
  induction m with
  | nil => simp [spPut]
  | cons e m ih =>
    obtain ⟨k', v'⟩ := e
    unfold spPut
    split
    · simp
    · split
      · simp
      next hne => simp [Ne.symm hne, ih]

theorem stagedOr_stage (page o v : Nat) (s : State) :
    stagedOr (stage page o v s) page (txnOf (stage page o v s) page) o = v % 2 ^ 32 := by
  rw [stage, txnOf_updTxn_self, stagedOr, find_spPut]
  exact BitVec.toNat_ofNat v 32

/-! ## Pages that hold RWT registers -/

theorem pageAt_of_isSome {page : Nat} (h : (pageAt page).isSome = true) : pageAt page = some (tyOf page, instOf page) := by
  obtain ⟨e, he⟩ := Option.isSome_iff_exists.1 h
  simp [tyOf, instOf, he]

/-- Where there is no page, the type is that of DEV. -/
theorem pageAt_of_tyOf {page : Nat} (h : tyOf page ≠ .dev) : pageAt page = some (tyOf page, instOf page) := by
  refine pageAt_of_isSome (Option.isSome_iff_ne_none.2 fun hnone => h ?_)
  rw [tyOf, hnone]
  rfl

theorem pageAt_of_accepts {s : State} {a : Agent} {page : Nat} (h : accepts s a page) :
    pageAt page = some (tyOf page, instOf page) := by
  obtain ⟨-, hsome, -, -⟩ := h
  exact pageAt_of_isSome hsome

theorem pageExists_of_accepts {s : State} {a : Agent} {page : Nat} (h : accepts s a page) : pageExists page = true := by
  rw [pageExists, pageAt_of_accepts h]
  rfl

/-- Neither the SYNC page nor a diagnostic page holds RWT registers. -/
theorem rwtMask_page {t : PageTy} {inst o m : Nat} (h : rwtMask t inst o = some m) : t ≠ .sync ∧ isDiag t = false := by
  refine ⟨?sync, ?diagnostic⟩
  case sync =>
    rintro rfl
    cases h
  case diagnostic => cases t <;> simp [isDiag, rwtMask] at h ⊢

/-- The SYNC page has no transaction. -/
theorem tyOf_of_txnPage {page : Nat} (h : txnPage page = true) : tyOf page ≠ .sync := by
  intro hsync
  have hpage := pageAt_of_tyOf (page := page) (by rw [hsync]; decide)
  rw [txnPage, hpage, hsync] at h
  cases h

/-! ## Commands to a page (R640) -/

/-- A command in TXN_CTRL leaves SHADOW_VIEW, bit 8, as it stands. -/
theorem txnCtrlWith_fields (s : State) (page : Nat) {cmd : Nat} (hcmd : cmd < 4) :
    (txnCtrlWith s page cmd).testBit 8 = (reg s page oTxnCtrl).testBit 8 ∧ txnCtrlWith s page cmd % 4 = cmd := by
  refine ⟨?view, ?command⟩
  case view =>
    simp only [txnCtrlWith, Nat.testBit_eq_decide_div_mod_eq, decide_eq_decide]
    omega
  case command =>
    unfold txnCtrlWith
    omega

/-- SHADOW_VIEW written as it stands. -/
def keepView (page : Nat) (s : State) : State := setBit page oTxnCtrl 8 ((reg s page oTxnCtrl).testBit 8) s

theorem txnOf_keepView (page p : Nat) (s : State) : txnOf (keepView page s) p = txnOf s p := rfl

/-- A command to a page that an agent is let through is that command, beside the view that is kept. -/
theorem writeBy_txnCtrl {s : State} {a : Agent} {page cmd : Nat} (hacc : accepts s a page) (hpage : txnPage page = true)
    (hcmd : cmd < 4) :
    writeBy (pageExists page) a page oTxnCtrl (txnCtrlWith s page cmd) s = .next (txnCommand a page cmd (keepView page s)) := by
  obtain ⟨hview, hval⟩ := txnCtrlWith_fields s page hcmd
  have hwrite : headWrite a page oTxnCtrl (txnCtrlWith s page cmd) s = txnCtrl a page (txnCtrlWith s page cmd) s := rfl
  rw [pageExists_of_accepts hacc, writeBy_head a page oTxnCtrl _ s hacc (by decide), touched_other a page _ (tyOf_of_txnPage hpage),
    hwrite, txnCtrl, if_pos hpage, hview, hval, keepView]

/-- COMMIT of the agent that opened the transaction. -/
theorem txnCommit_open {s : State} {a : Agent} {page : Nat} (hopen : (txnOf s page).st = .open_) (hmine : (txnOf s page).agent = a) :
    txnCommit a page s = settleTxn page (updTxn page (fun t => { t with st := .pending }) s) := if_pos ⟨hopen, hmine⟩

/-- ABORT of the agent that opened the transaction: no tile has taken a value of it, so there is none to give back (R644). -/
theorem txnAbort_open {s : State} {a : Agent} {page : Nat} (hopen : (txnOf s page).st = .open_) (hmine : (txnOf s page).agent = a) :
    txnAbort a page s = updTxn page (endTxn lastAborted) s := by
  have hback : giveBack page s = s := by simp [giveBack, hopen]
  simp [txnAbort, hopen, hmine, hback]

section
variable {s : State} {a : Agent} {page : Nat} (hacc : accepts s a page) (hpage : txnPage page = true)
include hacc hpage

theorem exec_txnBegin_runs (hidle : (txnOf s page).st = .idle) : exec (.txnBegin a page) s =
    .next (updTxn page (fun t => { t with st := .open_, agent := a, began := s.now, staged := [] }) (keepView page s)) := by
  have hbegin : txnBegin a page (keepView page s) =
      updTxn page (fun t => { t with st := .open_, agent := a, began := s.now, staged := [] }) (keepView page s) := if_pos hidle
  change execTxnBegin a page s = _
  rw [execTxnBegin, writeBy_txnCtrl hacc hpage (by decide), txnCommand, hpage, ← hbegin]
  rfl

variable (hopen : (txnOf s page).st = .open_) (hmine : (txnOf s page).agent = a)
include hopen hmine

theorem exec_txnCommit_runs : exec (.txnCommit a page) s =
    .next (settleTxn page (updTxn page (fun t => { t with st := .pending }) (keepView page s))) := by
  rw [← txnOf_keepView page] at hopen hmine
  change execTxnCommit a page s = _
  rw [execTxnCommit, writeBy_txnCtrl hacc hpage (by decide), txnCommand, hpage, ← txnCommit_open hopen hmine]
  rfl

theorem exec_txnAbort_runs : exec (.txnAbort a page) s = .next (updTxn page (endTxn lastAborted) (keepView page s)) := by
  rw [← txnOf_keepView page] at hopen hmine
  change execTxnAbort a page s = _
  rw [execTxnAbort, writeBy_txnCtrl hacc hpage (by decide), txnCommand, hpage, ← txnAbort_open hopen hmine]
  rfl

end

/-! ## Writes to RWT registers (R642) -/

/-- A write of an RWT register that an agent is let through puts the register's implemented bits. -/
theorem exec_rwtWrite_runs {s : State} {a : Agent} {page o m : Nat} (v : Nat) (hacc : accepts s a page) (hhi : o < 0x1000)
    (hlo : 0x040 ≤ o) (hmask : rwtMask (tyOf page) (instOf page) o = some m) :
    exec (.rwtWrite a (rk page o) v) s = .next (rwtPut a page o (v &&& m) s) := by
  obtain ⟨hsync, hdiag⟩ := rwtMask_page hmask
  have hoffset : rwtOffset (rk page o) = true := by
    simp [rwtOffset, pageOf_rk page o hhi, regOf_rk page o hhi, pageAt_of_accepts hacc, hmask]
  have hown : ownWrite a (tyOf page) page o v s = rwtPut a page o (v &&& m) s := by simp [ownWrite, hdiag, hmask]
  have hwrite : exec (.rwtWrite a (rk page o) v) s = writeBy true a page o v s := by
    change execRwtWrite a (rk page o) v s = _
    rw [execRwtWrite, hoffset, Bool.and_true, writeBy]
  rw [hwrite, writeBy_own a page o v s hacc hhi hlo, touched_other a page _ hsync, hown]

/-- A write on an idle page is a transaction of its own. -/
theorem rwtPut_idle {s : State} {page : Nat} (a : Agent) (o v : Nat) (hidle : (txnOf s page).st = .idle) :
    rwtPut a page o v s = settleTxn page (stage page o v
      (updTxn page (fun t => { t with st := .pending, agent := a, began := s.now, staged := [] }) s)) := if_pos hidle

theorem rwtPut_open {s : State} {a : Agent} {page : Nat} (o v : Nat) (hbusy : (txnOf s page).st ≠ .idle)
    (hopen : openTo s a (txnOf s page) = true) : rwtPut a page o v s = stage page o v s := (if_neg hbusy).trans (if_pos hopen)

theorem rwtPut_closed {s : State} {a : Agent} {page : Nat} (o v : Nat) (hbusy : (txnOf s page).st ≠ .idle)
    (hclosed : openTo s a (txnOf s page) = false) : rwtPut a page o v s = txnBusy page s :=
  (if_neg hbusy).trans (if_neg (Bool.eq_false_iff.1 hclosed))

/-! ## Safe points and expiry (R641, R645) -/

theorem exec_txnApply_runs {s : State} {page : Nat} (hpage : page < 0x74) (hpending : (txnOf s page).st = .pending)
    (hdue : safeDue s page = true) : exec (.txnApply page) s = .next (pump (pendingSafe page (txnOf s page) s)) := by
  have hreach : reachSafe page s = pendingSafe page (txnOf s page) s := if_pos hpending
  rw [← hreach]
  exact actCfe_runs s _ _ _ (decide_eq_true hpage) hdue

theorem safeDue_of_safePoint {s : State} {page : Nat} (hpending : (txnOf s page).st = .pending)
    (hsafe : safePoint s page (txnOf s page) = true) : safeDue s page = true := by
  simp [safeDue, hpending, hsafe]

theorem exec_txnExpire_runs {s : State} {page : Nat} (hpage : page < 0x74) (hown : page ≠ pgTxn) (hopen : (txnOf s page).st = .open_)
    (hdue : (txnOf s page).began + txnTmo s ≤ s.now) : exec (.txnExpire page) s = .next (updTxn page (endTxn lastExpired) s) :=
  (act_runs s _ _ _ (decide_eq_true hpage) (by simp [txnDue, hown, hopen, hdue])).trans (by rw [if_neg hown])

/-- A transaction that is not open does not expire. -/
theorem exec_txnExpire_stays {s : State} {page : Nat} (hpage : page < 0x74) (hown : page ≠ pgTxn) (hopen : (txnOf s page).st ≠ .open_) :
    exec (.txnExpire page) s = .next s := by
  have hdue : txnDue s page = false := by simp [txnDue, hown, hopen]
  change execTxnExpire page s = _
  rw [execTxnExpire, act, decide_eq_true hpage, hdue]
  rfl

/-- The TXN page's index names the group. -/
theorem exec_txnExpire_group {s : State} (hopen : s.group.st = .open_) (hdue : s.group.began + txnTmo s ≤ s.now) :
    exec (.txnExpire pgTxn) s = .next (endGroup lastExpired s) :=
  act_runs s _ _ _ rfl (by simp [txnDue, hopen, hdue])

/-! ## Groups (R646, R647) -/

/-- A write of GRP_CMD that an agent is let through is that command. -/
theorem writeBy_grpCmd {s : State} {a : Agent} (v : Nat) (hacc : accepts s a pgTxn) :
    writeBy true a pgTxn 0x050 v s = .next (grpCommand a v s) :=
  writeBy_action hacc (by decide) (by decide) rfl (by decide) rfl rfl

theorem exec_grpCommit_runs {s : State} {a : Agent} (hacc : accepts s a pgTxn) (hopen : s.group.st = .open_) (hmine : s.group.agent = a) :
    exec (.grpCommit a) s = .next (arriveNow (updGroup (fun g => { g with st := .pending, committed := s.now }) s)) :=
  (writeBy_grpCmd 2 hacc).trans (congrArg Host.Outcome.next (if_pos ⟨hopen, hmine⟩))

theorem exec_grpAbort_runs {s : State} {a : Agent} (hacc : accepts s a pgTxn) (hbusy : s.group.st ≠ .idle) (hmine : s.group.agent = a) :
    exec (.grpAbort a) s = .next (endGroup lastAborted s) :=
  (writeBy_grpCmd 3 hacc).trans (congrArg Host.Outcome.next (if_pos ⟨hbusy, hmine⟩))

theorem exec_grpSafeTimeout_runs {s : State} (hpending : s.group.st = .pending) (hdue : s.group.committed + holdMax s ≤ s.now)
    (hmissing : notArrived s ≠ []) : exec .grpSafeTimeout s =
      .next (updGroup (fun g => { g with lastPage := (notArrived s).headD 0 }) (endGroup lastSafeTimeout s)) :=
  act_runs s _ _ _ rfl (by simp [hpending, hdue, hmissing])

/-- Settles O54: a command or a write goes by the state of the page's transaction, a safe point by whether the page is SPEED, an expiry
by whether the page is that of the group. -/
theorem transactionsRun : Obligations.TransactionsRun := by
  unfold Obligations.TransactionsRun
  refine ⟨fun s a page hacc hpage => ⟨?begins, fun hopen hmine => ⟨?commits, ?aborts⟩, fun o v m hhi hlo hmask => ?writes⟩,
    fun s page hpage => ⟨fun hpending hspeed hsafe => ?applies, fun hpending hspeed hdue => ?tilesApply, ?expires, ?groupExpires⟩,
    fun s a hacc => ⟨?groupBegins, ?groupCommits, ?groupAborts⟩,
    fun s hpending => ⟨fun hsafe => ?groupApplies, ?groupFails⟩⟩
  case begins => exact exec_txnBegin_runs hacc hpage
  case commits => exact exec_txnCommit_runs hacc hpage hopen hmine
  case aborts => exact exec_txnAbort_runs hacc hpage hopen hmine
  case writes =>
    rw [exec_rwtWrite_runs v hacc hhi hlo hmask]
    exact ⟨fun hidle => by rw [rwtPut_idle a o _ hidle], fun hbusy hopen => by rw [rwtPut_open o _ hbusy hopen],
      fun hbusy hclosed => by rw [rwtPut_closed o _ hbusy hclosed]⟩
  case applies => rw [exec_txnApply_runs hpage hpending (safeDue_of_safePoint hpending hsafe), pendingSafe, if_neg hspeed]
  case tilesApply => rw [exec_txnApply_runs hpage hpending hdue, pendingSafe, if_pos hspeed]
  case expires => exact exec_txnExpire_runs hpage
  case groupExpires =>
    rintro rfl hopen hdue
    exact exec_txnExpire_group hopen hdue
  case groupBegins => exact writeBy_grpCmd 1 hacc
  case groupCommits => exact exec_grpCommit_runs hacc
  case groupAborts => exact exec_grpAbort_runs hacc
  case groupApplies => exact actCfe_runs s _ _ _ rfl (by simp [hpending, hsafe])
  case groupFails => exact exec_grpSafeTimeout_runs hpending

/-- Settles O57: expiry ends the one transaction; where the transaction is pending, no expiry is due. -/
theorem openTransactionsExpire : Obligations.OpenTransactionsExpire := by
  unfold Obligations.OpenTransactionsExpire
  refine fun s page hpage hown => ⟨fun hopen hdue => ?expires, fun hpending => ?stays⟩
  case expires =>
    have htmo : (txnOf s page).began + txnTmo s ≤ s.now := by rw [txnTmo, Nat.mul_comm]; exact hdue
    refine ⟨_, exec_txnExpire_runs hpage hown hopen htmo, ?_, ?_, ?_, fun p hp => txnOf_updTxn_other _ s hp, rfl⟩ <;>
      rw [txnOf_updTxn_self] <;> rfl
  case stays => exact exec_txnExpire_stays hpage hown (by rw [hpending]; decide)

/-- Settles O55: the write is open to its writer, and staging changes the page's transaction alone. -/
theorem stagedValuesWait : Obligations.StagedValuesWait := by
  unfold Obligations.StagedValuesWait
  intro s a page o v m hacc hhi hlo hmask hopen hmine
  have hopenTo : openTo s a (txnOf s page) = true := by simp [openTo, hopen, hmine]
  have hput := rwtPut_open o (v &&& m) (by rw [hopen]; decide) hopenTo
  exact ⟨stage page o (v &&& m) s, by rw [exec_rwtWrite_runs v hacc hhi hlo hmask, hput], rfl, stagedOr_stage page o _ s,
    fun p hp => txnOf_updTxn_other _ s hp⟩

end Sys2Proof.Machine
end

section
/-!
PROOFS. Registers of any page: locks, events, counters, soft resets, reads and writes (R614, R629 to R638, R649).
-/
namespace Sys2Proof.Machine

/-! ## Registers of the common header -/

/-- A write of a header register that an agent is let through has that register's effect, beside the stall watch. -/
theorem writeBy_headReg {s t : State} {a : Agent} {page o v : Nat} (hacc : accepts s a page) (hhead : o < 0x040)
    (heffect : headWrite a page o v s = t) : writeBy (pageExists page) a page o v s = .next (touched a page t) := by
  rw [pageExists_of_accepts hacc, writeBy_head a page o v s hacc hhead, heffect]

/-! ## Locks (R635) -/

theorem ownerWrite_lock (a : Agent) (page k : Nat) (s : State) :
    ownerWrite a page (2 ^ 31 + k % 65536) s = setReg page oOwner (2 ^ 31 + agentCode a * 2 ^ 30 + k % 65536) s := by
  have hbit : (2 ^ 31 + k % 65536).testBit 31 = true := by
    rw [Nat.testBit_two_pow_add_eq, Nat.testBit_lt_two_pow (by omega)]
    rfl
  have hid : (2 ^ 31 + k % 65536) % 65536 = k % 65536 := by omega
  rw [ownerWrite, if_pos hbit, hid]

/-- The write that releases a lock stores the ID that it carries (log entry 57). -/
theorem ownerWrite_release (a : Agent) (page k : Nat) (s : State) :
    ownerWrite a page (k % 65536) s = setReg page oOwner (k % 65536) s := by
  have hbit : (k % 65536).testBit 31 = false := Nat.testBit_lt_two_pow (by omega)
  rw [ownerWrite, if_neg (Bool.eq_false_iff.1 hbit), Nat.mod_mod]

/-! ## CTRL (R630) -/

/-- An action bit from bit 1 on is written with ENABLE as it stands. -/
theorem testBit_ctrlWith_enable (s : State) (page : Nat) {bit : Nat} (heven : bit % 2 = 0) :
    (ctrlWith s page bit).testBit 0 = (reg s page oCtrl).testBit 0 := by
  simp only [ctrlWith, Nat.testBit_eq_decide_div_mod_eq, decide_eq_decide]
  omega

/-- The pages of the queues stand in the order of the queues. -/
theorem page_of_pageAt_que {page q : Nat} (h : pageAt page = some (.que, q)) : page = pgQue q := by
  unfold pageAt at h
  (repeat' split at h) <;> cases h
  unfold pgQue
  omega

theorem pgQue_instOf {page : Nat} (h : tyOf page = .que) : page = pgQue (instOf page) := by
  have hpage := pageAt_of_tyOf (page := page) (by rw [h]; decide)
  rw [h] at hpage
  exact page_of_pageAt_que hpage

/-- A queue with ENABLE as it stands and no REARM is left alone. -/
theorem queCtrl_same {s : State} {q v : Nat} (hsame : v.testBit 0 = qEnabled s q) (hrearm : v.testBit 8 = false) : queCtrl q v s = s := by
  simp only [queCtrl, if_pos hsame, hrearm, if_neg Bool.false_ne_true]

/-- A write of CTRL that keeps ENABLE and does not re-arm: the counters' clear and the request of a soft reset are what is left. -/
theorem ctrlWrite_keepsEnable {s : State} {page v : Nat} (hsame : v.testBit 0 = (reg s page oCtrl).testBit 0) (hrearm : v.testBit 8 = false) :
    ctrlWrite page v s =
      (if v.testBit 1 && hasSoftReset (tyOf page) then setBit page oCtrl 1 true (if v.testBit 2 then cntClear page s else s)
        else if v.testBit 2 then cntClear page s else s) := by
  have hque : tyOf page = .que → queCtrl (instOf page) v s = s := fun h =>
    queCtrl_same (by rw [hsame, qEnabled, ← pgQue_instOf h]) hrearm
  unfold ctrlWrite
  cases hty : tyOf page
  case que => simp only [hque hty]
  all_goals rfl

theorem ctrlWrite_cntClear (page : Nat) (s : State) : ctrlWrite page (ctrlWith s page 4) s = cntClear page s := by
  have hbits : (ctrlWith s page 4).testBit 1 = false ∧ (ctrlWith s page 4).testBit 2 = true ∧ (ctrlWith s page 4).testBit 8 = false := by
    simp only [ctrlWith, Nat.testBit_eq_decide_div_mod_eq, decide_eq_true_eq, decide_eq_false_iff_not]
    omega
  obtain ⟨hreset, hclear, hrearm⟩ := hbits
  rw [ctrlWrite_keepsEnable (testBit_ctrlWith_enable s page rfl) hrearm, hreset, hclear]
  rfl

theorem ctrlWrite_softRst {page : Nat} (s : State) (hsoft : hasSoftReset (tyOf page) = true) :
    ctrlWrite page (ctrlWith s page 2) s = setBit page oCtrl 1 true s := by
  have hbits : (ctrlWith s page 2).testBit 1 = true ∧ (ctrlWith s page 2).testBit 2 = false ∧ (ctrlWith s page 2).testBit 8 = false := by
    simp only [ctrlWith, Nat.testBit_eq_decide_div_mod_eq, decide_eq_true_eq, decide_eq_false_iff_not]
    omega
  obtain ⟨hreset, hclear, hrearm⟩ := hbits
  rw [ctrlWrite_keepsEnable (testBit_ctrlWith_enable s page rfl) hrearm, hreset, hclear, hsoft]
  rfl

/-! ## Events (R638) -/

theorem exec_evtClear_runs {s : State} {a : Agent} {page : Nat} (m r : Nat) (hacc : accepts s a page) :
    exec (.evtClear a page m r) s = .next (touched a page (evtClear page m r s)) := by
  change execEvtClear a page m r s = _
  rw [execEvtClear, pageExists_of_accepts hacc, guardBy_runs a page _ s hacc]

/-- After a W1C write an event bit is set where its event occurs in the same cycle, or where it was set and the write does not name it. -/
theorem testBit_reg_evtClear {i : Nat} (page m r : Nat) (s : State) (hi : i < 32) :
    (reg (evtClear page m r s) page oEvtStatus).testBit i =
      ((r.testBit i && (pageEvents page).testBit i) || ((reg s page oEvtStatus).testBit i && !m.testBit i)) := by
  rw [evtClear, testBit_reg_raiseMask page _ _ hi, testBit_reg_setReg page oEvtStatus _ s hi, testBit_sub_and_add, Nat.testBit_and]
  cases r.testBit i && (pageEvents page).testBit i <;> simp

/-- Settles O58: a bit of the page after the write is the event's or what the write leaves of it. -/
theorem eventsOutlastTheirClear : Obligations.EventsOutlastTheirClear := by
  unfold Obligations.EventsOutlastTheirClear
  refine fun s a page m r i hacc hi => ⟨_, exec_evtClear_runs m r hacc, fun hoccurs hdefined => ?outlasts, fun habsent => ?cleared⟩
  case outlasts => rw [reg_touched, testBit_reg_evtClear page m r s hi, hoccurs, hdefined, Bool.and_self, Bool.true_or]
  case cleared => rw [reg_touched, testBit_reg_evtClear page m r s hi, habsent, Bool.false_and, Bool.false_or]

/-! ## Any register (R632, R633) -/

/-- The offset of an aligned register lies in BAR 0. -/
theorem offsetOk_rk {page o : Nat} (hhi : o < 0x1000) (hword : o % 4 = 0) (hpage : page < 2 ^ 14) : offsetOk (rk page o) = true := by
  unfold rk
  exact Bool.and_eq_true_iff.2 ⟨decide_eq_true (by omega), decide_eq_true (by omega)⟩

theorem exec_registerWrite_runs {s : State} {a : Agent} {off : Nat} (v : Nat) (hserves : serves s a = true) (hoff : offsetOk off = true) :
    exec (.registerWrite a off v) s = .next (barWrite a off v s) :=
  (act_runs s _ _ _ rfl hserves).trans (by rw [if_pos hoff])

theorem exec_readLoLatch_runs {s : State} {a : Agent} {off : Nat} (hserves : serves s a = true) (hoff : offsetOk off = true) :
    exec (.readLoLatch a off) s = .next (emit (.barData a (barRead off s).1) (barRead off s).2) :=
  (act_runs s _ _ _ rfl hserves).trans (by rw [if_pos hoff, readBy])

/-- A write above the header that an agent is let through reaches its page. -/
theorem exec_registerWrite_own {s : State} {a : Agent} {page o : Nat} (v : Nat) (hacc : accepts s a page) (hhi : o < 0x1000)
    (hlo : 0x040 ≤ o) (hword : o % 4 = 0) (hpage : page < 2 ^ 14) :
    exec (.registerWrite a (rk page o) v) s = .next (touched a page (ownWrite a (tyOf page) page o v s)) := by
  have hserves : serves s a = true := by
    obtain ⟨h, -, -, -⟩ := hacc
    exact h
  rw [← writeBy_own a page o v s hacc hhi hlo, exec_registerWrite_runs v hserves (offsetOk_rk hhi hword hpage)]
  exact (act_runs s _ _ _ rfl hserves).symm

/-- A page that the other agent has locked rejects a write, and counts it (R635). -/
theorem guarded_lockedOut {s : State} {a : Agent} {page : Nat} (f : State → State) (hexists : (pageAt page).isSome = true)
    (hshown : shown s page = true) (hlocked : lockedOut s a page = true) : guarded a page f s = lockReject s := by
  have hnone : (pageAt page).isNone = false := by rw [Option.isNone_eq_false_iff, hexists]
  simp [guarded, hnone, hshown, hlocked]

theorem exec_registerWrite_lockedOut {s : State} {a : Agent} {page o : Nat} (v : Nat) (hserves : serves s a = true)
    (hexists : (pageAt page).isSome = true) (hshown : shown s page = true) (hlocked : lockedOut s a page = true)
    (hpage : page < 2 ^ 14) (hhi : o < 0x1000) (hword : o % 4 = 0) :
    exec (.registerWrite a (rk page o) v) s = .next (touched a page (lockReject s)) := by
  rw [exec_registerWrite_runs v hserves (offsetOk_rk hhi hword hpage), barWrite, pageOf_rk page o hhi,
    guarded_lockedOut _ hexists hshown hlocked]

/-- A read of a read-only _LO register gives the low half of its pair and latches the high half (R633). -/
theorem barRead_roPair {s : State} {a : Agent} {page o : Nat} (hacc : accepts s a page) (hdiag : isDiag (tyOf page) = false)
    (hpair : roPair (tyOf page) o = true) (hhi : o < 0x1000) :
    barRead (rk page o) s = (pairVal s page o % 2 ^ 32, setReg page (o + 4) (pairVal s page o / 2 ^ 32) s) := by
  have hpage : rk page o / 0x1000 = page := pageOf_rk page o hhi
  have hoff : rk page o % 0x1000 = o := regOf_rk page o hhi
  have hat := pageAt_of_accepts hacc
  obtain ⟨-, -, hshown, -⟩ := hacc
  simp [barRead, hpage, hoff, hat, hshown, hdiag, hpair]

theorem exec_readLoLatch_roPair {s : State} {a : Agent} {page o : Nat} (hacc : accepts s a page) (hdiag : isDiag (tyOf page) = false)
    (hpair : roPair (tyOf page) o = true) (hhi : o < 0x1000) (hword : o % 4 = 0) (hpage : page < 2 ^ 14) :
    exec (.readLoLatch a (rk page o)) s =
      .next (emit (.barData a (pairVal s page o % 2 ^ 32)) (setReg page (o + 4) (pairVal s page o / 2 ^ 32) s)) := by
  have hread := barRead_roPair hacc hdiag hpair hhi
  obtain ⟨hserves, -, -, -⟩ := hacc
  rw [exec_readLoLatch_runs hserves (offsetOk_rk hhi hword hpage), hread]

/-- Settles O56: a write of a header register has the effect of that register, a write above the header that of its page, and a page
that is locked or a pair that is read goes by its lemma. -/
theorem registersRun : Obligations.RegistersRun := by
  unfold Obligations.RegistersRun
  refine ⟨fun s a page => ⟨fun hacc => ⟨fun k => ?lock, fun k => ?release, fun m r => ?clear, fun m => ?force, ?counters,
      fun hsoft => ?soft, fun o v hhi hlo hword hpage => ?writes⟩, fun hpage hdue => ?resets, fun hserves o hoff => ?reads,
      fun hserves hexists hshown hlocked hpage o v hhi hword => ?locked⟩,
    fun s a page o hacc hdiag hpair hhi hword hpage => ⟨?latches, ?holds⟩⟩
  case lock => exact writeBy_headReg hacc (by decide) (ownerWrite_lock a page k s)
  case release => exact writeBy_headReg hacc (by decide) (ownerWrite_release a page k s)
  case clear => exact exec_evtClear_runs m r hacc
  case force => exact writeBy_headReg hacc (by decide) rfl
  case counters => exact writeBy_headReg hacc (by decide) (ctrlWrite_cntClear page s)
  case soft => exact writeBy_headReg hacc (by decide) (ctrlWrite_softRst s hsoft)
  case writes => exact exec_registerWrite_own v hacc hhi hlo hword hpage
  case resets => exact act_runs s _ _ _ (decide_eq_true hpage) hdue
  case reads => exact exec_readLoLatch_runs hserves hoff
  case locked => exact exec_registerWrite_lockedOut v hserves hexists hshown hlocked hpage hhi hword
  case latches => exact exec_readLoLatch_roPair hacc hdiag hpair (by omega) hword hpage
  case holds => exact reg_setReg_same page (o + 4) _ s

end Sys2Proof.Machine
end

section
/-!
PROOFS. BAR 2, the I3C port and the errors of the PCIe link (R619, R632, R666, R667, R671 to R673, R676, R677).
-/
namespace Sys2Proof.Machine

/-! ## BAR 2 -/

section
variable {s : State} {o : Nat}

theorem exec_bar2Read_runs {n : Nat} (hserves : bar2Serves o n s = true) (hlen : 1 ≤ n) :
    exec (.bar2Read o n) s = .next (bar2Read o n s) :=
  act_runs s _ _ _ rfl (by simp [hserves, hlen])

theorem exec_bar2Write_runs {d : List (Option Byte)} (hserves : bar2Serves o d.length s = true) (hlen : 1 ≤ d.length) :
    exec (.bar2Write o d) s = .next (bar2Write o d s) :=
  act_runs s _ _ _ rfl (by rw [hserves, decide_eq_true hlen]; rfl)

/-- In recovery BAR 2 is the Slate of tile 0 (R619). -/
theorem bar2Read_recovery (n : Nat) (hphase : s.boot.phase = .recovery) : bar2Read o n s = recoveryGet o n s := if_pos hphase

theorem bar2Write_recovery (d : List (Option Byte)) (hphase : s.boot.phase = .recovery) :
    bar2Write o d s = bar2Put (slateBase 0 + o) (d.take (min d.length (0x2000000 - o))) s := if_pos hphase

/-- Else it is device memory where the range lies in the map, and an access outside is counted (R667). -/
theorem bar2Read_map {n : Nat} (hphase : s.boot.phase ≠ .recovery) : bar2Read o n s =
    if mapOk s (bar2Reach s) (bar2Addr s o) n then bar2Get (bar2Addr s o) n s
    else bar2Reject (emit (.bar2Data false (List.replicate n 0xFF)) s) := if_neg hphase

theorem bar2Write_map {d : List (Option Byte)} (hphase : s.boot.phase ≠ .recovery) : bar2Write o d s =
    if mapOk s (bar2Reach s) (bar2Addr s o) d.length then bar2Put (bar2Addr s o) d s else bar2Reject s := if_neg hphase

end

/-! ## I3C (R676, R677) -/

section
variable {s : State} {o : Nat}

theorem i3cWrite_runs {v : Nat} (hoff : offsetOk o = true) (halive : alive (barWrite .i3c o v s) = true)
    (hunlocked : lockedOut s .i3c (pageOf o) = false) : i3cWrite o v s = i3cReply 0 0 (barWrite .i3c o v s) := by
  simp [i3cWrite, hoff, hunlocked, halive]

theorem i3cWrite_badOffset (v : Nat) (hoff : offsetOk o = false) : i3cWrite o v s = i3cReply 0 1 (badAccess s) := by
  simp [i3cWrite, hoff]

theorem i3cRead_runs (hoff : offsetOk o = true) : i3cRead o s = i3cReply (barRead o s).1 0 (barRead o s).2 := by
  simp [i3cRead, hoff]

theorem i3cRead_badOffset (hoff : offsetOk o = false) : i3cRead o s = i3cReply (2 ^ 32 - 1) 1 (badAccess s) := by
  simp [i3cRead, hoff]

theorem i3cAnswers_of (halive : alive s = true) (haddr : s.i3c.addr.isSome = true) : i3cAnswers s = true := by
  rw [i3cAnswers, halive, haddr, Bool.and_self]

variable (hanswers : i3cAnswers s = true)
include hanswers

theorem exec_i3cWriteRequest_runs (v : Nat) : exec (.i3cWriteRequest o v) s = .next (i3cWrite o v s) :=
  act_runs s _ _ _ rfl hanswers

theorem exec_i3cReadRequest_runs : exec (.i3cReadRequest o) s = .next (i3cRead o s) := act_runs s _ _ _ rfl hanswers

end

/-! ## Errors of the link (R671 to R673) -/

theorem pcieLive_of {s : State} (hup : s.pcieUp = true) (hphase : s.boot.phase ≠ .held) : pcieLive s = true := by
  simp [pcieLive, hup, hphase]

/-- Settles O53: a BAR 2 access goes by recovery and by the map, an I3C request by its offset, and an error of the link acts where its
guard holds. -/
theorem hostBusesRun : Obligations.HostBusesRun := by
  unfold Obligations.HostBusesRun
  refine ⟨fun s o n d => ⟨fun hserves hlen hphase => ?readRecovery, fun hserves hlen hphase => ?read,
      fun hserves hlen hphase => ?writeRecovery, fun hserves hlen hphase => ?write, fun halive => ?timeout,
      fun hup hphase => ?linkErrors, fun hserves => ?badShape⟩,
    fun s o v halive => ⟨fun n hnone => ?address, fun haddr => ?requests⟩⟩
  case readRecovery => rw [exec_bar2Read_runs hserves hlen, bar2Read_recovery n hphase]
  case read =>
    rw [exec_bar2Read_runs hserves hlen, bar2Read_map hphase]
    exact ⟨fun hin => by rw [if_pos hin], fun hout => by rw [if_neg (Bool.eq_false_iff.1 hout)]⟩
  case writeRecovery => rw [exec_bar2Write_runs hserves hlen, bar2Write_recovery d hphase]
  case write =>
    rw [exec_bar2Write_runs hserves hlen, bar2Write_map hphase]
    exact ⟨fun hin => by rw [if_pos hin], fun hout => by rw [if_neg (Bool.eq_false_iff.1 hout)]⟩
  case timeout => exact act_runs s _ _ _ rfl halive
  case linkErrors => exact ⟨act_runs s _ _ _ rfl (pcieLive_of hup hphase), act_runs s _ _ _ rfl (pcieLive_of hup hphase)⟩
  case badShape => exact ⟨act_runs s _ _ _ rfl hserves, act_runs s _ _ _ rfl hserves⟩
  case address => exact act_runs s _ _ _ rfl (by rw [halive, hnone]; rfl)
  case requests =>
    have hanswers := i3cAnswers_of halive haddr
    refine ⟨act_runs s _ _ _ rfl hanswers, fun hoff => ⟨?_, fun hstays hunlocked => ?_⟩, fun hoff => ⟨?_, ?_⟩⟩
    · rw [exec_i3cReadRequest_runs hanswers, i3cRead_runs hoff]
    · rw [exec_i3cWriteRequest_runs hanswers, i3cWrite_runs hoff hstays hunlocked]
    · rw [exec_i3cReadRequest_runs hanswers, i3cRead_badOffset hoff]
    · rw [exec_i3cWriteRequest_runs hanswers, i3cWrite_badOffset v hoff]

end Sys2Proof.Machine
end

section
/-!
PROOFS. The machine: a step is its command, no command touches the queue behind it, and every command completes but for one that names a
unit that the device does not have (log entry 1).
-/
namespace Sys2Proof.Machine

/-- Settles O1: the queue's front is taken by definition. -/
theorem stepRunsFront : Obligations.StepRunsFront := by
  unfold Obligations.StepRunsFront
  exact fun c rest s => rfl

/-- Settles O3: what a completed command owes to the fuses it owes to the queue as well. -/
theorem execKeepsQueue : Obligations.ExecKeepsQueue := by
  unfold Obligations.ExecKeepsQueue
  intro c s t hnext
  obtain ⟨hqueue, -⟩ := exec_grows c s t hnext
  exact hqueue

/-! ## Units that exist -/

/-- A page index of the map holds a page. -/
theorem pageExists_of_pageIx {p : Nat} (h : pageIx p = true) : p < 0x74 ∧ pageExists p = true := by
  have hlt : p < 0x74 := by
    simp only [pageIx, Bool.or_eq_true, decide_eq_true_eq] at h
    omega
  have hall : ∀ q : Fin 0x74, pageIx q.1 = true → pageExists q.1 = true := by decide
  exact ⟨hlt, hall ⟨p, hlt⟩ h⟩

/-- An index of an ENG, BM or LM page holds a memory controller. -/
theorem memPage_of_memPageIx {p : Nat} (h : memPageIx p = true) : (memPage p).isSome = true := by
  have hlt : p < 0x48 := by
    simp only [memPageIx, Bool.or_eq_true, decide_eq_true_eq] at h
    omega
  have hall : ∀ q : Fin 0x48, memPageIx q.1 = true → (memPage q.1).isSome = true := by decide
  exact hall ⟨p, hlt⟩ h

/-! ## Outcomes -/

/-- A command completes, or it is ill formed and stops at a unit that the device does not have. -/
def CompletesOrAbsent (i : Instr) (r : Host.Outcome State Fault Refusal) : Prop :=
  (∃ t, r = .next t) ∨ (i.wf = false ∧ r = .fault .noSuchUnit)

theorem completesOrAbsent_next (i : Instr) (t : State) : CompletesOrAbsent i (.next t) := .inl ⟨t, rfl⟩

/-- The unit of a guarded command exists where the command is well formed. -/
theorem completesOrAbsent_act {i : Instr} {unit g : Bool} {s t : State} (hunit : i.wf = true → unit = true) :
    CompletesOrAbsent i (act unit g s t) := by
  unfold act
  split
  next => exact completesOrAbsent_next i _
  next habsent => exact .inr ⟨Bool.eq_false_iff.2 fun hwf => habsent (hunit hwf), rfl⟩

/-- A command whose unit is always there completes. -/
theorem completesOrAbsent_always {i : Instr} {g : Bool} {s t : State} : CompletesOrAbsent i (act true g s t) :=
  completesOrAbsent_next i _

/-! ## Every command -/

/-- Each command acts as its unit allows, and a well-formed command names a unit that exists: where its operands must fit as well, the
unit is what its well-formedness asks for at the start. -/
theorem exec_completesOrAbsent (i : Instr) (s : State) : CompletesOrAbsent i (exec i s) := by
  cases i
  -- instructions of an engine
  case nop | halt | swaitTimeout => exact completesOrAbsent_act id
  case loop | stage | tstamp | move | fill | sld | stream | drain | pdrain | preload | vop | vred | vnorm | vcvt | vtopk | pbuild | lsend |
    lrecv | swait | ssignal =>
    exact completesOrAbsent_act Bool.and_elim_left
  case digestStart | digestAbsorb | digestFinal | digestCompare =>
    exact completesOrAbsent_act fun h => Bool.and_elim_left (Bool.and_elim_left h)
  -- commands that name a context
  case pload | gather | relax | choose | rollcall | fieldup | sweepend | result | red | bcast | audit | cert =>
    exact completesOrAbsent_act Bool.and_elim_left
  case invoke | remove | removeComplete | join | enterWaiting | waitTimeout | engineGrant | switchOut | switchIn | invocationAbortStop |
    deregister | cutPoint | progressSend | lostCollectEnd | failoverCopyDone | epochBarrierDone | install | cmdbuf | argumentBlockRead |
    register | selftest | inputsMoved | peerTimerExpire | cmdbufEntryStart | hostWaitPoll | hostSignalFlushDone =>
    exact completesOrAbsent_act id
  -- commands that name a queue, a ring, a semaphore, a link, a tile, a source or another unit by its number
  case tileSubstitutionDone | tileSelftest | recordFlushDone | msixCoalesceTimeout | queEnable | queDisable | queRearm | abortTag | abortAll |
    semOpAdd | semOpSet | releaseStart | lendBlockExpiry | flitSend | replayTimeout | laneLockLoss | linkTrainStart | linkTrainLock |
    linkTrainFail | discover | probe | rekey | scrubRead | revoke | keyProvision | entropyTestTrip | sourceRetest | drbgReseedDue |
    canaryFire | marginDecay | thermtrip | tamperDetect | railFault =>
    exact completesOrAbsent_act id
  case queTailWrite | cqHeadWrite | bellRelease | flitReceive => exact completesOrAbsent_act Bool.and_elim_left
  -- commands that name a page
  case logClear => exact completesOrAbsent_act memPage_of_memPageIx
  case injArm => exact completesOrAbsent_act fun h => memPage_of_memPageIx (Bool.and_elim_left h)
  case txnBegin | txnCommit | txnAbort | cntClear | softRst => exact completesOrAbsent_act fun h => (pageExists_of_pageIx h).2
  case txnApply | txnExpire | softResetApply => exact completesOrAbsent_act fun h => decide_eq_true (pageExists_of_pageIx h).1
  case ownerLock | ownerRelease | evtForce => exact completesOrAbsent_act fun h => (pageExists_of_pageIx (Bool.and_elim_left h)).2
  case evtClear => exact completesOrAbsent_act fun h => (pageExists_of_pageIx (Bool.and_elim_left (Bool.and_elim_left h))).2
  -- commands whose unit is always there
  case msgAckTimeout dst cls msg =>
    change CompletesOrAbsent _ (execMsgAckTimeout dst cls msg s)
    unfold execMsgAckTimeout
    split
    · exact completesOrAbsent_always
    · exact completesOrAbsent_next _ _
  case entropyRequestTimeout k =>
    change CompletesOrAbsent _ (execEntropyRequestTimeout k s)
    unfold execEntropyRequestTimeout
    split
    · exact completesOrAbsent_next _ _
    · exact completesOrAbsent_always
  case descriptorFetch rs =>
    change CompletesOrAbsent _ (execDescriptorFetch rs s)
    unfold execDescriptorFetch
    split <;> exact completesOrAbsent_next _ _
  all_goals exact completesOrAbsent_always

/-- Settles O4: an ill-formed command is the only one that may stop. -/
theorem everyCommandRuns : Obligations.EveryCommandRuns := by
  unfold Obligations.EveryCommandRuns
  intro c s hwf
  obtain hnext | ⟨hill, -⟩ := exec_completesOrAbsent c s
  · exact hnext
  · cases hwf.symm.trans hill

/-- Settles O5: a command completes or stops at an absent unit. -/
theorem onlyAbsentUnitsStop : Obligations.OnlyAbsentUnitsStop := by
  unfold Obligations.OnlyAbsentUnitsStop
  intro c s
  obtain ⟨t, hnext⟩ | ⟨-, hfault⟩ := exec_completesOrAbsent c s
  case inl =>
    rw [hnext]
    exact ⟨nofun, nofun⟩
  case inr =>
    rw [hfault]
    refine ⟨nofun, ?_⟩
    rintro f ⟨⟩
    rfl

end Sys2Proof.Machine
end
